-- ==== Sys2Proof/Word.lean ====
section
/-!
DEFINITION. The word types of the model: a register is 64 bits wide (R8), memory is bytes (R12), a cell output is an
FP32 pattern (R36).
-/
namespace Sys2Proof

/-- A register of the module: 64 bits (R8). -/
abbrev Word := BitVec 64

/-- One byte of memory, flash or a frame (R12). -/
abbrev Byte := BitVec 8

/-- The bit pattern of an FP32 value (R36). -/
abbrev F32 := BitVec 32

end Sys2Proof
end

