-- ==== Sys2Proof/Syntax.lean ====
section
/-!
DEFINITION. The commands of the module as a block: one constructor per row of the table of operations and events. A
command names the unit at which the step takes place and carries what comes from outside the model: the bytes of a frame
or a flit, a measurement, a choice the manual leaves to the firmware. What the unit does with it is read from the state,
which holds the module's own programs, tables and queues.
-/
namespace Sys2Proof

/-- What the model keeps of a received Wadi frame header (R552) that passed CRC, length and format: URGENT, the frame
counter, the request number, and whether the GCM tag verified (R538). -/
structure FrameHdr where
  urgent  : Bool
  counter : Nat
  reqId   : Nat
  tagOk   : Bool
deriving DecidableEq, Repr

/-- A codeword of a Seif lane (R375), as its receiver decoded it: `gap` codewords of the lane have come since the last one reported,
and `bad` of its 224 symbols were bad. -/
structure Code where
  lane : Nat
  gap  : Nat
  bad  : Nat
deriving DecidableEq, Repr

/-- The header of a window write or read (R421); `resOk` says whether its reserved fields are zero and `mcast` whether
the flit is of KIND 5. -/
structure WinHdr where
  entry : Nat
  gen : Nat
  offset : Nat
  length : Nat
  seq : Nat
  taskref : Nat
  resOk : Bool
  mcast : Bool
deriving DecidableEq, Repr

/-- The data of a window write (R421): its bytes, and first bit and count of those that it writes, where it writes its units only in part
(R245). -/
structure WinData where
  bytes : List Byte
  part  : Option (Nat × Nat)
deriving DecidableEq, Repr

/-- The status of a window read response and its data (R421). -/
structure WinReply where
  status : Nat
  data   : List Byte
deriving DecidableEq, Repr

/-- What admission finds of other modules: whether the partners' windows of a task group's borrow entries are open and large enough
(R333), and whether the windows of its multicast receivers have the group's unit (R429). -/
structure PeerWins where
  lent  : Bool
  units : Bool
deriving DecidableEq, Repr

/-- The receivers of a multicast group whose lag has stayed at the limit for DETACH_US (R433). -/
structure LateRcvs where
  group : Nat
  rcvs  : List Nat
deriving DecidableEq, Repr

/-- What a prefill replay has written (R487): the withdrawn module, and the bytes of its caches by task group and task virtual address. -/
structure Rebuilt where
  id    : Nat
  cache : List (Nat × Nat × List Byte)
deriving DecidableEq, Repr

/-- A window-opening entry (R558 kind 6). -/
structure WinReq where
  vaddr : Nat
  size : Nat
  unitLog2 : Nat
  rights : Nat
  peerMode : Nat
  peerLo : Nat
  peerHi : Nat
  pool : Nat
  perPeerMax : Nat
deriving DecidableEq, Repr

/-- The header of a Swarm message (R455). -/
structure SwarmHdr where
  step : Nat
  gen : Nat
  fmt : Nat
  thinned : Bool
  bucket : Nat
  shard : Nat
  hop : Nat
  block : Nat
  escMask : Nat
  sender : Nat
deriving DecidableEq, Repr

/-- What SWARM_COMMIT_QUERY carries: a question, an answer, or the mismatch of a check with its first failing element (R464). -/
inductive SwarmWord where
  | question
  | answer (committed : Bool)
  | mismatch (elem : Nat)
deriving DecidableEq, Repr

/-- Why the Wadi port discards a frame (R553). -/
inductive DiscardCause where
  /-- CRC, length, reserved field, PAD, CLASS, TYPE or PROTECTED: counted in WADI_RX_CNT BAD. -/
  | bad
  /-- A protected frame outside an open session: WADI_DROP_CNT NO_SESSION. -/
  | noSession
  /-- The tag or the counter fails R538: WADI_DROP_CNT AUTH and AUTH_FAIL. -/
  | auth
  /-- A frame without credit (R554): WADI_DROP_CNT CREDIT. -/
  | credit
  /-- A codeword the FEC could not correct touches the frame (R551). -/
  | fec
deriving DecidableEq, Repr

/-- The commands of the block: one constructor per row of the spec's table of operations and events. -/
inductive Instr where
  /-- POWER_ON (R579): The hot-swap controller switches the input on once PRESENT# has been mated for 100 ms and the input lies in range, ramps the bus, and the start sequence begins. Operands: `vin` input in mV, `mated` PRESENT# mated for 100 ms unbroken, `straps` the value ADDR1 ADDR0 that S01 samples. -/
  | powerOn (vin : Nat) (mated : Bool) (straps : Nat)
  /-- INPUT_OFF (R579): The input falls below 40.0 V or rises above 59.0 V, and the controller switches the module off within 5 µs. Operands: `vin` input in mV. -/
  | inputOff (vin : Nat)
  /-- CURRENT_FAULT (R580): The input current stays at the 58 A limit for 1 ms, or exceeds 90 A, and the controller switches the module off. Operands: `held` the 58 A limit held for 1 ms, `peak` the largest current in mA. -/
  | currentFault (held : Bool) (peak : Nat)
  /-- HOT_SWAP_RETRY (R580): One second after a current fault, the controller switches the input on again under the conditions of R579. Operands: as POWER_ON, one second after a current fault. -/
  | hotSwapRetry (vin : Nat) (mated : Bool) (straps : Nat)
  /-- PRESENT_OPEN (R581): PRESENT# opens under power, and the controller switches the module off within 50 µs. -/
  | presentOpen
  /-- START_STEP (R507): The Hamada begins the next start step or unit: it writes BEGUN, runs the chosen method, and writes ENDED with the outcome. Operands: `unit` the unit that runs (0xFFFF a whole step), `pass` the outcome the unit's work reports, `mask` the failing cores of a parallel S15 or the lanes that trained, `rnd` the low 40 bits of the incarnation number that the Hamada draws in S02. -/
  | startStep (unit : Nat) (pass : Bool) (mask : Nat) (rnd : Nat)
  /-- START_STEP_LIMIT (R508): A start step or unit reaches its limit; the unit fails and its next method runs at once. Operands: the unit whose limit is reached. -/
  | startStepLimit (unit : Nat)
  /-- POWER_SAMPLE (R527): Every 10 µs the Hamada samples input power, voltage and temperatures, and updates the power and thermal clock targets. Operands: `vin` 10 mV units, `iin` 10 mA units, `pavg` watts over the last 1 ms, `windowEnd` a 1 ms window ends, `t0`, `t1` the 16 sensors of each die in °C, `stackTemps` the twelve stack readouts, `cyc` the Hamada cycle count, `rail` a rail out of its set point for 100 µs. -/
  | powerSample (vin : Nat) (iin : Nat) (pavg : Nat) (windowEnd : Bool) (t0 : List Nat) (t1 : List Nat) (stackTemps : List Nat) (cyc : Nat) (rail : Option Nat)
  /-- CLOCK_STEP (R527): A clock-target step timer expires, and a die's clock target falls or rises one 25 MHz step. Operands: `thermal` the timer of the thermal target, otherwise of the power target. -/
  | clockStep (die : Nat) (thermal : Bool)
  /-- CLOCK_CHANGE (R527): A core island takes its new clock at a core-cycle boundary within 2 µs of the Hamada's decision. Operands: the die whose core islands take their new clock. -/
  | clockChange (die : Nat)
  /-- CORE_PARK (R528): Every 100 µs while a die's target lies below its floor, the Hamada parks one more core of the die. -/
  | corePark (die : Nat)
  /-- CORE_UNPARK (R528): Every 1 ms while a die's target would rise, the Hamada unparks one core of the die, lowest index first. -/
  | coreUnpark (die : Nat)
  /-- LOCKSTEP_MISMATCH (R484): The Hamada's two cores disagree, or its oscillator or SRAM fails; fixed logic stops the module, and the ports send WITHDRAW. Operands: `cause` 3 mismatch, 4 oscillator or SRAM failure (R529), `cyc` the Hamada cycle count. -/
  | lockstepMismatch (cause : Nat) (cyc : Nat)
  /-- MANTIS_HEARTBEAT (R482): A Mantis core writes its heartbeat register, which restarts the Hamada's watch on that core. Operands: Mantis core number. -/
  | mantisHeartbeat (m : Nat)
  /-- MANTIS_FAILOVER (R482): No heartbeat arrives for 400 µs; the Mantis core is fenced and its duties move to the next unfenced Mantis core, with the managed steps replayed. Operands: Mantis core number. -/
  | mantisFailover (m : Nat)
  /-- BRIDGE_FAILURE (R483): Eight bridge retries of one transfer fail in a row, or a bridge lane group fails training, and the module is withdrawn. Operands: failed retries of one transfer in a row; a lane group failed training. -/
  | bridgeFailure (retries : Nat) (trainFail : Bool)
  /-- CORE_FENCE (R315): The Hamada fences a core: the counters stop granting to it, its grants go to the re-issue lists and its streams are cancelled. Operands: `reason` of CORE_FENCED (R491): 0 test, 1 parity budget, 2 vote losses. -/
  | coreFence (core : Nat) (reason : Nat)
  /-- SCRUB_DONE (R540): The zeroing of an ended task group's HBM, Erg SRAM and spill regions completes, and those bytes become available again. -/
  | scrubDone
  /-- HELLO_C (R536): A control node's HELLO_C is checked against the CONTROL_NODES digests, and the Hamada answers with HELLO_M or REFUSE. Operands: the body of the node's message (R536); `nm` and `kemRnd` are the fresh nonce and randomness the Hamada draws. -/
  | helloC (nonce : List Byte) (nodeKey : List Byte) (kemKey : List Byte) (nm : List Byte) (kemRnd : Nat)
  /-- FINISH_C (R536): The node's signature over T2 is verified; the session opens, the keys are loaded into the cipher engine, and a CREDIT_GRANT is sent. Operands: the node's signature over T2. -/
  | finishC (sig : List Byte)
  /-- END (R538): An end request from the node ends the session. Operands: an end request. -/
  | endSession (hdr : FrameHdr)
  /-- SUBMIT_GROUP (R557): A task group descriptor is validated and admitted, held or refused, and the outcome is reported by ADMIT. Operands: frame header and body of R557; `place` the addresses the firmware gives the translation tables of the group (R239), its own choice; `peers` what it finds of other modules. -/
  | submitGroup (hdr : FrameHdr) (desc : Nat) (len : Nat) (tag : Nat) (place : List Nat) (peers : PeerWins)
  /-- HELD_ADMISSION (R319): A context ends, and a held submission is admitted, class 0 first and otherwise in order of arrival. -/
  | heldAdmission
  /-- STEP (R557): A STEP word enters the request queue, with an urgent slot copy when URGENT is set, for launch of the named step. Operands: the 64-byte STEP word of R557. -/
  | stepWord (hdr : FrameHdr) (word : List Byte)
  /-- END_GROUP (R557): A group's tasks end after their running steps commit, its windows close and its scrub starts. -/
  | endGroup (hdr : FrameHdr) (tag : Nat)
  /-- BULK_WRITE (R561): A bulk write is checked and written to HBM or Erg SRAM, waiting for any scrub of those bytes. -/
  | bulkWrite (hdr : FrameHdr) (addr : Nat) (data : List Byte)
  /-- BULK_ACK (R562): Once every byte of a bulk write has landed, the module sends its BULK_ACK. Operands: the write whose last byte has landed. -/
  | bulkAck (reqId : Nat)
  /-- BULK_READ (R561): A bulk read is checked and answered with BULK_DATA, or with a BULK_ACK carrying an error status. -/
  | bulkRead (hdr : FrameHdr) (addr : Nat) (len : Nat)
  /-- REG_READ (R564): The module reads up to 128 registers and returns their values under R7 and R8. -/
  | regRead (hdr : FrameHdr) (addrs : List Nat)
  /-- REG_WRITE (R564): The module writes up to 64 register addresses with values under R7 to R11. -/
  | regWrite (hdr : FrameHdr) (pairs : List (Nat × Word))
  /-- COMMIT_QUERY (R564): The module returns a task's last committed step, its status and its FINAL flag. -/
  | commitQuery (hdr : FrameHdr) (task : Nat)
  /-- ROUTES (R392): The firmware writes route-table entries to both dies. -/
  | routes (hdr : FrameHdr) (first : Nat) (entries : List (BitVec 32))
  /-- WINDOW_OPEN (R416): The firmware opens a window entry after its checks and reports the entry number and generation. Operands: `core` the core through whose translation root the firmware reads the owner's tables. -/
  | windowOpen (hdr : FrameHdr) (core : Nat) (req : WinReq)
  /-- WINDOW_CLOSE (R426): A window entry enters CLOSING and closing notices go to its senders; the reply follows when the close completes. -/
  | windowClose (hdr : FrameHdr) (entry : Nat) (gen : Nat)
  /-- SHADOW_SWITCH (R563): The partner makes the named shadow copy CURRENT with the given VERSION. -/
  | shadowSwitch (hdr : FrameHdr) (tag : Nat) (copy : Nat) (version : Nat)
  /-- SELF_TEST (R328): A per-core test is queued for the core, or a whole-module test is answered DEFERRED. Operands: core ID or 0xFFFF. -/
  | selfTest (hdr : FrameHdr) (unit : Nat)
  /-- CORE_TEST_DONE (R328): A core's self-test ends; a passing core returns to the free cores and a failing one is fenced. -/
  | coreTestDone (core : Nat) (pass : Bool)
  /-- MODULE_TEST (R330): A deferred whole-module test starts when the module is quiescent, and its result is reported by an event. -/
  | moduleTest
  /-- AESTIVATE_ENTER (R404): An Aestivation entry request is carried out at once when no step is launched, and is deferred otherwise. -/
  | aestivateEnter (hdr : FrameHdr)
  /-- AESTIVATION_ENTRY (R404): With no launched step, the module finishes its flits, returns its credits and switches its ports to the low mode. -/
  | aestivationEntry
  /-- AESTIVATE_WAKE (R405): A wake request brings the ports and core rails back and cancels any deferred entry. -/
  | aestivateWake (hdr : FrameHdr)
  /-- WAKE_STAGE (R405): A wake stage completes: the kept lane has retrained at full rate, or the remaining lanes are trained to full width. Operands: the port whose stage completes. -/
  | wakeStage (port : Nat)
  /-- POWER_CAP (R525): The Hamada sets CAP_RUN to the requested watts, or refuses a value outside 600 to CAP_CFG. -/
  | powerCap (hdr : FrameHdr) (watts : Nat)
  /-- LEDGER_READ (R564): The Hamada returns up to 128 ledger records, chosen under R512. -/
  | ledgerRead (hdr : FrameHdr) (first : Nat) (count : Nat)
  /-- FLASH_WRITE (R565): The Hamada erases a sector when needed and programs flash, refusing writes to protected regions. -/
  | flashWrite (hdr : FrameHdr) (dev : Nat) (off : Nat) (data : List Byte)
  /-- CLEAR (R516): The Hamada writes a CLEAR record, which returns the named units to their primary methods at the next start. -/
  | clear (hdr : FrameHdr) (step : Nat) (unit : Nat)
  /-- RESTART (R520): A new start begins once the running step's ENDED record is written. -/
  | restart (hdr : FrameHdr)
  /-- SVN_RAISE (R533): The Hamada raises a fused minimum security version to the image in use. -/
  | svnRaise (hdr : FrameHdr) (kind : Nat)
  /-- SET_ACTIVE (R497): The active firmware image of a kind is changed, taking effect at the next start. -/
  | setActive (hdr : FrameHdr) (kind : Nat) (image : Nat)
  /-- ATTESTATION_REQUEST (R535): The Hamada answers a nonce with a signed report of the module's state at one cycle. -/
  | attestationRequest (hdr : FrameHdr) (nonce : List Byte)
  /-- EVENTS (R567): The firmware sends items of the event queue to the control node in an event-class frame. Operands: items put in the frame. -/
  | events (count : Nat)
  /-- COMPLETIONS (R567): The firmware sends completion items of one context in a frame. -/
  | completions (ctx : Nat) (count : Nat)
  /-- TOKENS (R567): The firmware sends token items of one context, each with its length, in a frame. -/
  | tokens (ctx : Nat) (count : Nat)
  /-- SIDEBAND_READ (R575): An I²C command byte selects a Hamada register, whose value is returned whole from the cycle of the ACK. Operands: the I²C command byte. -/
  | sidebandRead (cmd : Nat)
  /-- BYPASS (R577): The boundary-scan BYPASS instruction acts. -/
  | bypass (die : Nat)
  /-- IDCODE (R576): The boundary-scan IDCODE instruction returns the die's IDCODE. -/
  | idcode (die : Nat)
  /-- SAMPLE_PRELOAD (R577): The boundary-scan SAMPLE/PRELOAD instruction acts in every state. Operands: the values preloaded into the boundary register. -/
  | samplePreload (die : Nat) (pins : Nat)
  /-- EXTEST (R577): EXTEST drives the pins in the hold state and acts as BYPASS in any other state. -/
  | extest (die : Nat)
  /-- TRST (R577): TRST# low resets both test ports and returns every pin to its functional drive. -/
  | trst
  /-- SLICE_BOUNDARY (R320): Every SLICE_US, or when a context becomes ready or idle, the firmware reassigns cores to contexts. -/
  | sliceBoundary
  /-- CORE_MOVE (R321): At a tile boundary, a core returns its grants and takes the new context's program, root, extents and split, with a scrub when task groups differ. Operands: the core that reaches its tile boundary. -/
  | coreMove (core : Nat)
  /-- STEP_LAUNCH (R121): After earlier steps commit and any awaited COMMITTED is reached, the firmware validates the step, reads its extents and loads the counters. Operands: the context whose next step launches. -/
  | stepLaunch (ctx : Nat)
  /-- STEP_REPLAY (R476): An aborted step is launched again, with its first-run inputs and a new generation. -/
  | stepReplay (ctx : Nat)
  /-- STEP_COMMIT (R473): Once a step's end, acknowledgements and audits are complete, the commit record is written and the step's items, notices and masses are pushed. Operands: `tokens` the token items of the step in token-index order; the manual does not say where they come from. -/
  | stepCommit (ctx : Nat) (tokens : List (List Byte))
  /-- GRANT_REQUEST (R309): A core fetch-and-adds its context's cursor or re-issue list and is granted a tile, copy or combine. -/
  | grantRequest (core : Nat)
  /-- GRANT_ARRIVAL (R122): A grant reaches a core; the core computes the tile coordinates and then skips the tile or issues its prefetch section. -/
  | grantArrival (core : Nat)
  /-- TILE_START (R114): A tile becomes the running tile, and its compute section issues. Operands: `g` the position among the grants the core holds. -/
  | tileStart (core : Nat) (g : Nat)
  /-- TILE_END (R312): Every operation of a tile completes; the tile ends, and a pass or the step may complete. -/
  | tileEnd (core : Nat) (g : Nat)
  /-- TILE_WDOG_EXPIRY (R139): A tile's watchdog reaches its limit; the tile is abandoned and re-issued, or the step aborts at a second expiry. -/
  | tileWdogExpiry (core : Nat) (g : Nat)
  /-- NOP (R113): The NOP tile operation does nothing. Operands: the core, the grant and the section whose next operation this is. -/
  | nop (core : Nat) (g : Nat) (pf : Bool)
  /-- LOAD (R113): A LOAD sends a stream read of one part into a buffer. Operands: the core, the grant and the section whose next operation this is. -/
  | load (core : Nat) (g : Nat) (pf : Bool)
  /-- LOAD_COMPLETE (R116): The last byte of a LOAD lands in the scratchpad, and the LOAD completes. -/
  | loadComplete (core : Nat)
  /-- MATCH (R82): A MATCH arms the Scarab to match the operands' sparse structure for the following MMA. Operands: the core, the grant and the section whose next operation this is. -/
  | matchOp (core : Nat) (g : Nat) (pf : Bool)
  /-- MMA (R47): An MMA runs the product on the cells, with exact block accumulation into the tile accumulators. Operands: the core, the grant and the section whose next operation this is. -/
  | mma (core : Nat) (g : Nat) (pf : Bool)
  /-- ROWFN (R151): A ROWFN applies the row function to a chunk of the first product and writes the A operand of the MMA2. Operands: the core, the grant and the section whose next operation this is. -/
  | rowfn (core : Nat) (g : Nat) (pf : Bool)
  /-- MMA2 (R148): An MMA2 runs the second product of a pair into accumulator set 1. Operands: the core, the grant and the section whose next operation this is. -/
  | mma2 (core : Nat) (g : Nat) (pf : Bool)
  /-- DRAIN (R132): A DRAIN scales, biases, applies the function, converts, signs and claims the output, then writes it. Operands: the core, the grant and the section whose next operation this is. -/
  | drain (core : Nat) (g : Nat) (pf : Bool)
  /-- KSPLIT_COMBINE (R134): The release of the last K-split partial starts the combine of the partials in ascending kb order into the output. -/
  | ksplitCombine (core : Nat)
  /-- STORE (R247): A STORE writes a buffer's blocks through its stream, clipped to the extents. Operands: the core, the grant and the section whose next operation this is. -/
  | store (core : Nat) (g : Nat) (pf : Bool)
  /-- STORE_COMPLETE (R116): The last byte of a STORE is accepted by the mesh stop, and the STORE completes. -/
  | storeComplete (core : Nat)
  /-- TOKWAIT (R116): A TOKWAIT holds issue of later operations in its section until the token holds the named state. Operands: the core, the grant and the section whose next operation this is. -/
  | tokwait (core : Nat) (g : Nat) (pf : Bool)
  /-- TOKWAIT_PASS (R117): A waiting TOKWAIT sees its state and passes, no earlier than the cycle after the change. Operands: the core, the grant and the section whose next operation this is. -/
  | tokwaitPass (core : Nat) (g : Nat) (pf : Bool)
  /-- TOKPOST (R116): A TOKPOST is issued without holding later operations. Operands: the core, the grant and the section whose next operation this is. -/
  | tokpost (core : Nat) (g : Nat) (pf : Bool)
  /-- TOKPOST_EFFECT (R116): After the earlier operations of the section complete, the token takes the posted state. Operands: the first pending post of that section. -/
  | tokpostEffect (core : Nat) (g : Nat) (pf : Bool)
  /-- FENCE (R118): A FENCE holds issue of later operations until its scopes are satisfied. Operands: the core, the grant and the section whose next operation this is. -/
  | fence (core : Nat) (g : Nat) (pf : Bool)
  /-- FENCE_PASS (R118): The scopes of a FENCE are satisfied, and issue resumes. Operands: the core, the grant and the section whose next operation this is. -/
  | fencePass (core : Nat) (g : Nat) (pf : Bool)
  /-- PRUNE_REQUEST (R98): The Weevil prunes a dense tensor to N:M or bitmap form and writes the values, structure, scales and row-bin table. Operands: `req` the task virtual address of the 64-byte request, read through the tables of the context `core` serves. -/
  | pruneRequest (core : Nat) (req : Nat)
  /-- STREAM_END (R253): The END instruction ends the stream program's run. Operands: the core whose running stream program stands at this instruction. -/
  | streamEnd (core : Nat)
  /-- SETI (R253): SETI sets an address register to an immediate. Operands: the core whose running stream program stands at this instruction. -/
  | seti (core : Nat)
  /-- ADDI (R253): ADDI adds an immediate to a register. Operands: the core whose running stream program stands at this instruction. -/
  | addi (core : Nat)
  /-- MULI (R253): MULI multiplies a register by an immediate. Operands: the core whose running stream program stands at this instruction. -/
  | muli (core : Nat)
  /-- ANDI (R253): ANDI ANDs a register with an unsigned immediate. Operands: the core whose running stream program stands at this instruction. -/
  | andi (core : Nat)
  /-- SHRI (R253): SHRI shifts a register right arithmetically. Operands: the core whose running stream program stands at this instruction. -/
  | shri (core : Nat)
  /-- ADD (R253): ADD adds two registers. Operands: the core whose running stream program stands at this instruction. -/
  | add (core : Nat)
  /-- SUB (R253): SUB subtracts two registers. Operands: the core whose running stream program stands at this instruction. -/
  | sub (core : Nat)
  /-- MUL (R253): MUL multiplies two registers, keeping the low 64 bits. Operands: the core whose running stream program stands at this instruction. -/
  | mul (core : Nat)
  /-- LDC (R253): LDC loads a tile coordinate, extent, pass or sweep value into a register. Operands: the core whose running stream program stands at this instruction. -/
  | ldc (core : Nat)
  /-- LDP (R253): LDP loads a parameter word into a register. Operands: the core whose running stream program stands at this instruction. -/
  | ldp (core : Nat)
  /-- LOOP (R253): LOOP sets a loop counter, skipping past its ENDL when the count is zero. Operands: the core whose running stream program stands at this instruction. -/
  | loopOp (core : Nat)
  /-- ENDL (R253): ENDL decrements a loop counter and branches back while it is not zero. Operands: the core whose running stream program stands at this instruction. -/
  | endl (core : Nat)
  /-- JGE (R253): JGE branches forward when one register is at least another, signed. Operands: the core whose running stream program stands at this instruction. -/
  | jge (core : Nat)
  /-- EMIT (R253): EMIT sends a block to a slot, waiting while the block queue is full, with run-limit checks. Operands: the core whose running stream program stands at this instruction. -/
  | emit (core : Nat)
  /-- ANT_ROW_ARRIVAL (R262): An Ant row reaches a taker's mesh stop, is written to its slot and is forwarded onward. Operands: `core` the taker, `row` the 128-byte row of the block, `bad` an Ant packet with bad parity. -/
  | antRowArrival (core : Nat) (row : Nat) (bad : Bool)
  /-- STREAM_READ_RESPONSE (R267): Read data returns to a tracker and is written, or is discarded for a stale epoch. Operands: `err` a mesh parity error or lost frame found on the way (KIND of R276). -/
  | streamReadResponse (core : Nat) (tracker : Nat) (epoch : Nat) (err : Option Nat)
  /-- STRM_RESP_TIMEOUT (R269): A read goes unanswered for the response timeout, which is a mid-stream fault. -/
  | strmRespTimeout (core : Nat) (tracker : Nat)
  /-- STREAM_CANCEL (R265): A core's streams are cancelled: queues are dropped, trackers released and the epoch advanced. -/
  | streamCancel (core : Nat)
  /-- CACHE_FILL (R192): A cache-miss line returns from HBM, is written to its way and is copied to the buffer. Operands: `line` the line address, module physical. -/
  | cacheFill (core : Nat) (line : Nat)
  /-- XLT_INVALIDATE (R240): A write of INVALIDATE to XLT_CTL invalidates TLB entries of one context, or every entry. Operands: the word written to XLT_CTL. -/
  | xltInvalidate (core : Nat) (value : Word)
  /-- INVALIDATE (R209): A write of INVALIDATE to SPAD_CACHE_CTL invalidates every cache line. -/
  | invalidate (core : Nat)
  /-- SPAD_SPLIT_WRITE (R208): A write to SPAD_SPLIT changes the cache size and invalidates the cache. -/
  | spadSplitWrite (core : Nat) (value : Word)
  /-- SPQ_ENABLE (R301): A write setting ENABLE in SPQ_CFG enables the queue and resets its positions, or sets CFG_ERR. Operands: `q` the set base address, `value` the word written to SPQ_CFG. -/
  | spqEnable (q : Nat) (value : Word)
  /-- FLUSH (R296): A flush of a spill queue is requested through SPQ_CTL, by the consumer or by a step abort. -/
  | flush (q : Nat)
  /-- FLUSH_EFFECT (R296): At the first producer-cycle boundary, the flush discards the words, returns credits, commits a flush marker and may enter DRAINING. -/
  | flushEffect (q : Nat)
  /-- RELEASE (R287): RELEASE frees the held words before the read position, except marked ones. -/
  | release (q : Nat)
  /-- REWIND (R287): REWIND sets the read position to the mark or to the release position. -/
  | rewind (q : Nat)
  /-- MARK (R287): MARK sets the mark at the read position. -/
  | mark (q : Nat)
  /-- CLEAR_MARK (R287): CLEAR_MARK removes the mark. -/
  | clearMark (q : Nat)
  /-- SPQ_PUSH (R280): A producer pushes a unit into the open word, closing and committing words or dropping an uncredited item. Operands: one unit and its END flag. -/
  | spqPush (q : Nat) (data : List Byte) (last : Bool)
  /-- SPQ_READ (R284): The consumer reads the word at its read position, releasing it when AUTO_RELEASE is set. -/
  | spqRead (q : Nat)
  /-- SPQ_TIMEOUT (R285): The queue's timeout count expires, and any open word is closed and committed. -/
  | spqTimeout (q : Nat)
  /-- SPQ_CLOSE_ARRIVAL (R286): A timeout close reaches the producer island and closes the open word at a producer-cycle boundary. -/
  | spqCloseArrival (q : Nat)
  /-- SPQ_CREDIT_RETURN (R290): A released word's credit reaches the producer island. -/
  | spqCreditReturn (q : Nat)
  /-- WIN_OPEN_CMD (R437): A CMD of 1 in WIN_CTL opens the window entry. Operands: the word written to WIN_CTL. -/
  | winOpenCmd (entry : Nat) (value : Word)
  /-- WIN_CLOSE_CMD (R437): A CMD of 2 in WIN_CTL starts a close of the window entry. -/
  | winCloseCmd (entry : Nat)
  /-- REGISTER_WRITE (R8): A write to a register with no row of its own acts under the access codes of R8 to R11. Operands: `size` 8 or 4 bytes. -/
  | registerWrite (addr : Nat) (size : Nat) (value : Word)
  /-- ERG_RECORD_SEND (R352): With a queue credit in hand, the firmware sends an Erg operation record to an engine queue. -/
  | ergRecordSend (ctx : Nat)
  /-- GATHER (R354): The Erg engine gathers the listed blocks into packed slots. -/
  | gather (stack : Nat)
  /-- SCATTER (R354): The Erg engine scatters packed blocks to the listed coordinates. -/
  | scatter (stack : Nat)
  /-- MERGE (R354): The Erg engine merges two sorted key lists with their positions. -/
  | merge (stack : Nat)
  /-- INTERSECT (R354): The Erg engine intersects two sorted key lists with their positions. -/
  | intersect (stack : Nat)
  /-- DECOMPRESS (R356): The Erg engine expands a bitmap-compressed operand to dense. -/
  | decompress (stack : Nat)
  /-- TOPK_ROW (R355): The Erg engine selects the k largest values of each row. -/
  | topkRow (stack : Nat)
  /-- SUM_CHECK (R357): The Erg engine re-adds the contributions and writes a verdict word. -/
  | sumCheck (stack : Nat)
  /-- DECODE_ATTN (R360): Each Erg engine computes per-head partial softmax attention over its stack's pages. -/
  | decodeAttn (stack : Nat)
  /-- DECODE_ATTN_MERGE (R361): When all twelve partials are written, the anchor core merges them in stack order and writes the output. -/
  | decodeAttnMerge (ctx : Nat)
  /-- ERG_OP_TIMEOUT (R363): An Erg operation runs past ERG_OP_TIMEOUT, and the engine fails. -/
  | ergOpTimeout (stack : Nat)
  /-- HBM_PATROL (R343): The controller patrols its stack within refresh windows, correcting accesses and reading the on-die ECC counts. Operands: `off` the offset of the access patrolled, `odecc` the corrections the dies report. -/
  | hbmPatrol (stack : Nat) (off : Nat) (odecc : Nat)
  /-- PCH_NO_RESPONSE (R344): A pseudo-channel does not answer within 65,536 cycles, which is a persistent stack fault that withdraws the module. -/
  | pchNoResponse (stack : Nat)
  /-- FLIT_RECEIVE (R379): A flit is received, checked, acknowledged and delivered to its sink, forwarded, or discarded with a NAK. Operands: `bytes` its 256 bytes as decoded, `codes` the codewords that brought them. -/
  | flitReceive (port : Nat) (bytes : List Byte) (codes : List Code)
  /-- FLIT_FORWARD (R395): A waiting forwarded flit leaves once its output port holds a credit on its virtual lane. Operands: the oldest waiting flit of a receive slot. -/
  | flitForward (port : Nat) (vl : Nat)
  /-- MESSAGE_QUEUE_COMMIT (R382): A waiting message flit is committed to its Seif message queue once that queue has credit. -/
  | messageQueueCommit (port : Nat) (vl : Nat)
  /-- NAK (R386): A received NAK makes the sender replay its retry buffer from the named SEQ. -/
  | nak (port : Nat) (seq : Nat)
  /-- SEIF_RETRY_TIMEOUT (R386): ACK has not advanced for the retry timeout; the sender replays from the oldest flit and retrains at the retry limit. -/
  | seifRetryTimeout (port : Nat)
  /-- LANE_UNHEALTHY (R376): A lane loses signal or lock, or exceeds its uncorrectable limit, which starts a retrain. -/
  | laneUnhealthy (port : Nat) (lane : Nat)
  /-- PORT_RETRAIN (R388): The partners exchange healthy-lane masks and retrain the port at the widest healthy width. Operands: the partner's mask of healthy lanes. -/
  | portRetrain (port : Nat) (peerMask : Nat)
  /-- RETRAIN_DONE (R389): A retrain completes, and traffic and replay resume at the new width. -/
  | retrainDone (port : Nat)
  /-- RETRAIN_TIMEOUT (R389): A retrain fails to complete within 50 µs; the port goes down after three such failures. -/
  | retrainTimeout (port : Nat)
  /-- PORT_TRAIN_RETRY (R391): Every 100 ms the module tries again to train a down port. Operands: the lanes that pass training. -/
  | portTrainRetry (port : Nat) (lanes : Nat)
  /-- HELLO (R398): A partner's HELLO is checked for a module ID conflict, and the partner is recorded. -/
  | hello (port : Nat) (id : Nat) (peerPort : Nat) (inc : Nat)
  /-- JOIN (R399): A JOIN announcement updates the membership table and is flooded when it changes it. -/
  | join (port : Nat) (id : Nat) (inc : Nat) (ann : Nat)
  /-- WITHDRAW (R399): A WITHDRAW announcement marks a module withdrawn, is flooded and triggers takeover handling. -/
  | withdraw (port : Nat) (id : Nat) (inc : Nat) (ann : Nat)
  /-- DEPARTED (R399): A DEPARTED announcement marks a module departed and is flooded. -/
  | departed (port : Nat) (id : Nat) (inc : Nat) (ann : Nat)
  /-- HEARTBEAT (R400): Every SEIF_HB_PERIOD the port sends a heartbeat control flit. -/
  | heartbeat (port : Nat)
  /-- HEARTBEAT_MISS (R400): No heartbeat arrives for SEIF_HB_MISS periods, and the port goes down. -/
  | heartbeatMiss (port : Nat)
  /-- WAKE (R405): A received wake flit wakes the module when AEST_WAKE_BY_PEER is one, and is only counted otherwise. -/
  | wake (port : Nat)
  /-- WAKE_FLIT_SEND (R405): After traffic has waited SEIF_WAKE_HOLD for a sleeping partner, the port sends a wake flit. -/
  | wakeFlitSend (port : Nat)
  /-- CREDIT_REQUEST (R419): The owner grants min(asked, FREE) credits within PER_PEER_MAX, waits while FREE is zero, or refuses. -/
  | creditRequest (src : Nat) (entry : Nat) (gen : Nat) (count : Nat)
  /-- WINDOW_CREDIT_GRANT (R418): A credit grant reaches the sender, which checks its streams' bounds against the window size. Operands: `handle` the handle; for a multicast group, the group and `rcv` the receiver's position; `status` not zero where the owner refuses the request, or LAG_DETACHED where a multicast sender has removed this module's window `handle` of generation `gen`. -/
  | windowCreditGrant (mcast : Bool) (handle : Nat) (rcv : Nat) (gen : Nat) (size : Nat) (count : Nat) (status : Nat)
  /-- WINDOW_WRITE (R422): The owner judges a window write, lands it and sends an acknowledgement, or refuses it. -/
  | windowWrite (src : Nat) (hdr : WinHdr) (data : WinData)
  /-- WINDOW_READ_REQUEST (R422): The owner judges a window read and answers it with data or a refusal. -/
  | windowReadRequest (src : Nat) (hdr : WinHdr)
  /-- WINDOW_READ_RESPONSE (R421): A read response reaches the sender's stream, or a refusal aborts its step. -/
  | windowReadResponse (src : Nat) (core : Nat) (tracker : Nat) (epoch : Nat) (reply : WinReply)
  /-- WRITE_ACKNOWLEDGEMENT (R420): An acknowledgement returns a standing credit to the sender, or to the pool during CLOSING. Operands: `handle` the handle and `core` the core that wrote (288 the shadow writes of a Swarm step); for a unit of a multicast group, the group, the receiver's position and `unit` the unit number. -/
  | writeAcknowledgement (mcast : Bool) (handle : Nat) (core : Nat) (status : Nat) (unit : Nat)
  /-- FINISH_NOTICE (R424): A finish notice adds the bytes a sender's step wrote to the entry's COMMITTED count. -/
  | finishNotice (entry : Nat) (gen : Nat) (bytes : Nat)
  /-- CLOSING_NOTICE (R426): A sender receives a closing notice and returns every credit not bound to an issued write. -/
  | closingNotice (src : Nat) (entry : Nat) (gen : Nat)
  /-- CREDIT_RETURN (R426): Returned credits are added to FREE, and the close completes when FREE equals POOL. Operands: `slot` slot credits that a receiver of a multicast group gives back (R431), whose window `entry` then is. -/
  | creditReturn (src : Nat) (entry : Nat) (gen : Nat) (count : Nat) (slot : Bool)
  /-- WIN_CLOSE_TIMEOUT (R427): A close is still incomplete after WIN_CLOSE_TIMEOUT, so it completes anyway and the held credits become void. -/
  | winCloseTimeout (entry : Nat)
  /-- MULTICAST_UNIT_SEND (R432): The sender sends a receiver its next unit once it holds that receiver's slot credit. -/
  | multicastUnitSend (group : Nat) (rcv : Nat)
  /-- MULTICAST_DETACH (R433): A receiver's lag has stayed at the limit for DETACH_US, so it is detached and served by replay. -/
  | multicastDetach (late : LateRcvs)
  /-- SWARM_DIGEST (R446): A member's digest is compared with the receiver's own; a difference refuses the step. -/
  | swarmDigest (src : Nat) (hdr : SwarmHdr) (digest : Word)
  /-- SWARM_PARTIAL (R459): A partial is taken from staging, and the hop adds its contribution and forwards the result or writes REDUCED. -/
  | swarmPartial (src : Nat) (hdr : SwarmHdr) (data : List Byte)
  /-- CHECK_COPY (R463): A sampled block's check copy is staged in CHECK for a SUM_CHECK by the owner. -/
  | checkCopy (src : Nat) (hdr : SwarmHdr) (data : List Byte)
  /-- SWARM_GATHER (R450): A gather chunk is written to its offset and forwarded round the ring. -/
  | swarmGather (src : Nat) (hdr : SwarmHdr) (entry : Nat) (data : List Byte)
  /-- READY (R451): A READY is recorded, and the member commits the Swarm step when it holds all R of them. -/
  | ready (src : Nat) (hdr : SwarmHdr)
  /-- NORM (R465): A member's sum of squares is recorded, and the norm is written once all R have arrived. -/
  | norm (src : Nat) (hdr : SwarmHdr) (q : F32)
  /-- COMMITTED (R468): The shadow partner sets CURRENT and VERSION on receiving COMMITTED. -/
  | committed (src : Nat) (hdr : SwarmHdr)
  /-- SWARM_COMMIT_QUERY (R451): A survivor asks, or answers, whether the Swarm step has committed after a withdrawal. Operands: `word` what the message says; the mismatch of a
  check (R464) travels in the same way. -/
  | swarmCommitQuery (src : Nat) (hdr : SwarmHdr) (word : SwarmWord)
  /-- TAKEOVER_NOTICE (R486): A member rebinds its handles to the partner's new entries. Operands: the partner that sends it; the withdrawn module ID; old entry, new entry and new generation. -/
  | takeoverNotice (src : Nat) (id : Nat) (entries : List (Nat × Nat × Nat))
  /-- TAKEOVER_DONE (R487): The prefill replay rebuilds the caches and the partner relaunches the steps. Operands: what
  the replay has written. -/
  | takeoverDone (rebuilt : Rebuilt)
  /-- MEMORY_WRITE_ACK (R257): Memory acknowledges a stream write, which frees its write tracker so that a waiting STORE goes on and a FENCE on store visibility may pass. -/
  | memoryWriteAck (core : Nat)
  /-- TABLE_WALK (R236): A TLB walk completes, installing the leaf translation or raising the translation fault of R235. -/
  | tableWalk (core : Nat)
  /-- MODULE_TEST_END (R330): A whole-module test ends after up to 2.5 s; its result event is queued, failing units are fenced, and the held submissions are admitted. Operands: failing cores. -/
  | moduleTestEnd (failed : List Nat)
  /-- HAMADA_SCHEDULED_TEST (R328): The Hamada's schedule requests a per-core self-test. -/
  | hamadaScheduledTest (core : Nat)
  /-- FRAME_DISCARD (R553): A Wadi frame that fails its CRC, length, format, credit or session checks is discarded without reply and counted. -/
  | frameDiscard (cause : DiscardCause)
  /-- WADI_LOS (R569): The Wadi receiver loses, or regains, light, and LOS and the link STATE change. -/
  | wadiLos (los : Bool) (up : Bool)
  /-- PARTNER_LOW_MODE (R403): A partner enters or leaves Aestivation, and this module's port switches into or out of the low mode. -/
  | partnerLowMode (port : Nat) (low : Bool)
deriving DecidableEq, Repr

end Sys2Proof
end

