-- ==== Sys2Proof/Decode.lean ====
section
/-!
DEFINITION. The command that a word of the table's bits spells. The table gives bits to no row: commands come to the block
as events, frames and flits, so no word spells one.
-/
namespace Sys2Proof

/-- The command that `nbits` bits `w` spell: none, for no row of the table has bits. -/
def decodeTableWord (_nbits _w : Nat) : Option Instr := none

end Sys2Proof
end

