-- ==== Sys2Proof/Machine/Bits.lean ====
section
/-!
DEFINITION. Bit fields, sign extension, byte order (R12), checksums and the index hashes of the manual, on natural
numbers. Bits are numbered from 0 at the least significant bit (R12).
-/
namespace Sys2Proof.Machine

/-- Bits `hi:lo` of `v` (R12). -/
def bitsOf (v hi lo : Nat) : Nat := (v / 2 ^ lo) % 2 ^ (hi + 1 - lo)

/-- `v` with bits `hi:lo` replaced by the low bits of `x`. -/
def withBits (v hi lo x : Nat) : Nat :=
  v / 2 ^ (hi + 1) * 2 ^ (hi + 1) + (x % 2 ^ (hi + 1 - lo)) * 2 ^ lo + v % 2 ^ lo

/-- Bit `n` of `v`. -/
def bitAt (v n : Nat) : Bool := (v / 2 ^ n) % 2 == 1

/-- The signed value of the low `w` bits of `v` in two's complement. -/
def signed (w v : Nat) : Int :=
  let u := v % 2 ^ w
  if 2 * u < 2 ^ w then (u : Int) else (u : Int) - (2 ^ w : Nat)

/-- The `w`-bit two's-complement pattern of `i`. -/
def unsigned (w : Nat) (i : Int) : Nat := (i % ((2 ^ w : Nat) : Int)).toNat

/-- `ceil (a / b)`; 0 when `b` is 0. -/
def ceilDiv (a b : Nat) : Nat := (a + b - 1) / b

/-- `a` rounded up to a multiple of `b`. -/
def alignUp (a b : Nat) : Nat := ceilDiv a b * b

/-- The `n` bytes of `v`, least significant first (R12). -/
def leBytes : Nat → Nat → List Byte
  | 0, _ => []
  | n + 1, v => BitVec.ofNat 8 v :: leBytes n (v / 256)

/-- The number that little-endian bytes spell (R12). -/
def ofLE : List Byte → Nat
  | [] => 0
  | b :: bs => b.toNat + 256 * ofLE bs

/-- `n` bytes at offset `o` of a byte string, as a little-endian number. -/
def fieldLE (bs : List Byte) (o n : Nat) : Nat := ofLE ((bs.drop o).take n)

/-- All `n` bytes at offset `o` are zero. -/
def zeroAt (bs : List Byte) (o n : Nat) : Bool := fieldLE bs o n == 0

/-- `n` zero bytes. -/
def zeros (n : Nat) : List Byte := List.replicate n 0

/-- `bs` padded with zero bytes to `n` bytes and cut there. -/
def padTo (n : Nat) (bs : List Byte) : List Byte := (bs ++ zeros (n - bs.length)).take n

/-- One bit of a reflected CRC register of polynomial `p`. -/
def crcBitR (p : Nat) (c : Nat) : Nat := if c % 2 == 1 then (c / 2) ^^^ p else c / 2

/-- One byte into a reflected CRC register. -/
def crcByteR (p c : Nat) (b : Byte) : Nat := (List.range 8).foldl (fun c _ => crcBitR p c) (c ^^^ b.toNat)

/-- CRC-32C. PRESUMED (log 9): the Castagnoli polynomial reflected, start and final inversion, as the name is commonly used. -/
def crc32c (bs : List Byte) : Nat := (bs.foldl (crcByteR 0x82F63B78) 0xFFFFFFFF) ^^^ 0xFFFFFFFF

/-- The SMBus packet error code of a run of bytes (R574). PRESUMED (log 10): the polynomial x^8 + x^2 + x + 1 from zero, as SMBus has
it. -/
def crc8 (bs : List Byte) : Nat :=
  bs.foldl (fun c b => (List.range 8).foldl (fun c _ => if c ≥ 128 then ((2 * c) % 256) ^^^ 7 else 2 * c) (c ^^^ b.toNat)) 0

/-- One bit of the CRC-64 register of the ECMA-182 polynomial (R26). -/
def crc64Bit (c : Nat) : Nat :=
  if c ≥ 2 ^ 63 then ((2 * c) % 2 ^ 64) ^^^ 0x42F0E1EBA9EA3693 else 2 * c

/-- CRC-64 of the ECMA-182 polynomial (R26, R446). PRESUMED (log 11): most significant bit first, start and final value zero. -/
def crc64 (bs : List Byte) : Nat :=
  bs.foldl (fun c b => (List.range 8).foldl (fun c _ => crc64Bit c) (c ^^^ (b.toNat * 2 ^ 56))) 0

/-- The 32-bit mixer that the audit choice and the Swarm sample share (R169, R462). -/
def mix32 (h0 : Nat) : Nat :=
  let h := h0 % 2 ^ 32
  let h := h ^^^ (h / 2 ^ 16)
  let h := (h * 0x85EBCA6B) % 2 ^ 32
  let h := h ^^^ (h / 2 ^ 13)
  let h := (h * 0xC2B2AE35) % 2 ^ 32
  h ^^^ (h / 2 ^ 16)

/-- R169: the audit choice of a token. -/
def audited (t layer seed : Nat) : Bool :=
  mix32 ((t % 2 ^ 32) ^^^ ((layer * 0x9E3779B1) % 2 ^ 32) ^^^ (seed % 2 ^ 32)) / 2 ^ 26 == 0

/-- R462: the sample choice of a Swarm block. -/
def swarmSampled (s g : Nat) : Bool :=
  mix32 ((s % 2 ^ 32) ^^^ ((s / 2 ^ 32 % 2 ^ 32 * 0x9E3779B1) % 2 ^ 32) ^^^ ((g * 0x85EBCA6B) % 2 ^ 32)) / 2 ^ 24 == 0

/-- The number of one bits among the low `n` bits of `v`. -/
def popcount : Nat → Nat → Nat
  | 0, _ => 0
  | n + 1, v => v % 2 + popcount n (v / 2)

/-- The lowest index below `n` that satisfies `p`. -/
def lowest (n : Nat) (p : Nat → Bool) : Option Nat := (List.range n).find? p

/-- A list cut into pieces of `k` elements, at most `fuel` of them. -/
def chunksOf {α : Type} (k : Nat) : Nat → List α → List (List α)
  | 0, _ => []
  | _, [] => []
  | fuel + 1, l => l.take k :: chunksOf k fuel (l.drop k)

/-- The element at `i`, or `d` beyond the end. -/
def nth {α : Type} (d : α) (l : List α) (i : Nat) : α := (l[i]?).getD d

/-- The list with the element at `i` changed by `f`. -/
def mapAt {α : Type} (l : List α) (i : Nat) (f : α → α) : List α :=
  match l, i with
  | [], _ => []
  | a :: l, 0 => f a :: l
  | a :: l, i + 1 => a :: mapAt l i f

/-- The list without the element at `i`. -/
def dropAt {α : Type} (l : List α) (i : Nat) : List α :=
  match l, i with
  | [], _ => []
  | _ :: l, 0 => l
  | a :: l, i + 1 => a :: dropAt l i

/-- Insertion of `x` in a list kept sorted by `le`, after equal elements. -/
def insertBy {α : Type} (le : α → α → Bool) (x : α) : List α → List α
  | [] => [x]
  | y :: l => if le y x then y :: insertBy le x l else x :: y :: l

/-- A stable sort by `le`. -/
def sortBy {α : Type} (le : α → α → Bool) (l : List α) : List α := l.foldl (fun acc x => insertBy le x acc) []

/-- A list without repetitions: later repeats are dropped. -/
def distinct {α : Type} [BEq α] : List α → List α
  | [] => []
  | a :: l => a :: (distinct l).filter (fun b => !(b == a))

end Sys2Proof.Machine
end

