-- ==== Sys2Proof/Config.lean ====
section
/-!
DEFINITION. What the manual leaves open, and what one module is born with: the free values, the fuses and the
cryptographic functions of other standards. None of them has a body, so a statement about them holds for every value.
-/
namespace Sys2Proof

/-- A free byte: what the manual leaves undefined (R180, R474). The argument is the state's counter `free`. -/
opaque Config.freeByte : Nat → Byte

/-- A byte of a multicast unit that the step never writes (R430, R435): the byte's offset in its unit. -/
opaque Config.unitByte : Nat → Byte

/-- The windows of a withdrawn module's slice that its partner opens (R486): the module and the task group's tag; each with the number of the
entry it stands for. The manual gives their layout to no record of the partner. -/
opaque Config.sliceWindows : Nat → Nat → List (Nat × WinReq)

/-- A free bit, as `Config.freeByte`. -/
opaque Config.freeBit : Nat → Bool

/-- The CYCLES an island reads when it raises an event (R490): island, and the state's counter `free`. -/
opaque Config.cycles : Nat → Nat → Word

/-- The Hamada's draw of a number of the given count of bits (nonces, counters): the state's counter `free`. -/
opaque Config.random : Nat → Nat → Nat

/-- The FP32 value of an operand position for which the manual states no result. -/
opaque Config.freeF32 : Nat → F32

/-- An integer accumulator rescaled by a factor of SOFTMAX, where the exact product is no integer of 48 bits: the manual states no
rounding (R159). The arguments are the accumulator and the factor. -/
opaque Config.intRescale : Int → F32 → Int

/-- The passes beyond the first that a bank serves for the accesses of one operation of the cells (R216): the state's counter `free`, and
the bank. -/
opaque Config.extraPasses : Nat → Nat → Nat

/-- The sequence tag of a token item (R487): the manual gives no layout of one. -/
opaque Config.tokenSeq : List Byte → Nat

/-- The prompt tokens of a sequence (R487), which no command shows: the state's counter `free`, and the sequence tag. -/
opaque Config.prompt : Nat → Nat → List (List Byte)

/-- Which unused index the Weevil gives the first spare slot of a group (R77): the number of the group. -/
opaque Config.spareIndex : Nat → Nat

/-- The serial number in the fuses (R542). -/
opaque Config.serial : Word

/-- The owner key digest in the fuses (R504, R532). -/
opaque Config.ownerDigest : List Byte

/-- The public identity key that S04 derives from the fused secret (R534). -/
opaque Config.identityKey : List Byte

/-- Where in HBM the firmware places the spill region of a queue (R278, R299): the base address of its register set. -/
opaque Config.queueRegion : Nat → Nat

/-- The bytes in the two flash devices of a module as supplied (R602): the firmware images and the provisioning image. -/
opaque Config.shippedFlash : Nat → List (Nat × Byte)

/-- The code of a self-test's result, passed or not, in its reply and its event (R491, R564): the manual gives no code. -/
opaque Config.testCode : Bool → Nat

/-- SHA3-512. -/
opaque Config.sha3 : List Byte → List Byte

/-- Verification under ML-DSA-87 (R532): key, message, signature. -/
opaque Config.verify : List Byte → List Byte → List Byte → Bool

/-- The module's ML-DSA-87 signature of a message under the identity of R534. -/
opaque Config.sign : List Byte → List Byte

/-- ML-KEM-1024 encapsulation against a key with given randomness: ciphertext and shared secret (R536). -/
opaque Config.encapsulate : List Byte → Nat → List Byte × List Byte

end Sys2Proof
end

