-- ==== Sys2Proof/Machine/Maps.lean ====
section
/-!
DEFINITION. Sparse tables: lists of (key, value) pairs in one canonical form. Keys rise strictly and no listed value
equals what an unlisted key reads as, so equal tables are equal lists. Memory, the register file and every table of units
use them.
-/
namespace Sys2Proof.Machine

/-- A sparse table with natural-number keys. -/
abbrev Table (α : Type) := List (Nat × α)

/-- The value at `k`; `d` where `k` is not listed. -/
def tget {α : Type} (d : α) : Table α → Nat → α
  | [], _ => d
  | (k', v) :: m, k => if k' = k then v else tget d m k

/-- The table without the key `k`. -/
def terase {α : Type} (m : Table α) (k : Nat) : Table α := m.filter (fun p => p.1 != k)

/-- The table with `v` listed at `k`, in key order. -/
def tinsert {α : Type} : Table α → Nat → α → Table α
  | [], k, v => [(k, v)]
  | (k', v') :: m, k, v =>
    if k < k' then (k, v) :: (k', v') :: m
    else if k' = k then (k, v) :: m
    else (k', v') :: tinsert m k v

/-- The table with `v` at `k`: writing what an unlisted key reads as removes the entry. -/
def tput {α : Type} [DecidableEq α] (d : α) (m : Table α) (k : Nat) (v : α) : Table α :=
  if v = d then terase m k else tinsert m k v

/-- The canonical form: keys rise strictly. -/
def tsorted {α : Type} : Table α → Bool
  | [] => true
  | [_] => true
  | (k, _) :: (k', v') :: m => decide (k < k') && tsorted ((k', v') :: m)

/-- The canonical form of a table: keys rise strictly and no entry holds the default. -/
def Table.wf {α : Type} [DecidableEq α] (d : α) (m : Table α) : Bool :=
  tsorted m && m.all (fun p => !(decide (p.2 = d)))

end Sys2Proof.Machine
end

