-- ==== Sys2Proof/Machine/RegMap.lean ====
section
/-!
DEFINITION. The register map: every register of the manual with its fields, access codes and reset values, written out
from the field maps of the manual, and the address of each register in its block (R6, R8, R9, R11).
-/
namespace Sys2Proof.Machine

/-- Access codes of R9. -/
inductive Access where
  | ro | rw | w1c | wo | rwl | hw
deriving DecidableEq, Repr

/-- A bit range of a register. -/
structure Fld where
  hi : Nat
  lo : Nat
deriving DecidableEq, Repr

/-- One row of a field map: the bits, the access code and the reset value. -/
structure FieldDef where
  hi  : Nat
  lo  : Nat
  acc : Access
  rst : Nat
deriving DecidableEq, Repr

/-- ARITH_SAT_CNT (per-core offset 0x0C00) of 02_number_formats_and_the_cell.md, R63. -/
def fields_ARITH_SAT_CNT : List FieldDef :=
  [⟨63, 48, .ro, 0⟩,
   ⟨47, 0, .rw, 0⟩]

/-- COUNT of ARITH_SAT_CNT (R63). -/
def Fld.ARITH_SAT_CNT_COUNT : Fld := ⟨47, 0⟩

/-- ARITH_NONFIN_CNT (per-core offset 0x0C08) of 02_number_formats_and_the_cell.md, R64. -/
def fields_ARITH_NONFIN_CNT : List FieldDef :=
  [⟨63, 48, .ro, 0⟩,
   ⟨47, 0, .rw, 0⟩]

/-- COUNT of ARITH_NONFIN_CNT (R64). -/
def Fld.ARITH_NONFIN_CNT_COUNT : Fld := ⟨47, 0⟩

/-- CELL_NONFIN_TILE_CNT (per-core offset 0x0C10) of 02_number_formats_and_the_cell.md, R65. -/
def fields_CELL_NONFIN_TILE_CNT : List FieldDef :=
  [⟨63, 48, .ro, 0⟩,
   ⟨47, 0, .rw, 0⟩]

/-- COUNT of CELL_NONFIN_TILE_CNT (R65). -/
def Fld.CELL_NONFIN_TILE_CNT_COUNT : Fld := ⟨47, 0⟩

/-- SCARAB_GROUP_OVER (per-core offset 0x0C18) of 03_sparse_operands_and_matching.md, R103. -/
def fields_SCARAB_GROUP_OVER : List FieldDef :=
  [⟨63, 48, .ro, 0⟩,
   ⟨47, 0, .rw, 0⟩]

/-- COUNT of SCARAB_GROUP_OVER (R103). -/
def Fld.SCARAB_GROUP_OVER_COUNT : Fld := ⟨47, 0⟩

/-- SCARAB_MATCH_CNT (per-core offset 0x0C20) of 03_sparse_operands_and_matching.md, R104. -/
def fields_SCARAB_MATCH_CNT : List FieldDef :=
  [⟨63, 48, .ro, 0⟩,
   ⟨47, 0, .rw, 0⟩]

/-- COUNT of SCARAB_MATCH_CNT (R104). -/
def Fld.SCARAB_MATCH_CNT_COUNT : Fld := ⟨47, 0⟩

/-- SCARAB_FLOOR_CYC (per-core offset 0x0C28) of 03_sparse_operands_and_matching.md, R105. -/
def fields_SCARAB_FLOOR_CYC : List FieldDef :=
  [⟨63, 48, .ro, 0⟩,
   ⟨47, 0, .rw, 0⟩]

/-- COUNT of SCARAB_FLOOR_CYC (R105). -/
def Fld.SCARAB_FLOOR_CYC_COUNT : Fld := ⟨47, 0⟩

/-- SEQ_EXT (per-core offset 0x0D00) of 04_core_and_tile_sequencer.md, R141. -/
def fields_SEQ_EXT : List FieldDef :=
  [⟨63, 63, .ro, 0⟩,
   ⟨62, 42, .rw, 0⟩,
   ⟨41, 21, .rw, 0⟩,
   ⟨20, 0, .rw, 0⟩]

/-- EXT_M of SEQ_EXT (R141). -/
def Fld.SEQ_EXT_EXT_M : Fld := ⟨62, 42⟩

/-- EXT_N of SEQ_EXT (R141). -/
def Fld.SEQ_EXT_EXT_N : Fld := ⟨41, 21⟩

/-- EXT_K of SEQ_EXT (R141). -/
def Fld.SEQ_EXT_EXT_K : Fld := ⟨20, 0⟩

/-- SEQ_EXT_J (per-core offset 0x0D08) of 04_core_and_tile_sequencer.md, R142. -/
def fields_SEQ_EXT_J : List FieldDef :=
  [⟨63, 37, .ro, 0⟩,
   ⟨36, 36, .ro, 0⟩,
   ⟨35, 32, .ro, 0⟩,
   ⟨31, 21, .ro, 0⟩,
   ⟨20, 0, .rw, 0⟩]

/-- SWEEP of SEQ_EXT_J (R142). -/
def Fld.SEQ_EXT_J_SWEEP : Fld := ⟨36, 36⟩

/-- PASS of SEQ_EXT_J (R142). -/
def Fld.SEQ_EXT_J_PASS : Fld := ⟨35, 32⟩

/-- EXT_J of SEQ_EXT_J (R142). -/
def Fld.SEQ_EXT_J_EXT_J : Fld := ⟨20, 0⟩

/-- SEQ_TILE_CNT (per-core offset 0x0D10) of 04_core_and_tile_sequencer.md, R143. -/
def fields_SEQ_TILE_CNT : List FieldDef :=
  [⟨63, 48, .ro, 0⟩,
   ⟨47, 0, .rw, 0⟩]

/-- COUNT of SEQ_TILE_CNT (R143). -/
def Fld.SEQ_TILE_CNT_COUNT : Fld := ⟨47, 0⟩

/-- SEQ_SKIP_CNT (per-core offset 0x0D18) of 04_core_and_tile_sequencer.md, R144. -/
def fields_SEQ_SKIP_CNT : List FieldDef :=
  [⟨63, 48, .ro, 0⟩,
   ⟨47, 0, .rw, 0⟩]

/-- COUNT of SEQ_SKIP_CNT (R144). -/
def Fld.SEQ_SKIP_CNT_COUNT : Fld := ⟨47, 0⟩

/-- TILE_WDOG_LIMIT (per-core offset 0x0D20) of 04_core_and_tile_sequencer.md, R145. -/
def fields_TILE_WDOG_LIMIT : List FieldDef :=
  [⟨63, 16, .ro, 0⟩,
   ⟨15, 0, .rwl, 12000⟩]

/-- LIMIT of TILE_WDOG_LIMIT (R145). -/
def Fld.TILE_WDOG_LIMIT_LIMIT : Fld := ⟨15, 0⟩

/-- TILE_WDOG_EXP_CNT (per-core offset 0x0D28) of 04_core_and_tile_sequencer.md, R146. -/
def fields_TILE_WDOG_EXP_CNT : List FieldDef :=
  [⟨63, 48, .ro, 0⟩,
   ⟨47, 0, .rw, 0⟩]

/-- COUNT of TILE_WDOG_EXP_CNT (R146). -/
def Fld.TILE_WDOG_EXP_CNT_COUNT : Fld := ⟨47, 0⟩

/-- DRAIN_DISCARD_CNT (per-core offset 0x0D30) of 04_core_and_tile_sequencer.md, R147. -/
def fields_DRAIN_DISCARD_CNT : List FieldDef :=
  [⟨63, 48, .ro, 0⟩,
   ⟨47, 0, .rw, 0⟩]

/-- COUNT of DRAIN_DISCARD_CNT (R147). -/
def Fld.DRAIN_DISCARD_CNT_COUNT : Fld := ⟨47, 0⟩

/-- ROWFN_SKIP_CHUNK_CNT (per-core offset 0x0E00) of 05_pair_fusion_and_activity_prediction.md, R176. -/
def fields_ROWFN_SKIP_CHUNK_CNT : List FieldDef :=
  [⟨63, 48, .ro, 0⟩,
   ⟨47, 0, .rw, 0⟩]

/-- COUNT of ROWFN_SKIP_CHUNK_CNT (R176). -/
def Fld.ROWFN_SKIP_CHUNK_CNT_COUNT : Fld := ⟨47, 0⟩

/-- PRED_AUDIT_CNT (per-core offset 0x0E08) of 05_pair_fusion_and_activity_prediction.md, R177. -/
def fields_PRED_AUDIT_CNT : List FieldDef :=
  [⟨63, 48, .ro, 0⟩,
   ⟨47, 0, .rw, 0⟩]

/-- COUNT of PRED_AUDIT_CNT (R177). -/
def Fld.PRED_AUDIT_CNT_COUNT : Fld := ⟨47, 0⟩

/-- SPAD_SPLIT (per-core offset 0x0F00) of 06_scratchpad.md, R208. -/
def fields_SPAD_SPLIT : List FieldDef :=
  [⟨63, 3, .ro, 0⟩,
   ⟨2, 0, .rw, 0⟩]

/-- SPLIT of SPAD_SPLIT (R208). -/
def Fld.SPAD_SPLIT_SPLIT : Fld := ⟨2, 0⟩

/-- SPAD_CACHE_CTL (per-core offset 0x0F08) of 06_scratchpad.md, R209. -/
def fields_SPAD_CACHE_CTL : List FieldDef :=
  [⟨63, 2, .ro, 0⟩,
   ⟨1, 1, .ro, 0⟩,
   ⟨0, 0, .wo, 0⟩]

/-- BUSY of SPAD_CACHE_CTL (R209). -/
def Fld.SPAD_CACHE_CTL_BUSY : Fld := ⟨1, 1⟩

/-- INVALIDATE of SPAD_CACHE_CTL (R209). -/
def Fld.SPAD_CACHE_CTL_INVALIDATE : Fld := ⟨0, 0⟩

/-- SPAD_RESn (per-core offset 0x0F10 + 8 × n, n = 0 or 1) of 06_scratchpad.md, R210. -/
def fields_SPAD_RESn : List FieldDef :=
  [⟨63, 48, .hw, 0⟩,
   ⟨47, 42, .ro, 0⟩,
   ⟨41, 41, .ro, 0⟩,
   ⟨40, 40, .rw, 0⟩,
   ⟨39, 25, .ro, 0⟩,
   ⟨24, 12, .rw, 0⟩,
   ⟨11, 0, .rw, 0⟩]

/-- OWNER of SPAD_RESn (R210). -/
def Fld.SPAD_RESn_OWNER : Fld := ⟨63, 48⟩

/-- LOADED of SPAD_RESn (R210). -/
def Fld.SPAD_RESn_LOADED : Fld := ⟨41, 41⟩

/-- VALID of SPAD_RESn (R210). -/
def Fld.SPAD_RESn_VALID : Fld := ⟨40, 40⟩

/-- ROWS of SPAD_RESn (R210). -/
def Fld.SPAD_RESn_ROWS : Fld := ⟨24, 12⟩

/-- BASE_ROW of SPAD_RESn (R210). -/
def Fld.SPAD_RESn_BASE_ROW : Fld := ⟨11, 0⟩

/-- SPAD_RESn_SRC (per-core offset 0x0F20 + 8 × n, n = 0 or 1) of 06_scratchpad.md, R211. -/
def fields_SPAD_RESn_SRC : List FieldDef :=
  [⟨63, 48, .ro, 0⟩,
   ⟨47, 7, .rw, 0⟩,
   ⟨6, 0, .ro, 0⟩]

/-- SRC of SPAD_RESn_SRC (R211). -/
def Fld.SPAD_RESn_SRC_SRC : Fld := ⟨47, 7⟩

/-- SPAD_PARITY_LOG (per-core offset 0x0F30) of 06_scratchpad.md, R212. -/
def fields_SPAD_PARITY_LOG : List FieldDef :=
  [⟨63, 63, .w1c, 0⟩,
   ⟨62, 60, .ro, 0⟩,
   ⟨59, 57, .ro, 0⟩,
   ⟨56, 52, .ro, 0⟩,
   ⟨51, 40, .ro, 0⟩,
   ⟨39, 36, .ro, 0⟩,
   ⟨35, 0, .ro, 0⟩]

/-- VALID of SPAD_PARITY_LOG (R212). -/
def Fld.SPAD_PARITY_LOG_VALID : Fld := ⟨63, 63⟩

/-- PORT of SPAD_PARITY_LOG (R212). -/
def Fld.SPAD_PARITY_LOG_PORT : Fld := ⟨62, 60⟩

/-- AGENT of SPAD_PARITY_LOG (R212). -/
def Fld.SPAD_PARITY_LOG_AGENT : Fld := ⟨59, 57⟩

/-- BANK of SPAD_PARITY_LOG (R212). -/
def Fld.SPAD_PARITY_LOG_BANK : Fld := ⟨56, 52⟩

/-- ROW of SPAD_PARITY_LOG (R212). -/
def Fld.SPAD_PARITY_LOG_ROW : Fld := ⟨51, 40⟩

/-- BYTES of SPAD_PARITY_LOG (R212). -/
def Fld.SPAD_PARITY_LOG_BYTES : Fld := ⟨39, 36⟩

/-- SPAD_PARITY_CNT (per-core offset 0x0F38) of 06_scratchpad.md, R213. -/
def fields_SPAD_PARITY_CNT : List FieldDef :=
  [⟨63, 48, .ro, 0⟩,
   ⟨47, 0, .rw, 0⟩]

/-- COUNT of SPAD_PARITY_CNT (R213). -/
def Fld.SPAD_PARITY_CNT_COUNT : Fld := ⟨47, 0⟩

/-- SPAD_ROW_COLLIDE (per-core offset 0x0F40) of 06_scratchpad.md, R214. -/
def fields_SPAD_ROW_COLLIDE : List FieldDef :=
  [⟨63, 32, .rw, 0⟩,
   ⟨31, 0, .rw, 0⟩]

/-- WW_COUNT of SPAD_ROW_COLLIDE (R214). -/
def Fld.SPAD_ROW_COLLIDE_WW_COUNT : Fld := ⟨63, 32⟩

/-- RW_COUNT of SPAD_ROW_COLLIDE (R214). -/
def Fld.SPAD_ROW_COLLIDE_RW_COUNT : Fld := ⟨31, 0⟩

/-- SPAD_CACHE_STAT (per-core offset 0x0F48) of 06_scratchpad.md, R215. -/
def fields_SPAD_CACHE_STAT : List FieldDef :=
  [⟨63, 32, .rw, 0⟩,
   ⟨31, 0, .rw, 0⟩]

/-- MISS of SPAD_CACHE_STAT (R215). -/
def Fld.SPAD_CACHE_STAT_MISS : Fld := ⟨63, 32⟩

/-- HIT of SPAD_CACHE_STAT (R215). -/
def Fld.SPAD_CACHE_STAT_HIT : Fld := ⟨31, 0⟩

/-- SPAD_CONF_CNTn (per-core offset 0x0F80 + 8 × n, n = 0 to 15) of 06_scratchpad.md, R216. -/
def fields_SPAD_CONF_CNTn : List FieldDef :=
  [⟨63, 32, .rw, 0⟩,
   ⟨31, 0, .rw, 0⟩]

/-- BANK_ODD of SPAD_CONF_CNTn (R216). -/
def Fld.SPAD_CONF_CNTn_BANK_ODD : Fld := ⟨63, 32⟩

/-- BANK_EVEN of SPAD_CONF_CNTn (R216). -/
def Fld.SPAD_CONF_CNTn_BANK_EVEN : Fld := ⟨31, 0⟩

/-- XLT_ROOT (per-core offset 0x1000) of 07_tensor_descriptors_and_translation.md, R239. -/
def fields_XLT_ROOT : List FieldDef :=
  [⟨63, 52, .ro, 0⟩,
   ⟨51, 48, .rw, 0⟩,
   ⟨47, 17, .rw, 0⟩,
   ⟨16, 1, .ro, 0⟩,
   ⟨0, 0, .rw, 0⟩]

/-- CTX of XLT_ROOT (R239). -/
def Fld.XLT_ROOT_CTX : Fld := ⟨51, 48⟩

/-- ROOT of XLT_ROOT (R239). -/
def Fld.XLT_ROOT_ROOT : Fld := ⟨47, 17⟩

/-- ENABLE of XLT_ROOT (R239). -/
def Fld.XLT_ROOT_ENABLE : Fld := ⟨0, 0⟩

/-- XLT_CTL (per-core offset 0x1008) of 07_tensor_descriptors_and_translation.md, R240. -/
def fields_XLT_CTL : List FieldDef :=
  [⟨63, 7, .ro, 0⟩,
   ⟨6, 6, .wo, 0⟩,
   ⟨5, 2, .wo, 0⟩,
   ⟨1, 1, .ro, 0⟩,
   ⟨0, 0, .wo, 0⟩]

/-- ALL of XLT_CTL (R240). -/
def Fld.XLT_CTL_ALL : Fld := ⟨6, 6⟩

/-- CTX of XLT_CTL (R240). -/
def Fld.XLT_CTL_CTX : Fld := ⟨5, 2⟩

/-- BUSY of XLT_CTL (R240). -/
def Fld.XLT_CTL_BUSY : Fld := ⟨1, 1⟩

/-- INVALIDATE of XLT_CTL (R240). -/
def Fld.XLT_CTL_INVALIDATE : Fld := ⟨0, 0⟩

/-- XLT_FAULT_LOG (per-core offset 0x1010) of 07_tensor_descriptors_and_translation.md, R241. -/
def fields_XLT_FAULT_LOG : List FieldDef :=
  [⟨63, 63, .w1c, 0⟩,
   ⟨62, 60, .ro, 0⟩,
   ⟨59, 48, .ro, 0⟩,
   ⟨47, 0, .ro, 0⟩]

/-- VALID of XLT_FAULT_LOG (R241). -/
def Fld.XLT_FAULT_LOG_VALID : Fld := ⟨63, 63⟩

/-- KIND of XLT_FAULT_LOG (R241). -/
def Fld.XLT_FAULT_LOG_KIND : Fld := ⟨62, 60⟩

/-- VADDR of XLT_FAULT_LOG (R241). -/
def Fld.XLT_FAULT_LOG_VADDR : Fld := ⟨47, 0⟩

/-- XLT_MISS_CNT (per-core offset 0x1018) of 07_tensor_descriptors_and_translation.md, R242. -/
def fields_XLT_MISS_CNT : List FieldDef :=
  [⟨63, 48, .ro, 0⟩,
   ⟨47, 0, .rw, 0⟩]

/-- COUNT of XLT_MISS_CNT (R242). -/
def Fld.XLT_MISS_CNT_COUNT : Fld := ⟨47, 0⟩

/-- DESC_OOB_WR_CNT (per-core offset 0x1020) of 07_tensor_descriptors_and_translation.md, R243. -/
def fields_DESC_OOB_WR_CNT : List FieldDef :=
  [⟨63, 48, .ro, 0⟩,
   ⟨47, 0, .rw, 0⟩]

/-- COUNT of DESC_OOB_WR_CNT (R243). -/
def Fld.DESC_OOB_WR_CNT_COUNT : Fld := ⟨47, 0⟩

/-- STRM_STATUS (per-core offset 0x1100) of 08_streams_prefetch_and_ant_chain.md, R272. -/
def fields_STRM_STATUS : List FieldDef :=
  [⟨63, 41, .ro, 0⟩,
   ⟨40, 40, .ro, 0⟩,
   ⟨39, 32, .ro, 0⟩,
   ⟨31, 23, .ro, 0⟩,
   ⟨22, 16, .ro, 0⟩,
   ⟨15, 5, .ro, 0⟩,
   ⟨4, 0, .ro, 0⟩]

/-- CANCEL_BUSY of STRM_STATUS (R272). -/
def Fld.STRM_STATUS_CANCEL_BUSY : Fld := ⟨40, 40⟩

/-- EPOCH of STRM_STATUS (R272). -/
def Fld.STRM_STATUS_EPOCH : Fld := ⟨39, 32⟩

/-- WR_OUT of STRM_STATUS (R272). -/
def Fld.STRM_STATUS_WR_OUT : Fld := ⟨31, 23⟩

/-- URG_OUT of STRM_STATUS (R272). -/
def Fld.STRM_STATUS_URG_OUT : Fld := ⟨22, 16⟩

/-- RD_OUT of STRM_STATUS (R272). -/
def Fld.STRM_STATUS_RD_OUT : Fld := ⟨15, 5⟩

/-- OPQ of STRM_STATUS (R272). -/
def Fld.STRM_STATUS_OPQ : Fld := ⟨4, 0⟩

/-- STRM_RESP_TIMEOUT (per-core offset 0x1108) of 08_streams_prefetch_and_ant_chain.md, R273. -/
def fields_STRM_RESP_TIMEOUT : List FieldDef :=
  [⟨63, 5, .ro, 0⟩,
   ⟨4, 0, .rwl, 21⟩]

/-- LOG2 of STRM_RESP_TIMEOUT (R273). -/
def Fld.STRM_RESP_TIMEOUT_LOG2 : Fld := ⟨4, 0⟩

/-- STRM_ANT_CNT (per-core offset 0x1110) of 08_streams_prefetch_and_ant_chain.md, R274. -/
def fields_STRM_ANT_CNT : List FieldDef :=
  [⟨63, 32, .rw, 0⟩,
   ⟨31, 0, .rw, 0⟩]

/-- TAKEN of STRM_ANT_CNT (R274). -/
def Fld.STRM_ANT_CNT_TAKEN : Fld := ⟨63, 32⟩

/-- SOURCED of STRM_ANT_CNT (R274). -/
def Fld.STRM_ANT_CNT_SOURCED : Fld := ⟨31, 0⟩

/-- STRM_CANCEL_CNT (per-core offset 0x1118) of 08_streams_prefetch_and_ant_chain.md, R275. -/
def fields_STRM_CANCEL_CNT : List FieldDef :=
  [⟨63, 48, .ro, 0⟩,
   ⟨47, 0, .rw, 0⟩]

/-- COUNT of STRM_CANCEL_CNT (R275). -/
def Fld.STRM_CANCEL_CNT_COUNT : Fld := ⟨47, 0⟩

/-- STRM_FAULT_LOG (per-core offset 0x1120) of 08_streams_prefetch_and_ant_chain.md, R276. -/
def fields_STRM_FAULT_LOG : List FieldDef :=
  [⟨63, 63, .w1c, 0⟩,
   ⟨62, 60, .ro, 0⟩,
   ⟨59, 56, .ro, 0⟩,
   ⟨55, 48, .ro, 0⟩,
   ⟨47, 0, .ro, 0⟩]

/-- VALID of STRM_FAULT_LOG (R276). -/
def Fld.STRM_FAULT_LOG_VALID : Fld := ⟨63, 63⟩

/-- KIND of STRM_FAULT_LOG (R276). -/
def Fld.STRM_FAULT_LOG_KIND : Fld := ⟨62, 60⟩

/-- STREAM of STRM_FAULT_LOG (R276). -/
def Fld.STRM_FAULT_LOG_STREAM : Fld := ⟨59, 56⟩

/-- ADDR of STRM_FAULT_LOG (R276). -/
def Fld.STRM_FAULT_LOG_ADDR : Fld := ⟨47, 0⟩

/-- SPQ_CFG (set offset 0x00) of 09_spill_queues.md, R301. -/
def fields_SPQ_CFG : List FieldDef :=
  [⟨63, 63, .rw, 0⟩,
   ⟨62, 61, .rw, 0⟩,
   ⟨60, 60, .rw, 0⟩,
   ⟨59, 59, .rw, 0⟩,
   ⟨58, 58, .rw, 0⟩,
   ⟨57, 56, .rw, 0⟩,
   ⟨55, 51, .rw, 0⟩,
   ⟨50, 24, .ro, 0⟩,
   ⟨23, 0, .rw, 0⟩]

/-- ENABLE of SPQ_CFG (R301). -/
def Fld.SPQ_CFG_ENABLE : Fld := ⟨63, 63⟩

/-- WIDTH of SPQ_CFG (R301). -/
def Fld.SPQ_CFG_WIDTH : Fld := ⟨62, 61⟩

/-- CREDITED of SPQ_CFG (R301). -/
def Fld.SPQ_CFG_CREDITED : Fld := ⟨60, 60⟩

/-- WORD_CLOSE of SPQ_CFG (R301). -/
def Fld.SPQ_CFG_WORD_CLOSE : Fld := ⟨59, 59⟩

/-- AUTO_RELEASE of SPQ_CFG (R301). -/
def Fld.SPQ_CFG_AUTO_RELEASE : Fld := ⟨58, 58⟩

/-- REGION_KIND of SPQ_CFG (R301). -/
def Fld.SPQ_CFG_REGION_KIND : Fld := ⟨57, 56⟩

/-- TIMEOUT_LOG2 of SPQ_CFG (R301). -/
def Fld.SPQ_CFG_TIMEOUT_LOG2 : Fld := ⟨55, 51⟩

/-- REGION_WORDS of SPQ_CFG (R301). -/
def Fld.SPQ_CFG_REGION_WORDS : Fld := ⟨23, 0⟩

/-- SPQ_REGION (set offset 0x08) of 09_spill_queues.md, R302. -/
def fields_SPQ_REGION : List FieldDef :=
  [⟨63, 48, .ro, 0⟩,
   ⟨47, 6, .rw, 0⟩,
   ⟨5, 0, .ro, 0⟩]

/-- BASE of SPQ_REGION (R302). -/
def Fld.SPQ_REGION_BASE : Fld := ⟨47, 6⟩

/-- SPQ_STATUS (set offset 0x10) of 09_spill_queues.md, R303. -/
def fields_SPQ_STATUS : List FieldDef :=
  [⟨63, 63, .ro, 0⟩,
   ⟨62, 62, .ro, 0⟩,
   ⟨61, 61, .ro, 0⟩,
   ⟨60, 57, .ro, 0⟩,
   ⟨56, 32, .ro, 0⟩,
   ⟨31, 25, .ro, 0⟩,
   ⟨24, 0, .ro, 0⟩]

/-- DRAINING of SPQ_STATUS (R303). -/
def Fld.SPQ_STATUS_DRAINING : Fld := ⟨63, 63⟩

/-- MARK_SET of SPQ_STATUS (R303). -/
def Fld.SPQ_STATUS_MARK_SET : Fld := ⟨62, 62⟩

/-- CFG_ERR of SPQ_STATUS (R303). -/
def Fld.SPQ_STATUS_CFG_ERR : Fld := ⟨61, 61⟩

/-- HELD of SPQ_STATUS (R303). -/
def Fld.SPQ_STATUS_HELD : Fld := ⟨56, 32⟩

/-- DEPTH of SPQ_STATUS (R303). -/
def Fld.SPQ_STATUS_DEPTH : Fld := ⟨24, 0⟩

/-- SPQ_CTL (set offset 0x18) of 09_spill_queues.md, R304. -/
def fields_SPQ_CTL : List FieldDef :=
  [⟨63, 5, .ro, 0⟩,
   ⟨4, 4, .wo, 0⟩,
   ⟨3, 3, .wo, 0⟩,
   ⟨2, 2, .wo, 0⟩,
   ⟨1, 1, .wo, 0⟩,
   ⟨0, 0, .wo, 0⟩]

/-- CLEAR_MARK of SPQ_CTL (R304). -/
def Fld.SPQ_CTL_CLEAR_MARK : Fld := ⟨4, 4⟩

/-- MARK of SPQ_CTL (R304). -/
def Fld.SPQ_CTL_MARK : Fld := ⟨3, 3⟩

/-- REWIND of SPQ_CTL (R304). -/
def Fld.SPQ_CTL_REWIND : Fld := ⟨2, 2⟩

/-- RELEASE of SPQ_CTL (R304). -/
def Fld.SPQ_CTL_RELEASE : Fld := ⟨1, 1⟩

/-- FLUSH of SPQ_CTL (R304). -/
def Fld.SPQ_CTL_FLUSH : Fld := ⟨0, 0⟩

/-- SPQ_CREDIT (set offset 0x20) of 09_spill_queues.md, R305. -/
def fields_SPQ_CREDIT : List FieldDef :=
  [⟨63, 25, .ro, 0⟩,
   ⟨24, 0, .ro, 0⟩]

/-- CREDITS of SPQ_CREDIT (R305). -/
def Fld.SPQ_CREDIT_CREDITS : Fld := ⟨24, 0⟩

/-- SPQ_DROP_CNT (set offset 0x28) of 09_spill_queues.md, R306. -/
def fields_SPQ_DROP_CNT : List FieldDef :=
  [⟨63, 32, .rw, 0⟩,
   ⟨31, 0, .rw, 0⟩]

/-- GAPS of SPQ_DROP_CNT (R306). -/
def Fld.SPQ_DROP_CNT_GAPS : Fld := ⟨63, 32⟩

/-- ITEMS of SPQ_DROP_CNT (R306). -/
def Fld.SPQ_DROP_CNT_ITEMS : Fld := ⟨31, 0⟩

/-- SPQ_EVT_CNT (set offset 0x30) of 09_spill_queues.md, R307. -/
def fields_SPQ_EVT_CNT : List FieldDef :=
  [⟨63, 32, .rw, 0⟩,
   ⟨31, 0, .rw, 0⟩]

/-- FLUSHES of SPQ_EVT_CNT (R307). -/
def Fld.SPQ_EVT_CNT_FLUSHES : Fld := ⟨63, 32⟩

/-- TIMEOUTS of SPQ_EVT_CNT (R307). -/
def Fld.SPQ_EVT_CNT_TIMEOUTS : Fld := ⟨31, 0⟩

/-- TILECTR_CFG (context set offset 0x00) of 10_work_distribution_and_time_slicing.md, R334. -/
def fields_TILECTR_CFG : List FieldDef :=
  [⟨63, 63, .rw, 0⟩,
   ⟨62, 61, .rw, 0⟩,
   ⟨60, 60, .ro, 0⟩,
   ⟨59, 56, .ro, 0⟩,
   ⟨55, 40, .ro, 0⟩,
   ⟨39, 39, .ro, 0⟩,
   ⟨38, 25, .ro, 0⟩,
   ⟨24, 0, .rw, 0⟩]

/-- ENABLE of TILECTR_CFG (R334). -/
def Fld.TILECTR_CFG_ENABLE : Fld := ⟨63, 63⟩

/-- CLASS of TILECTR_CFG (R334). -/
def Fld.TILECTR_CFG_CLASS : Fld := ⟨62, 61⟩

/-- HOME of TILECTR_CFG (R334). -/
def Fld.TILECTR_CFG_HOME : Fld := ⟨60, 60⟩

/-- PASS of TILECTR_CFG (R334). -/
def Fld.TILECTR_CFG_PASS : Fld := ⟨59, 56⟩

/-- GEN of TILECTR_CFG (R334). -/
def Fld.TILECTR_CFG_GEN : Fld := ⟨55, 40⟩

/-- SWEEP of TILECTR_CFG (R334). -/
def Fld.TILECTR_CFG_SWEEP : Fld := ⟨39, 39⟩

/-- TILES of TILECTR_CFG (R334). -/
def Fld.TILECTR_CFG_TILES : Fld := ⟨24, 0⟩

/-- TILECTR_GRANT (context set offset 0x08) of 10_work_distribution_and_time_slicing.md, R335. -/
def fields_TILECTR_GRANT : List FieldDef :=
  [⟨63, 50, .ro, 0⟩,
   ⟨49, 25, .ro, 0⟩,
   ⟨24, 0, .ro, 0⟩]

/-- NEXT of TILECTR_GRANT (R335). -/
def Fld.TILECTR_GRANT_NEXT : Fld := ⟨49, 25⟩

/-- ENDED of TILECTR_GRANT (R335). -/
def Fld.TILECTR_GRANT_ENDED : Fld := ⟨24, 0⟩

/-- TILECTR_REISSUE (context set offset 0x10) of 10_work_distribution_and_time_slicing.md, R336. -/
def fields_TILECTR_REISSUE : List FieldDef :=
  [⟨63, 59, .ro, 0⟩,
   ⟨58, 48, .ro, 0⟩,
   ⟨47, 0, .rw, 0⟩]

/-- PENDING of TILECTR_REISSUE (R336). -/
def Fld.TILECTR_REISSUE_PENDING : Fld := ⟨58, 48⟩

/-- COUNT of TILECTR_REISSUE (R336). -/
def Fld.TILECTR_REISSUE_COUNT : Fld := ⟨47, 0⟩

/-- TILECTR_GRANT_CNT (context set offset 0x18) of 10_work_distribution_and_time_slicing.md, R337. -/
def fields_TILECTR_GRANT_CNT : List FieldDef :=
  [⟨63, 48, .ro, 0⟩,
   ⟨47, 0, .rw, 0⟩]

/-- COUNT of TILECTR_GRANT_CNT (R337). -/
def Fld.TILECTR_GRANT_CNT_COUNT : Fld := ⟨47, 0⟩

/-- TILECTR_VOTE_CNT (context set offset 0x20) of 10_work_distribution_and_time_slicing.md, R338. -/
def fields_TILECTR_VOTE_CNT : List FieldDef :=
  [⟨63, 32, .rw, 0⟩,
   ⟨31, 0, .rw, 0⟩]

/-- THIRD of TILECTR_VOTE_CNT (R338). -/
def Fld.TILECTR_VOTE_CNT_THIRD : Fld := ⟨63, 32⟩

/-- LOST of TILECTR_VOTE_CNT (R338). -/
def Fld.TILECTR_VOTE_CNT_LOST : Fld := ⟨31, 0⟩

/-- TILECTR_FENCEn (die block offset 0x2000 + 8 × n, n = 0 to 2) of 10_work_distribution_and_time_slicing.md, R339. -/
def fields_TILECTR_FENCEn : List FieldDef :=
  [⟨63, 0, .hw, 0⟩]

/-- FENCED of TILECTR_FENCEn (R339). -/
def Fld.TILECTR_FENCEn_FENCED : Fld := ⟨63, 0⟩

/-- HBM_STATUS (stack set offset 0x000) of 11_erg_near_memory_engines.md, R365. -/
def fields_HBM_STATUS : List FieldDef :=
  [⟨63, 16, .ro, 0⟩,
   ⟨15, 8, .ro, 0⟩,
   ⟨7, 4, .ro, 0⟩,
   ⟨3, 3, .hw, 0⟩,
   ⟨2, 0, .hw, 0⟩]

/-- TEMP of HBM_STATUS (R365). -/
def Fld.HBM_STATUS_TEMP : Fld := ⟨15, 8⟩

/-- CONSERVATIVE of HBM_STATUS (R365). -/
def Fld.HBM_STATUS_CONSERVATIVE : Fld := ⟨3, 3⟩

/-- STATE of HBM_STATUS (R365). -/
def Fld.HBM_STATUS_STATE : Fld := ⟨2, 0⟩

/-- HBM_ARB (stack set offset 0x008) of 11_erg_near_memory_engines.md, R366. -/
def fields_HBM_ARB : List FieldDef :=
  [⟨63, 5, .ro, 0⟩,
   ⟨4, 0, .rw, 8⟩]

/-- ERG_SHARE of HBM_ARB (R366). -/
def Fld.HBM_ARB_ERG_SHARE : Fld := ⟨4, 0⟩

/-- HBM_ECC_CNT (stack set offset 0x010) of 11_erg_near_memory_engines.md, R367. -/
def fields_HBM_ECC_CNT : List FieldDef :=
  [⟨63, 32, .rw, 0⟩,
   ⟨31, 0, .rw, 0⟩]

/-- UE of HBM_ECC_CNT (R367). -/
def Fld.HBM_ECC_CNT_UE : Fld := ⟨63, 32⟩

/-- CE of HBM_ECC_CNT (R367). -/
def Fld.HBM_ECC_CNT_CE : Fld := ⟨31, 0⟩

/-- HBM_ECC_LOG (stack set offset 0x018) of 11_erg_near_memory_engines.md, R368. -/
def fields_HBM_ECC_LOG : List FieldDef :=
  [⟨63, 63, .w1c, 0⟩,
   ⟨62, 60, .ro, 0⟩,
   ⟨59, 54, .ro, 0⟩,
   ⟨53, 48, .ro, 0⟩,
   ⟨47, 6, .ro, 0⟩,
   ⟨5, 0, .ro, 0⟩]

/-- VALID of HBM_ECC_LOG (R368). -/
def Fld.HBM_ECC_LOG_VALID : Fld := ⟨63, 63⟩

/-- AGENT of HBM_ECC_LOG (R368). -/
def Fld.HBM_ECC_LOG_AGENT : Fld := ⟨62, 60⟩

/-- PCH of HBM_ECC_LOG (R368). -/
def Fld.HBM_ECC_LOG_PCH : Fld := ⟨59, 54⟩

/-- ADDR of HBM_ECC_LOG (R368). -/
def Fld.HBM_ECC_LOG_ADDR : Fld := ⟨47, 6⟩

/-- HBM_ODECC_CNT (stack set offset 0x020) of 11_erg_near_memory_engines.md, R369. -/
def fields_HBM_ODECC_CNT : List FieldDef :=
  [⟨63, 48, .ro, 0⟩,
   ⟨47, 0, .rw, 0⟩]

/-- COUNT of HBM_ODECC_CNT (R369). -/
def Fld.HBM_ODECC_CNT_COUNT : Fld := ⟨47, 0⟩

/-- ERG_STATUS (stack set offset 0x100) of 11_erg_near_memory_engines.md, R370. -/
def fields_ERG_STATUS : List FieldDef :=
  [⟨63, 13, .ro, 0⟩,
   ⟨12, 8, .ro, 0⟩,
   ⟨7, 6, .ro, 0⟩,
   ⟨5, 4, .hw, 0⟩,
   ⟨3, 3, .ro, 0⟩,
   ⟨2, 0, .hw, 0⟩]

/-- QDEPTH of ERG_STATUS (R370). -/
def Fld.ERG_STATUS_QDEPTH : Fld := ⟨12, 8⟩

/-- CAUSE of ERG_STATUS (R370). -/
def Fld.ERG_STATUS_CAUSE : Fld := ⟨5, 4⟩

/-- BUSY of ERG_STATUS (R370). -/
def Fld.ERG_STATUS_BUSY : Fld := ⟨3, 3⟩

/-- STATE of ERG_STATUS (R370). -/
def Fld.ERG_STATUS_STATE : Fld := ⟨2, 0⟩

/-- ERG_CNT (stack set offset 0x108) of 11_erg_near_memory_engines.md, R371. -/
def fields_ERG_CNT : List FieldDef :=
  [⟨63, 32, .rw, 0⟩,
   ⟨31, 0, .rw, 0⟩]

/-- FALLBACK of ERG_CNT (R371). -/
def Fld.ERG_CNT_FALLBACK : Fld := ⟨63, 32⟩

/-- DONE of ERG_CNT (R371). -/
def Fld.ERG_CNT_DONE : Fld := ⟨31, 0⟩

/-- ERG_SRAM_ECC (stack set offset 0x110) of 11_erg_near_memory_engines.md, R372. -/
def fields_ERG_SRAM_ECC : List FieldDef :=
  [⟨63, 32, .rw, 0⟩,
   ⟨31, 0, .rw, 0⟩]

/-- UE of ERG_SRAM_ECC (R372). -/
def Fld.ERG_SRAM_ECC_UE : Fld := ⟨63, 32⟩

/-- CE of ERG_SRAM_ECC (R372). -/
def Fld.ERG_SRAM_ECC_CE : Fld := ⟨31, 0⟩

/-- ERG_OP_TIMEOUT (stack set offset 0x118) of 11_erg_near_memory_engines.md, R373. -/
def fields_ERG_OP_TIMEOUT : List FieldDef :=
  [⟨63, 5, .ro, 0⟩,
   ⟨4, 0, .rwl, 24⟩]

/-- LOG2 of ERG_OP_TIMEOUT (R373). -/
def Fld.ERG_OP_TIMEOUT_LOG2 : Fld := ⟨4, 0⟩

/-- SEIF_CTL (port set offset 0x000) of 12_seif_links.md, R407. -/
def fields_SEIF_CTL : List FieldDef :=
  [⟨63, 33, .ro, 0⟩,
   ⟨32, 32, .rwl, 1⟩,
   ⟨31, 16, .rwl, 31250⟩,
   ⟨15, 8, .rwl, 8⟩,
   ⟨7, 0, .rwl, 64⟩]

/-- AEST_WAKE_BY_PEER of SEIF_CTL (R407). -/
def Fld.SEIF_CTL_AEST_WAKE_BY_PEER : Fld := ⟨32, 32⟩

/-- SEIF_WAKE_HOLD of SEIF_CTL (R407). -/
def Fld.SEIF_CTL_SEIF_WAKE_HOLD : Fld := ⟨31, 16⟩

/-- SEIF_RETRY_LIMIT of SEIF_CTL (R407). -/
def Fld.SEIF_CTL_SEIF_RETRY_LIMIT : Fld := ⟨15, 8⟩

/-- SEIF_RETRY_TIMEOUT of SEIF_CTL (R407). -/
def Fld.SEIF_CTL_SEIF_RETRY_TIMEOUT : Fld := ⟨7, 0⟩

/-- SEIF_HB (port set offset 0x008) of 12_seif_links.md, R408. -/
def fields_SEIF_HB : List FieldDef :=
  [⟨63, 40, .ro, 0⟩,
   ⟨39, 32, .rwl, 10⟩,
   ⟨31, 0, .rwl, 156250⟩]

/-- SEIF_HB_MISS of SEIF_HB (R408). -/
def Fld.SEIF_HB_SEIF_HB_MISS : Fld := ⟨39, 32⟩

/-- SEIF_HB_PERIOD of SEIF_HB (R408). -/
def Fld.SEIF_HB_SEIF_HB_PERIOD : Fld := ⟨31, 0⟩

/-- SEIF_WIDTH (port set offset 0x010) of 12_seif_links.md, R409. -/
def fields_SEIF_WIDTH : List FieldDef :=
  [⟨63, 27, .ro, 0⟩,
   ⟨26, 24, .ro, 0⟩,
   ⟨23, 16, .ro, 0⟩,
   ⟨15, 8, .ro, 0⟩,
   ⟨7, 4, .ro, 0⟩,
   ⟨3, 0, .ro, 0⟩]

/-- STATE of SEIF_WIDTH (R409). -/
def Fld.SEIF_WIDTH_STATE : Fld := ⟨26, 24⟩

/-- HEALTHY of SEIF_WIDTH (R409). -/
def Fld.SEIF_WIDTH_HEALTHY : Fld := ⟨23, 16⟩

/-- ACTIVE of SEIF_WIDTH (R409). -/
def Fld.SEIF_WIDTH_ACTIVE : Fld := ⟨15, 8⟩

/-- WIDTH of SEIF_WIDTH (R409). -/
def Fld.SEIF_WIDTH_WIDTH : Fld := ⟨3, 0⟩

/-- SEIF_VL_CREDITS (port set offset 0x018) of 12_seif_links.md, R410. -/
def fields_SEIF_VL_CREDITS : List FieldDef :=
  [⟨63, 56, .rwl, 16⟩,
   ⟨55, 48, .rwl, 44⟩,
   ⟨47, 40, .rwl, 48⟩,
   ⟨39, 32, .rwl, 16⟩,
   ⟨31, 24, .rwl, 48⟩,
   ⟨23, 16, .rwl, 48⟩,
   ⟨15, 8, .rwl, 32⟩,
   ⟨7, 0, .rwl, 4⟩]

/-- VL7 of SEIF_VL_CREDITS (R410). -/
def Fld.SEIF_VL_CREDITS_VL7 : Fld := ⟨63, 56⟩

/-- VL6 of SEIF_VL_CREDITS (R410). -/
def Fld.SEIF_VL_CREDITS_VL6 : Fld := ⟨55, 48⟩

/-- VL5 of SEIF_VL_CREDITS (R410). -/
def Fld.SEIF_VL_CREDITS_VL5 : Fld := ⟨47, 40⟩

/-- VL4 of SEIF_VL_CREDITS (R410). -/
def Fld.SEIF_VL_CREDITS_VL4 : Fld := ⟨39, 32⟩

/-- VL3 of SEIF_VL_CREDITS (R410). -/
def Fld.SEIF_VL_CREDITS_VL3 : Fld := ⟨31, 24⟩

/-- VL2 of SEIF_VL_CREDITS (R410). -/
def Fld.SEIF_VL_CREDITS_VL2 : Fld := ⟨23, 16⟩

/-- VL1 of SEIF_VL_CREDITS (R410). -/
def Fld.SEIF_VL_CREDITS_VL1 : Fld := ⟨15, 8⟩

/-- VL0 of SEIF_VL_CREDITS (R410). -/
def Fld.SEIF_VL_CREDITS_VL0 : Fld := ⟨7, 0⟩

/-- SEIF_PEER (port set offset 0x020) of 12_seif_links.md, R411. -/
def fields_SEIF_PEER : List FieldDef :=
  [⟨63, 48, .ro, 0⟩,
   ⟨47, 22, .ro, 0⟩,
   ⟨21, 18, .ro, 0⟩,
   ⟨17, 14, .ro, 0⟩,
   ⟨13, 0, .ro, 0⟩]

/-- INC_LOW of SEIF_PEER (R411). -/
def Fld.SEIF_PEER_INC_LOW : Fld := ⟨63, 48⟩

/-- PORT of SEIF_PEER (R411). -/
def Fld.SEIF_PEER_PORT : Fld := ⟨21, 18⟩

/-- MODULE of SEIF_PEER (R411). -/
def Fld.SEIF_PEER_MODULE : Fld := ⟨13, 0⟩

/-- SEIF_ERR_CNT (port set offset 0x028) of 12_seif_links.md, R412. -/
def fields_SEIF_ERR_CNT : List FieldDef :=
  [⟨63, 32, .rw, 0⟩,
   ⟨31, 0, .rw, 0⟩]

/-- CORRECTED of SEIF_ERR_CNT (R412). -/
def Fld.SEIF_ERR_CNT_CORRECTED : Fld := ⟨63, 32⟩

/-- DISCARDED of SEIF_ERR_CNT (R412). -/
def Fld.SEIF_ERR_CNT_DISCARDED : Fld := ⟨31, 0⟩

/-- SEIF_RETRY_CNT (port set offset 0x030) of 12_seif_links.md, R413. -/
def fields_SEIF_RETRY_CNT : List FieldDef :=
  [⟨63, 48, .rw, 0⟩,
   ⟨47, 0, .rw, 0⟩]

/-- RETRAINS of SEIF_RETRY_CNT (R413). -/
def Fld.SEIF_RETRY_CNT_RETRAINS : Fld := ⟨63, 48⟩

/-- REPLAYS of SEIF_RETRY_CNT (R413). -/
def Fld.SEIF_RETRY_CNT_REPLAYS : Fld := ⟨47, 0⟩

/-- SEIF_FWD_DROP (port set offset 0x038) of 12_seif_links.md, R414. -/
def fields_SEIF_FWD_DROP : List FieldDef :=
  [⟨63, 32, .rw, 0⟩,
   ⟨31, 0, .rw, 0⟩]

/-- NO_ROUTE of SEIF_FWD_DROP (R414). -/
def Fld.SEIF_FWD_DROP_NO_ROUTE : Fld := ⟨63, 32⟩

/-- HOPS of SEIF_FWD_DROP (R414). -/
def Fld.SEIF_FWD_DROP_HOPS : Fld := ⟨31, 0⟩

/-- WIN_BASE and WIN_LIMIT (entry set offsets 0x00 and 0x08) of 13_remote_windows_and_multicast.md, R436. -/
def fields_WIN_BASE : List FieldDef :=
  [⟨63, 48, .ro, 0⟩,
   ⟨47, 7, .rw, 0⟩,
   ⟨6, 0, .ro, 0⟩]

/-- ADDR of WIN_BASE (R436). -/
def Fld.WIN_BASE_ADDR : Fld := ⟨47, 7⟩

/-- WIN_CTL (entry set offset 0x10) of 13_remote_windows_and_multicast.md, R437. -/
def fields_WIN_CTL : List FieldDef :=
  [⟨63, 48, .ro, 0⟩,
   ⟨47, 46, .ro, 0⟩,
   ⟨45, 44, .wo, 0⟩,
   ⟨43, 39, .rw, 7⟩,
   ⟨38, 38, .rw, 0⟩,
   ⟨37, 37, .rw, 0⟩,
   ⟨36, 36, .rw, 0⟩,
   ⟨35, 34, .rw, 0⟩,
   ⟨33, 28, .ro, 0⟩,
   ⟨27, 14, .rw, 0⟩,
   ⟨13, 0, .rw, 0⟩]

/-- GEN of WIN_CTL (R437). -/
def Fld.WIN_CTL_GEN : Fld := ⟨63, 48⟩

/-- STATE of WIN_CTL (R437). -/
def Fld.WIN_CTL_STATE : Fld := ⟨47, 46⟩

/-- CMD of WIN_CTL (R437). -/
def Fld.WIN_CTL_CMD : Fld := ⟨45, 44⟩

/-- CREDIT_UNIT_LOG2 of WIN_CTL (R437). -/
def Fld.WIN_CTL_CREDIT_UNIT_LOG2 : Fld := ⟨43, 39⟩

/-- MCAST of WIN_CTL (R437). -/
def Fld.WIN_CTL_MCAST : Fld := ⟨38, 38⟩

/-- WRITE of WIN_CTL (R437). -/
def Fld.WIN_CTL_WRITE : Fld := ⟨37, 37⟩

/-- READ of WIN_CTL (R437). -/
def Fld.WIN_CTL_READ : Fld := ⟨36, 36⟩

/-- PEER_MODE of WIN_CTL (R437). -/
def Fld.WIN_CTL_PEER_MODE : Fld := ⟨35, 34⟩

/-- PEER_HI of WIN_CTL (R437). -/
def Fld.WIN_CTL_PEER_HI : Fld := ⟨27, 14⟩

/-- PEER_LO of WIN_CTL (R437). -/
def Fld.WIN_CTL_PEER_LO : Fld := ⟨13, 0⟩

/-- WIN_CREDIT (entry set offset 0x18) of 13_remote_windows_and_multicast.md, R438. -/
def fields_WIN_CREDIT : List FieldDef :=
  [⟨63, 40, .rw, 0⟩,
   ⟨39, 16, .ro, 0⟩,
   ⟨15, 0, .rw, 0⟩]

/-- POOL of WIN_CREDIT (R438). -/
def Fld.WIN_CREDIT_POOL : Fld := ⟨63, 40⟩

/-- FREE of WIN_CREDIT (R438). -/
def Fld.WIN_CREDIT_FREE : Fld := ⟨39, 16⟩

/-- PER_PEER_MAX of WIN_CREDIT (R438). -/
def Fld.WIN_CREDIT_PER_PEER_MAX : Fld := ⟨15, 0⟩

/-- WIN_REFUSE_CNT (Mantis block offset 0x3000) of 13_remote_windows_and_multicast.md, R439. -/
def fields_WIN_REFUSE_CNT : List FieldDef :=
  [⟨63, 32, .rw, 0⟩,
   ⟨31, 0, .rw, 0⟩]

/-- CLOSED of WIN_REFUSE_CNT (R439). -/
def Fld.WIN_REFUSE_CNT_CLOSED : Fld := ⟨63, 32⟩

/-- PROT of WIN_REFUSE_CNT (R439). -/
def Fld.WIN_REFUSE_CNT_PROT : Fld := ⟨31, 0⟩

/-- WIN_CLOSE_TIMEOUT (Mantis block offset 0x3008) of 13_remote_windows_and_multicast.md, R440. -/
def fields_WIN_CLOSE_TIMEOUT : List FieldDef :=
  [⟨63, 32, .ro, 0⟩,
   ⟨31, 0, .rwl, 15000000⟩]

/-- CYCLES of WIN_CLOSE_TIMEOUT (R440). -/
def Fld.WIN_CLOSE_TIMEOUT_CYCLES : Fld := ⟨31, 0⟩

/-- MCAST_CFG (group set offset 0x00) of 13_remote_windows_and_multicast.md, R441. -/
def fields_MCAST_CFG : List FieldDef :=
  [⟨63, 63, .rw, 0⟩,
   ⟨62, 56, .rw, 0⟩,
   ⟨55, 51, .rw, 12⟩,
   ⟨50, 48, .ro, 0⟩,
   ⟨47, 32, .rw, 128⟩,
   ⟨31, 16, .rw, 64⟩,
   ⟨15, 0, .rw, 1000⟩]

/-- ENABLE of MCAST_CFG (R441). -/
def Fld.MCAST_CFG_ENABLE : Fld := ⟨63, 63⟩

/-- RECEIVERS of MCAST_CFG (R441). -/
def Fld.MCAST_CFG_RECEIVERS : Fld := ⟨62, 56⟩

/-- UNIT_LOG2 of MCAST_CFG (R441). -/
def Fld.MCAST_CFG_UNIT_LOG2 : Fld := ⟨55, 51⟩

/-- RETAIN of MCAST_CFG (R441). -/
def Fld.MCAST_CFG_RETAIN : Fld := ⟨47, 32⟩

/-- LAG_LIMIT of MCAST_CFG (R441). -/
def Fld.MCAST_CFG_LAG_LIMIT : Fld := ⟨31, 16⟩

/-- DETACH_US of MCAST_CFG (R441). -/
def Fld.MCAST_CFG_DETACH_US : Fld := ⟨15, 0⟩

/-- MCAST_POS (group set offset 0x08) of 13_remote_windows_and_multicast.md, R442. -/
def fields_MCAST_POS : List FieldDef :=
  [⟨63, 32, .ro, 0⟩,
   ⟨31, 0, .ro, 0⟩]

/-- PUSHED of MCAST_POS (R442). -/
def Fld.MCAST_POS_PUSHED : Fld := ⟨63, 32⟩

/-- RELEASED of MCAST_POS (R442). -/
def Fld.MCAST_POS_RELEASED : Fld := ⟨31, 0⟩

/-- MCAST_DETACHED (group set offset 0x10) of 13_remote_windows_and_multicast.md, R443. -/
def fields_MCAST_DETACHED : List FieldDef :=
  [⟨63, 0, .ro, 0⟩]

/-- DETACHED of MCAST_DETACHED (R443). -/
def Fld.MCAST_DETACHED_DETACHED : Fld := ⟨63, 0⟩

/-- MCAST_CNT (group set offset 0x18) of 13_remote_windows_and_multicast.md, R444. -/
def fields_MCAST_CNT : List FieldDef :=
  [⟨63, 32, .rw, 0⟩,
   ⟨31, 0, .rw, 0⟩]

/-- ENDED of MCAST_CNT (R444). -/
def Fld.MCAST_CNT_ENDED : Fld := ⟨63, 32⟩

/-- DETACHES of MCAST_CNT (R444). -/
def Fld.MCAST_CNT_DETACHES : Fld := ⟨31, 0⟩

/-- SWARM_STATUS (Mantis block offset 0x5000) of 14_swarm_reduction_and_training.md, R470. -/
def fields_SWARM_STATUS : List FieldDef :=
  [⟨63, 32, .ro, 0⟩,
   ⟨31, 29, .ro, 0⟩,
   ⟨28, 28, .ro, 0⟩,
   ⟨27, 27, .ro, 0⟩,
   ⟨26, 25, .ro, 0⟩,
   ⟨24, 16, .ro, 0⟩,
   ⟨15, 8, .ro, 0⟩,
   ⟨7, 0, .ro, 0⟩]

/-- STEP of SWARM_STATUS (R470). -/
def Fld.SWARM_STATUS_STEP : Fld := ⟨63, 32⟩

/-- PHASE of SWARM_STATUS (R470). -/
def Fld.SWARM_STATUS_PHASE : Fld := ⟨31, 29⟩

/-- MODE of SWARM_STATUS (R470). -/
def Fld.SWARM_STATUS_MODE : Fld := ⟨28, 28⟩

/-- WIRE of SWARM_STATUS (R470). -/
def Fld.SWARM_STATUS_WIRE : Fld := ⟨27, 27⟩

/-- MEMBERS of SWARM_STATUS (R470). -/
def Fld.SWARM_STATUS_MEMBERS : Fld := ⟨24, 16⟩

/-- POS of SWARM_STATUS (R470). -/
def Fld.SWARM_STATUS_POS : Fld := ⟨15, 8⟩

/-- SWARM_ESC_CNT (Mantis block offset 0x5008) of 14_swarm_reduction_and_training.md, R471. -/
def fields_SWARM_ESC_CNT : List FieldDef :=
  [⟨63, 48, .ro, 0⟩,
   ⟨47, 0, .rw, 0⟩]

/-- COUNT of SWARM_ESC_CNT (R471). -/
def Fld.SWARM_ESC_CNT_COUNT : Fld := ⟨47, 0⟩

/-- SWARM_CHECK_CNT (Mantis block offset 0x5010) of 14_swarm_reduction_and_training.md, R472. -/
def fields_SWARM_CHECK_CNT : List FieldDef :=
  [⟨63, 32, .rw, 0⟩,
   ⟨31, 0, .rw, 0⟩]

/-- MISMATCH of SWARM_CHECK_CNT (R472). -/
def Fld.SWARM_CHECK_CNT_MISMATCH : Fld := ⟨63, 32⟩

/-- CHECKED of SWARM_CHECK_CNT (R472). -/
def Fld.SWARM_CHECK_CNT_CHECKED : Fld := ⟨31, 0⟩

/-- FLT_EVT_SEQ (Mantis block offset 0x6000) of 15_faults_replay_and_status.md, R493. -/
def fields_FLT_EVT_SEQ : List FieldDef :=
  [⟨63, 0, .ro, 1⟩]

/-- NEXT of FLT_EVT_SEQ (R493). -/
def Fld.FLT_EVT_SEQ_NEXT : Fld := ⟨63, 0⟩

/-- FLT_CFG (Mantis block offset 0x6008) of 15_faults_replay_and_status.md, R494. -/
def fields_FLT_CFG : List FieldDef :=
  [⟨63, 16, .ro, 0⟩,
   ⟨15, 8, .rwl, 72⟩,
   ⟨7, 5, .ro, 0⟩,
   ⟨4, 0, .rwl, 4⟩]

/-- MIN_CORES_PER_DIE of FLT_CFG (R494). -/
def Fld.FLT_CFG_MIN_CORES_PER_DIE : Fld := ⟨15, 8⟩

/-- REPLAY_LIMIT of FLT_CFG (R494). -/
def Fld.FLT_CFG_REPLAY_LIMIT : Fld := ⟨4, 0⟩

/-- FLT_ABORT_CNT (Mantis block offset 0x6010) of 15_faults_replay_and_status.md, R495. -/
def fields_FLT_ABORT_CNT : List FieldDef :=
  [⟨63, 48, .rw, 0⟩,
   ⟨47, 0, .rw, 0⟩]

/-- LIMIT_ENDS of FLT_ABORT_CNT (R495). -/
def Fld.FLT_ABORT_CNT_LIMIT_ENDS : Fld := ⟨63, 48⟩

/-- ABORTS of FLT_ABORT_CNT (R495). -/
def Fld.FLT_ABORT_CNT_ABORTS : Fld := ⟨47, 0⟩

/-- START_STATUS (Hamada block offset 0x0800) of 16_start_sequence_and_configuration_image.md, R521. -/
def fields_START_STATUS : List FieldDef :=
  [⟨63, 40, .hw, 0⟩,
   ⟨39, 31, .hw, 0⟩,
   ⟨30, 26, .hw, 0⟩,
   ⟨25, 24, .hw, 0⟩,
   ⟨23, 19, .ro, 0⟩,
   ⟨18, 18, .hw, 0⟩,
   ⟨17, 17, .hw, 0⟩,
   ⟨16, 16, .hw, 0⟩,
   ⟨15, 15, .hw, 0⟩,
   ⟨14, 14, .hw, 0⟩,
   ⟨13, 12, .hw, 0⟩,
   ⟨11, 7, .hw, 0⟩,
   ⟨6, 0, .ro, 0⟩]

/-- START_COUNT of START_STATUS (R521). -/
def Fld.START_STATUS_START_COUNT : Fld := ⟨63, 40⟩

/-- HOLD_UNIT of START_STATUS (R521). -/
def Fld.START_STATUS_HOLD_UNIT : Fld := ⟨39, 31⟩

/-- HOLD_STEP of START_STATUS (R521). -/
def Fld.START_STATUS_HOLD_STEP : Fld := ⟨30, 26⟩

/-- HOLD_CAUSE of START_STATUS (R521). -/
def Fld.START_STATUS_HOLD_CAUSE : Fld := ⟨25, 24⟩

/-- CFG_SLOT of START_STATUS (R521). -/
def Fld.START_STATUS_CFG_SLOT : Fld := ⟨18, 18⟩

/-- MNT_IMAGE of START_STATUS (R521). -/
def Fld.START_STATUS_MNT_IMAGE : Fld := ⟨17, 17⟩

/-- HMD_IMAGE of START_STATUS (R521). -/
def Fld.START_STATUS_HMD_IMAGE : Fld := ⟨16, 16⟩

/-- HOLD of START_STATUS (R521). -/
def Fld.START_STATUS_HOLD : Fld := ⟨15, 15⟩

/-- READY of START_STATUS (R521). -/
def Fld.START_STATUS_READY : Fld := ⟨14, 14⟩

/-- METHOD of START_STATUS (R521). -/
def Fld.START_STATUS_METHOD : Fld := ⟨13, 12⟩

/-- STEP of START_STATUS (R521). -/
def Fld.START_STATUS_STEP : Fld := ⟨11, 7⟩

/-- LEDGER_STATUS (Hamada block offset 0x0808) of 16_start_sequence_and_configuration_image.md, R522. -/
def fields_LEDGER_STATUS : List FieldDef :=
  [⟨63, 32, .hw, 0⟩,
   ⟨31, 20, .hw, 0⟩,
   ⟨19, 18, .hw, 0⟩,
   ⟨17, 17, .hw, 0⟩,
   ⟨16, 16, .hw, 0⟩,
   ⟨15, 8, .hw, 0⟩,
   ⟨7, 0, .hw, 0⟩]

/-- HEAD_SEQ of LEDGER_STATUS (R522). -/
def Fld.LEDGER_STATUS_HEAD_SEQ : Fld := ⟨63, 32⟩

/-- HEAD_SLOT of LEDGER_STATUS (R522). -/
def Fld.LEDGER_STATUS_HEAD_SLOT : Fld := ⟨31, 20⟩

/-- ERASE_SECTOR of LEDGER_STATUS (R522). -/
def Fld.LEDGER_STATUS_ERASE_SECTOR : Fld := ⟨19, 18⟩

/-- ERASE_BUSY of LEDGER_STATUS (R522). -/
def Fld.LEDGER_STATUS_ERASE_BUSY : Fld := ⟨17, 17⟩

/-- MIRROR_OK of LEDGER_STATUS (R522). -/
def Fld.LEDGER_STATUS_MIRROR_OK : Fld := ⟨16, 16⟩

/-- TORN of LEDGER_STATUS (R522). -/
def Fld.LEDGER_STATUS_TORN : Fld := ⟨15, 8⟩

/-- LOOP of LEDGER_STATUS (R522). -/
def Fld.LEDGER_STATUS_LOOP : Fld := ⟨7, 0⟩

/-- HMD_SERIAL (Hamada block offset 0x0000) of 17_safety_partition_and_trust.md, R542. -/
def fields_HMD_SERIAL : List FieldDef :=
  [⟨63, 0, .hw, 0⟩]

/-- SERIAL of HMD_SERIAL (R542). -/
def Fld.HMD_SERIAL_SERIAL : Fld := ⟨63, 0⟩

/-- HMD_CFG (Hamada block offset 0x0008) of 17_safety_partition_and_trust.md, R543. -/
def fields_HMD_CFG : List FieldDef :=
  [⟨63, 56, .ro, 0⟩,
   ⟨55, 48, .hw, 0⟩,
   ⟨47, 40, .hw, 0⟩,
   ⟨39, 32, .hw, 176⟩,
   ⟨31, 30, .ro, 0⟩,
   ⟨29, 16, .hw, 0⟩,
   ⟨15, 2, .ro, 0⟩,
   ⟨1, 1, .hw, 0⟩,
   ⟨0, 0, .hw, 0⟩]

/-- CONTRACT of HMD_CFG (R543). -/
def Fld.HMD_CFG_CONTRACT : Fld := ⟨55, 48⟩

/-- MEMBER of HMD_CFG (R543). -/
def Fld.HMD_CFG_MEMBER : Fld := ⟨47, 40⟩

/-- STEPPING of HMD_CFG (R543). -/
def Fld.HMD_CFG_STEPPING : Fld := ⟨39, 32⟩

/-- MODULE_ID of HMD_CFG (R543). -/
def Fld.HMD_CFG_MODULE_ID : Fld := ⟨29, 16⟩

/-- SWARM_MODE of HMD_CFG (R543). -/
def Fld.HMD_CFG_SWARM_MODE : Fld := ⟨1, 1⟩

/-- PROFILE of HMD_CFG (R543). -/
def Fld.HMD_CFG_PROFILE : Fld := ⟨0, 0⟩

/-- HMD_PWR_CAP (Hamada block offset 0x0100) of 17_safety_partition_and_trust.md, R544. -/
def fields_HMD_PWR_CAP : List FieldDef :=
  [⟨63, 48, .ro, 0⟩,
   ⟨47, 32, .hw, 1800⟩,
   ⟨31, 16, .hw, 2100⟩,
   ⟨15, 0, .hw, 2100⟩]

/-- FLOOR_MHZ of HMD_PWR_CAP (R544). -/
def Fld.HMD_PWR_CAP_FLOOR_MHZ : Fld := ⟨47, 32⟩

/-- CAP_RUN of HMD_PWR_CAP (R544). -/
def Fld.HMD_PWR_CAP_CAP_RUN : Fld := ⟨31, 16⟩

/-- CAP_CFG of HMD_PWR_CAP (R544). -/
def Fld.HMD_PWR_CAP_CAP_CFG : Fld := ⟨15, 0⟩

/-- HMD_PWR_STAT (Hamada block offset 0x0108) of 17_safety_partition_and_trust.md, R545. -/
def fields_HMD_PWR_STAT : List FieldDef :=
  [⟨63, 48, .hw, 0⟩,
   ⟨47, 32, .hw, 0⟩,
   ⟨31, 16, .hw, 0⟩,
   ⟨15, 0, .hw, 0⟩]

/-- VIN of HMD_PWR_STAT (R545). -/
def Fld.HMD_PWR_STAT_VIN : Fld := ⟨63, 48⟩

/-- IIN of HMD_PWR_STAT (R545). -/
def Fld.HMD_PWR_STAT_IIN : Fld := ⟨47, 32⟩

/-- CAP_EXCURSIONS of HMD_PWR_STAT (R545). -/
def Fld.HMD_PWR_STAT_CAP_EXCURSIONS : Fld := ⟨31, 16⟩

/-- PIN of HMD_PWR_STAT (R545). -/
def Fld.HMD_PWR_STAT_PIN : Fld := ⟨15, 0⟩

/-- HMD_THERM (Hamada block offset 0x0110) of 17_safety_partition_and_trust.md, R546. -/
def fields_HMD_THERM : List FieldDef :=
  [⟨63, 26, .ro, 0⟩,
   ⟨25, 25, .hw, 0⟩,
   ⟨24, 24, .hw, 0⟩,
   ⟨23, 16, .hw, 0⟩,
   ⟨15, 8, .hw, 0⟩,
   ⟨7, 0, .hw, 0⟩]

/-- THROTTLE1 of HMD_THERM (R546). -/
def Fld.HMD_THERM_THROTTLE1 : Fld := ⟨25, 25⟩

/-- THROTTLE0 of HMD_THERM (R546). -/
def Fld.HMD_THERM_THROTTLE0 : Fld := ⟨24, 24⟩

/-- STACK_MAX of HMD_THERM (R546). -/
def Fld.HMD_THERM_STACK_MAX : Fld := ⟨23, 16⟩

/-- DIE1_MAX of HMD_THERM (R546). -/
def Fld.HMD_THERM_DIE1_MAX : Fld := ⟨15, 8⟩

/-- DIE0_MAX of HMD_THERM (R546). -/
def Fld.HMD_THERM_DIE0_MAX : Fld := ⟨7, 0⟩

/-- HMD_CLK (Hamada block offset 0x0118) of 17_safety_partition_and_trust.md, R547. -/
def fields_HMD_CLK : List FieldDef :=
  [⟨63, 48, .ro, 0⟩,
   ⟨47, 32, .hw, 0⟩,
   ⟨31, 16, .hw, 0⟩,
   ⟨15, 8, .hw, 0⟩,
   ⟨7, 0, .hw, 0⟩]

/-- DIE1_MHZ of HMD_CLK (R547). -/
def Fld.HMD_CLK_DIE1_MHZ : Fld := ⟨47, 32⟩

/-- DIE0_MHZ of HMD_CLK (R547). -/
def Fld.HMD_CLK_DIE0_MHZ : Fld := ⟨31, 16⟩

/-- PARKED1 of HMD_CLK (R547). -/
def Fld.HMD_CLK_PARKED1 : Fld := ⟨15, 8⟩

/-- PARKED0 of HMD_CLK (R547). -/
def Fld.HMD_CLK_PARKED0 : Fld := ⟨7, 0⟩

/-- HMD_TRIP_LOG (Hamada block offset 0x0120) of 17_safety_partition_and_trust.md, R548. -/
def fields_HMD_TRIP_LOG : List FieldDef :=
  [⟨63, 63, .hw, 0⟩,
   ⟨62, 60, .hw, 0⟩,
   ⟨59, 52, .hw, 0⟩,
   ⟨51, 40, .ro, 0⟩,
   ⟨39, 0, .hw, 0⟩]

/-- VALID of HMD_TRIP_LOG (R548). -/
def Fld.HMD_TRIP_LOG_VALID : Fld := ⟨63, 63⟩

/-- CAUSE of HMD_TRIP_LOG (R548). -/
def Fld.HMD_TRIP_LOG_CAUSE : Fld := ⟨62, 60⟩

/-- SENSOR of HMD_TRIP_LOG (R548). -/
def Fld.HMD_TRIP_LOG_SENSOR : Fld := ⟨59, 52⟩

/-- CYCLES of HMD_TRIP_LOG (R548). -/
def Fld.HMD_TRIP_LOG_CYCLES : Fld := ⟨39, 0⟩

/-- HMD_SESSION (Hamada block offset 0x0200) of 17_safety_partition_and_trust.md, R549. -/
def fields_HMD_SESSION : List FieldDef :=
  [⟨63, 62, .hw, 0⟩,
   ⟨61, 56, .ro, 0⟩,
   ⟨55, 52, .hw, 0⟩,
   ⟨51, 48, .ro, 0⟩,
   ⟨47, 32, .hw, 0⟩,
   ⟨31, 0, .hw, 0⟩]

/-- STATE of HMD_SESSION (R549). -/
def Fld.HMD_SESSION_STATE : Fld := ⟨63, 62⟩

/-- NODE of HMD_SESSION (R549). -/
def Fld.HMD_SESSION_NODE : Fld := ⟨55, 52⟩

/-- AUTH_FAIL of HMD_SESSION (R549). -/
def Fld.HMD_SESSION_AUTH_FAIL : Fld := ⟨47, 32⟩

/-- SESSIONS of HMD_SESSION (R549). -/
def Fld.HMD_SESSION_SESSIONS : Fld := ⟨31, 0⟩

/-- HMD_SCRUB (Hamada block offset 0x0300) of 17_safety_partition_and_trust.md, R550. -/
def fields_HMD_SCRUB : List FieldDef :=
  [⟨63, 63, .hw, 0⟩,
   ⟨62, 48, .ro, 0⟩,
   ⟨47, 0, .hw, 0⟩]

/-- BUSY of HMD_SCRUB (R550). -/
def Fld.HMD_SCRUB_BUSY : Fld := ⟨63, 63⟩

/-- REMAINING of HMD_SCRUB (R550). -/
def Fld.HMD_SCRUB_REMAINING : Fld := ⟨47, 0⟩

/-- WADI_LINK (Wadi block offset 0x0000) of 18_wadi_port_and_sideband.md, R569. -/
def fields_WADI_LINK : List FieldDef :=
  [⟨63, 5, .ro, 0⟩,
   ⟨4, 4, .ro, 0⟩,
   ⟨3, 3, .ro, 0⟩,
   ⟨2, 0, .ro, 0⟩]

/-- EXT_EQ of WADI_LINK (R569). -/
def Fld.WADI_LINK_EXT_EQ : Fld := ⟨4, 4⟩

/-- LOS of WADI_LINK (R569). -/
def Fld.WADI_LINK_LOS : Fld := ⟨3, 3⟩

/-- STATE of WADI_LINK (R569). -/
def Fld.WADI_LINK_STATE : Fld := ⟨2, 0⟩

/-- WADI_FEC_CNT (Wadi block offset 0x0008) of 18_wadi_port_and_sideband.md, R570. -/
def fields_WADI_FEC_CNT : List FieldDef :=
  [⟨63, 32, .rw, 0⟩,
   ⟨31, 0, .rw, 0⟩]

/-- UNCORRECTED of WADI_FEC_CNT (R570). -/
def Fld.WADI_FEC_CNT_UNCORRECTED : Fld := ⟨63, 32⟩

/-- CORRECTED of WADI_FEC_CNT (R570). -/
def Fld.WADI_FEC_CNT_CORRECTED : Fld := ⟨31, 0⟩

/-- WADI_RX_CNT (Wadi block offset 0x0010) of 18_wadi_port_and_sideband.md, R571. -/
def fields_WADI_RX_CNT : List FieldDef :=
  [⟨63, 32, .rw, 0⟩,
   ⟨31, 0, .rw, 0⟩]

/-- BAD of WADI_RX_CNT (R571). -/
def Fld.WADI_RX_CNT_BAD : Fld := ⟨63, 32⟩

/-- FRAMES of WADI_RX_CNT (R571). -/
def Fld.WADI_RX_CNT_FRAMES : Fld := ⟨31, 0⟩

/-- WADI_DROP_CNT (Wadi block offset 0x0018) of 18_wadi_port_and_sideband.md, R572. -/
def fields_WADI_DROP_CNT : List FieldDef :=
  [⟨63, 48, .rw, 0⟩,
   ⟨47, 32, .rw, 0⟩,
   ⟨31, 16, .rw, 0⟩,
   ⟨15, 0, .rw, 0⟩]

/-- AUTH of WADI_DROP_CNT (R572). -/
def Fld.WADI_DROP_CNT_AUTH : Fld := ⟨63, 48⟩

/-- NO_SESSION of WADI_DROP_CNT (R572). -/
def Fld.WADI_DROP_CNT_NO_SESSION : Fld := ⟨47, 32⟩

/-- CREDIT of WADI_DROP_CNT (R572). -/
def Fld.WADI_DROP_CNT_CREDIT : Fld := ⟨31, 16⟩

/-- DUPLICATE of WADI_DROP_CNT (R572). -/
def Fld.WADI_DROP_CNT_DUPLICATE : Fld := ⟨15, 0⟩

/-- WADI_URGENT (Wadi block offset 0x0020) of 18_wadi_port_and_sideband.md, R573. -/
def fields_WADI_URGENT : List FieldDef :=
  [⟨63, 4, .ro, 0⟩,
   ⟨3, 0, .ro, 0⟩]

/-- BUSY of WADI_URGENT (R573). -/
def Fld.WADI_URGENT_BUSY : Fld := ⟨3, 0⟩

/-- Base of the register block of core `c` (R6). -/
def coreBase (c : Nat) : Nat := 0x020000000000 + c * 0x10000
/-- Base of context `x`'s set in the tile counter block of die `d` (R334). -/
def ctrBase (d x : Nat) : Nat := 0x020100000000 + d * 0x100000 + 0x100 * x
/-- Base of the tile counter block of die `d`. -/
def ctrDieBase (d : Nat) : Nat := 0x020100000000 + d * 0x100000
/-- Base of the register set of port `p` (R407). -/
def portBase (p : Nat) : Nat := 0x020200000000 + p * 0x1000
/-- Base of the register set of stack `s` (R365). -/
def stackBase (s : Nat) : Nat := 0x020300000000 + s * 0x1000
/-- Base of the Mantis block (R6). -/
def mantisBase : Nat := 0x020400000000
/-- Base of the Wadi block (R6). -/
def wadiBase : Nat := 0x020500000000
/-- Base of the Hamada block (R6). -/
def hamadaBase : Nat := 0x021000000000
/-- Base of window entry `e`'s set (R436). -/
def winBase (e : Nat) : Nat := mantisBase + 0x10000 + 0x20 * e
/-- Base of multicast group `g`'s set (R441). -/
def mcastBase (g : Nat) : Nat := mantisBase + 0x4000 + 0x20 * g

/-- Spill-queue set bases (R299, the table of queue register sets). -/
def qWadi : Nat := wadiBase + 0x1000
def qCompletion (x : Nat) : Nat := mantisBase + 0x2000 + 0x40 * x
def qEvent : Nat := mantisBase + 0x2400
def qTrace : Nat := mantisBase + 0x2440
def qToken (x : Nat) : Nat := mantisBase + 0x2800 + 0x40 * x
def qSeif (p v : Nat) : Nat := portBase p + 0x0800 + 0x40 * v
def qStaging (c : Nat) : Nat := coreBase c + 0x1200

/-- ARITH_SAT_CNT (R63). -/
def Reg.ARITH_SAT_CNT (c : Nat) : Nat := coreBase c + 0xC00
/-- ARITH_NONFIN_CNT (R64). -/
def Reg.ARITH_NONFIN_CNT (c : Nat) : Nat := coreBase c + 0xC08
/-- CELL_NONFIN_TILE_CNT (R65). -/
def Reg.CELL_NONFIN_TILE_CNT (c : Nat) : Nat := coreBase c + 0xC10
/-- SCARAB_GROUP_OVER (R103). -/
def Reg.SCARAB_GROUP_OVER (c : Nat) : Nat := coreBase c + 0xC18
/-- SCARAB_MATCH_CNT (R104). -/
def Reg.SCARAB_MATCH_CNT (c : Nat) : Nat := coreBase c + 0xC20
/-- SCARAB_FLOOR_CYC (R105). -/
def Reg.SCARAB_FLOOR_CYC (c : Nat) : Nat := coreBase c + 0xC28
/-- SEQ_EXT (R141). -/
def Reg.SEQ_EXT (c : Nat) : Nat := coreBase c + 0xD00
/-- SEQ_EXT_J (R142). -/
def Reg.SEQ_EXT_J (c : Nat) : Nat := coreBase c + 0xD08
/-- SEQ_TILE_CNT (R143). -/
def Reg.SEQ_TILE_CNT (c : Nat) : Nat := coreBase c + 0xD10
/-- SEQ_SKIP_CNT (R144). -/
def Reg.SEQ_SKIP_CNT (c : Nat) : Nat := coreBase c + 0xD18
/-- TILE_WDOG_LIMIT (R145). -/
def Reg.TILE_WDOG_LIMIT (c : Nat) : Nat := coreBase c + 0xD20
/-- TILE_WDOG_EXP_CNT (R146). -/
def Reg.TILE_WDOG_EXP_CNT (c : Nat) : Nat := coreBase c + 0xD28
/-- DRAIN_DISCARD_CNT (R147). -/
def Reg.DRAIN_DISCARD_CNT (c : Nat) : Nat := coreBase c + 0xD30
/-- ROWFN_SKIP_CHUNK_CNT (R176). -/
def Reg.ROWFN_SKIP_CHUNK_CNT (c : Nat) : Nat := coreBase c + 0xE00
/-- PRED_AUDIT_CNT (R177). -/
def Reg.PRED_AUDIT_CNT (c : Nat) : Nat := coreBase c + 0xE08
/-- SPAD_SPLIT (R208). -/
def Reg.SPAD_SPLIT (c : Nat) : Nat := coreBase c + 0xF00
/-- SPAD_CACHE_CTL (R209). -/
def Reg.SPAD_CACHE_CTL (c : Nat) : Nat := coreBase c + 0xF08
/-- SPAD_RESn (R210). -/
def Reg.SPAD_RES (c : Nat) (n : Nat) : Nat := coreBase c + 0xF10 + 8 * n
/-- SPAD_RESn_SRC (R211). -/
def Reg.SPAD_RES_SRC (c : Nat) (n : Nat) : Nat := coreBase c + 0xF20 + 8 * n
/-- SPAD_PARITY_LOG (R212). -/
def Reg.SPAD_PARITY_LOG (c : Nat) : Nat := coreBase c + 0xF30
/-- SPAD_PARITY_CNT (R213). -/
def Reg.SPAD_PARITY_CNT (c : Nat) : Nat := coreBase c + 0xF38
/-- SPAD_ROW_COLLIDE (R214). -/
def Reg.SPAD_ROW_COLLIDE (c : Nat) : Nat := coreBase c + 0xF40
/-- SPAD_CACHE_STAT (R215). -/
def Reg.SPAD_CACHE_STAT (c : Nat) : Nat := coreBase c + 0xF48
/-- SPAD_CONF_CNTn (R216). -/
def Reg.SPAD_CONF_CNT (c : Nat) (n : Nat) : Nat := coreBase c + 0xF80 + 8 * n
/-- XLT_ROOT (R239). -/
def Reg.XLT_ROOT (c : Nat) : Nat := coreBase c + 0x1000
/-- XLT_CTL (R240). -/
def Reg.XLT_CTL (c : Nat) : Nat := coreBase c + 0x1008
/-- XLT_FAULT_LOG (R241). -/
def Reg.XLT_FAULT_LOG (c : Nat) : Nat := coreBase c + 0x1010
/-- XLT_MISS_CNT (R242). -/
def Reg.XLT_MISS_CNT (c : Nat) : Nat := coreBase c + 0x1018
/-- DESC_OOB_WR_CNT (R243). -/
def Reg.DESC_OOB_WR_CNT (c : Nat) : Nat := coreBase c + 0x1020
/-- STRM_STATUS (R272). -/
def Reg.STRM_STATUS (c : Nat) : Nat := coreBase c + 0x1100
/-- STRM_RESP_TIMEOUT (R273). -/
def Reg.STRM_RESP_TIMEOUT (c : Nat) : Nat := coreBase c + 0x1108
/-- STRM_ANT_CNT (R274). -/
def Reg.STRM_ANT_CNT (c : Nat) : Nat := coreBase c + 0x1110
/-- STRM_CANCEL_CNT (R275). -/
def Reg.STRM_CANCEL_CNT (c : Nat) : Nat := coreBase c + 0x1118
/-- STRM_FAULT_LOG (R276). -/
def Reg.STRM_FAULT_LOG (c : Nat) : Nat := coreBase c + 0x1120
/-- SPQ_CFG (R301). -/
def Reg.SPQ_CFG (q : Nat) : Nat := q + 0x0
/-- SPQ_REGION (R302). -/
def Reg.SPQ_REGION (q : Nat) : Nat := q + 0x8
/-- SPQ_STATUS (R303). -/
def Reg.SPQ_STATUS (q : Nat) : Nat := q + 0x10
/-- SPQ_CTL (R304). -/
def Reg.SPQ_CTL (q : Nat) : Nat := q + 0x18
/-- SPQ_CREDIT (R305). -/
def Reg.SPQ_CREDIT (q : Nat) : Nat := q + 0x20
/-- SPQ_DROP_CNT (R306). -/
def Reg.SPQ_DROP_CNT (q : Nat) : Nat := q + 0x28
/-- SPQ_EVT_CNT (R307). -/
def Reg.SPQ_EVT_CNT (q : Nat) : Nat := q + 0x30
/-- TILECTR_CFG (R334). -/
def Reg.TILECTR_CFG (d x : Nat) : Nat := ctrBase d x + 0x0
/-- TILECTR_GRANT (R335). -/
def Reg.TILECTR_GRANT (d x : Nat) : Nat := ctrBase d x + 0x8
/-- TILECTR_REISSUE (R336). -/
def Reg.TILECTR_REISSUE (d x : Nat) : Nat := ctrBase d x + 0x10
/-- TILECTR_GRANT_CNT (R337). -/
def Reg.TILECTR_GRANT_CNT (d x : Nat) : Nat := ctrBase d x + 0x18
/-- TILECTR_VOTE_CNT (R338). -/
def Reg.TILECTR_VOTE_CNT (d x : Nat) : Nat := ctrBase d x + 0x20
/-- TILECTR_FENCEn (R339). -/
def Reg.TILECTR_FENCE (d : Nat) (n : Nat) : Nat := ctrDieBase d + 0x2000 + 8 * n
/-- HBM_STATUS (R365). -/
def Reg.HBM_STATUS (s : Nat) : Nat := stackBase s + 0x0
/-- HBM_ARB (R366). -/
def Reg.HBM_ARB (s : Nat) : Nat := stackBase s + 0x8
/-- HBM_ECC_CNT (R367). -/
def Reg.HBM_ECC_CNT (s : Nat) : Nat := stackBase s + 0x10
/-- HBM_ECC_LOG (R368). -/
def Reg.HBM_ECC_LOG (s : Nat) : Nat := stackBase s + 0x18
/-- HBM_ODECC_CNT (R369). -/
def Reg.HBM_ODECC_CNT (s : Nat) : Nat := stackBase s + 0x20
/-- ERG_STATUS (R370). -/
def Reg.ERG_STATUS (s : Nat) : Nat := stackBase s + 0x100
/-- ERG_CNT (R371). -/
def Reg.ERG_CNT (s : Nat) : Nat := stackBase s + 0x108
/-- ERG_SRAM_ECC (R372). -/
def Reg.ERG_SRAM_ECC (s : Nat) : Nat := stackBase s + 0x110
/-- ERG_OP_TIMEOUT (R373). -/
def Reg.ERG_OP_TIMEOUT (s : Nat) : Nat := stackBase s + 0x118
/-- SEIF_CTL (R407). -/
def Reg.SEIF_CTL (p : Nat) : Nat := portBase p + 0x0
/-- SEIF_HB (R408). -/
def Reg.SEIF_HB (p : Nat) : Nat := portBase p + 0x8
/-- SEIF_WIDTH (R409). -/
def Reg.SEIF_WIDTH (p : Nat) : Nat := portBase p + 0x10
/-- SEIF_VL_CREDITS (R410). -/
def Reg.SEIF_VL_CREDITS (p : Nat) : Nat := portBase p + 0x18
/-- SEIF_PEER (R411). -/
def Reg.SEIF_PEER (p : Nat) : Nat := portBase p + 0x20
/-- SEIF_ERR_CNT (R412). -/
def Reg.SEIF_ERR_CNT (p : Nat) : Nat := portBase p + 0x28
/-- SEIF_RETRY_CNT (R413). -/
def Reg.SEIF_RETRY_CNT (p : Nat) : Nat := portBase p + 0x30
/-- SEIF_FWD_DROP (R414). -/
def Reg.SEIF_FWD_DROP (p : Nat) : Nat := portBase p + 0x38
def Reg.WIN_BASE (e : Nat) : Nat := winBase e
def Reg.WIN_LIMIT (e : Nat) : Nat := winBase e + 8
/-- WIN_CTL (R437). -/
def Reg.WIN_CTL (e : Nat) : Nat := winBase e + 0x10
/-- WIN_CREDIT (R438). -/
def Reg.WIN_CREDIT (e : Nat) : Nat := winBase e + 0x18
/-- WIN_REFUSE_CNT (R439). -/
def Reg.WIN_REFUSE_CNT : Nat := mantisBase + 0x3000
/-- WIN_CLOSE_TIMEOUT (R440). -/
def Reg.WIN_CLOSE_TIMEOUT : Nat := mantisBase + 0x3008
/-- MCAST_CFG (R441). -/
def Reg.MCAST_CFG (g : Nat) : Nat := mcastBase g + 0x0
/-- MCAST_POS (R442). -/
def Reg.MCAST_POS (g : Nat) : Nat := mcastBase g + 0x8
/-- MCAST_DETACHED (R443). -/
def Reg.MCAST_DETACHED (g : Nat) : Nat := mcastBase g + 0x10
/-- MCAST_CNT (R444). -/
def Reg.MCAST_CNT (g : Nat) : Nat := mcastBase g + 0x18
/-- SWARM_STATUS (R470). -/
def Reg.SWARM_STATUS : Nat := mantisBase + 0x5000
/-- SWARM_ESC_CNT (R471). -/
def Reg.SWARM_ESC_CNT : Nat := mantisBase + 0x5008
/-- SWARM_CHECK_CNT (R472). -/
def Reg.SWARM_CHECK_CNT : Nat := mantisBase + 0x5010
/-- FLT_EVT_SEQ (R493). -/
def Reg.FLT_EVT_SEQ : Nat := mantisBase + 0x6000
/-- FLT_CFG (R494). -/
def Reg.FLT_CFG : Nat := mantisBase + 0x6008
/-- FLT_ABORT_CNT (R495). -/
def Reg.FLT_ABORT_CNT : Nat := mantisBase + 0x6010
/-- START_STATUS (R521). -/
def Reg.START_STATUS : Nat := hamadaBase + 0x800
/-- LEDGER_STATUS (R522). -/
def Reg.LEDGER_STATUS : Nat := hamadaBase + 0x808
/-- HMD_SERIAL (R542). -/
def Reg.HMD_SERIAL : Nat := hamadaBase + 0x0
/-- HMD_CFG (R543). -/
def Reg.HMD_CFG : Nat := hamadaBase + 0x8
/-- HMD_PWR_CAP (R544). -/
def Reg.HMD_PWR_CAP : Nat := hamadaBase + 0x100
/-- HMD_PWR_STAT (R545). -/
def Reg.HMD_PWR_STAT : Nat := hamadaBase + 0x108
/-- HMD_THERM (R546). -/
def Reg.HMD_THERM : Nat := hamadaBase + 0x110
/-- HMD_CLK (R547). -/
def Reg.HMD_CLK : Nat := hamadaBase + 0x118
/-- HMD_TRIP_LOG (R548). -/
def Reg.HMD_TRIP_LOG : Nat := hamadaBase + 0x120
/-- HMD_SESSION (R549). -/
def Reg.HMD_SESSION : Nat := hamadaBase + 0x200
/-- HMD_SCRUB (R550). -/
def Reg.HMD_SCRUB : Nat := hamadaBase + 0x300
/-- WADI_LINK (R569). -/
def Reg.WADI_LINK : Nat := wadiBase + 0x0
/-- WADI_FEC_CNT (R570). -/
def Reg.WADI_FEC_CNT : Nat := wadiBase + 0x8
/-- WADI_RX_CNT (R571). -/
def Reg.WADI_RX_CNT : Nat := wadiBase + 0x10
/-- WADI_DROP_CNT (R572). -/
def Reg.WADI_DROP_CNT : Nat := wadiBase + 0x18
/-- WADI_URGENT (R573). -/
def Reg.WADI_URGENT : Nat := wadiBase + 0x20

/-- Field map by offset in the per-core; the empty map marks a reserved offset. -/
def coreFields (o : Nat) : List FieldDef :=
  match o with
  | 0xC00 => fields_ARITH_SAT_CNT
  | 0xC08 => fields_ARITH_NONFIN_CNT
  | 0xC10 => fields_CELL_NONFIN_TILE_CNT
  | 0xC18 => fields_SCARAB_GROUP_OVER
  | 0xC20 => fields_SCARAB_MATCH_CNT
  | 0xC28 => fields_SCARAB_FLOOR_CYC
  | 0xD00 => fields_SEQ_EXT
  | 0xD08 => fields_SEQ_EXT_J
  | 0xD10 => fields_SEQ_TILE_CNT
  | 0xD18 => fields_SEQ_SKIP_CNT
  | 0xD20 => fields_TILE_WDOG_LIMIT
  | 0xD28 => fields_TILE_WDOG_EXP_CNT
  | 0xD30 => fields_DRAIN_DISCARD_CNT
  | 0xE00 => fields_ROWFN_SKIP_CHUNK_CNT
  | 0xE08 => fields_PRED_AUDIT_CNT
  | 0xF00 => fields_SPAD_SPLIT
  | 0xF08 => fields_SPAD_CACHE_CTL
  | 0xF10 => fields_SPAD_RESn
  | 0xF18 => fields_SPAD_RESn
  | 0xF20 => fields_SPAD_RESn_SRC
  | 0xF28 => fields_SPAD_RESn_SRC
  | 0xF30 => fields_SPAD_PARITY_LOG
  | 0xF38 => fields_SPAD_PARITY_CNT
  | 0xF40 => fields_SPAD_ROW_COLLIDE
  | 0xF48 => fields_SPAD_CACHE_STAT
  | 0xF80 => fields_SPAD_CONF_CNTn
  | 0xF88 => fields_SPAD_CONF_CNTn
  | 0xF90 => fields_SPAD_CONF_CNTn
  | 0xF98 => fields_SPAD_CONF_CNTn
  | 0xFA0 => fields_SPAD_CONF_CNTn
  | 0xFA8 => fields_SPAD_CONF_CNTn
  | 0xFB0 => fields_SPAD_CONF_CNTn
  | 0xFB8 => fields_SPAD_CONF_CNTn
  | 0xFC0 => fields_SPAD_CONF_CNTn
  | 0xFC8 => fields_SPAD_CONF_CNTn
  | 0xFD0 => fields_SPAD_CONF_CNTn
  | 0xFD8 => fields_SPAD_CONF_CNTn
  | 0xFE0 => fields_SPAD_CONF_CNTn
  | 0xFE8 => fields_SPAD_CONF_CNTn
  | 0xFF0 => fields_SPAD_CONF_CNTn
  | 0xFF8 => fields_SPAD_CONF_CNTn
  | 0x1000 => fields_XLT_ROOT
  | 0x1008 => fields_XLT_CTL
  | 0x1010 => fields_XLT_FAULT_LOG
  | 0x1018 => fields_XLT_MISS_CNT
  | 0x1020 => fields_DESC_OOB_WR_CNT
  | 0x1100 => fields_STRM_STATUS
  | 0x1108 => fields_STRM_RESP_TIMEOUT
  | 0x1110 => fields_STRM_ANT_CNT
  | 0x1118 => fields_STRM_CANCEL_CNT
  | 0x1120 => fields_STRM_FAULT_LOG
  | _ => []

/-- Field map by offset in the set; the empty map marks a reserved offset. -/
def spqFields (o : Nat) : List FieldDef :=
  match o with
  | 0x0 => fields_SPQ_CFG
  | 0x8 => fields_SPQ_REGION
  | 0x10 => fields_SPQ_STATUS
  | 0x18 => fields_SPQ_CTL
  | 0x20 => fields_SPQ_CREDIT
  | 0x28 => fields_SPQ_DROP_CNT
  | 0x30 => fields_SPQ_EVT_CNT
  | _ => []

/-- Field map by offset in the context set; the empty map marks a reserved offset. -/
def ctrFields (o : Nat) : List FieldDef :=
  match o with
  | 0x0 => fields_TILECTR_CFG
  | 0x8 => fields_TILECTR_GRANT
  | 0x10 => fields_TILECTR_REISSUE
  | 0x18 => fields_TILECTR_GRANT_CNT
  | 0x20 => fields_TILECTR_VOTE_CNT
  | _ => []

/-- Field map by offset in the stack set; the empty map marks a reserved offset. -/
def stackFields (o : Nat) : List FieldDef :=
  match o with
  | 0x0 => fields_HBM_STATUS
  | 0x8 => fields_HBM_ARB
  | 0x10 => fields_HBM_ECC_CNT
  | 0x18 => fields_HBM_ECC_LOG
  | 0x20 => fields_HBM_ODECC_CNT
  | 0x100 => fields_ERG_STATUS
  | 0x108 => fields_ERG_CNT
  | 0x110 => fields_ERG_SRAM_ECC
  | 0x118 => fields_ERG_OP_TIMEOUT
  | _ => []

/-- Field map by offset in the port set; the empty map marks a reserved offset. -/
def portFields (o : Nat) : List FieldDef :=
  match o with
  | 0x0 => fields_SEIF_CTL
  | 0x8 => fields_SEIF_HB
  | 0x10 => fields_SEIF_WIDTH
  | 0x18 => fields_SEIF_VL_CREDITS
  | 0x20 => fields_SEIF_PEER
  | 0x28 => fields_SEIF_ERR_CNT
  | 0x30 => fields_SEIF_RETRY_CNT
  | 0x38 => fields_SEIF_FWD_DROP
  | _ => []

/-- Field map by offset in the entry set; the empty map marks a reserved offset. -/
def winFields (o : Nat) : List FieldDef :=
  match o with
  | 0x0 => fields_WIN_BASE
  | 0x8 => fields_WIN_BASE
  | 0x10 => fields_WIN_CTL
  | 0x18 => fields_WIN_CREDIT
  | _ => []

/-- Field map by offset in the group set; the empty map marks a reserved offset. -/
def mcastFields (o : Nat) : List FieldDef :=
  match o with
  | 0x0 => fields_MCAST_CFG
  | 0x8 => fields_MCAST_POS
  | 0x10 => fields_MCAST_DETACHED
  | 0x18 => fields_MCAST_CNT
  | _ => []

/-- Field map by offset in the Mantis block; the empty map marks a reserved offset. -/
def mantisFields (o : Nat) : List FieldDef :=
  match o with
  | 0x3000 => fields_WIN_REFUSE_CNT
  | 0x3008 => fields_WIN_CLOSE_TIMEOUT
  | 0x5000 => fields_SWARM_STATUS
  | 0x5008 => fields_SWARM_ESC_CNT
  | 0x5010 => fields_SWARM_CHECK_CNT
  | 0x6000 => fields_FLT_EVT_SEQ
  | 0x6008 => fields_FLT_CFG
  | 0x6010 => fields_FLT_ABORT_CNT
  | _ => []

/-- Field map by offset in the Hamada block; the empty map marks a reserved offset. -/
def hamadaFields (o : Nat) : List FieldDef :=
  match o with
  | 0x0 => fields_HMD_SERIAL
  | 0x8 => fields_HMD_CFG
  | 0x100 => fields_HMD_PWR_CAP
  | 0x108 => fields_HMD_PWR_STAT
  | 0x110 => fields_HMD_THERM
  | 0x118 => fields_HMD_CLK
  | 0x120 => fields_HMD_TRIP_LOG
  | 0x200 => fields_HMD_SESSION
  | 0x300 => fields_HMD_SCRUB
  | 0x800 => fields_START_STATUS
  | 0x808 => fields_LEDGER_STATUS
  | _ => []

/-- Field map by offset in the Wadi block; the empty map marks a reserved offset. -/
def wadiFields (o : Nat) : List FieldDef :=
  match o with
  | 0x0 => fields_WADI_LINK
  | 0x8 => fields_WADI_FEC_CNT
  | 0x10 => fields_WADI_RX_CNT
  | 0x18 => fields_WADI_DROP_CNT
  | 0x20 => fields_WADI_URGENT
  | _ => []

/-- R339: TILECTR_FENCE2 has its bits 63:16 reserved. -/
def fenceFields (o : Nat) : List FieldDef :=
  if o = 0x2000 ∨ o = 0x2008 then fields_TILECTR_FENCEn
  else if o = 0x2010 then [⟨63, 16, .ro, 0⟩, ⟨15, 0, .hw, 0⟩] else []

/-- R334: HOME of TILECTR_CFG reads x mod 2 from reset on. -/
def homeReset (x : Nat) : List FieldDef → List FieldDef :=
  List.map (fun f => if f.hi = 60 ∧ f.lo = 60 then { f with rst := x % 2 } else f)

/-- The field map of the register at the 8-byte-aligned address `a`; empty where no register lies (R6, R7). -/
def fieldsAt (a : Nat) : List FieldDef :=
  if a < 0x020000000000 then []
  else if a < 0x020100000000 then
    let o := a - 0x020000000000
    if o / 0x10000 < 288 then
      let r := o % 0x10000
      if 0x1200 ≤ r ∧ r < 0x1240 then spqFields (r - 0x1200) else coreFields r
    else []
  else if a < 0x020200000000 then
    let o := a - 0x020100000000
    if o / 0x100000 < 2 then
      let r := o % 0x100000
      if r < 0x1000 then
        (if r % 0x100 = 0 then homeReset (r / 0x100) (ctrFields 0) else ctrFields (r % 0x100))
      else fenceFields r
    else []
  else if a < 0x020300000000 then
    let o := a - 0x020200000000
    if o / 0x1000 < 12 then
      let r := o % 0x1000
      if 0x800 ≤ r ∧ r < 0xA00 then spqFields (r % 0x40) else portFields r
    else []
  else if a < 0x020400000000 then
    let o := a - 0x020300000000
    if o / 0x1000 < 12 then stackFields (o % 0x1000) else []
  else if a < 0x020500000000 then
    let o := a - 0x020400000000
    if 0x2000 ≤ o ∧ o < 0x2480 then spqFields (o % 0x40)
    else if 0x2800 ≤ o ∧ o < 0x2C00 then spqFields (o % 0x40)
    else if 0x4000 ≤ o ∧ o < 0x4800 then mcastFields (o % 0x20)
    else if 0x10000 ≤ o ∧ o < 0x30000 then winFields (o % 0x20)
    else mantisFields o
  else if a < 0x021000000000 then
    let o := a - 0x020500000000
    if 0x1000 ≤ o ∧ o < 0x1040 then spqFields (o - 0x1000) else wadiFields o
  else if a < 0x021100000000 then hamadaFields (a - 0x021000000000)
  else []

/-- The reset value that a field map spells. -/
def resetOf (fs : List FieldDef) : Nat := fs.foldl (fun v f => v + f.rst * 2 ^ f.lo) 0

end Sys2Proof.Machine
end

