-- ==== Sys2Proof/Machine/State.lean ====
section
/-!
DEFINITION. The state of the module as plain data: power and start (16, 19), the Hamada partition (17), the Wadi port
(18), spill queues (09), Seif ports and membership (12), windows and multicast (13), task groups, contexts and tile
counters (10), cores with their sequencers, stream engines, translation and cache (04 to 08), stacks and Erg engines
(11), the Swarm step (14), and one sparse register file and one sparse byte memory over the address map of R6.
-/
namespace Sys2Proof.Machine

/-! Power, start and ledger. -/

/-- The power states of R583. Run is Ready with a launched step; `starting` is the start sequence. -/
inductive PState where
  | off | starting | hold | ready | aest
deriving DecidableEq, Repr

/-- A ledger record (R510), without its MAGIC and CRC. -/
structure LedgerRec where
  type    : Nat
  step    : Nat
  seq     : Nat
  start   : Nat
  unit    : Nat
  method  : Nat
  outcome : Nat
  detail  : List Byte
deriving DecidableEq, Repr

/-- One 64-byte slot of a ledger device (R511, R512). -/
inductive Slot where
  | erased
  | torn
  | full (r : LedgerRec)
deriving DecidableEq, Repr

/-- The state that later starts keep (R514). Masks are numbers, bit `n` for unit `n`. -/
structure Kept where
  fenced       : Nat
  conservative : Nat
  hmdActive    : Nat
  mntActive    : Nat
  bridge       : Nat
  wadi         : Nat
  ports        : Nat
  ergExcl      : Nat
  mantisExcl   : Nat
  cfgDigest    : List Byte
  lastReady    : Nat
deriving DecidableEq, Repr

/-- The configuration in force: the fields of R500, R501, R502 and R503 after their defaults. -/
structure ModCfg where
  moduleId    : Nat
  profile     : Nat
  swarmMode   : Nat
  lossWindow  : Nat
  maxTileNs   : Nat
  sliceUs     : Nat
  powerCap    : Nat
  minCores    : Nat
  replayLimit : Nat
  spadBudget  : Nat
  spadWindow  : Nat
  hbmBudget   : Nat
  hbmWindow   : Nat
  ergShare    : Nat
  ergBudget   : Nat
  laneLimit   : Nat
  testCores   : Nat
  portMask    : Nat
  wadiWords   : Nat
  seifWords   : Nat
  eventWords  : Nat
  traceWords  : Nat
  regs        : List (Nat × Nat × Nat)
  nodes       : List (List Byte)
  sequence    : Nat
  digest      : List Byte
deriving DecidableEq, Repr

/-- The running start sequence (R506 to R517). `running` holds units begun, with their method; `finished` the units of
the step that have ended; a core under the isolated method of S15 is unit 0x8000 + core ID. -/
structure StartSt where
  kept      : Kept
  running   : List (Nat × Nat)
  finished  : List Nat
  s05other  : Bool
  s15iso    : Nat
  devs      : Nat
  straps    : Nat
  rnd       : Nat
  identity  : Bool
  hmdOk     : Bool
  mntOk     : Bool
  mntDigest : List Byte
  locked    : Bool
  restart   : Bool
  summaryAt : Option Nat
deriving DecidableEq, Repr

/-- A handshake in progress (R536). -/
structure Handshake where
  node    : Nat
  nodeKey : List Byte
  t       : List Byte
  sigM    : List Byte
  ss      : List Byte
deriving DecidableEq, Repr

/-- The Hamada partition (17): targets, parking, fences of Mantis cores, session and scrub. -/
structure Hmd where
  incarnation : Nat
  withdrawn   : Bool
  capRun      : Nat
  pwrTarget   : Nat
  thTarget0   : Nat
  thTarget1   : Nat
  parked      : List Nat
  hot         : List Nat
  vinBad      : Nat
  railBad     : Nat
  mantisFence : Nat
  heard       : List Nat
  svnHmd      : Nat
  svnMnt      : Nat
  hs          : Option Handshake
  sessOpen    : Bool
  keyNode     : List Byte
  keyMod      : List Byte
  lastRx      : Option Nat
  nextTx      : Nat
  authFails   : Nat
  scrub       : List (Nat × Nat)
deriving DecidableEq, Repr

/-! The Wadi port. -/

/-- A frame sent to the control node (R552), before encryption and FEC. -/
structure OutFrame where
  cls     : Nat
  type    : Nat
  flags   : Nat
  mgmt    : Nat
  bulk    : Nat
  req     : Nat
  counter : Nat
  reqId   : Nat
  body    : List Byte
deriving DecidableEq, Repr

/-- The level of an open-drain output (R594). -/
inductive Pin where | low | released | highZ
deriving DecidableEq, Repr

/-- What a flit of this module is sent for (R269, R391): the context and its generation, and the core, stream and tile of the write or
read, with the PIECE_TAG of its descriptor. -/
structure Origin where
  ctx    : Nat
  gen    : Nat
  core   : Nat
  stream : Nat
  tile   : Nat
  tag    : Nat
deriving DecidableEq, Repr

/-- A flit header with its payload (R377). `crcOk` says whether the CRC-32C over the 256 bytes holds and `resOk` whether the reserved
bits are zero; `own` is no part of what is sent. -/
structure Flit where
  dst      : Nat
  src      : Nat
  seq      : Nat
  ack      : Nat
  ackValid : Bool
  credits  : Nat
  creditVl : Nat
  msg      : Nat
  kind     : Nat
  vl       : Nat
  type     : Nat
  hops     : Nat
  payload  : List Byte
  crcOk    : Bool
  resOk    : Bool
  own      : Option Origin
deriving DecidableEq, Repr

/-- What leaves the module: Wadi frames, the bytes of Seif flits, sideband replies, boundary-scan values. -/
inductive Out where
  | frame (f : OutFrame)
  | flit (port : Nat) (bytes : List Byte)
  | i2c (ack : Bool) (value : Nat) (pec : Nat)
  | scan (die : Nat) (value : Nat)
deriving DecidableEq, Repr

/-- A submission in the Wadi request queue (R556), KIND 1 a task group, 2 a step, 3 the end of a group: `done` once the firmware has
admitted it. `place` and `lent` are what comes from outside the model with a task group: the addresses that the firmware chooses
for its translation tables, whether the partners' windows of its borrow entries are open and large enough, and whether the windows of
its multicast receivers have the group's unit (R429). -/
structure Req where
  reqId : Nat
  words : Nat
  kind  : Nat
  item  : List Byte
  place : List Nat
  lent  : Bool
  units : Bool
  done  : Bool
deriving DecidableEq, Repr

/-- A bulk write received (R561, R562). -/
structure BulkWr where
  reqId  : Nat
  addr   : Nat
  data   : List Byte
  landed : Bool
deriving DecidableEq, Repr

/-- A STEP word (R557); `bad` where it breaks its table. -/
structure StepReq where
  reqId   : Nat
  urgent  : Bool
  bad     : Bool
  byAddr  : Bool
  task    : Nat
  launch  : Nat
  extM    : Nat
  extN    : Nat
  extK    : Nat
  extJ    : Nat
  extAddr : Nat
deriving DecidableEq, Repr

/-- The Wadi port (18): credits the node holds and is owed, REQ_IDs and replies kept, requests, urgent slots. -/
structure Wadi where
  nodeReq   : Nat
  nodeBulk  : Nat
  nodeMgmt  : Nat
  retReq    : Nat
  retBulk   : Nat
  retMgmt   : Nat
  seen      : List Nat
  bulkKept  : List (Nat × Option OutFrame)
  mgmtKept  : List (Nat × Option OutFrame)
  reqs      : List Req
  bulkWr    : List BulkWr
  urgent    : List (Nat × StepReq)
  urgWait   : List StepReq
  flashHeld : List (Nat × Nat × Nat × List Byte)
  erasedNow : List (Nat × Nat)
  aestEnter : Bool
  aestWake  : Bool
  modTest   : Bool
  testing   : Bool
deriving DecidableEq, Repr

/-! Spill queues. -/

/-- A committed word (R277, R282): KIND 0 data, 1 gap marker, 2 flush marker; `slot` its place in the spill region while it lies in the
middle; `paid` whether its first unit spent a credit (R290). -/
structure QWord where
  kind  : Nat
  wseq  : Nat
  ends  : Nat
  data  : List Byte
  slot  : Option Nat
  paid  : Bool
deriving DecidableEq, Repr

/-- A spill queue's positions (R277 to R298). `words` runs from the release position; the first `held` of them are read
and held. `opened` is the open word, `item` the units of the item an uncredited queue is taking. `lead` is the part of an item that the
released words left, `part` the part up to the read position; `seen` is the WSEQ behind the newest word ever read. -/
structure Queue where
  words    : List QWord
  held     : Nat
  mark     : Option Nat
  opened   : List Byte
  openEnds : Nat
  item     : List Byte
  lastEnd  : Bool
  draining : Bool
  wseq     : Nat
  spilled  : Nat
  credits  : Nat
  returns  : Nat
  flushes  : Nat
  closing  : Bool
  cfgErr   : Bool
  backlog  : List (List Byte × Bool)
  part     : List Byte
  inbox    : List (List Byte)
  lead     : List Byte
  seen     : Nat
deriving DecidableEq, Repr

/-- A queue that holds nothing. -/
def Queue.idle : Queue := ⟨[], 0, none, [], 0, [], true, false, 0, 0, 0, 0, 0, false, false, [], [], [], [], 0⟩

/-! Seif ports and membership. -/

/-- A Seif port (12). The state, lane and peer registers are in the register file. `slots` are the receive slots in order
of arrival, `credits` and `owed` are per virtual lane, `retry` the retry buffer oldest first, `waiting` traffic of this
module waiting for the port; `rrCredit` and `rrSend` are the lanes that the round robins of R380 and R383 last served. `peerMask` is the
partner's mask of the running retrain (R388); `codes` counts each lane's codewords, and `bad` names the uncorrectable ones among its
latest 2^20 (R376). -/
structure Port where
  unhealthy : Nat
  peerInc   : Nat
  slots     : List Flit
  credits   : List Nat
  owed      : List Nat
  nextSeq   : Nat
  expSeq    : Nat
  retry     : List Flit
  waiting   : List Flit
  nakFor    : Option Nat
  replays   : Nat
  fails     : Nat
  after     : Option Nat
  peerLow   : Bool
  wakeStage : Nat
  wakes     : Nat
  rrCredit  : Nat
  rrSend    : Nat
  peerMask  : Option Nat
  codes     : List Nat
  bad       : List (List Nat)
deriving DecidableEq, Repr

/-- A port before its first training. -/
def Port.idle : Port := ⟨0, 0, [], [0,0,0,0,0,0,0,0], [0,0,0,0,0,0,0,0], 0, 0, [], [], none, 0, 0, none, false, 0, 0, 0, 0, none, [], []⟩

/-- A membership entry (R399): state 0 absent, 1 present, 2 departed, 3 withdrawn. -/
structure Member where
  state : Nat
  inc   : Nat
  ann   : Nat
  ev    : Nat
deriving DecidableEq, Repr

/-- The entry of a module never heard of. -/
def Member.absent : Member := ⟨0, 0, 0, 0⟩

/-! Windows and multicast. -/

/-- What the firmware and the window unit hold of a window entry beside its registers (R415 to R428): COMMITTED, the credits
that each sender holds, the requests that wait (sender, count) in order of arrival, the hold of R417, the owning task group, the
management requests to answer when a close completes, the modules of the owner's task group, and the multicast units landed: all
below `nextUnit`, and those ahead of it in `early`. -/
structure Win where
  committed : Nat
  held      : Table Nat
  waiting   : List (Nat × Nat)
  hold      : Bool
  group     : Option Nat
  reply     : List Nat
  peers     : List Nat
  nextUnit  : Nat
  early     : List Nat
deriving DecidableEq, Repr

/-- An entry never opened. -/
def Win.idle : Win := ⟨0, [], [], false, none, [], [], 0, []⟩

/-- A handle of a sending task group (R418). -/
structure Handle where
  live    : Bool
  mcast   : Bool
  module_ : Nat
  entry   : Nat
  gen     : Nat
  size    : Nat
  credits : Nat
  inUse   : Nat
  asked   : Bool
  closing : Bool
deriving DecidableEq, Repr

/-- No handle. -/
def Handle.none : Handle := ⟨false, false, 0, 0, 0, 0, 0, 0, false, false⟩

/-- A receiver of a multicast group (R429 to R434): `acked` counts its units landed in order, `early` those acknowledged ahead of
it, `cursor` is its read cursor; `closing` is set once its owner closes the window or the sending group has ended, with the slot
credits `owed` to the owner for the units that had landed by then and that it has not consumed. -/
structure McastRcv where
  id       : Nat
  entry    : Nat
  gen      : Nat
  size     : Nat
  cursor   : Nat
  acked    : Nat
  early    : List Nat
  credits  : Nat
  closing  : Bool
  owed     : Nat
  detached : Bool
  removed  : Bool
deriving DecidableEq, Repr

/-- A multicast group of this module. `units` is the retained buffer from the released position; `open_` bytes staged by
the running step, which enter at its commit. -/
structure Mcast where
  group    : Nat
  pushed   : Nat
  released : Nat
  units    : List (List Byte)
  waiting  : List (List Byte)
  staged   : List (Nat × List Byte)
  rcvs     : List McastRcv
deriving DecidableEq, Repr

/-- A group not created. -/
def Mcast.idle : Mcast := ⟨0, 0, 0, [], [], [], []⟩

/-! Task groups, tasks and contexts. -/

/-- A resident region of a group (R196). -/
structure Resident where
  core : Nat
  region : Nat
  base : Nat
  rows : Nat
  src : Nat
deriving DecidableEq, Repr

/-- The shadow of a group (R467): this module's partner, and the record it keeps as a partner. -/
structure Shadow where
  partner : Nat
  handle  : Nat
  group   : Nat
  recAddr : Nat
  current : Nat
  version : Nat
deriving DecidableEq, Repr

/-- R487: the committed tokens of a live sequence of a task group, prompt and generated, in token-index order. -/
structure SeqHist where
  group  : Nat
  seq    : Nat
  tokens : List (List Byte)
deriving DecidableEq, Repr

/-- R5: the parameter block. -/
structure ParamBlock where
  member     : Nat
  contract   : Nat
  cellRows   : Nat
  cellCols   : Nat
  cells      : Nat
  dies       : Nat
  cores      : Nat
  meshRows   : Nat
  meshCols   : Nat
  spadBytes  : Nat
  spadBanks  : Nat
  stackCount : Nat
  stackBytes : Nat
  ports      : Nat
  lanes      : Nat
  optical    : Nat
deriving DecidableEq, Repr

/-- R5: the values of the Plaloth 9. -/
def plaloth9 : ParamBlock := ⟨9, 3, 16, 64, 4, 2, 144, 12, 12, 524288, 32, 12, 68719476736, 12, 8, 1⟩

/-- An admitted task group (R558). `maps` are the pages of its translation map, `root` its level-1 table. -/
structure Group where
  live      : Bool
  tag       : Nat
  owner     : Nat
  footprint : Nat
  maps      : List (Nat × Nat)
  root      : Nat
  residents : List Resident
  peers     : List Nat
  borrow    : List (Nat × Nat × Nat × Nat)
  handles   : Nat
  windows   : List Nat
  mcasts    : List Nat
  shadow    : Option Shadow
  ending    : Bool
  serves    : Option Nat
deriving DecidableEq, Repr

/-- No group. -/
def Group.none : Group := ⟨false, 0, 0, 0, [], 0, [], [], [], 0, [], [], Option.none, false, Option.none⟩

/-- The commit record of a task (R473), of which COMMIT_QUERY reads (R564): `gen` is the generation of the run that committed last. -/
structure TaskRec where
  tag    : Nat
  last   : Nat
  gen    : Nat
  status : Nat
  final  : Bool
deriving DecidableEq, Repr

/-- One dimension of a descriptor (R217). -/
structure Dim where
  stride : Int
  extent : Nat
  vlo    : Nat
  vlen   : Nat
deriving DecidableEq, Repr

/-- A tensor descriptor (R217) with its task virtual address; `w` is the element width in bits, 64 for a bitmap array,
whose elements are the words of R70. -/
structure Desc where
  addr   : Nat
  base   : Nat
  fmt    : Nat
  w      : Nat
  spform : Nat
  declNm : Nat
  ndim   : Nat
  alias_ : Bool
  tscale : Nat
  fill   : Nat
  zp     : Nat
  tag    : Nat
  dims   : List Dim
deriving DecidableEq, Repr

/-- An operand slot (R245, R559). -/
structure SlotBind where
  values : Option Desc
  scales : Option Desc
  struct_ : Option Desc
  rowptr : Option Desc
  pad    : Nat
deriving DecidableEq, Repr

/-- A stream table entry (R244) with its program image (R252), where it is a program stream, or the COUNT of its list
(R229). -/
structure StreamEnt where
  kind    : Nat
  dir     : Nat
  slot    : Nat
  flags   : Nat
  window  : Nat
  box     : List Nat
  source  : Nat
  entries : Nat
  lm      : Nat
  ln      : Nat
  lk      : Nat
  lj      : Nat
  params  : List Nat
  code    : List Nat
  count   : Nat
deriving DecidableEq, Repr

/-- A row-function parameter entry (R156). -/
structure ParamEnt where
  p0     : F32
  causal : Bool
  qpos0  : Nat
  kpos0  : Nat
  k      : Nat
  vfmt   : Nat
deriving DecidableEq, Repr

/-- A buffer of a tile program (R110). -/
structure Buf where
  base : Nat
  rows : Nat
  full : Bool
deriving DecidableEq, Repr

/-- A tile program (R109, R110, R113); operations are their 64-bit words. -/
structure TileProg where
  addr      : Nat
  gang      : Nat
  tileK     : Nat
  ovfPasses : Nat
  ovfDims   : Nat
  planM     : Nat
  planN     : Nat
  planK     : Nat
  planJ     : Nat
  bufs      : List Buf
  ops       : List Nat
deriving DecidableEq, Repr

/-- A row-bin table (R93): FIRST and COUNT of each bin, the row list, and the task virtual address of the row list. -/
structure BinTab where
  listVa   : Nat
  gangRows : Nat
  bins     : List (Nat × Nat)
  rows     : List Nat
deriving DecidableEq, Repr

/-- A predictor record (R167). -/
structure Pred where
  addr    : Nat
  layer   : Nat
  rank    : Nat
  select  : Nat
  limit   : Nat
  seed    : Nat
  tokidx  : Desc
  state   : Nat
  isPred  : Bool
deriving DecidableEq, Repr

/-- An Erg operation record (R350) with LEN as read at launch (R358). -/
structure ErgRec where
  op     : Nat
  stack  : Nat
  param0 : Nat
  src0   : Nat
  src1   : Nat
  src2   : Nat
  dst0   : Nat
  dst1   : Nat
  param1 : Nat
  param2 : Nat
  len    : Nat
deriving DecidableEq, Repr

/-- The header of a list of block coordinates (R229): dimensions, entries and block shape. -/
structure ListHead where
  ndim  : Nat
  count : Nat
  block : List Nat
deriving DecidableEq, Repr

/-- The layout word of a decode attention (R358). -/
structure AttnShape where
  fmt     : Nat
  dim     : Nat
  kvHeads : Nat
  group   : Nat
deriving DecidableEq, Repr

/-- An Erg operation with the descriptors and the list header that its record names (R351). -/
inductive ErgJob where
  | gather (target : Desc) (list : Nat) (h : ListHead) (packed : Desc)
  | scatter (packed : Desc) (list : Nat) (h : ListHead) (target : Desc)
  | keys (both : Bool) (a b out pos : Desc)
  | decompress (vals maps ptrs out : Desc)
  | topk (rows vals cols : Desc) (k : Nat)
  | sumCheck (list : Nat) (result verdict : Desc) (mode : Nat)
  | attn (q out : Desc) (table : Nat) (shape : AttnShape) (sigma : F32)
deriving DecidableEq, Repr

/-- A launched step (R559): everything the firmware read and validated at its first launch. -/
structure Launch where
  kind      : Nat
  req       : StepReq
  prog      : TileProg
  streams   : List StreamEnt
  slots     : List SlotBind
  params    : List ParamEnt
  bins      : Option BinTab
  partAddr  : Nat
  staging   : Nat
  pred      : Option Pred
  dense     : Bool
  mcast     : Nat
  extM      : Nat
  extN      : Nat
  extK      : Nat
  extJ      : Nat
  erg       : List ErgRec
  jobs      : List ErgJob
  swarmAddr : Nat
  audRows   : List Nat
  waitEnt   : Nat
deriving DecidableEq, Repr

/-- A re-issue entry (R313) on the list of the counter of a die: copy 0 in the Capacity profile, 1 to 3 for A to C. -/
structure Reissue where
  die     : Nat
  tile    : Nat
  gen     : Nat
  copy    : Nat
  combine : Bool
  audit   : Bool
deriving DecidableEq, Repr

/-- An output slot (R135): 0 FREE, 1 CLAIMED by `core`, 2 DONE, for generation `gen`. -/
structure OutSlot where
  gen   : Nat
  state : Nat
  core  : Nat
deriving DecidableEq, Repr

/-- A slot never claimed. -/
def OutSlot.free : OutSlot := ⟨0, 0, 0⟩

/-- A vote entry (R26). -/
structure Vote where
  sig  : Nat
  core : Nat
  copy : Nat
deriving DecidableEq, Repr

/-- Where a context's step stands. -/
inductive Run where
  | idle | running | aborted | ended
deriving DecidableEq, Repr

/-- A context (R308 to R322) with its tile counters, one cursor a die, and its running step; `base` is the first tile index of
the running pass, `ran` the run count of each core that has left the running step (R115). -/
structure Ctx where
  live     : Bool
  group    : Nat
  task     : Nat
  cls      : Nat
  weight   : Nat
  maxCores : Nat
  urgCores : Nat
  split    : Nat
  queue    : List StepReq
  stepNo   : Nat
  run      : Run
  launch   : Option Launch
  launchNo : Nat
  gen      : Nat
  pass     : Nat
  sweep    : Nat
  cur      : List Nat
  done     : List Nat
  reissue  : List Reissue
  slots    : Table OutSlot
  votes    : Table (List Vote)
  took     : List (Nat × Nat)
  expiries : Table Nat
  released : Table (List Nat)
  combines : List Nat
  anchor   : Nat
  failures : Nat
  cause    : Nat
  causeSt  : Nat
  remote   : List (Nat × Nat)
  wrote    : List (Nat × Nat)
  masses   : List (Nat × Nat × Nat)
  ergDone  : List Nat
  ergSent  : Nat
  partials : List (Nat × Nat)
  preds    : List Nat
  empty    : Bool
  base     : Nat
  ran      : Table Nat
  staging  : Nat
  known    : List Launch
  params   : Option ParamBlock
deriving DecidableEq, Repr

/-- A context not resident. -/
def Ctx.idle : Ctx := ⟨false, 0, 0, 0, 0, 0, 0, 0, [], 0, .idle, none, 0, 0, 0, 0, [0, 0], [], [], [], [], [], [], [],
  [], 0, 0, 0, 0, [], [], [], [], 0, [], [], false, 0, [], 0, [], none⟩

/-! Cores. -/

/-- Accumulators of one set (R47): FP32, or 48-bit integers for INT8 operands. An empty list reads as +0. -/
structure Acc where
  int : Bool
  f   : List F32
  i   : List Int
deriving DecidableEq, Repr

/-- Accumulators at +0. -/
def Acc.zero : Acc := ⟨false, [], []⟩

/-- The state a row function keeps of one row (R159 to R162). -/
structure RowSt where
  m   : F32
  l   : F32
  q   : F32
  sum : F32
deriving DecidableEq, Repr

/-- One section of a running program (R114, R116, R118). `pc` indexes the section's operations; `seq` numbers issued
operations; `open_` are the numbers not complete; `posts` the TOKPOSTs waiting; `armed` the word of the latest MATCH. `wait`
is the token and state of a TOKWAIT; `fence` the SCOPE of a FENCE plus 16 times the core's next stream operation. -/
structure Sect where
  pc    : Nat
  wait  : Option (Nat × Bool)
  fence : Option Nat
  seq   : Nat
  open_ : List Nat
  posts : List (Nat × Nat × Bool)
  armed : Option Nat
deriving DecidableEq, Repr

/-- A section not yet issued. -/
def Sect.start : Sect := ⟨0, none, none, 0, [], [], none⟩

/-- A grant a core holds (R120): the tile, its tag and copy, its coordinates and run position, its sections and its
watchdog. `combine` marks a combine (R134), taken from the re-issue list when `relist`, run when `merged`; `alone` a final
run position that runs only the DRAIN and what follows it (R150); `mute` a tile that writes nothing more; `stands` one whose
signature or partial is posted (R316); `won` one whose drain may write (R26); `masses` what an audit tile has measured
(R171); `maskIn` a run position whose mask has been loaded (R168); `nonfin` a tile that has counted in CELL_NONFIN_TILE_CNT (R65); `binRows` the row-list entries of its bin, read when the
grant arrived (R122). -/
structure Grant where
  tile    : Nat
  gen     : Nat
  copy    : Nat
  combine : Bool
  audit   : Bool
  arrived : Bool
  relist  : Bool
  merged  : Bool
  mb      : Nat
  nb      : Nat
  kb      : Nat
  jb      : Nat
  parity  : Nat
  alone   : Bool
  pf      : Sect
  cp      : Sect
  running : Bool
  issued  : Bool
  wdog    : Bool
  rows    : List RowSt
  set     : Nat
  drained : Bool
  mute    : Bool
  stands  : Bool
  won     : Bool
  masses  : List (Nat × Nat × Nat)
  maskIn  : Bool
  nonfin  : Bool
  binRows : List Nat
deriving DecidableEq, Repr

/-- An operation of the stream engine (R256): the buffer it moves to or from, in module physical addresses, and the tile it
belongs to; `num` is its number within its section. `clipM` and `clipN` are the rows and columns that a STORE may write
(R247). `held` marks a LOAD that waits for the mask of its run position (R168); `next` is the entry of its group that a list stream
moves next (R250). -/
structure StrmOp where
  id     : Nat
  ctx    : Nat
  tile   : Nat
  gen    : Nat
  copy   : Nat
  pf     : Bool
  num    : Nat
  write  : Bool
  stream : Nat
  part   : Nat
  base   : Nat
  size   : Nat
  mb     : Nat
  nb     : Nat
  kb     : Nat
  jb     : Nat
  coord  : Nat
  clipM  : Option Nat
  clipN  : Option Nat
  mask   : Bool
  held   : Bool
  begun  : Bool
  sent   : Bool
  next   : Nat
deriving DecidableEq, Repr

/-- A piece of a block within one 128-byte line: `nbits` bits from bit `sbit` of the line at `va`, to or from bit `dst` of the
module's memory, which lies in a scratchpad, and to each bit of `more`, where a run of stride 0 stands again in the block (R247). For
a write `val` is the data. `win` is the handle plus one of a window stream; `ant` marks a block registered with the Ant chain; `miss`
a piece that a TLB miss holds; `looked` one that has counted as a miss of the cache (R215); `meta_` one that fetches bitmap words or
row pointers for the engine itself (R248). -/
structure Piece where
  op    : Nat
  blk   : Nat
  va    : Nat
  sbit  : Nat
  nbits : Nat
  dst   : Nat
  val   : Nat
  write : Bool
  win   : Nat
  ant   : Bool
  cache : Bool
  desc  : Nat
  tag   : Nat
  miss  : Bool
  looked : Bool
  more  : List Nat
  meta_ : Bool
deriving DecidableEq, Repr

/-- A read tracker (R257, R267). -/
structure Tracker where
  id    : Nat
  piece : Piece
  pa    : Nat
  epoch : Nat
  urg   : Bool
deriving DecidableEq, Repr

/-- A write tracker (R257). -/
structure WrTracker where
  piece : Piece
  pa    : Nat
  ctx   : Nat
  gen   : Nat
  tile  : Nat
  stream : Nat
deriving DecidableEq, Repr

/-- A run of a stream program (R253). -/
structure ProgRun where
  op     : Nat
  pc     : Nat
  a      : List (BitVec 64)
  n      : List (BitVec 32)
  insts  : Nat
  emits  : Nat
deriving DecidableEq, Repr

/-- A leaf translation of a TLB (R236). -/
structure Leaf where
  ctx   : Nat
  vpn   : Nat
  entry : Nat
deriving DecidableEq, Repr

/-- A walk under way (R236): the page, whether an invalidation has overtaken it (R238), and whether it holds an urgent tracker (R258). -/
structure Walk where
  vpn   : Nat
  stale : Bool
  urg   : Bool
deriving DecidableEq, Repr

/-- A block of the values or row pointers of a bitmap-compressed operand whose bitmap words and row pointers are on their way (R248):
its operation and number, its origin and slot, and the bytes that have come, by task virtual address or window offset. -/
structure Pack where
  op     : Nat
  blk    : Nat
  origin : List Int
  slot   : Nat
  got    : List (Nat × Byte)
deriving DecidableEq, Repr

/-- A block of an operation at a place of its buffer. -/
structure BlockAt where
  op     : Nat
  origin : List Int
  slot   : Nat
deriving DecidableEq, Repr

/-- A core (04 to 08). `late` are the released trackers, with their epochs, whose responses have still to come, and `busy` the
cancellations that wait for an epoch value in use (R267); `packs` are the blocks of R248 that wait for their structure, `again` the
blocks that a taker of an abandoned Ant entry has to register again (R263). `spad` is part of the byte memory; `progs` is the program store of R112, the program of the context served
last first: context, address, operations; `tokens` bit n is one when the token of buffer n is FULL; `test` is 0 for
no self-test (R328), 1 while the core is being withdrawn for one, 2 during it, 3 while its request waits. -/
structure Core where
  ctx      : Option Nat
  moving   : Bool
  moveTo   : Option Nat
  owner    : Nat
  progs    : List (Nat × Nat × List Nat)
  runs     : Nat
  grants   : List Grant
  tokens   : Nat
  acc0     : Acc
  acc1     : Acc
  nextOp   : Nat
  ops      : List StrmOp
  prog     : Option ProgRun
  nextBlk  : Nat
  lines    : List Piece
  rd       : List Tracker
  wr       : List WrTracker
  epoch    : Nat
  tlb      : List Leaf
  walks    : List Walk
  cache    : Table Nat
  plru     : Table Nat
  misses   : List Nat
  errs     : Nat
  execs    : Nat
  lossAt   : Option Nat
  test     : Nat
  testReq  : List Nat
  late     : List (Nat × Nat)
  busy     : Nat
  packs    : List Pack
  again    : List BlockAt
deriving DecidableEq, Repr

/-- The agents at the ports of a scratchpad (R181, R184). -/
inductive SpadUnit where
  | scarab | accLoad | cells | scrub | drain | streamWrite | streamRead | cache | vector | aperture
deriving DecidableEq, Repr

/-- A section of a tile on a core (R114): the context, the tile with its tag and copy, and which of the two sections. -/
structure SectId where
  ctx  : Nat
  tile : Nat
  gen  : Nat
  copy : Nat
  pf   : Bool
deriving DecidableEq, Repr

/-- The latest access of an agent to a scratchpad, a read or a write, which a write can meet in one cycle (R186, R187): its addresses and
lengths, and the operation that makes it, by its section and its number there; none where no operation does. -/
structure SpadAcc where
  unit  : SpadUnit
  write : Bool
  runs  : List (Nat × Nat)
  own   : Option (SectId × Nat)
deriving DecidableEq, Repr

/-- A core that serves no context. -/
def Core.idle : Core := ⟨none, false, none, 0, [], 0, [], 0, .zero, .zero, 0, [], none, 0, [], [], [], 0, [],
  [], [], [], [], 0, 0, none, 0, [], [], 0, [], []⟩

/-- A block that a core takes from the Ant chain (R261): the core, its block, and where it begins in the core's scratchpad. -/
structure Taker where
  core : Nat
  at_  : BlockAt
  base : Nat
deriving DecidableEq, Repr

/-- An Ant directory entry (R261) of a die's mesh row: the key, the source with its operation and the block's place in its
scratchpad, the takers, the pieces of the block with their places within it once they are `known`, the rows that memory supplies, those
that have reached the source's mesh stop, and those that have landed at each taker. `sect` is the section that the source's operation
belongs to. -/
structure AntEntry where
  key    : List Int
  source : Nat
  sect   : SectId
  op     : Nat
  blk    : Nat
  base   : Nat
  size   : Nat
  isOpen : Bool
  takers : List Taker
  known  : Bool
  pieces : List Piece
  need   : List Nat
  rows   : List (Nat × List Byte)
  landed : List (Taker × Nat)
deriving DecidableEq, Repr

/-! Stacks, Erg engines, Swarm. -/

/-- A record in an Erg queue (R352): context, operation index, the generation of its run, class 0. -/
structure ErgEnt where
  ctx    : Nat
  idx    : Nat
  gen    : Nat
  urgent : Bool
deriving DecidableEq, Repr

/-- A read that memory has not yet served (R325): one of a tracker, with its epoch; the walk of a page; the fill of a line. -/
inductive MemReq where
  | read (core id epoch : Nat)
  | walk (core vpn : Nat)
  | fill (core line : Nat)
deriving DecidableEq, Repr

/-- A stack and its Erg engine (11). `queue` is the engine's operation queue (R352), `onCores` the records of the stack that run on cores
since the engine has failed (R364). `urgent` holds the urgent requests of its controller in order of arrival: the first 64 stand in
its urgent queue, those behind them wait in their trackers (R325). -/
structure Stack where
  queue  : List ErgEnt
  onCores : List ErgEnt
  ues    : Nat
  sues   : Nat
  urgent : List MemReq
deriving DecidableEq, Repr

/-- A stack with nothing queued. -/
def Stack.idle : Stack := ⟨[], [], 0, 0, []⟩

/-- A bucket of a Swarm step (R445). -/
structure Bucket where
  grad     : Desc
  elements : Nat
  offset   : Nat
deriving DecidableEq, Repr

/-- A check slot (R463): the block, and the positions whose copies have arrived. -/
structure CheckSlot where
  bucket : Nat
  shard  : Nat
  block  : Nat
  from_  : List Nat
  issued : Bool
deriving DecidableEq, Repr

/-- A Swarm step (14): its record as read at the launch (R445), and how far its run has come. `total` is the number of the
slice's elements, `reducedB` the blocks (bucket, shard, block) whose value stands in REDUCED, `accs` the accumulators of
R461, `hop1` the blocks that this member has added and passed on, `checked` the sampled blocks whose verdict is in, `chunks`
the gather chunks (entry, shard, chunk) that have landed, `shadowQ` the shadow writes (window offset, task address) that
wait for a credit, `shadowOut` those without an acknowledgement and `stale` those of an aborted run; `hopQ` the blocks whose hop-1
partial has still to leave (R466), `opt` the launch of the optimizer phase as read with the record (R476). -/
structure Swarm where
  live     : Bool
  ctx      : Nat
  gen      : Nat
  step     : Nat
  mode     : Nat
  wire     : Nat
  norm     : Bool
  shState  : Bool
  thin     : Nat
  ring     : List Nat
  pos      : Nat
  headroom : Nat
  cores    : Nat
  buckets  : List Bucket
  resid    : Nat
  scales   : Nat
  reduced  : Nat
  optAddr  : Nat
  prune    : Nat
  pruneN   : Nat
  gathers  : List (Nat × Nat × Nat)
  check    : Nat
  normOut  : Nat
  shHandle : Nat
  digest   : Nat
  digests  : List Nat
  phase    : Nat
  reducedB : List (Nat × Nat × Nat)
  accs     : Table (List F32)
  arrived  : List (Nat × Nat × Nat × Nat)
  hop1     : List (Nat × Nat × Nat)
  escs     : Nat
  slots    : List CheckSlot
  checked  : List (Nat × Nat × Nat)
  norms    : Table (Option F32)
  pruned   : Nat
  chunks   : List (Nat × Nat × Nat)
  readys   : List Nat
  frozen   : Bool
  asked    : List (Nat × Bool)
  readySent : Bool
  total    : Nat
  shadowQ  : List (Nat × Nat)
  shadowOut : Nat
  stale    : Nat
  hopQ     : List (Nat × Nat × Nat)
  opt      : Option Launch
deriving DecidableEq, Repr

/-- No Swarm step. -/
def Swarm.idle : Swarm := ⟨false, 0, 0, 0, 0, 0, false, false, 0, [], 0, 0, 0, [], 0, 0, 0, 0, 0, 0, [], 0, 0, 0, 0, [],
  0, [], [], [], [], 0, [], [], [], 0, [], [], false, [], false, 0, [], 0, 0, [], none⟩

/-- A digest that has arrived while no run of a Swarm step was live (R446): sender, STEP and GEN of its message, and the digest. -/
structure SwDigest where
  src    : Nat
  step   : Nat
  gen    : Nat
  digest : Nat
deriving DecidableEq, Repr

/-- A takeover (R486): the module `id` that has gone, and the partner `by_` that serves its slice; the other fields speak of one
that this module carries out itself: `copy` the shadow copy that serves, `replay` the prefill replay steps to come (R487). `named` are the
entries of the module for which the notice names one of the partner. -/
structure Takeover where
  id     : Nat
  by_    : Nat
  group  : Nat
  done   : Bool
  copy   : Nat
  replay : List SeqHist
  named  : List Nat
deriving DecidableEq, Repr

/-! The whole state. -/

/-- A fault of the block: none of the manual's conditions stops the module outside its own states, so no command raises
one; the constructor is there for the interface. Safe. -/
inductive Fault where
  /-- Raised by nothing. Safe. -/
  | neverRaised
deriving DecidableEq, Repr

/-- Why a command is refused. -/
inductive Refusal where
  /-- Raised by an arm of `exec` whose command has no meaning yet. Safe. -/
  | notModelled (mnemonic : String)
deriving DecidableEq, Repr

/-- The state of the module. `badAcc` are the 64-byte accesses that hold two bad symbols or more, `softAcc` those that hold one (R342),
`swarmDone` is the number of the last Swarm step that committed, `free` is the model's own counter of free values used; `out` the model's own record of what
has left the module. -/
structure State where
  pending  : List Instr
  power    : PState
  retry    : Bool
  regs     : Table Word
  mem      : List Host.Cell
  badBytes : List Nat
  badAcc   : List Nat
  softAcc  : List Nat
  flash0   : List Host.Cell
  flash1   : List Host.Cell
  ledger0  : Table Slot
  ledger1  : Table Slot
  start    : StartSt
  cfg      : Option ModCfg
  hmd      : Hmd
  wadi     : Wadi
  queues   : Table Queue
  ports    : Table Port
  routes   : Table (BitVec 32)
  members  : Table Member
  epoch    : Nat
  annNo    : Nat
  wins     : Table Win
  handles  : Table Handle
  mcasts   : Table Mcast
  groups   : Table Group
  tasks    : List TaskRec
  ctxs     : Table Ctx
  cores    : Table Core
  spadAcc  : Table (List SpadAcc)
  ant      : Table (List AntEntry)
  stackTab : Table Stack
  swarm    : Swarm
  swarmDone : Option Nat
  digests  : List SwDigest
  takeover : List Takeover
  shadowOf : List (Nat × Shadow)
  history  : List SeqHist
  params   : Option ParamBlock
  scan     : List Nat
  scanPins : List Nat
  owners   : Nat
  free     : Nat
  out      : List Out
deriving DecidableEq, Repr

/-- Nothing kept by earlier starts. -/
def Kept.none : Kept := ⟨0, 0, 0, 0, 0, 0, 0, 0, 0, [], 0⟩

/-- The start sequence before S01. -/
def StartSt.idle : StartSt := ⟨.none, [], [], false, 0, 3, 0, 0, false, false, false, [], false, false, Option.none⟩

/-- The Hamada partition at a start: the cap and the targets at their highest. -/
def Hmd.idle : Hmd := ⟨0, false, 2100, 2250, 2250, 2250, [], [], 0, 0, 0, [], 0, 0, none, false, [], [], none, 0, 0, []⟩

/-- The Wadi port with no session. -/
def Wadi.idle : Wadi := ⟨0, 0, 0, 0, 0, 0, [], [], [], [], [], [], [], [], [], false, false, false, false⟩

/-- The flash of a device as supplied, in canonical form. -/
def suppliedFlash (dev : Nat) : List Host.Cell := (Config.shippedFlash dev).foldl (fun m p => tput 0xFF m p.1 p.2) []

/-- The module as supplied and without power (R583): Off, every register at its reset value, the flash as the vendor
programs it (R602), the ledger empty. -/
def State.reset : State where
  pending := []
  power := .off
  retry := false
  regs := []
  mem := []
  badBytes := []
  badAcc := []
  softAcc := []
  flash0 := suppliedFlash 0
  flash1 := suppliedFlash 1
  ledger0 := []
  ledger1 := []
  start := .idle
  cfg := none
  hmd := .idle
  wadi := .idle
  queues := []
  ports := []
  routes := []
  members := []
  epoch := 0
  annNo := 0
  wins := []
  handles := []
  mcasts := []
  groups := []
  tasks := []
  ctxs := []
  cores := []
  spadAcc := []
  ant := []
  stackTab := []
  swarm := .idle
  swarmDone := none
  digests := []
  takeover := []
  shadowOf := []
  history := []
  params := none
  scan := []
  scanPins := []
  owners := 0
  free := 0
  out := []

end Sys2Proof.Machine
end

