-- ==== Sys2Proof/Machine/Ops.lean ====
section
/-!
DEFINITION. The shared operations over registers and memory: the one place where a register field is read, written or
counted (R8 to R11), the address map (R6, R7), bytes of memory and their parity (R12, R201), and the accessors of the
tables of units.
-/
namespace Sys2Proof.Machine

/-- The answer of a command. -/
abbrev Res := Host.Outcome State Fault Refusal

/-! Registers. -/

/-- The reset value of the register at an address; HMD_SERIAL holds the fused serial number (R542). -/
def resetWord (a : Nat) : Word := if a = Reg.HMD_SERIAL then Config.serial else BitVec.ofNat 64 (resetOf (fieldsAt a))

/-- The stored value of a register. -/
def State.reg (s : State) (a : Nat) : Nat := (tget (resetWord a) s.regs a).toNat

/-- The state with a register's stored value replaced, by the hardware. -/
def State.putReg (s : State) (a v : Nat) : State :=
  { s with regs := tput (resetWord a) s.regs a (BitVec.ofNat 64 v) }

/-- The value of one field of a register. -/
def State.fld (s : State) (a : Nat) (f : Fld) : Nat := bitsOf (s.reg a) f.hi f.lo

/-- One field of a register written by the hardware, whatever its access code. -/
def State.setFld (s : State) (a : Nat) (f : Fld) (x : Nat) : State := s.putReg a (withBits (s.reg a) f.hi f.lo x)

/-- A counter field increased by `n`; it wraps to zero after its highest value. -/
def State.bump (s : State) (a : Nat) (f : Fld) (n : Nat) : State := s.setFld a f (s.fld a f + n)

/-- A counter field increased by `n` that saturates at its highest value. -/
def State.bumpSat (s : State) (a : Nat) (f : Fld) (n : Nat) : State :=
  s.setFld a f (min (s.fld a f + n) (2 ^ (f.hi + 1 - f.lo) - 1))

/-- Access codes R8 to R11 for one field: `written` bits of the new value go in under the field's code. `wmask` holds the
bits of the register that the access covers (all, or one half). -/
def writeField (locked : Bool) (old new wmask : Nat) (f : FieldDef) (v : Nat) : Nat :=
  let m := (2 ^ (f.hi + 1 - f.lo) - 1) * 2 ^ f.lo
  let w := m &&& wmask
  match f.acc with
  | .rw => (v &&& (2 ^ 64 - 1 - w)) ||| (new &&& w)
  | .rwl => if locked then v else (v &&& (2 ^ 64 - 1 - w)) ||| (new &&& w)
  | .w1c => v &&& (2 ^ 64 - 1 - (old &&& new &&& w))
  | .ro => v
  | .wo => v
  | .hw => v

/-- The value a register takes when software writes `new` over the bits of `wmask` (R8 to R11). -/
def writeFields (locked : Bool) (fs : List FieldDef) (old new wmask : Nat) : Nat :=
  fs.foldl (fun v f => writeField locked old new wmask f v) old

/-- The bits that an access of `size` bytes at address `a` covers: all, the low half, the high half, or none where R8
admits no such access. -/
def accessMask (a size : Nat) : Nat :=
  if size = 8 ∧ a % 8 = 0 then 2 ^ 64 - 1
  else if size = 4 ∧ a % 8 = 0 then 2 ^ 32 - 1
  else if size = 4 ∧ a % 8 = 4 then (2 ^ 32 - 1) * 2 ^ 32
  else 0

/-- A value bounded to `lo … hi`. -/
def clampTo (lo hi x : Nat) : Nat := if x < lo then lo else if x > hi then hi else x

/-! The address map. -/

/-- HBM (R6). -/
def hbmSize : Nat := 0x00C000000000
/-- The scratchpad apertures (R6, R179). -/
def spadBase (c : Nat) : Nat := 0x010000000000 + c * 0x80000
/-- The Erg SRAM of a stack (R6, R349). -/
def sramBase (t : Nat) : Nat := 0x018000000000 + t * 0x1000000

/-- The address lies in HBM. -/
def inHbm (a : Nat) : Bool := a < hbmSize
/-- The address lies in a scratchpad aperture. -/
def inSpad (a : Nat) : Bool := 0x010000000000 ≤ a && a < 0x010009000000
/-- The address lies in the SRAM of an Erg engine. -/
def inSram (a : Nat) : Bool := 0x018000000000 ≤ a && a < 0x01800C000000 && a % 0x1000000 < 0x800000
/-- The address lies in the part of an Erg SRAM that tasks and bulk frames reach (R349, R561). -/
def inTaskSram (a : Nat) : Bool := inSram a && a % 0x1000000 < 0x600000
/-- An address that holds a byte of memory; the other addresses below the registers are reserved (R6, R7). -/
def isMemory (a : Nat) : Bool := inHbm a || inSpad a || inSram a

/-- The stack that holds an address of HBM or Erg SRAM. -/
def stackOf (a : Nat) : Nat := if inHbm a then a / 0x1000000000 else (a - 0x018000000000) / 0x1000000

/-- The page of 2 MiB that holds an address (R233), and the first address of a page. -/
def pageOf (va : Nat) : Nat := va / 0x200000
def pageStart (vpn : Nat) : Nat := vpn * 0x200000

/-! Memory. Every byte that nothing has written reads as zero. -/

/-- The byte at a module physical address; a reserved address reads as zero (R7). -/
def State.byte (s : State) (a : Nat) : Byte := tget 0 s.mem a

/-- `n` bytes from `a`. -/
def State.bytes (s : State) (a n : Nat) : List Byte := (List.range n).map (fun i => s.byte (a + i))

/-- The little-endian number in `n` bytes from `a` (R12). -/
def State.num (s : State) (a n : Nat) : Nat := ofLE (s.bytes a n)

/-- The memory with one byte stored; a store to a reserved address is discarded (R7). -/
def memPut (m : List Host.Cell) (a : Nat) (b : Byte) : List Host.Cell := if isMemory a then tput 0 m a b else m

/-- The memory with bytes stored from `a` upward. -/
def memPuts : List Host.Cell → Nat → List Byte → List Host.Cell
  | m, _, [] => m
  | m, a, b :: bs => memPuts (memPut m a b) (a + 1) bs

/-- The accesses that `n` bytes from `a` do not cover whole. -/
def notCovered (a n : Nat) (l : List Nat) : List Nat := l.filter (fun x => !(a ≤ x * 64 && x * 64 + 64 ≤ a + n))

/-- Bytes stored from `a` upward: their parity is written with them (R201), and an access of 64 bytes stored whole has
good check symbols (R342). -/
def State.store (s : State) (a : Nat) (bs : List Byte) : State :=
  { s with
    mem := memPuts s.mem a bs
    badBytes := s.badBytes.filter (fun x => !(a ≤ x && x < a + bs.length))
    badAcc := notCovered a bs.length s.badAcc
    softAcc := notCovered a bs.length s.softAcc }

/-- `n` zero bytes stored from `a` upward (R180, R200, R506 S12, R540). -/
def State.wipe (s : State) (a n : Nat) : State :=
  { s with
    mem := s.mem.filter (fun c => !(a ≤ c.1 && c.1 < a + n))
    badBytes := s.badBytes.filter (fun x => !(a ≤ x && x < a + n))
    badAcc := notCovered a n s.badAcc
    softAcc := notCovered a n s.softAcc }

/-- The 64-byte accesses that `n` bytes from `a` touch. -/
def accessesOf (a n : Nat) : List Nat :=
  if n = 0 then [] else (List.range ((a + n - 1) / 64 + 1 - a / 64)).map (fun i => a / 64 + i)

/-- An access that the symbol ECC or the SRAM ECC cannot correct lies in the bytes (R342, R349). -/
def State.hasUe (s : State) (a n : Nat) : Bool := s.badAcc.any (fun x => a < x * 64 + 64 && x * 64 < a + n)

/-- R342, R349, R367, R372: access `x`, which holds one bad symbol, is read: it is corrected, written back and counted. -/
def State.correctAcc (s : State) (x : Nat) : State :=
  let t := stackOf (x * 64)
  let s := if inHbm (x * 64) then s.bump (Reg.HBM_ECC_CNT t) Fld.HBM_ECC_CNT_CE 1
    else if inSram (x * 64) then s.bump (Reg.ERG_SRAM_ECC t) Fld.ERG_SRAM_ECC_CE 1
    else s
  { s with softAcc := s.softAcc.filter (fun y => y != x) }

/-- R342: `n` bytes from `a` are read: those of their accesses that hold one bad symbol are corrected. -/
def State.correct (s : State) (a n : Nat) : State :=
  (s.softAcc.filter (fun x => a < x * 64 + 64 && x * 64 < a + n && !s.badAcc.contains x)).foldl State.correctAcc s

/-- A byte of bad parity lies in the bytes (R201). -/
def State.hasBad (s : State) (a n : Nat) : Bool := s.badBytes.any (fun x => a ≤ x && x < a + n)

/-- A memory whose list is in canonical form. -/
def Memory.wf (m : List Host.Cell) : Bool := Table.wf (0 : Byte) m

/-- Bits `lo … lo + n - 1` of memory, counted from bit 0 of the byte at `a`, as a number (R12, R39, R40). -/
def State.getBits (s : State) (a lo n : Nat) : Nat :=
  (s.num (a + lo / 8) ((lo % 8 + n + 7) / 8) / 2 ^ (lo % 8)) % 2 ^ n

/-- The bytes that hold the bits, with the bits replaced by `v` and the other bits kept (R228). -/
def State.mergeBits (s : State) (a lo n v : Nat) : List Byte :=
  let k := (lo % 8 + n + 7) / 8
  let old := s.num (a + lo / 8) k
  leBytes k (withBits old (lo % 8 + n - 1) (lo % 8) v)

/-- Bits of memory replaced. -/
def State.setBits (s : State) (a lo n v : Nat) : State :=
  if n = 0 then s else s.store (a + lo / 8) (s.mergeBits a lo n v)

/-- Bits to be written: `n` bits of `val` from bit `lo`, counted from bit 0 of the byte at `addr`. -/
structure BitRun where
  addr : Nat
  lo   : Nat
  n    : Nat
  val  : Nat
deriving DecidableEq, Repr

/-- The bytes that a run of bits touches. -/
def BitRun.bytes (r : BitRun) : Nat × Nat := (r.addr + r.lo / 8, if r.n = 0 then 0 else (r.lo % 8 + r.n + 7) / 8)

/-- Runs of bits written one after another. -/
def State.putRuns (s : State) (rs : List BitRun) : State := rs.foldl (fun s r => s.setBits r.addr r.lo r.n r.val) s

/-! The tables of units. -/

def State.queue (s : State) (q : Nat) : Queue := tget .idle s.queues q
def State.putQ (s : State) (q : Nat) (x : Queue) : State := { s with queues := tput .idle s.queues q x }
def State.port (s : State) (p : Nat) : Port := tget .idle s.ports p
def State.putPort (s : State) (p : Nat) (x : Port) : State := { s with ports := tput .idle s.ports p x }
def State.member (s : State) (i : Nat) : Member := tget .absent s.members i
def State.putMember (s : State) (i : Nat) (x : Member) : State := { s with members := tput .absent s.members i x }
def State.win (s : State) (e : Nat) : Win := tget .idle s.wins e
def State.putWin (s : State) (e : Nat) (x : Win) : State := { s with wins := tput .idle s.wins e x }
def State.handle (s : State) (h : Nat) : Handle := tget .none s.handles h
def State.putHandle (s : State) (h : Nat) (x : Handle) : State := { s with handles := tput .none s.handles h x }
def State.mcast (s : State) (g : Nat) : Mcast := tget .idle s.mcasts g
def State.putMcast (s : State) (g : Nat) (x : Mcast) : State := { s with mcasts := tput .idle s.mcasts g x }
def State.group (s : State) (g : Nat) : Group := tget .none s.groups g
def State.putGroup (s : State) (g : Nat) (x : Group) : State := { s with groups := tput .none s.groups g x }
def State.ctx (s : State) (x : Nat) : Ctx := tget .idle s.ctxs x
def State.putCtx (s : State) (x : Nat) (c : Ctx) : State := { s with ctxs := tput .idle s.ctxs x c }
def State.core (s : State) (c : Nat) : Core := tget .idle s.cores c
def State.putCore (s : State) (c : Nat) (x : Core) : State := { s with cores := tput .idle s.cores c x }
def State.stack (s : State) (t : Nat) : Stack := tget .idle s.stackTab t
def State.putStack (s : State) (t : Nat) (x : Stack) : State := { s with stackTab := tput .idle s.stackTab t x }

/-- The state with a change of the Wadi record. -/
def State.withWadi (s : State) (f : Wadi → Wadi) : State := { s with wadi := f s.wadi }

/-- The state with one more free value used. -/
def State.used (s : State) : State := { s with free := s.free + 1 }

/-- Something leaves the module. -/
def State.emit (s : State) (o : Out) : State := { s with out := s.out ++ [o] }

/-- The configuration in force; before S05 every field reads as its default (R500, R501). -/
def State.conf (s : State) : ModCfg :=
  s.cfg.getD ⟨0, 0, 0, 65536, 6000, 1000, 2100, 72, 4, 4, 40, 8, 40, 8, 2, 16, 1, 0x0FFF, 131072, 16384, 65536, 262144,
    [], [], 0, []⟩

/-- The Assured profile is in force (R23). -/
def State.assured (s : State) : Bool := s.conf.profile == 1

/-- The section that an operation of the stream engine belongs to. -/
def StrmOp.sect (o : StrmOp) : SectId := ⟨o.ctx, o.tile, o.gen, o.copy, o.pf⟩

/-- The operation of the stream engine that an access belongs to. -/
def StrmOp.own (o : StrmOp) : Option (SectId × Nat) := some (o.sect, o.num)

/-! Accesses of one cycle (R182 to R187). -/

/-- The core whose scratchpad holds an address. -/
def spadCore (a : Nat) : Nat := (a - spadBase 0) / 0x80000

/-- The `unit`-byte words or rows that `n` bytes from `a` touch. -/
def unitsIn (unit a n : Nat) : List Nat :=
  if n = 0 then [] else (List.range ((a + n - 1) / unit + 1 - a / unit)).map (fun i => a / unit + i)

/-- The access touches word or row `u`. -/
def SpadAcc.touches (x : SpadAcc) (unit u : Nat) : Bool := x.runs.any (fun r => (unitsIn unit r.1 r.2).contains u)

/-- The access covers the byte. -/
def SpadAcc.covers (x : SpadAcc) (a : Nat) : Bool := x.runs.any (fun r => r.1 ≤ a && decide (a < r.1 + r.2))

/-- The place of an agent in the order of R184 among those of the service ports. -/
def SpadUnit.rank : SpadUnit → Nat
  | .scarab => 0 | .accLoad => 0 | .cells => 0 | .scrub => 0 | .drain => 1 | .streamWrite => 2 | .streamRead => 3 | .cache => 4
  | .vector => 5 | .aperture => 6

/-- The latest accesses to a core's scratchpad that may still be under way, one read and one write of each agent. -/
def State.accesses (s : State) (c : Nat) : List SpadAcc := tget [] s.spadAcc c

/-- The access of an agent noted in place of its last of the kind. -/
def State.noteAcc (s : State) (c : Nat) (x : SpadAcc) : State :=
  { s with spadAcc := tput [] s.spadAcc c (x :: (s.accesses c).filter (fun y => !(y.unit == x.unit && y.write == x.write))) }

/-- R116, R118: accesses that are known to be over. -/
def State.dropAccs (s : State) (c : Nat) (gone : SpadAcc → Bool) : State :=
  { s with spadAcc := tput [] s.spadAcc c ((s.accesses c).filter (fun y => !gone y)) }

/-- The access is one of a section's operations, `before` that number. -/
def SpadAcc.isOf (x : SpadAcc) (k : SectId) (before : Nat) : Bool := x.own.elim false (fun o => o.1 == k && decide (o.2 < before))

/-- R186, R187: the words or rows of a write of `n` bytes at `a` that the access touches too: words of a write, rows of a read. -/
def SpadAcc.meets (x : SpadAcc) (a n : Nat) : List Nat :=
  let unit := if x.write then 4 else 128
  (unitsIn unit a n).filter (x.touches unit)

/-- R186, R187: a write by an agent of the bytes `p.2` at `a` may fall into the cycle of an access of another agent, or of another
stream-engine write: a free choice (log 88). Meeting a read, which has returned the earlier bytes, it lands and its rows are counted.
Meeting a write, the bytes that both write keep the value of the agent that is first in the order of R184, and the words are counted. -/
def State.meet (c : Nat) (u : SpadUnit) (a : Nat) (p : State × List Byte) (x : SpadAcc) : State × List Byte :=
  let s := p.1
  let m := x.meets a p.2.length
  if m.isEmpty || (x.unit == u && (u != .streamWrite || !x.write)) then p
  else if !Config.freeBit s.free then (s.used, p.2)
  else if x.write then
    ((s.bump (Reg.SPAD_ROW_COLLIDE c) Fld.SPAD_ROW_COLLIDE_WW_COUNT m.length).used,
      p.2.mapIdx (fun i b => if x.unit.rank < u.rank && x.covers (a + i) then s.byte (a + i) else b))
  else ((s.bump (Reg.SPAD_ROW_COLLIDE c) Fld.SPAD_ROW_COLLIDE_RW_COUNT m.length).used, p.2)

/-- Bytes written to a scratchpad by an agent, with what they meet. -/
def State.landAt (s : State) (u : SpadUnit) (a : Nat) (bs : List Byte) : State :=
  let c := spadCore a
  let p := (s.accesses c).foldl (State.meet c u a) (s, bs)
  p.1.store a p.2

/-- Bytes written to a scratchpad by an agent for an operation, and the access noted. -/
def State.land (s : State) (u : SpadUnit) (own : Option (SectId × Nat)) (a : Nat) (bs : List Byte) : State :=
  (s.landAt u a bs).noteAcc (spadCore a) ⟨u, true, [(a, bs.length)], own⟩

/-- Runs of bits written to the scratchpad of core `c` by an agent for an operation, and the access noted. -/
def State.landRuns (s : State) (c : Nat) (u : SpadUnit) (own : Option (SectId × Nat)) (rs : List BitRun) : State :=
  (rs.foldl (fun s r => if r.n = 0 then s else s.landAt u (r.addr + r.lo / 8) (s.mergeBits r.addr r.lo r.n r.val)) s).noteAcc c
    ⟨u, true, rs.map BitRun.bytes, own⟩

/-- R200: the Hamada writes zeros to rows of a core's scratchpad; it comes first at the service ports (R184). -/
def State.scrubRows (s : State) (c a n : Nat) : State :=
  ((s.accesses c).foldl (fun t x =>
    let m := x.meets a n
    if m.isEmpty then t
    else if !Config.freeBit t.free then t.used
    else (t.bump (Reg.SPAD_ROW_COLLIDE c)
      (if x.write then Fld.SPAD_ROW_COLLIDE_WW_COUNT else Fld.SPAD_ROW_COLLIDE_RW_COUNT) m.length).used) s).wipe a n

/-- R205: a stream-engine write arrives at a scratchpad, for an operation of the core or, with none, from outside it. -/
def State.arriveWrite (s : State) (own : Option (SectId × Nat)) (a : Nat) (bs : List Byte) : State := s.land .streamWrite own a bs

/-- Bytes from outside a core written to a window or a spill region, in whichever memory it lies (R205). -/
def State.storeOut (s : State) (a : Nat) (bs : List Byte) : State := if inSpad a then s.arriveWrite none a bs else s.store a bs

/-- R216: the passes beyond the first that the banks of a core serve for the cells and the Scarab. The manual names no accesses that
these units form from an operand, so how many there are is a free value (log 89). The other agents move runs of bytes, a row or part
of one in each access, which take one pass (R182). -/
def State.countPasses (s : State) (c : Nat) : State :=
  ((List.range 16).foldl (fun (t : State) n =>
    (t.bump (Reg.SPAD_CONF_CNT c n) Fld.SPAD_CONF_CNTn_BANK_EVEN (Config.extraPasses s.free (2 * n))).bump
      (Reg.SPAD_CONF_CNT c n) Fld.SPAD_CONF_CNTn_BANK_ODD (Config.extraPasses s.free (2 * n + 1))) s).used

/-! Cores by die (R2). -/

/-- The die of a core. -/
def dieOf (c : Nat) : Nat := c / 144

/-- Every core ID, in ascending order. -/
def allCores : List Nat := List.range 288

/-- The core is fenced (R339). -/
def State.fenced (s : State) (c : Nat) : Bool :=
  bitAt (s.reg (Reg.TILECTR_FENCE (dieOf c) (c % 144 / 64))) (c % 144 % 64)

/-- The fence map with one core added; only the Hamada writes it (R315, R339). -/
def State.setFence (s : State) (c : Nat) : State :=
  let a := Reg.TILECTR_FENCE (dieOf c) (c % 144 / 64)
  s.putReg a (s.reg a ||| 2 ^ (c % 144 % 64))

/-- The unfenced cores of a die. -/
def State.unfenced (s : State) (d : Nat) : List Nat := (allCores.filter (fun c => dieOf c == d)).filter (fun c => !s.fenced c)

/-- The cores that serve a context, in ascending core ID. -/
def State.serving (s : State) (x : Nat) : List Nat := allCores.filter (fun c => (s.core c).ctx == some x)

/-- A context holds a launched step (R583). -/
def State.launched (s : State) : Bool := (List.range 16).any (fun x => (s.ctx x).run == .running || (s.ctx x).run == .aborted)

/-- The module admits and runs work: Ready or Run (R583), with S24 behind it. -/
def State.ready (s : State) : Bool := s.power == .ready && s.fld Reg.START_STATUS Fld.START_STATUS_READY == 1

/-- R594: FAULT#: driven low while HOLD of START_STATUS or VALID of HMD_TRIP_LOG is one, released otherwise, and of high impedance in
Off. -/
def State.faultPin (s : State) : Pin :=
  if s.power == .off then .highZ
  else if s.fld Reg.START_STATUS Fld.START_STATUS_HOLD = 1 ∨ s.fld Reg.HMD_TRIP_LOG Fld.HMD_TRIP_LOG_VALID = 1 then .low
  else .released

/-- The module has its compute rails on after the start (R583). -/
def State.live (s : State) : Bool := s.power == .ready || s.power == .aest

end Sys2Proof.Machine
end

