-- ==== Sys2Proof/Machine/Frames.lean ====
section
/-!
DEFINITION. The frames that the module sends on its Wadi port (R552 to R556, R564): the session that they need, the credits they
return, and the replies that are kept.
-/
namespace Sys2Proof.Machine

/-! Frame classes (R552). -/
def clSession : Nat := 0
def clSubmit : Nat := 1
def clBulk : Nat := 2
def clMgmt : Nat := 3
def clAttest : Nat := 4
def clEvents : Nat := 5

/-- The optical link is up (R569). -/
def State.linkUp (s : State) : Bool := s.fld Reg.WADI_LINK Fld.WADI_LINK_STATE == 2

/-- The state with a change of the Hamada record. -/
def State.withHmd (s : State) (f : Hmd → Hmd) : State := { s with hmd := f s.hmd }

/-- STATE of HMD_SESSION follows the session and the handshake (R549). -/
def State.showSession (s : State) : State :=
  s.setFld Reg.HMD_SESSION Fld.HMD_SESSION_STATE (if s.hmd.sessOpen then 2 else if s.hmd.hs.isSome then 1 else 0)

/-- R538: the open session ends; its keys are erased. -/
def State.endSess (s : State) : State :=
  (s.withHmd (fun h => { h with sessOpen := false, keyNode := [], keyMod := [], lastRx := none, authFails := 0 })).showSession

/-- R538: the highest frame counter. -/
def counterLimit : Nat := 2 ^ 40

/-- R552, R554: a frame leaves the module with the credits it returns. A frame of another class than 0 needs an open session
and takes the next counter. -/
def State.sendFrame (s : State) (cls type flags reqId : Nat) (body : List Byte) : State :=
  if !s.linkUp then s
  else if cls = clSession then s.emit (.frame ⟨cls, type, flags, 0, 0, 0, 0, reqId, body⟩)
  else if !s.hmd.sessOpen then s
  else
    let m := min 8 s.wadi.retMgmt
    let b := min 32 s.wadi.retBulk
    let r := s.wadi.retReq
    let s' := s.emit (.frame ⟨cls, type, flags ||| 1, m, b, r, s.hmd.nextTx, reqId, body⟩)
    let s' := s'.withWadi (fun w => { w with
      nodeReq := w.nodeReq + r, nodeBulk := w.nodeBulk + b, nodeMgmt := w.nodeMgmt + m
      retReq := 0, retBulk := w.retBulk - b, retMgmt := w.retMgmt - m })
    let s' := s'.withHmd (fun h => { h with nextTx := h.nextTx + 1 })
    if s'.hmd.nextTx ≥ counterLimit then s'.endSess else s'

/-- A refusal of a handshake (R536, R553): the 2-byte status. -/
def State.sendRefuse (s : State) (status : List Byte) : State := s.sendFrame clSession 5 0 0 status

/-! Replies. -/

/-- The replies kept of the last 64 requests of a class (R556), with one more. -/
def keepReply (l : List (Nat × Option OutFrame)) (id : Nat) (f : Option OutFrame) : List (Nat × Option OutFrame) :=
  ((id, f) :: l.filter (fun x => x.1 != id)).take 64

/-- The frame that a reply is. -/
def replyFrame (cls type reqId : Nat) (body : List Byte) : OutFrame := ⟨cls, type, 5, 0, 0, 0, 0, reqId, body⟩

/-- A reply is sent and kept, and its credit is owed to the node (R554, R556). -/
def State.reply (s : State) (cls type reqId : Nat) (body : List Byte) : State :=
  let f := replyFrame cls type reqId body
  let s := s.sendFrame cls type 4 reqId body
  s.withWadi (fun w =>
    if cls = clBulk then { w with retBulk := w.retBulk + 1, bulkKept := keepReply w.bulkKept reqId (some f) }
    else { w with retMgmt := w.retMgmt + 1, mgmtKept := keepReply w.mgmtKept reqId (some f) })

/-- R564: the 16-byte head of a management reply. -/
def mgmtHead (status flags ev : Nat) : List Byte := leBytes 2 status ++ leBytes 2 flags ++ zeros 4 ++ leBytes 8 ev

/-- R564: a management reply. -/
def State.mgmtReply (s : State) (type reqId status flags ev : Nat) (data : List Byte) : State :=
  s.reply clMgmt type reqId (mgmtHead status flags ev ++ data)

/-- The DEFERRED flag of a reply (R330, R564, R586). -/
def flDeferred : Nat := 2

end Sys2Proof.Machine
end

