-- ==== Sys2Proof/Machine/Queue.lean ====
section
/-!
DEFINITION. Spill queues (R277 to R307): the words, the open word, credits, drops, the read and release positions and the
flush, as operations on one queue, and the state with its spill region in memory. Every queue of R299 crosses from its
producer's island to its consumer's, so a release, a close and a flush take effect at the other side by a command of their
own.
-/
namespace Sys2Proof.Machine

/-- The settings of a queue, from its SPQ_CFG (R301). -/
structure QCfg where
  enable    : Bool
  width     : Nat
  credited  : Bool
  wordClose : Bool
  autoRel   : Bool
  kind      : Nat
  timeout   : Nat
  region    : Nat
  base      : Nat
deriving DecidableEq, Repr

/-- The settings that a word of SPQ_CFG spells, with the region base of SPQ_REGION. -/
def qcfgOf (w base : Nat) : QCfg :=
  { enable := bitAt w 63
    width := 8 * 2 ^ (bitsOf w 62 61)
    credited := bitAt w 60
    wordClose := bitAt w 59
    autoRel := bitAt w 58
    kind := bitsOf w 57 56
    timeout := bitsOf w 55 51
    region := bitsOf w 23 0
    base := base }

/-- The settings in force of queue `q`. -/
def State.qcfg (s : State) (q : Nat) : QCfg := qcfgOf (s.reg (Reg.SPQ_CFG q)) (s.reg (Reg.SPQ_REGION q))

/-- R277: the capacity in words. -/
def QCfg.capacity (c : QCfg) : Nat := 16 + c.region

/-- R282: the tag of a word. -/
def QWord.tag (w : QWord) : Nat :=
  (w.wseq % 2 ^ 32) * 2 ^ 32 + w.kind * 2 ^ 16 + (if w.kind = 0 then w.ends * 2 ^ 8 + w.data.length else 0)

/-- The number of words committed and not yet read. -/
def Queue.depth (q : Queue) : Nat := q.words.length - q.held

/-- A word committed at the end of the queue (R282). -/
def Queue.commit (q : Queue) (kind ends : Nat) (data : List Byte) : Queue :=
  { q with words := q.words ++ [⟨kind, q.wseq, ends, data, none, kind == 0⟩], wseq := q.wseq + 1 }

/-! Where the words lie (R277). The first 8 words lie in the head; a word behind them lies in the middle while it holds a slot of the
region, and waits in the tail while it holds none. -/

/-- The slots of the region in use. -/
def Queue.slots (q : Queue) : List Nat := q.words.filterMap (·.slot)

/-- R277: the words of the middle that come up to the head leave their slots; one that cannot be read keeps its own until its read. -/
def Queue.lift (bad : QWord → Bool) (q : Queue) : Queue :=
  { q with words := q.words.mapIdx (fun i w => if i < 8 && !bad w then { w with slot := none } else w) }

/-- R277: the words of the tail, oldest first, take the slots that are free in ring order. -/
def sinkWords (region : Nat) : List QWord → Nat → List Nat → List QWord × Nat
  | [], n, _ => ([], n)
  | w :: ws, n, used =>
    match w.slot with
    | some _ => let r := sinkWords region ws n used; (w :: r.1, r.2)
    | none =>
      if region = 0 ∨ used.contains (n % region) then (w :: ws, n)
      else let r := sinkWords region ws (n + 1) (n % region :: used); ({ w with slot := some (n % region) } :: r.1, r.2)

/-- R277: the words moved as far as they can; `bad` says which cannot be read from the region. -/
def Queue.settle (c : QCfg) (bad : QWord → Bool) (q : Queue) : Queue :=
  let q := q.lift bad
  let r := sinkWords c.region (q.words.drop 8) q.spilled q.slots
  { q with words := q.words.take 8 ++ r.1, spilled := r.2 }

/-- R281: the open word closes and is committed. -/
def Queue.close (q : Queue) : Queue :=
  if q.opened.isEmpty then q
  else { q.commit 0 q.openEnds q.opened with opened := [], openEnds := 0 }

/-- One unit enters the open word of a credited queue; the unit that opens a word spends a credit (R281, R290). -/
def Queue.take (c : QCfg) (q : Queue) (d : List Byte) (last : Bool) : Queue :=
  let u := q.opened.length / c.width
  let q' := { q with
    credits := if q.opened.isEmpty then q.credits - 1 else q.credits
    opened := q.opened ++ padTo c.width d
    openEnds := if last then q.openEnds + 2 ^ u else q.openEnds
    lastEnd := last }
  if q'.opened.length ≥ 64 || (c.wordClose && last) then q'.close else q'

/-- A credit is at hand for the next unit (R290). -/
def Queue.mayTake (q : Queue) : Bool := !q.opened.isEmpty || q.credits > 0

/-- R297: a unit of an item that a flush cut is discarded, the item's end included. -/
def Queue.swallow (q : Queue) (last : Bool) : Queue := { q with draining := !last, lastEnd := last }

/-- Units that wait for a credit go in while they can, in push order; those of an item that a flush cut are discarded, without
credits (R297). -/
def Queue.drain (c : QCfg) : Nat → Queue → Queue
  | 0, q => q
  | fuel + 1, q =>
    match q.backlog with
    | [] => q
    | (d, last) :: rest =>
      if q.draining then Queue.drain c fuel ({ q with backlog := rest }.swallow last)
      else if q.mayTake then Queue.drain c fuel ({ q with backlog := rest }.take c d last)
      else q

/-- R290: credits that come back, with the units that wait for them. -/
def Queue.credit (c : QCfg) (q : Queue) (n : Nat) : Queue := Queue.drain c q.backlog.length { q with credits := q.credits + n }

/-- One unit pushed to a credited queue (R280, R290, R297). -/
def Queue.pushCredited (c : QCfg) (q : Queue) (d : List Byte) (last : Bool) : Queue :=
  if q.draining then q.swallow last
  else if q.backlog.isEmpty && q.mayTake then q.take c d last
  else { q with backlog := q.backlog ++ [(d, last)] }

/-- The words of an item, each with its END bit where the item ends. -/
def itemWords (c : QCfg) (item : List Byte) : List (Nat × List Byte) :=
  let ws := chunksOf 64 item.length item
  ws.mapIdx (fun i w => (if i + 1 = ws.length then 2 ^ (w.length / c.width - 1) else 0, w))

/-- R289, R291, R298: the newest committed word is a marker of the given kind that has never been read. -/
def Queue.lastUnread (q : Queue) (kind : Nat) : Bool :=
  match q.words.getLast? with
  | some w => w.kind == kind && q.seen ≤ w.wseq && q.depth > 0
  | none => false

/-- R291: an item that finds no room is dropped and the gap recorded: whether a gap marker was committed. -/
def Queue.drop (q : Queue) : Queue × Bool :=
  if q.lastUnread 1 then
    ({ q with words := q.words.mapIdx (fun i w =>
        if i + 1 = q.words.length then { w with data := leBytes 4 (min (ofLE w.data + 1) 0xFFFFFFFE) } else w) }, false)
  else (q.commit 1 0 (leBytes 4 1), true)

/-- What pushing to an uncredited queue did: items dropped and gap markers committed. -/
structure Pushed where
  q     : Queue
  items : Nat
  gaps  : Nat
deriving DecidableEq, Repr

/-- R291, R295: the item that ends is committed whole, or dropped. Releases on their way still count as occupied. -/
def Queue.commitItem (c : QCfg) (q : Queue) : Pushed :=
  let n := ceilDiv q.item.length 64
  let free := c.capacity - (q.words.length + q.returns)
  if n ≤ 8 && free ≥ n + 1 then
    ⟨{ (itemWords c q.item).foldl (fun q w => q.commit 0 w.1 w.2) q with item := [] }, 0, 0⟩
  else
    let (q', g) := q.drop
    ⟨{ q' with item := [] }, 1, if g then 1 else 0⟩

/-- One unit pushed (R280). -/
def Queue.push (c : QCfg) (q : Queue) (d : List Byte) (last : Bool) : Pushed :=
  if c.credited then ⟨q.pushCredited c d last, 0, 0⟩
  else if q.draining then ⟨q.swallow last, 0, 0⟩
  else
    let q := { q with item := q.item ++ padTo c.width d, lastEnd := last }
    if last then q.commitItem c else ⟨q, 0, 0⟩

/-- A whole item pushed, unit by unit. -/
def Queue.pushItem (c : QCfg) (q : Queue) (item : List Byte) : Pushed :=
  let us := chunksOf c.width item.length item
  let n := us.length
  (us.mapIdx (fun i u => (u, i + 1 == n))).foldl
    (fun p u => let r := p.q.push c u.1 u.2; ⟨r.q, p.items + r.items, p.gaps + r.gaps⟩) ⟨q, 0, 0⟩

/-- What a consumer makes of a word behind part `p` of an item: the part that it leaves, and the items that it completes. END_MASK and
VALID_BYTES alone find them (R283). -/
def wordItems (c : QCfg) (p : List Byte) (w : QWord) : List Byte × List (List Byte) :=
  if w.kind = 1 then (p, [])
  else if w.kind = 2 then ([], [])
  else
    ((chunksOf c.width w.data.length w.data).mapIdx (fun i u => (u, bitAt w.ends i))).foldl
      (fun r u => if u.2 then ([], r.2 ++ [r.1 ++ u.1]) else (r.1 ++ u.1, r.2)) (p, [])

/-- The part of an item that words leave behind part `p`. -/
def partAfter (c : QCfg) (p : List Byte) (ws : List QWord) : List Byte := ws.foldl (fun p w => (wordItems c p w).1) p

/-- R287: the oldest `n` words are freed; each word that spent a credit returns it, on its way to the producer (R290, R295). -/
def Queue.freeWords (c : QCfg) (q : Queue) (n : Nat) : Queue :=
  let gone := q.words.take n
  { q with
    words := q.words.drop n
    held := q.held - n
    mark := q.mark.map (fun m => m - n)
    returns := q.returns + (if c.credited then (gone.filter (·.paid)).length else gone.length)
    lead := partAfter c q.lead gone }

/-- R287: RELEASE frees every word before the read position, except words at or after the mark. -/
def Queue.release (c : QCfg) (q : Queue) : Queue := q.freeWords c (min q.held (q.mark.getD q.held))
/-- R287, R289: REWIND sets the read position to the mark, or to the release position; the consumer goes on with the part of an item that
the words before it leave. -/
def Queue.rewind (c : QCfg) (q : Queue) : Queue :=
  let k := q.mark.getD 0
  { q with held := k, part := partAfter c q.lead (q.words.take k) }
/-- R287: MARK sets the mark at the read position. -/
def Queue.setMark (q : Queue) : Queue := { q with mark := some q.held }
/-- R287: CLEAR_MARK removes the mark. -/
def Queue.clearMark (q : Queue) : Queue := { q with mark := none }

/-- The items that a word completes for its consumer. -/
def Queue.deliver (c : QCfg) (q : Queue) (w : QWord) : Queue :=
  let r := wordItems c q.part w
  { q with part := r.1, inbox := q.inbox ++ r.2 }

/-- R284: the word at the read position is read; with AUTO_RELEASE it is released at once. -/
def Queue.read (c : QCfg) (q : Queue) (w : QWord) : Queue :=
  let q := { q with held := q.held + 1, seen := max q.seen (w.wseq + 1) }
  let q := if c.autoRel then q.freeWords c q.held else q
  q.deliver c w

/-- R296: the credits that a flush gives back: one for each word that spent one, and that of the open word. -/
def Queue.flushed (c : QCfg) (q : Queue) : Nat :=
  if c.credited then (q.words.filter (·.paid)).length + (if q.opened.isEmpty then 0 else 1) else 0

/-- R296 to R298: the flush takes effect: words and open word discarded, the credit of each data word returned, one flush
marker committed unless the newest word already is an unread one. Units that wait for credits follow the marker. -/
def Queue.flush (c : QCfg) (q : Queue) : Queue :=
  let again := q.lastUnread 2
  let kept := if again then q.words.drop (q.words.length - 1) else []
  let q' := { q with
    words := kept
    held := 0
    mark := none
    opened := []
    openEnds := 0
    item := []
    part := []
    lead := []
    draining := q.draining || !q.lastEnd
    flushes := q.flushes - 1 }
  (if again then q' else q'.commit 2 0 []).credit c (q.flushed c)

/-! The queue within the module. -/

/-- The queue carries results (R279). -/
def carriesResults (q : Nat) : Bool :=
  (qToken 0 ≤ q && q ≤ qToken 15) || (coreBase 0 ≤ q && q < ctrDieBase 0)

/-- The consumer of the queue is the Mantis firmware (R299, R304): every queue but reduction staging. -/
def mantisReads (q : Nat) : Bool := !(coreBase 0 ≤ q && q < ctrDieBase 0)

/-- Where the data and the tag of slot `i` of a region lie (R278). -/
def QCfg.dataAt (c : QCfg) (i : Nat) : Nat := c.base + 64 * i
def QCfg.tagAt (c : QCfg) (i : Nat) : Nat := c.base + 64 * c.region + 8 * i

/-- The copy of a spilled word in its region meets an uncorrectable error (R279). -/
def State.badSpill (s : State) (q : Nat) (w : QWord) : Bool :=
  let c := s.qcfg q
  w.slot.elim false (fun i =>
    if c.kind = 2 then s.hasUe (c.dataAt i) 64 || s.hasUe (c.tagAt i) 8 else s.hasBad (c.dataAt i) 64 || s.hasBad (c.tagAt i) 8)

/-- Words that take a slot of the spill region, or change in it, are copied there (R278). -/
def State.spill (s : State) (c : QCfg) (old new : Queue) : State :=
  (new.words.filter (fun w => !old.words.contains w)).foldl
    (fun s w =>
      match w.slot with
      | some i => (s.storeOut (c.dataAt i) (padTo 64 w.data)).storeOut (c.tagAt i) (leBytes 8 w.tag)
      | none => s) s

/-- R342: the data and the tag of a word that is read back from an HBM spill region are corrected. -/
def State.correctSpill (s : State) (c : QCfg) (w : QWord) : State :=
  w.slot.elim s (fun i => if c.kind = 2 then (s.correct (c.dataAt i) 64).correct (c.tagAt i) 8 else s)

/-- R277: the words that come up to the head are read back from the region. -/
def State.liftWords (s : State) (q : Nat) (x : Queue) : State :=
  ((x.words.take 8).filter (fun w => !s.badSpill q w)).foldl (fun t w => t.correctSpill (s.qcfg q) w) s

/-- The queue replaced: its words move as far as they can, and those that spill are copied to the region. -/
def State.setQueue (s : State) (q : Nat) (x : Queue) : State :=
  let y := x.settle (s.qcfg q) (s.badSpill q)
  ((s.liftWords q x).spill (s.qcfg q) (s.queue q) y).putQ q y

/-- Counts of R306 for what a push dropped. -/
def State.countDrops (s : State) (q items gaps : Nat) : State :=
  (s.bump (Reg.SPQ_DROP_CNT q) Fld.SPQ_DROP_CNT_ITEMS items).bump (Reg.SPQ_DROP_CNT q) Fld.SPQ_DROP_CNT_GAPS gaps

/-- The result of a push taken into the state. -/
def State.pushed (s : State) (q : Nat) (p : Pushed) : State := (s.setQueue q p.q).countDrops q p.items p.gaps

/-- One item pushed to a queue that operates; a queue that is not enabled takes nothing. -/
def State.pushItem (s : State) (q : Nat) (item : List Byte) : State :=
  if (s.qcfg q).enable then s.pushed q ((s.queue q).pushItem (s.qcfg q) item) else s

/-- The queue has room for one more word: what its producer waits for (R290, R568). -/
def State.hasRoom (s : State) (q : Nat) : Bool := (s.queue q).backlog.isEmpty && (s.queue q).credits > 0

/-- R301: enabling resets WSEQ, the positions and the credit pool. -/
def State.enableQueue (s : State) (q : Nat) : State :=
  let c := s.qcfg q
  s.putQ q { Queue.idle with credits := if c.credited then c.capacity - 1 else 0 }

/-- A row of a core lies in a valid resident region. -/
def State.residentRow (s : State) (c row : Nat) : Bool :=
  [0, 1].any (fun n =>
    let r := s.reg (Reg.SPAD_RES c n)
    bitAt r 40 && bitsOf r 11 0 ≤ row && row < bitsOf r 11 0 + bitsOf r 24 12)

/-- R190: the first cache row of a core, behind its working and resident rows. -/
def State.cacheBase (s : State) (c : Nat) : Nat := 4096 - 512 * s.fld (Reg.SPAD_SPLIT c) Fld.SPAD_SPLIT_SPLIT

/-- R190, R196: rows `lo … hi − 1` of a core are working rows. -/
def State.workRows (s : State) (c lo hi : Nat) : Bool :=
  decide (hi ≤ s.cacheBase c) && (List.range (hi - lo)).all (fun i => !s.residentRow c (lo + i))

/-- The core whose block holds the registers of a reduction staging queue. -/
def stagingCore (q : Nat) : Nat := (q - coreBase 0) / 0x10000

/-- R278: the rows of the spill region of a scratchpad queue: the first, and the one behind the last. -/
def QCfg.rows (c : QCfg) (core : Nat) : Nat × Nat :=
  let lo := (c.base - spadBase core) / 128
  (lo, lo + ceilDiv (72 * c.region) 128)

/-- R278, R291: a configuration that SPQ_CFG accepts. The region of a scratchpad queue starts a row of the core whose block
holds the registers. -/
def QCfg.valid (c : QCfg) (q : Nat) : Bool :=
  c.width ≤ 32 && c.kind ≤ 2 && (c.credited || c.wordClose) &&
  (if c.kind = 0 then c.region == 0
   else if c.kind = 2 then inHbm c.base && c.base % 64 == 0
   else
     let core := stagingCore q
     !mantisReads q && c.base % 128 == 0 && c.region % 16 == 0 &&
       spadBase core ≤ c.base && c.base + 72 * c.region ≤ spadBase core + 0x80000)

/-- R205, R278, R301: the settings that SPQ_CFG and SPQ_REGION hold enable the queue: those of a scratchpad region name working rows of
the core. -/
def State.mayEnable (s : State) (q : Nat) : Bool :=
  let c := s.qcfg q
  c.valid q && (c.kind != 1 || (let r := c.rows (stagingCore q); s.workRows (stagingCore q) r.1 r.2))

/-- R301: the queue operates where its settings are good; CFG_ERR otherwise. -/
def State.tryEnable (s : State) (q : Nat) : State :=
  if s.mayEnable q then s.enableQueue q
  else (s.setFld (Reg.SPQ_CFG q) Fld.SPQ_CFG_ENABLE 0).putQ q { s.queue q with cfgErr := true }

/-- A queue set up by the firmware with the settings of R299 and the region at `base`. -/
def State.setupQueue (s : State) (q width : Nat) (credited wordClose autoRel : Bool) (kind words timeout base : Nat) : State :=
  let b (x : Bool) : Nat := if x then 1 else 0
  let w := 2 ^ 63 + width * 2 ^ 61 + b credited * 2 ^ 60 + b wordClose * 2 ^ 59 + b autoRel * 2 ^ 58 +
    (if words = 0 then 0 else kind) * 2 ^ 56 + timeout * 2 ^ 51 + words
  ((s.putReg (Reg.SPQ_REGION q) base).putReg (Reg.SPQ_CFG q) w).tryEnable q

/-! Reduction staging (R299, R300). -/

/-- R278, R299: the first row of the staging region of a core: its highest `n` working rows. DESIGN CHOICE (log 97): no rule places it. -/
def State.stagingRow (s : State) (c n : Nat) : Option Nat :=
  let ends := s.cacheBase c :: [0, 1].map (fun i => bitsOf (s.reg (Reg.SPAD_RES c i)) 11 0)
  let fit := ends.filter (fun e => n ≤ e && s.workRows c (e - n) e)
  if fit.isEmpty then none else some (fit.foldl max 0 - n)

/-- R299: the reduction staging queue of a core set up with at most `words` words, a multiple of 16; one that finds no room keeps no
region. -/
def State.setupStaging (s : State) (c words : Nat) : State :=
  let n := words / 16 * 16
  match s.stagingRow c (72 * n / 128) with
  | some r => s.setupQueue (qStaging c) 2 true false false 1 n 0 (spadBase c + 128 * r)
  | none => s.setupQueue (qStaging c) 2 true false false 1 0 0 0

/-- The reduction staging queue of a core no longer operates. -/
def State.endStaging (s : State) (c : Nat) : State :=
  if (s.qcfg (qStaging c)).enable then s.setFld (Reg.SPQ_CFG (qStaging c)) Fld.SPQ_CFG_ENABLE 0 else s

/-- R278: the rows of the scratchpad region of a core's staging queue, while it operates. -/
def State.stagingRows (s : State) (c : Nat) : Option (Nat × Nat) :=
  let k := s.qcfg (qStaging c)
  if k.enable && k.kind == 1 && k.region != 0 then some (k.rows c) else none

end Sys2Proof.Machine
end

