-- ==== Sys2Proof/Machine/Flags.lean ====
section
/-!
DEFINITION. Status codes (R492), event records (R489 to R491) and the logs and counters that errors leave: the parity log
of a core (R204, R212, R213), the ECC log of a stack (R342, R367, R368), the stream and translation fault logs (R241,
R276). All four logs keep their first fault until software clears VALID.
-/
namespace Sys2Proof.Machine

/-! Status codes of R492. -/
def stOk : Nat := 0x0000
def stShape : Nat := 0x0101
def stCapacity : Nat := 0x0102
def stFormat : Nat := 0x0201
def stIndexRange : Nat := 0x0203
def stDupIndex : Nat := 0x0204
def stAddrProt : Nat := 0x0301
def stWriteAlias : Nat := 0x0302
def stWindowClosed : Nat := 0x0405
def stLagDetached : Nat := 0x0407
def stLinkLost : Nat := 0x0408
def stParity : Nat := 0x0501
def stVoteLost : Nat := 0x0502
def stReplayLimit : Nat := 0x0503
def stCheckMismatch : Nat := 0x0504
def stMemUncorrectable : Nat := 0x0505
def stStartHold : Nat := 0x0601
def stSigInvalid : Nat := 0x0701
def stTenantScrub : Nat := 0x0702
def stWithdrawn : Nat := 0x0801

/-- R22, R492: a status of class 0x01 to 0x04 ends its task without replay. -/
def endsTask (st : Nat) : Bool := 1 ≤ st / 256 && st / 256 ≤ 4

/-! Event codes of R491. -/
def evStepAbort : Nat := 0x0100
def evStepReplay : Nat := 0x0101
def evTaskEnd : Nat := 0x0102
def evWdog : Nat := 0x0103
def evDrainDiscard : Nat := 0x0104
def evDenseSwitch : Nat := 0x0105
def evParity : Nat := 0x0200
def evHbmUe : Nat := 0x0201
def evStreamFault : Nat := 0x0202
def evVoteLoss : Nat := 0x0203
def evCheckFail : Nat := 0x0204
def evProgramError : Nat := 0x0205
def evAddrFault : Nat := 0x0206
def evCoreFenced : Nat := 0x0300
def evTestResult : Nat := 0x0301
def evErgFailed : Nat := 0x0302
def evMantisFailover : Nat := 0x0303
def evPortWidth : Nat := 0x0304
def evPortState : Nat := 0x0305
def evStackFault : Nat := 0x0306
def evCapExcursion : Nat := 0x0307
def evMembership : Nat := 0x0400
def evPortConflict : Nat := 0x0401
def evTakeoverStart : Nat := 0x0402
def evTakeoverDone : Nat := 0x0403
def evWithdraw : Nat := 0x0404
def evLagDetach : Nat := 0x0405

/-! Island codes of R490. -/
def islCore (c : Nat) : Nat := c
def islMesh (d : Nat) : Nat := 0x1000 + d
def islHbm (t : Nat) : Nat := 0x2000 + t
def islErg (t : Nat) : Nat := 0x3000 + t
def islPort (p : Nat) : Nat := 0x4000 + p
def islMantis (m : Nat) : Nat := 0x5000 + m
def islHamada : Nat := 0x6000
def islWadi : Nat := 0x7000
def islBridge : Nat := 0x8000

/-- An event as its unit raises it (R490): `ctx` 0xFF, `step` and `tile` all ones for none. -/
structure Ev where
  isl    : Nat
  code   : Nat
  status : Nat
  ctx    : Nat
  step   : Nat
  tile   : Nat
  gen    : Nat
  detail : List Byte
deriving DecidableEq, Repr

/-- All ones in 8 bytes: no step. -/
def noStep : Nat := 2 ^ 64 - 1
/-- All ones in 4 bytes: no tile. -/
def noTile : Nat := 2 ^ 32 - 1

/-- An event of no context. -/
def Ev.plain (isl code : Nat) (detail : List Byte) : Ev := ⟨isl, code, 0, 0xFF, noStep, noTile, 0, detail⟩

/-- R490: the 64-byte record of an event with its sequence number and its island's cycle count. -/
def Ev.record (e : Ev) (seq cycles : Nat) : List Byte :=
  leBytes 8 seq ++ leBytes 8 cycles ++ leBytes 2 e.isl ++ leBytes 2 e.code ++ leBytes 2 e.status ++ leBytes 1 e.ctx ++
    zeros 1 ++ leBytes 8 e.step ++ leBytes 4 e.tile ++ leBytes 2 e.gen ++ zeros 2 ++ padTo 24 e.detail

/-- The sequence number the next event takes (R489, R493). -/
def State.evSeq (s : State) : Nat := s.fld Reg.FLT_EVT_SEQ Fld.FLT_EVT_SEQ_NEXT

/-- R489, R490: an event takes the next sequence number and its record is pushed to the event queue, which may drop it. The
cycle count of its island is a free value. -/
def State.raise (s : State) (e : Ev) : State :=
  let seq := s.evSeq
  let s := s.setFld Reg.FLT_EVT_SEQ Fld.FLT_EVT_SEQ_NEXT (seq + 1)
  (s.pushItem qEvent (e.record seq (Config.cycles e.isl s.free).toNat)).used

/-! Error logs. -/

/-- Which units read the scratchpad (AGENT of R212), and the port an access of each is logged on. -/
inductive Agent where
  | cells | scarab | accLoad | drain | stream | cache | vector | mantis
deriving DecidableEq, Repr

/-- AGENT of R212. -/
def Agent.code : Agent → Nat
  | .cells => 0 | .scarab => 1 | .accLoad => 2 | .drain => 3 | .stream => 4 | .cache => 5 | .vector => 6 | .mantis => 7

/-- PORT of R212: an operand port or a service port; which one of the pair an agent used depends on timing, so it is a free
bit, and the Mantis aperture always logs S1. -/
def Agent.port (g : Agent) (free : Nat) : Nat :=
  let b := if Config.freeBit free then 1 else 0
  match g with
  | .cells => b | .scarab => b | .accLoad => b
  | .mantis => 3
  | .drain => 2 + b | .stream => 2 + b | .cache => 2 + b | .vector => 2 + b

/-- The words of a core's scratchpad with bad parity among `n` bytes from address `a`, lowest first: byte offset of the word
and its failing bytes (R204). -/
def State.badWords (s : State) (c a n : Nat) : List (Nat × Nat) :=
  let bad := (s.badBytes.filter (fun x => a ≤ x && x < a + n)).map (fun x => x - spadBase c)
  let ws := sortBy (fun x y => x ≤ y) (distinct (bad.map (fun o => o / 4)))
  ws.map (fun w => (w * 4, (bad.filter (fun o => o / 4 == w)).foldl (fun m o => m ||| 2 ^ (o % 4)) 0))

/-- Row, bank and bytes of a failing word as SPAD_PARITY_LOG holds them (R179, R212). -/
def parityEntry (port agent off mask : Nat) : Nat :=
  let row := off / 128
  let col := off / 4 % 32
  2 ^ 63 + port * 2 ^ 60 + agent * 2 ^ 57 + ((row + col) % 32) * 2 ^ 52 + row * 2 ^ 40 + mask * 2 ^ 36

/-- R204: one parity error is counted, and logged when VALID of the log is zero. -/
def State.noteParity (s : State) (c : Nat) (g : Agent) (off mask : Nat) : State :=
  let s := s.bump (Reg.SPAD_PARITY_CNT c) Fld.SPAD_PARITY_CNT_COUNT 1
  let s := if s.fld (Reg.SPAD_PARITY_LOG c) Fld.SPAD_PARITY_LOG_VALID = 0
    then s.putReg (Reg.SPAD_PARITY_LOG c) (parityEntry (g.port s.free) g.code off mask) else s
  (s.putCore c { s.core c with errs := (s.core c).errs + 1 }).used

/-- R204: every failing word of a read is an error of its own. -/
def State.noteParities (s : State) (c : Nat) (g : Agent) (a n : Nat) : State :=
  let ws := sortBy (fun x y => (x.1 / 128 + x.1 / 4) % 32 ≤ (y.1 / 128 + y.1 / 4) % 32) (s.badWords c a n)
  ws.foldl (fun s w => s.noteParity c g w.1 w.2) s

/-- Pseudo-channel of an address (R340). -/
def pchOf (a : Nat) : Nat := bitsOf a 13 8 ^^^ bitsOf a 21 16

/-- The agents of HBM_ECC_LOG (R368). -/
inductive Reader where
  | die | cacheFill | erg | patrol | urgent | mantis | bulk
deriving DecidableEq, Repr

/-- AGENT of R368. -/
def Reader.code : Reader → Nat
  | .die => 0 | .cacheFill => 1 | .erg => 2 | .patrol => 3 | .urgent => 4 | .mantis => 5 | .bulk => 6

/-- What conversions count (R63, R64). -/
def State.countConv (s : State) (c sat nonfin : Nat) : State :=
  (s.bump (Reg.ARITH_SAT_CNT c) Fld.ARITH_SAT_CNT_COUNT sat).bump (Reg.ARITH_NONFIN_CNT c) Fld.ARITH_NONFIN_CNT_COUNT nonfin

/-- R342, R349: an uncorrectable access at address `a` is counted, and an HBM one logged and reported by its event. -/
def State.noteUe (s : State) (r : Reader) (a : Nat) : State :=
  let t := stackOf a
  if inHbm a then
    let s := s.bump (Reg.HBM_ECC_CNT t) Fld.HBM_ECC_CNT_UE 1
    let entry := 2 ^ 63 + r.code * 2 ^ 60 + pchOf a * 2 ^ 54 + (a / 64 * 64)
    let s := if s.fld (Reg.HBM_ECC_LOG t) Fld.HBM_ECC_LOG_VALID = 0 then s.putReg (Reg.HBM_ECC_LOG t) entry else s
    let s := s.putStack t { s.stack t with ues := (s.stack t).ues + 1 }
    s.raise (Ev.plain (islHbm t) evHbmUe (leBytes 8 entry))
  else
    let s := s.bump (Reg.ERG_SRAM_ECC t) Fld.ERG_SRAM_ECC_UE 1
    s.putStack t { s.stack t with sues := (s.stack t).sues + 1 }

/-- R342: several ranges read. -/
def State.correctAll (s : State) (l : List (Nat × Nat)) : State := l.foldl (fun s r => s.correct r.1 r.2) s

/-- The first uncorrectable access among `n` bytes from `a`. -/
def State.firstUe (s : State) (a n : Nat) : Option Nat :=
  ((accessesOf a n).find? (fun x => s.badAcc.contains x)).map (fun x => x * 64)

/-- R276: the first unacknowledged mid-stream fault of a core is logged. -/
def State.noteStream (s : State) (c kind stream addr : Nat) : State :=
  if s.fld (Reg.STRM_FAULT_LOG c) Fld.STRM_FAULT_LOG_VALID = 0 then
    s.putReg (Reg.STRM_FAULT_LOG c) (2 ^ 63 + kind * 2 ^ 60 + stream * 2 ^ 56 + addr % 2 ^ 48)
  else s

/-- R241: the first unacknowledged translation fault of a core is logged. -/
def State.noteXlt (s : State) (c kind va : Nat) : State :=
  if s.fld (Reg.XLT_FAULT_LOG c) Fld.XLT_FAULT_LOG_VALID = 0 then
    s.putReg (Reg.XLT_FAULT_LOG c) (2 ^ 63 + kind * 2 ^ 60 + va % 2 ^ 48)
  else s

end Sys2Proof.Machine
end

