-- ==== Sys2Proof/Machine/Ledger.lean ====
section
/-!
DEFINITION. The start ledger (R507 to R518): records, the two devices, the journal head, sector erase, the summary and
the state that a start takes from them.
-/
namespace Sys2Proof.Machine

/-- Record types of R510. -/
def ltBegun : Nat := 1
def ltEnded : Nat := 2
def ltSummary : Nat := 3
def ltErase : Nat := 4
def ltWithdraw : Nat := 5
def ltClear : Nat := 6
def ltFence : Nat := 7

/-- R510: the 64 bytes of a record. -/
def LedgerRec.encode (r : LedgerRec) : List Byte :=
  let b := leBytes 2 0x4C44 ++ leBytes 1 r.type ++ leBytes 1 r.step ++ leBytes 4 r.seq ++ leBytes 4 r.start ++
    leBytes 2 r.unit ++ leBytes 1 r.method ++ leBytes 1 r.outcome ++ padTo 44 r.detail
  b ++ leBytes 4 (crc32c b)

/-- The bytes of a slot as the device holds it; a torn slot's bytes are free. -/
def Slot.encode (free : Nat) : Slot → List Byte
  | .erased => List.replicate 64 0xFF
  | .torn => (List.range 64).map (fun i => Config.freeByte (free + i))
  | .full r => r.encode

def State.slotOf (s : State) (dev i : Nat) : Slot := tget .erased (if dev = 0 then s.ledger0 else s.ledger1) i

/-- The slot written in the devices of `devs` (bit 0, bit 1). -/
def State.putSlot (s : State) (devs i : Nat) (x : Slot) : State :=
  let s := if bitAt devs 0 then { s with ledger0 := tput .erased s.ledger0 i x } else s
  if bitAt devs 1 then { s with ledger1 := tput .erased s.ledger1 i x } else s

/-- R512: the record of a slot that counts: the valid one, and of two valid ones that of higher SEQ. -/
def State.validRec (s : State) (devs i : Nat) : Option LedgerRec :=
  let get (d : Nat) : Option LedgerRec := match (if bitAt devs d then s.slotOf d i else .erased) with
    | .full r => some r
    | _ => none
  match get 0, get 1 with
  | some a, some b => if b.seq > a.seq then some b else some a
  | some a, none => some a
  | none, b => b

/-- Slots that hold something in a device that is read, in ascending order. -/
def State.usedSlots (s : State) : List Nat :=
  sortBy (fun a b => a ≤ b) (distinct (s.ledger0.map (·.1) ++ s.ledger1.map (·.1)))

/-- The valid records with their slots, in SEQ order. -/
def State.records (s : State) (devs : Nat) : List (Nat × LedgerRec) :=
  sortBy (fun a b => a.2.seq ≤ b.2.seq)
    (s.usedSlots.filterMap (fun i => (s.validRec devs i).map (fun r => (i, r))))

/-- R513: records in a sector that a later ERASE record names are ignored. -/
def liveRecords (rs : List (Nat × LedgerRec)) : List (Nat × LedgerRec) :=
  let erases := rs.filter (fun r => r.2.type == ltErase)
  rs.filter (fun r => !(erases.any (fun e => fieldLE e.2.detail 0 1 == r.1 / 1024 && r.2.seq < e.2.seq)))

/-- R511: the slot is erased in every device in use. -/
def State.slotFree (s : State) (i : Nat) : Bool :=
  (!bitAt s.start.devs 0 || s.slotOf 0 i == .erased) && (!bitAt s.start.devs 1 || s.slotOf 1 i == .erased)

/-- The next slot to write, and how many slots were passed over (R511). Before the first record of an empty journal it is
slot 0. -/
def State.nextSlot (s : State) : Option (Nat × Nat) :=
  let head := s.fld Reg.LEDGER_STATUS Fld.LEDGER_STATUS_HEAD_SLOT
  let first := if s.fld Reg.LEDGER_STATUS Fld.LEDGER_STATUS_HEAD_SEQ = 0 then 0 else head + 1
  if s.start.devs = 0 then none
  else (lowest 4096 (fun i => s.slotFree ((first + i) % 4096))).map (fun i => ((first + i) % 4096, i))

/-- One record written to both devices (R507, R510, R511); LEDGER_STATUS follows (R522). -/
def State.writeRec (s : State) (type step unit method outcome : Nat) (detail : List Byte) : State :=
  match s.nextSlot with
  | none => s
  | some (i, skipped) =>
    let seq := s.fld Reg.LEDGER_STATUS Fld.LEDGER_STATUS_HEAD_SEQ + 1
    let r : LedgerRec := ⟨type, step, seq, s.fld Reg.START_STATUS Fld.START_STATUS_START_COUNT, unit, method, outcome, detail⟩
    let s := s.putSlot s.start.devs i (.full r)
    let s := s.setFld Reg.LEDGER_STATUS Fld.LEDGER_STATUS_HEAD_SEQ seq
    let s := s.setFld Reg.LEDGER_STATUS Fld.LEDGER_STATUS_HEAD_SLOT i
    let s := s.bumpSat Reg.LEDGER_STATUS Fld.LEDGER_STATUS_TORN skipped
    s.setFld Reg.LEDGER_STATUS Fld.LEDGER_STATUS_MIRROR_OK (if s.start.devs = 3 then 1 else 0)

/-- R514: DETAIL of the two summary records. -/
def Kept.part0 (k : Kept) : List Byte :=
  leBytes 36 k.fenced ++ leBytes 2 k.conservative ++ leBytes 1 k.hmdActive ++ leBytes 1 k.mntActive ++ leBytes 1 k.bridge ++
    leBytes 1 k.wadi ++ zeros 2
def Kept.part1 (k : Kept) : List Byte :=
  leBytes 3 k.ports ++ zeros 1 ++ leBytes 2 k.ergExcl ++ leBytes 2 k.mantisExcl ++ padTo 8 k.cfgDigest ++
    leBytes 4 k.lastReady ++ zeros 24

/-- The kept state that the two parts of a summary spell. -/
def Kept.ofParts (a b : List Byte) : Kept :=
  { fenced := fieldLE a 0 36, conservative := fieldLE a 0x24 2, hmdActive := fieldLE a 0x26 1, mntActive := fieldLE a 0x27 1,
    bridge := fieldLE a 0x28 1, wadi := fieldLE a 0x29 1, ports := fieldLE b 0 3, ergExcl := fieldLE b 4 2,
    mantisExcl := fieldLE b 6 2, cfgDigest := (b.drop 8).take 8, lastReady := fieldLE b 0x10 4 }

/-- R514: a summary written as its two records; the slot of part 0 is remembered as the newest summary's. -/
def State.writeSummary (s : State) (k : Kept) : State :=
  let s := s.writeRec ltSummary 0 0 0 0 k.part0
  let at_ := s.fld Reg.LEDGER_STATUS Fld.LEDGER_STATUS_HEAD_SLOT
  let s := s.writeRec ltSummary 0 1 0 0 k.part1
  { s with start := { s.start with summaryAt := some at_ } }

/-- Every slot among the next `n` ahead of the head is erased (R513). -/
def State.erasedAhead (s : State) (n : Nat) : Bool :=
  let head := s.fld Reg.LEDGER_STATUS Fld.LEDGER_STATUS_HEAD_SLOT
  (List.range n).all (fun i => s.slotFree ((head + 1 + i) % 4096))

/-- R513: the sector to erase next: that of the first slot ahead of the head that is not erased, unless it holds the newest
summary. -/
def State.nextSector (s : State) : Option Nat :=
  let head := s.fld Reg.LEDGER_STATUS Fld.LEDGER_STATUS_HEAD_SLOT
  match lowest 4096 (fun i => !s.slotFree ((head + 1 + i) % 4096)) with
  | none => none
  | some i =>
    let sec := (head + 1 + i) % 4096 / 1024
    if s.start.summaryAt.map (· / 1024) = some sec then none else some sec

/-- R513: the ERASE record is written and the erase begins. -/
def State.beginErase (s : State) (sec : Nat) : State :=
  let s := s.writeRec ltErase 0 0xFFFF 0 0 (leBytes 1 sec)
  (s.setFld Reg.LEDGER_STATUS Fld.LEDGER_STATUS_ERASE_SECTOR sec).setFld Reg.LEDGER_STATUS Fld.LEDGER_STATUS_ERASE_BUSY 1

/-- A sector is erased in both devices. -/
def State.eraseSector (s : State) (sec : Nat) : State :=
  { s with
    ledger0 := s.ledger0.filter (fun x => x.1 / 1024 != sec)
    ledger1 := s.ledger1.filter (fun x => x.1 / 1024 != sec) }

/-- The erase that runs ends. -/
def State.endErase (s : State) : State :=
  if s.fld Reg.LEDGER_STATUS Fld.LEDGER_STATUS_ERASE_BUSY = 1 then
    (s.eraseSector (s.fld Reg.LEDGER_STATUS Fld.LEDGER_STATUS_ERASE_SECTOR)).setFld
      Reg.LEDGER_STATUS Fld.LEDGER_STATUS_ERASE_BUSY 0
  else s

/-! What a start takes from the ledger (R515, R517). -/

/-- The number of methods of a step's unit (R506). -/
def numMethods (step : Nat) : Nat :=
  if step = 2 then 3
  else if step = 3 ∨ step = 5 ∨ step = 6 ∨ step = 10 ∨ step = 11 ∨ step = 15 ∨ step = 18 ∨ step = 21 then 2
  else 1

/-- The kinds of R506: Always, optional; the others are mandatory. -/
def stepAlways (step : Nat) : Bool := step == 1 || step == 22 || step == 24
def stepOptional (step : Nat) : Bool := step == 13 || step == 18 || step == 19

/-- The kept state with the alternate of a step's unit kept (R506, R515). -/
def Kept.keepAlternate (k : Kept) (step unit : Nat) : Kept :=
  if step = 3 then { k with hmdActive := 1 - k.hmdActive }
  else if step = 6 then { k with mntActive := 1 - k.mntActive }
  else if step = 10 then { k with bridge := 1 }
  else if step = 11 then { k with conservative := k.conservative ||| 2 ^ unit }
  else if step = 18 then { k with ports := withBits k.ports (2 * unit + 1) (2 * unit) 1 }
  else if step = 21 then { k with wadi := 1 }
  else k

/-- The mask without the named unit, or without any for 0xFFFF. -/
def clearBit (mask unit : Nat) : Nat := if unit = 0xFFFF then 0 else withBits mask unit unit 0

/-- R516: what a CLEAR record of one step returns to its primary method. -/
def Kept.clearStep (k : Kept) (step unit : Nat) : Kept :=
  if step = 9 then { k with mantisExcl := clearBit k.mantisExcl unit }
  else if step = 10 then { k with bridge := 0 }
  else if step = 11 then { k with conservative := clearBit k.conservative unit }
  else if step = 13 then { k with ergExcl := clearBit k.ergExcl unit }
  else if step = 15 then { k with fenced := clearBit k.fenced unit }
  else if step = 18 then { k with ports := if unit = 0xFFFF then 0 else withBits k.ports (2 * unit + 1) (2 * unit) 0 }
  else if step = 21 then { k with wadi := 0 }
  else k

/-- R516: a CLEAR record: step 0 names every step. -/
def Kept.clear (k : Kept) (step unit : Nat) : Kept :=
  if step = 0 then (List.range 25).foldl (fun k n => k.clearStep n unit) k else k.clearStep step unit

/-- One record after the newest summary applied (R515). -/
def Kept.apply (rs : List LedgerRec) (k : Kept) (r : LedgerRec) : Kept :=
  if r.type = ltFence then { k with fenced := k.fenced ||| 2 ^ (fieldLE r.detail 0 2) }
  else if r.type = ltClear then k.clear (fieldLE r.detail 0 1) (fieldLE r.detail 2 2)
  else if r.type = ltWithdraw then
    if fieldLE r.detail 0 1 = 0 then { k with conservative := k.conservative ||| 2 ^ (fieldLE r.detail 2 2) } else k
  else if r.type = ltEnded then
    if r.step = 15 ∧ r.outcome = 1 ∧ r.method = 1 then { k with fenced := k.fenced ||| 2 ^ r.unit }
    else if r.step = 15 ∧ r.method = 0 ∧ r.outcome ≠ 2 then
      { k with fenced := k.fenced ||| (fieldLE r.detail 2 18 * 2 ^ (144 * r.unit)) }
    else if r.outcome = 0 ∧ r.method > 0 ∧
        rs.any (fun f => f.type = ltEnded ∧ f.step = r.step ∧ f.unit = r.unit ∧ f.start = r.start ∧ f.outcome = 1 ∧ f.seq < r.seq)
      then k.keepAlternate r.step r.unit
    else k
  else k

/-- What S02 finds. `hung` lists the steps and units of the previous start begun and never ended whose last method ran. -/
structure Recovery where
  kept      : Kept
  count     : Nat
  loop      : Nat
  headSeq   : Nat
  headSlot  : Nat
  summaryAt : Option Nat
  s05other  : Bool
  s15iso    : Nat
  holdStep  : Option (Nat × Nat)
deriving DecidableEq, Repr

/-- The newest BEGUN record of each step and unit of a start that no later ENDED closes. -/
def openBegun (rs : List LedgerRec) (start : Nat) : List LedgerRec :=
  rs.filter (fun b => b.type = ltBegun ∧ b.start = start ∧
    !rs.any (fun e => e.step = b.step ∧ e.unit = b.unit ∧ e.start = start ∧ e.seq > b.seq ∧
      (e.type = ltEnded ∨ e.type = ltBegun)))

/-- R515: what a unit that hung does to the next start. -/
def Recovery.hang (r : Recovery) (b : LedgerRec) : Recovery :=
  if b.step = 13 then { r with kept := { r.kept with ergExcl := r.kept.ergExcl ||| 2 ^ b.unit } }
  else if stepAlways b.step ∨ numMethods b.step = 1 then r
  else if b.method + 1 ≥ numMethods b.step then
    if b.step = 15 then { r with kept := { r.kept with fenced := r.kept.fenced ||| 2 ^ b.unit } }
    else if b.step = 18 then { r with kept := { r.kept with ports := withBits r.kept.ports (2 * b.unit + 1) (2 * b.unit) 2 } }
    else { r with holdStep := some (r.holdStep.getD (b.step, b.unit)) }
  else if b.step = 15 then { r with s15iso := r.s15iso ||| 2 ^ b.unit }
  else if b.step = 5 then { r with s05other := true }
  else { r with kept := r.kept.keepAlternate b.step b.unit }

/-- R512 to R517: the recovery of S02 from the devices read. -/
def State.recover (s : State) (devs : Nat) : Recovery :=
  let all := liveRecords (s.records devs)
  let rs := all.map (·.2)
  match all.getLast? with
  | none => ⟨.none, 1, 0, 0, 0, none, false, 0, none⟩
  | some (slot, head) =>
    let sums := all.filter (fun p => p.2.type == ltSummary && p.2.unit == 0 &&
      rs.any (fun q => q.type == ltSummary && q.unit == 1 && q.start == p.2.start && q.seq == p.2.seq + 1))
    let base : Kept × Nat × Option Nat := match sums.getLast? with
      | none => (.none, 0, none)
      | some (i, p) =>
        (Kept.ofParts p.detail ((rs.find? (fun q => q.type == ltSummary && q.unit == 1 && q.seq == p.seq + 1)).elim [] (·.detail)),
          p.seq + 1, some i)
    let later := rs.filter (fun r => r.seq > base.2.1)
    let kept := later.foldl (Kept.apply later) base.1
    let starts := sortBy (fun a b => b ≤ a) (distinct (rs.map (·.start)))
    let loop := (starts.takeWhile (fun n => !rs.any (fun r => r.type = ltEnded ∧ r.step = 24 ∧ r.start = n))).length
    let r0 : Recovery := ⟨kept, head.start + 1, loop, head.seq, slot, base.2.2, false, 0, none⟩
    (openBegun rs head.start).foldl Recovery.hang r0

end Sys2Proof.Machine
end

