-- ==== Sys2Proof/Machine/Net.lean ====
section
/-!
DEFINITION. What the module sends on its Seif ports (R377 to R396): flits, credits, the retry buffer, routing, messages of
several flits, and the announcements of membership (R399, R401).
-/
namespace Sys2Proof.Machine

/-- The states of SEIF_WIDTH (R409). -/
def psDown : Nat := 0
def psTraining : Nat := 1
def psUp : Nat := 2
def psRetrain : Nat := 3
def psLow : Nat := 4
def psConflict : Nat := 5

/-- STATE of SEIF_WIDTH. -/
def State.portState (s : State) (p : Nat) : Nat := s.fld (Reg.SEIF_WIDTH p) Fld.SEIF_WIDTH_STATE
/-- The port carries traffic: up, or in the low mode (virtual lane 0 only, R403). -/
def State.portUp (s : State) (p : Nat) : Bool := s.portState p == psUp || s.portState p == psLow

/-- The port is in the low mode. -/
def State.portLow (s : State) (p : Nat) : Bool := s.portState p == psLow
/-- The port delivers nothing: down, or not yet trained (R391). -/
def State.portIsDown (s : State) (p : Nat) : Bool := s.portState p == psDown || s.portState p == psTraining

/-- The module ID of this module (R397). -/
def State.ownId (s : State) : Nat := s.conf.moduleId

/-- The allocation of a virtual lane in flits (R380, R410). -/
def State.vlAlloc (s : State) (p v : Nat) : Nat := 4 * bitsOf (s.reg (Reg.SEIF_VL_CREDITS p)) (8 * v + 7) (8 * v)

/-! The bytes of a flit (R375, R377). -/

/-- R377: the low 96 bits of the header. -/
def Flit.header (f : Flit) : Nat :=
  f.hops % 16 * 2 ^ 8 + f.type % 8 * 2 ^ 12 + f.vl % 8 * 2 ^ 15 + f.kind % 16 * 2 ^ 18 + f.msg % 4 * 2 ^ 22 +
    (if f.ackValid then 1 else 0) * 2 ^ 24 + f.creditVl % 8 * 2 ^ 25 + f.credits % 256 * 2 ^ 28 + f.ack % 4096 * 2 ^ 36 +
    f.seq % 4096 * 2 ^ 48 + f.payload.length % 256 * 2 ^ 60 + f.src % 16384 * 2 ^ 68 + f.dst % 16384 * 2 ^ 82

/-- R377: the 256 bytes of a flit: its header with the CRC, and its payload with zeros behind it. -/
def flitBytes (f : Flit) : List Byte :=
  let head := leBytes 12 f.header
  let data := padTo 240 f.payload
  head ++ leBytes 4 (crc32c (head ++ zeros 4 ++ data)) ++ data

/-- R377: the flit that 256 bytes spell. -/
def readFlit (bs : List Byte) : Flit :=
  let h := fieldLE bs 0 16
  { dst := bitsOf h 95 82, src := bitsOf h 81 68, seq := bitsOf h 59 48, ack := bitsOf h 47 36, ackValid := bitAt h 24
    credits := bitsOf h 35 28, creditVl := bitsOf h 27 25, msg := bitsOf h 23 22, kind := bitsOf h 21 18, vl := bitsOf h 17 15
    type := bitsOf h 14 12, hops := bitsOf h 11 8, payload := ((bs.drop 16).take 240).take (bitsOf h 67 60)
    crcOk := crc32c (bs.take 12 ++ zeros 4 ++ bs.drop 16) == bitsOf h 127 96, resOk := bitsOf h 7 0 == 0, own := none }

/-- R375: a codeword whose bad symbols the code corrects, and one that it reports as uncorrectable. -/
def codeFixed (c : Code) : Bool := decide (0 < c.bad) && decide (c.bad ≤ 12)
def codeLost (c : Code) : Bool := decide (12 < c.bad)

/-- A flit of this module. -/
def mkFlit (dst src msg kind vl type : Nat) (payload : List Byte) : Flit :=
  { dst := dst, src := src, seq := 0, ack := 0, ackValid := false, credits := 0, creditVl := 0, msg := msg, kind := kind,
    vl := vl, type := type, hops := 15, payload := payload, crcOk := true, resOk := true, own := none }

/-- The bytes of a message cut into flits of at most 240 payload bytes; `first` bytes in the first (R377, R421). -/
def messageFlits (dst src kind vl : Nat) (bytes : List Byte) : List Flit :=
  let parts := match chunksOf 240 bytes.length bytes with
    | [] => [[]]
    | l => l
  parts.mapIdx (fun i b =>
    mkFlit dst src (if parts.length = 1 then 3 else if i = 0 then 1 else if i + 1 = parts.length then 2 else 0) kind vl 1 b)

/-- The virtual lane of the next credit return: round robin, from the lane after `last`, among those with credits owed
(R380). -/
def owedLane (last : Nat) (owed : List Nat) : Option Nat :=
  (lowest 8 (fun i => nth 0 owed ((last + 1 + i) % 8) > 0)).map (fun i => (last + 1 + i) % 8)

/-- R403: the credits that may go out, per lane: in the low mode those of lane 0 only. -/
def Port.owing (x : Port) (low : Bool) : List Nat := if low then x.owed.take 1 else x.owed

/-- The ACK and the credit return that every outbound flit carries (R378, R380), and the port after it. -/
def Port.stamp (x : Port) (low : Bool) (f : Flit) : Flit × Port :=
  let f := { f with ack := (x.expSeq + 4095) % 4096, ackValid := true }
  match owedLane x.rrCredit (x.owing low) with
  | none => (f, x)
  | some v =>
    let n := min 255 (nth 0 x.owed v)
    ({ f with credits := n, creditVl := v }, { x with owed := mapAt x.owed v (fun k => k - n), rrCredit := v })

/-- An unsequenced flit (idle, NAK, link control) leaves a port (R378). -/
def State.sendRaw (s : State) (p : Nat) (f : Flit) : State :=
  let (f, x) := (s.port p).stamp (s.portLow p) f
  (s.putPort p x).emit (.flit p (flitBytes f))

/-- The place in `waiting` of the oldest flit of a lane that holds a credit. -/
def Port.oldest (x : Port) (v : Nat) : Option Nat :=
  if nth 0 x.credits v > 0 then x.waiting.findIdx? (fun f => f.vl == v) else none

/-- R383: the lanes in the order the transmitter serves them: lane 7, lane 0, then lanes 1 to 6 from the one after the lane
last served. In the low mode only lane 0 moves (R403). -/
def Port.laneOrder (x : Port) (low : Bool) : List Nat :=
  if low then [0] else [7, 0] ++ (List.range 6).map (fun i => (x.rrSend + i) % 6 + 1)

/-- R383: the place in `waiting` of the next flit to send. -/
def Port.pick (x : Port) (low : Bool) : Option Nat := (x.laneOrder low).findSome? x.oldest

/-- R378, R380, R384, R386: waiting flits leave the port while it has credits and room in its retry buffer, which keeps each as it
left. -/
def State.pumpPort : Nat → State → Nat → State
  | 0, s, _ => s
  | fuel + 1, s, p =>
    let x := s.port p
    if !s.portUp p || x.retry.length ≥ 512 then s
    else
      match x.pick (s.portLow p) with
      | none => s
      | some i =>
        let f := { nth (mkFlit 0 0 0 0 0 0 []) x.waiting i with seq := x.nextSeq }
        let x := { x with
          waiting := dropAt x.waiting i
          credits := mapAt x.credits f.vl (fun k => k - 1)
          nextSeq := (x.nextSeq + 1) % 4096
          rrSend := if 1 ≤ f.vl ∧ f.vl ≤ 6 then f.vl else x.rrSend }
        let (g, x) := x.stamp (s.portLow p) f
        pumpPort fuel ((s.putPort p { x with retry := x.retry ++ [g] }).emit (.flit p (flitBytes g))) p

/-- Every waiting flit of a port that can leave does. -/
def State.pump (s : State) (p : Nat) : State := s.pumpPort (s.port p).waiting.length p

/-- What the route table says of a destination (R392, R394). -/
inductive Route where
  | port (p : Nat)
  | wait (p : Nat)
  | noRoute
deriving DecidableEq, Repr

/-- R392: the fields of a route entry. -/
def routeValid (e : BitVec 32) : Bool := bitAt e.toNat 31
def routePrimary (e : BitVec 32) : Nat := bitsOf e.toNat 27 24
def routeAlternate (e : BitVec 32) : Nat := bitsOf e.toNat 23 20
def routeAltValid (e : BitVec 32) : Bool := bitAt e.toNat 19

/-- R394, R395: the primary port when up; the alternate when it is valid and up; no way where both are down; else the flit waits for the
one that is not down: a port that retrains, or one in CONFLICT, which leaves it by retraining (R398). -/
def State.route (s : State) (dst : Nat) : Route :=
  let e := tget 0 s.routes dst
  if !routeValid e then .noRoute
  else if s.portUp (routePrimary e) then .port (routePrimary e)
  else if routeAltValid e && s.portUp (routeAlternate e) then .port (routeAlternate e)
  else if !s.portIsDown (routePrimary e) then .wait (routePrimary e)
  else if routeAltValid e && !s.portIsDown (routeAlternate e) then .wait (routeAlternate e)
  else .noRoute

/-- Flits of this module queued at the port that leads to their destination; one without a route is lost, which its
originator finds when no response arrives (R391, R394). A flit to wait for a retraining port waits there. -/
def State.sendFlit (s : State) (f : Flit) : State :=
  match s.route f.dst with
  | .port p => (s.putPort p { s.port p with waiting := (s.port p).waiting ++ [f] }).pump p
  | .wait p =>
    s.putPort p { s.port p with waiting := (s.port p).waiting ++ [f] }
  | .noRoute => s

/-- One message sent for what `o` names (R377). -/
def State.sendFor (s : State) (o : Option Origin) (dst kind vl : Nat) (bytes : List Byte) : State :=
  (messageFlits dst s.ownId kind vl bytes).foldl (fun s f => s.sendFlit { f with own := o }) s

/-- One message sent (R377). -/
def State.sendMsg (s : State) (dst kind vl : Nat) (bytes : List Byte) : State := s.sendFor none dst kind vl bytes

/-- The lane of a message of a context (R381). -/
def laneOf (cls vl : Nat) : Nat := if cls = 0 then 7 else vl

/-! Messages on virtual lane 4, whose bytes the manual leaves open. DESIGN CHOICE (log 20): a type byte, then the named
fields in the order of the rule, little-endian. -/
def msgCreditRequest (entry gen count : Nat) : List Byte := leBytes 1 1 ++ zeros 1 ++ leBytes 2 entry ++ leBytes 2 gen ++ leBytes 4 count
def msgGrant (entry gen size count : Nat) : List Byte := leBytes 1 2 ++ zeros 1 ++ leBytes 2 entry ++ leBytes 2 gen ++ leBytes 8 size ++ leBytes 4 count
def msgRefuse (entry gen status : Nat) : List Byte := leBytes 1 3 ++ zeros 1 ++ leBytes 2 entry ++ leBytes 2 gen ++ leBytes 2 status
def msgFinish (entry gen bytes : Nat) : List Byte := leBytes 1 4 ++ zeros 1 ++ leBytes 2 entry ++ leBytes 2 gen ++ leBytes 8 bytes
def msgClosing (entry gen : Nat) : List Byte := leBytes 1 5 ++ zeros 1 ++ leBytes 2 entry ++ leBytes 2 gen
def msgReturn (entry gen count : Nat) : List Byte := leBytes 1 6 ++ zeros 1 ++ leBytes 2 entry ++ leBytes 2 gen ++ leBytes 4 count
def msgTakeover (id : Nat) (es : List (Nat × Nat × Nat)) : List Byte :=
  leBytes 1 7 ++ zeros 1 ++ leBytes 2 id ++ es.flatMap (fun e => leBytes 2 e.1 ++ leBytes 2 e.2.1 ++ leBytes 2 e.2.2)

/-- Announcements of R399. -/
inductive Ann where
  | join | withdraw | departed
deriving DecidableEq, Repr

/-- The membership state an announcement brings. -/
def Ann.state : Ann → Nat
  | .join => 1 | .departed => 2 | .withdraw => 3

/-- The bytes of an announcement; the manual leaves them open. DESIGN CHOICE (log 20). -/
def annBytes (k : Ann) (id inc no : Nat) : List Byte := leBytes 1 k.state ++ zeros 1 ++ leBytes 2 id ++ leBytes 8 inc ++ leBytes 4 no

/-- An announcement queued at one port, as a membership flit on virtual lane 0. -/
def State.announceOn (s : State) (p : Nat) (bytes : List Byte) : State :=
  let f := mkFlit (s.fld (Reg.SEIF_PEER p) Fld.SEIF_PEER_MODULE) s.ownId 3 6 0 1 bytes
  (s.putPort p { s.port p with waiting := (s.port p).waiting ++ [f] }).pump p

/-- R399: an announcement flooded to every up port except the one it arrived on. -/
def State.flood (s : State) (except : Option Nat) (bytes : List Byte) : State :=
  ((List.range 12).filter (fun p => s.portUp p && except != some p)).foldl (fun s p => s.announceOn p bytes) s

/-- R399: the announcement changes the entry. -/
def Member.changes (m : Member) (k : Ann) (inc : Nat) : Bool :=
  inc > m.inc || (inc == m.inc && k.state > 1 && m.state == 1)

/-- R401: routes to a module that has gone become invalid. -/
def State.dropRoute (s : State) (id : Nat) : State :=
  { s with routes := tput 0 s.routes id (tget 0 s.routes id &&& 0x7FFFFFFF) }

/-- R399, R401: one change of the membership table: the entry, the epoch, the event, and the routes of a module that has
gone. -/
def State.setMember (s : State) (id state inc ann : Nat) : State :=
  let s := s.putMember id ⟨state, inc, ann, s.evSeq⟩
  let s := { s with epoch := (s.epoch + 1) % 2 ^ 32 }
  let s := s.raise (Ev.plain (islMantis 0) evMembership (leBytes 2 id ++ leBytes 2 state ++ leBytes 8 inc ++ leBytes 4 s.epoch))
  if state > 1 then s.dropRoute id else s

end Sys2Proof.Machine
end

