-- ==== Sys2Proof/Machine/Close.lean ====
section
/-!
DEFINITION. The close of a window (R417, R426, R427), the credits that a sender gives back, and the end of a task group (R200,
R426, R540, R557).
-/
namespace Sys2Proof.Machine

/-! Window entries (R437, R438). -/

def State.winState (s : State) (e : Nat) : Nat := s.fld (Reg.WIN_CTL e) Fld.WIN_CTL_STATE
def State.winGen (s : State) (e : Nat) : Nat := s.fld (Reg.WIN_CTL e) Fld.WIN_CTL_GEN
def State.winFree (s : State) (e : Nat) : Nat := s.fld (Reg.WIN_CREDIT e) Fld.WIN_CREDIT_FREE
def State.winPool (s : State) (e : Nat) : Nat := s.fld (Reg.WIN_CREDIT e) Fld.WIN_CREDIT_POOL

/-- The states of R415. -/
def wsClosed : Nat := 0
def wsOpen : Nat := 1
def wsClosing : Nat := 2

/-- R417: the generation after a close, and at the first opening, which leaves generation 0 behind. -/
def nextWinGen (g : Nat) : Nat := if g = 0xFFFF then 1 else g + 1

/-- R417, R426, R427: a close completes: the entry is CLOSED with the next generation and under its hold, the credits still
held are void, and the requests for it are answered. -/
def State.endClose (s : State) (e : Nat) : State :=
  let w := s.win e
  let s := s.setFld (Reg.WIN_CTL e) Fld.WIN_CTL_GEN (nextWinGen (s.winGen e))
  let s := s.setFld (Reg.WIN_CTL e) Fld.WIN_CTL_STATE wsClosed
  let s := s.putWin e { w with held := [], waiting := [], hold := true, reply := [] }
  w.reply.foldl (fun s id => s.mgmtReply 0x06 id stOk 0 0 []) s

/-- R426: a close completes when FREE equals POOL. -/
def State.tryEndClose (s : State) (e : Nat) : State :=
  if s.winState e = wsClosing ∧ s.winFree e = s.winPool e then s.endClose e else s

/-- R419: credits of an entry granted to a sender, at most `asked` of those free, and never more than PER_PEER_MAX held. -/
def State.grantTo (s : State) (e src asked : Nat) : State :=
  let w := s.win e
  let max_ := s.fld (Reg.WIN_CREDIT e) Fld.WIN_CREDIT_PER_PEER_MAX
  let has := tget 0 w.held src
  let free := s.winFree e
  let n := min (min asked free) (if max_ = 0 then free else max_ - has)
  let s := s.setFld (Reg.WIN_CREDIT e) Fld.WIN_CREDIT_FREE (free - n)
  let s := s.putWin e { w with held := tput 0 w.held src (has + n) }
  let size := (s.fld (Reg.WIN_LIMIT e) Fld.WIN_BASE_ADDR - s.fld (Reg.WIN_BASE e) Fld.WIN_BASE_ADDR) * 128
  s.sendMsg src 3 4 (msgGrant e (s.winGen e) size n)

/-- R419: waiting credit requests are answered in order of arrival while credits are free. -/
def State.serveWaiting : Nat → State → Nat → State
  | 0, s, _ => s
  | fuel + 1, s, e =>
    match (s.win e).waiting with
    | [] => s
    | (src, n) :: rest =>
      if s.winFree e = 0 then s
      else serveWaiting fuel ((s.putWin e { s.win e with waiting := rest }).grantTo e src n) e

/-- R419, R426: credits come back to the pool: they complete a close, or go to requests that wait. -/
def State.addFree (s : State) (e n : Nat) : State :=
  let s := (s.setFld (Reg.WIN_CREDIT e) Fld.WIN_CREDIT_FREE (min (s.winFree e + n) (s.winPool e))).tryEndClose e
  s.serveWaiting (s.win e).waiting.length e

/-- R419, R422, R439: a credit request is refused. -/
def State.refuseCredit (s : State) (src e gen status : Nat) : State :=
  let f := if status = stWindowClosed then Fld.WIN_REFUSE_CNT_CLOSED else Fld.WIN_REFUSE_CNT_PROT
  (s.bump Reg.WIN_REFUSE_CNT f 1).sendMsg src 3 4 (msgRefuse e gen status)

/-- R426: an open entry becomes CLOSING: requests that wait for credits are refused, and closing notices go to the senders that
hold some. -/
def State.startClose (s : State) (e : Nat) : State :=
  if s.winState e ≠ wsOpen then s
  else
    let w := s.win e
    let gen := s.winGen e
    let s := s.setFld (Reg.WIN_CTL e) Fld.WIN_CTL_STATE wsClosing
    let s := s.putWin e { w with waiting := [] }
    let s := w.waiting.foldl (fun s r => s.refuseCredit r.1 e gen stWindowClosed) s
    let s := w.held.foldl (fun s h => s.sendMsg h.1 3 4 (msgClosing e gen)) s
    s.tryEndClose e

/-! Handles. -/

/-- The lowest context of a task group. -/
def State.firstCtx (s : State) (gi : Nat) : Nat :=
  ((List.range 16).find? (fun x => (s.ctx x).live && (s.ctx x).group == gi)).getD 0

/-- R381: the lane of a message about a handle of a task group: virtual lane 7 where the group's lowest context is of class 0. -/
def State.keyLane (s : State) (gi vl : Nat) : Nat :=
  let x := s.firstCtx gi
  if (s.ctx x).live && (s.ctx x).group == gi then laneOf (s.ctx x).cls vl else vl

/-- R420, R426: a sender gives back the credits of a handle that no write has spent; the rest follow as their writes are
acknowledged. With `live` false the task group has ended, and the record stays only as long as something is on its way. -/
def State.giveBack (s : State) (key : Nat) (live : Bool) : State :=
  let h := s.handle key
  let s := s.putHandle key (if h.inUse = 0 && !live && !h.asked then .none
    else { h with live := live, closing := true, credits := 0 })
  if h.credits = 0 then s else s.sendMsg h.module_ 3 (s.keyLane (key / 4096) 4) (msgReturn h.entry h.gen h.credits)

/-! Multicast receivers. -/

/-- The units of a receiver that have left and are not acknowledged. -/
def McastRcv.flying (r : McastRcv) : Nat := r.cursor - r.acked - (r.early.filter (fun q => q < r.cursor)).length

/-- R420, R426: no slot credit of a receiver is kept from now on: `owed` are those of the units landed and not yet consumed. -/
def McastRcv.shut (r : McastRcv) (unit : Nat) : McastRcv :=
  { r with closing := true, credits := 0, owed := r.size / unit - r.credits - r.flying }

/-- R420, R426: the slot credits of some receivers of a group that no unit has spent go back. -/
def State.closeReceivers (s : State) (g : Nat) (hit : McastRcv → Bool) : State :=
  let m := s.mcast g
  let unit := 2 ^ s.fld (Reg.MCAST_CFG g) Fld.MCAST_CFG_UNIT_LOG2
  let hit (r : McastRcv) : Bool := hit r && !r.closing
  let s := (m.rcvs.filter (fun r => hit r && r.credits > 0)).foldl (fun s r =>
    s.sendMsg r.id 3 (s.keyLane m.group 4) (msgReturn r.entry r.gen r.credits)) s
  s.putMcast g { m with rcvs := m.rcvs.map (fun r => if hit r then r.shut unit else r) }

/-- R420, R426: a group of a task group that has ended: its slot credits go back, those of units on their way when they are
acknowledged. -/
def State.endMcast (s : State) (g : Nat) : State :=
  let s := s.closeReceivers g (fun _ => true)
  (s.setFld (Reg.MCAST_CFG g) Fld.MCAST_CFG_ENABLE 0).putMcast g { s.mcast g with units := [], waiting := [], staged := [], released := (s.mcast g).pushed }

/-! The end of a task group. -/

/-- R540: the memory that a group's translation map and its queues' spill regions cover, as base and length. -/
def State.groupBytes (s : State) (g : Group) (ctxs : List Nat) : List (Nat × Nat) :=
  let pages := distinct (g.maps.map (fun m => bitsOf m.2 47 21 * 0x200000))
  let sram := distinct ((pages.filter inSram).map stackOf)
  let region (q : Nat) : List (Nat × Nat) :=
    let c := s.qcfg q
    if c.kind = 2 then [(c.base, 72 * c.region)] else []
  (pages.filter inHbm).map (fun p => (p, 0x200000)) ++ sram.map (fun t => (sramBase t, 0x600000)) ++
    ctxs.flatMap (fun x => region (qCompletion x) ++ region (qToken x))

/-- R200: a resident region of a group that ends: its rows are zero, and VALID, LOADED and OWNER. -/
def State.dropRegion (s : State) (c n : Nat) : State :=
  let r := s.reg (Reg.SPAD_RES c n)
  let s := s.scrubRows c (spadBase c + 128 * bitsOf r 11 0) (128 * bitsOf r 24 12)
  let s := s.setFld (Reg.SPAD_RES c n) Fld.SPAD_RESn_VALID 0
  let s := s.setFld (Reg.SPAD_RES c n) Fld.SPAD_RESn_LOADED 0
  s.setFld (Reg.SPAD_RES c n) Fld.SPAD_RESn_OWNER 0

/-- R426, R540, R557: a task group whose tasks have all ended: its windows close, its credits go back, its multicast groups and
resident regions are gone, and the scrub of its bytes begins behind any that runs (R541). -/
def State.endGroup (s : State) (gi : Nat) : State :=
  let g := s.group gi
  let ctxs := (List.range 16).filter (fun x => (s.ctx x).group == gi && (s.ctx x).run == .ended)
  let bytes := s.groupBytes g ctxs
  let s := g.windows.foldl State.startClose s
  let s := (List.range g.handles).foldl (fun s i => if (s.handle (gi * 4096 + i)).mcast then s.putHandle (gi * 4096 + i) .none
    else s.giveBack (gi * 4096 + i) false) s
  let s := g.mcasts.foldl State.endMcast s
  let s := g.residents.foldl (fun s r => s.dropRegion r.core r.region) s
  let s := { s with shadowOf := s.shadowOf.filter (fun r => r.2.group != gi), history := s.history.filter (fun h => h.group != gi) }
  let s := { s with hmd := { s.hmd with scrub := s.hmd.scrub ++ bytes } }
  s.putGroup gi { g with live := false, ending := false }

/-- R557: a group that is to end and has no task left ends. -/
def State.tryEndGroup (s : State) (gi : Nat) : State :=
  let g := s.group gi
  if g.live && g.ending && !(List.range 16).any (fun x => (s.ctx x).live && (s.ctx x).group == gi) then s.endGroup gi else s

end Sys2Proof.Machine
end

