-- ==== Sys2Proof/Machine/Tasks.lean ====
section
/-!
DEFINITION. Cancellation of a core's streams (R265 to R267), the abort of a step and the end of a task (R22, R475 to R479),
and completion items. They are the one way in which a fault of any unit reaches the work.
-/
namespace Sys2Proof.Machine

/-! Cancellation. -/

/-- The Ant row of a core: die and mesh row (R260). -/
def antRow (c : Nat) : Nat := c / 12

/-- The taker has every row of its block that memory supplies. -/
def AntEntry.complete (e : AntEntry) (t : Taker) : Bool := e.known && e.need.all (fun r => e.landed.contains (t, r))

/-- Every row has reached the source and every taker: nothing of the entry is left to do. -/
def AntEntry.finished (e : AntEntry) : Bool :=
  e.known && e.need.all (fun r => e.rows.any (fun x => x.1 == r)) && e.takers.all e.complete

/-- R267: an epoch value under which a read is on its way, tracked or released. -/
def Core.epochInUse (x : Core) (e : Nat) : Bool := x.late.any (fun t => t.2 == e) || x.rd.any (fun t => t.epoch == e)

/-- R267: the epoch advances for every cancellation that waits, as far as the next value is not in use. -/
def Core.advance : Nat → Core → Core
  | 0, x => x
  | n + 1, x =>
    let e := (x.epoch + 1) % 256
    if x.busy = 0 ∨ x.epochInUse e then x else Core.advance n { x with epoch := e, busy := x.busy - 1 }

/-- What a core's engine holds without the operations that `p` names (R265): their lines, trackers and walks are gone; the responses of
released trackers are still to come, and the epoch is to advance. -/
def Core.cancel (x : Core) (p : StrmOp → Bool) : Core :=
  let gone := (x.ops.filter p).map (·.id)
  let lines := x.lines.filter (fun l => !gone.contains l.op)
  let y := { x with
    ops := x.ops.filter (fun o => !p o)
    prog := match x.prog with
      | some r => if gone.contains r.op then none else some r
      | none => none
    lines := lines
    rd := x.rd.filter (fun t => !gone.contains t.piece.op)
    late := x.late ++ (x.rd.filter (fun (t : Tracker) => gone.contains t.piece.op)).map (fun (t : Tracker) => (t.id, t.epoch))
    packs := x.packs.filter (fun k => !gone.contains k.op)
    again := x.again.filter (fun k => !gone.contains k.op)
    walks := x.walks.filter (fun w => lines.any (fun l => l.win == 0 && pageOf l.va == w.vpn))
    misses := if x.lines.any (fun l => l.cache && !gone.contains l.op) then x.misses else []
    busy := x.busy + 1 }
  y.advance y.busy

/-- R263: each taker of an abandoned entry whose block is incomplete has its block to register again. -/
def State.registerAgain (s : State) (e : AntEntry) : State :=
  (e.takers.filter (fun t => !e.complete t)).foldl (fun s t =>
    s.putCore t.core { s.core t.core with again := (s.core t.core).again ++ [t.at_] }) s

/-- Drop the operations of a core whose sections `p` names, all of its streams where `whole` says so; the cancellation is counted (R265, R267,
R275). Its Ant entries are abandoned and it leaves the entries it takes from (R263). Writes already sent go on (R266). -/
def State.cancelOps (s : State) (c : Nat) (whole : Bool) (p : SectId → Bool) : State :=
  let gone := ((s.core c).ops.filter (fun o => p o.sect)).map (·.id)
  let s := (s.putCore c ((s.core c).cancel (fun o => p o.sect))).bump (Reg.STRM_CANCEL_CNT c) Fld.STRM_CANCEL_CNT_COUNT 1
  let es := (tget [] s.ant (antRow c)).map (fun e => { e with takers := e.takers.filter (fun t => !(t.core == c && gone.contains t.at_.op)) })
  let lost (e : AntEntry) : Bool := e.source == c && (whole || p e.sect)
  let s := { s with ant := tput [] s.ant (antRow c) (es.filter (fun e => !lost e && !e.finished)) }
  (es.filter lost).foldl State.registerAgain s

/-- Every stream of a core cancelled. -/
def State.cancelAll (s : State) (c : Nat) : State := s.cancelOps c true (fun _ => true)

/-- R193: every cache line of a core invalid. -/
def State.flushCache (s : State) (c : Nat) : State := s.putCore c { s.core c with cache := [], plru := [] }

/-! The request queue (R300, R554, R560). -/

/-- The words of the request queue that submissions hold. -/
def State.heldWords (s : State) : Nat := (s.wadi.reqs.map (·.words)).sum

/-- R300: the firmware is done with a request; it releases words in the order of the queue. -/
def State.releaseReqs (s : State) : State :=
  let done := s.wadi.reqs.takeWhile (·.done)
  let n := (done.map (·.words)).sum
  let s := s.setQueue qWadi ((s.queue qWadi).freeWords (s.qcfg qWadi) n)
  s.withWadi (fun w => { w with reqs := w.reqs.drop done.length })

/-- R560: waiting copies take the slots that are free, in order of arrival. -/
def Wadi.fillUrgent : Nat → Wadi → Wadi
  | 0, w => w
  | fuel + 1, w =>
    match w.urgWait with
    | [] => w
    | r :: rest =>
      match lowest 4 (fun i => !w.urgent.any (fun u => u.1 == i)) with
      | none => w
      | some i => Wadi.fillUrgent fuel { w with urgent := w.urgent ++ [(i, r)], urgWait := rest }

/-- R560: the copies of requests leave their urgent slots. -/
def Wadi.dropUrgent (w : Wadi) (ids : List Nat) : Wadi :=
  Wadi.fillUrgent 4 { w with
    urgent := w.urgent.filter (fun u => !ids.contains u.2.reqId), urgWait := w.urgWait.filter (fun r => !ids.contains r.reqId) }

/-- The firmware is done with the requests of these numbers. -/
def State.doneReqs (s : State) (ids : List Nat) : State :=
  (s.withWadi (fun w => { w.dropUrgent ids with
    reqs := w.reqs.map (fun r => if ids.contains r.reqId then { r with done := true } else r) })).releaseReqs

/-! Tasks. -/

/-- The record of a task that COMMIT_QUERY reads (R564). -/
def State.taskRec (s : State) (tag : Nat) : TaskRec := (s.tasks.find? (fun t => t.tag == tag)).getD ⟨tag, noStep, 0, 0, false⟩

/-- The record of a task replaced. -/
def State.putTask (s : State) (r : TaskRec) : State := { s with tasks := r :: s.tasks.filter (fun t => t.tag != r.tag) }

/-- R479: a completion item. -/
def completionItem (step status flags ctx replays tag evSeq : Nat) : List Byte :=
  leBytes 8 step ++ leBytes 2 status ++ leBytes 2 flags ++ leBytes 1 ctx ++ leBytes 1 (min replays 255) ++ zeros 2 ++
    leBytes 8 tag ++ leBytes 8 evSeq

/-- FLAGS of a completion item (R479). -/
def itemFlags (empty deferred final replayed : Bool) : Nat :=
  (if empty then 1 else 0) + (if deferred then 2 else 0) + (if final then 4 else 0) + (if replayed then 8 else 0)

/-- R270: the Ant entries of a context, whose streams are all cancelled at once. -/
def State.dropAnt (s : State) (x : Nat) : State :=
  (List.range 24).foldl (fun s r =>
    { s with ant := tput [] s.ant r ((tget [] s.ant r).filter (fun e => e.key.head? != some (x : Int))) }) s

/-- Stop what runs of a context's step on every core that serves it: streams cancelled, tiles abandoned, tokens discarded,
caches invalidated (R189, R193, R475). -/
def State.stopCores (s : State) (x : Nat) : State :=
  let s := s.dropAnt x
  (s.serving x).foldl (fun s c =>
    let s := s.cancelAll c
    let s := (s.flushCache c).dropAccs c (fun y => y.own.isSome)
    s.putCore c { s.core c with grants := [], tokens := 0, runs := 0 }) s

/-- R475: the Erg operations of the context's step, the running one too, leave the queues. -/
def State.stopErg (s : State) (x : Nat) : State :=
  (List.range 12).foldl (fun s t => s.putStack t { s.stack t with
    queue := (s.stack t).queue.filter (fun e => e.ctx != x), onCores := (s.stack t).onCores.filter (fun e => e.ctx != x) }) s

/-- R300, R475: the reduction staging of the cores that add for a Swarm step is flushed, and the Swarm run ends. -/
def State.stopSwarm (s : State) (x : Nat) : State :=
  if s.swarm.live && s.swarm.ctx == x then
    let s := (s.serving x).foldl (fun s c =>
      let q := qStaging c
      if (s.qcfg q).enable then
        (s.putQ q { s.queue q with flushes := (s.queue q).flushes + 1 }).bump (Reg.SPQ_EVT_CNT q) Fld.SPQ_EVT_CNT_FLUSHES 1
      else s) s
    { s with swarm := { s.swarm with live := false, phase := 0 } }
  else s

/-- The next generation of a context (R135): its slot entries are cleared when it wraps to zero. -/
def Ctx.nextGen (c : Ctx) : Ctx :=
  let g := (c.gen + 1) % 2 ^ 16
  { c with gen := g, slots := if g = 0 then [] else c.slots }

/-- What a run of a step holds, cleared for the next run (R475): the re-issue list, votes, releases and audit masses. -/
def Ctx.clearRun (c : Ctx) : Ctx :=
  { c with
    pass := 0, sweep := 0, cur := [0, 0], base := 0, done := [], reissue := [], votes := [], took := [], expiries := [], released := [],
    combines := [], remote := [], masses := [], ergDone := [], ergSent := 0,
    partials := [], ran := [] }

/-- Bytes left undefined are free values (R474). -/
def State.undefine (s : State) (ranges : List (Nat × Nat)) : State :=
  ranges.foldl (fun s r =>
    { s.store r.1 ((List.range r.2).map (fun i => Config.freeByte (s.free + i))) with free := s.free + r.2 }) s

/-- R197, R475: a resident region in which a byte of bad parity lies no longer holds its last load. -/
def State.unload (s : State) (x : Nat) : State :=
  (s.serving x).foldl (fun s c => [0, 1].foldl (fun s n =>
    let r := s.reg (Reg.SPAD_RES c n)
    if bitAt r 40 && s.hasBad (spadBase c + 128 * bitsOf r 11 0) (128 * bitsOf r 24 12)
    then s.setFld (Reg.SPAD_RES c n) Fld.SPAD_RESn_LOADED 0 else s) s) s

/-- The multicast units a step staged, which a run that does not commit never pushes (R430). -/
def State.dropStaged (s : State) (x : Nat) : State :=
  (s.group (s.ctx x).group).mcasts.foldl (fun s g =>
    s.putMcast g { s.mcast g with staged := (s.mcast g).staged.filter (fun u => u.1 / 2 ^ 32 != x) }) s

/-- R475: the step of context `x` stops on every unit. -/
def State.stopStep (s : State) (x : Nat) : State :=
  let s := s.unload x
  let s := s.stopCores x
  let s := s.stopErg x
  let s := s.stopSwarm x
  let s := s.dropStaged x
  s.putCtx x (s.ctx x).nextGen.clearRun

/-- The write trackers of window writes of a context whose task ends; their acknowledgements return credits only (R420). -/
def State.forgetRemote (s : State) (x : Nat) : State :=
  (allCores.filter (fun c => (s.core c).wr.any (fun w => w.ctx == x && w.piece.win != 0))).foldl (fun s c =>
    s.putCore c { s.core c with wr := (s.core c).wr.filter (fun w => !(w.ctx == x && w.piece.win != 0)) }) s

/-- R22, R479, R603: the task of context `x` ends: the TASK_END event, the final completion item, and the context is no
longer resident. `ev` is the event that records the end's cause, zero for none. -/
def State.endTask (s : State) (x status ev : Nat) : State :=
  let c := s.ctx x
  let s := s.raise ⟨islMantis 0, evTaskEnd, status, x, c.stepNo, noTile, c.gen, leBytes 2 status ++ zeros 6 ++ leBytes 8 c.task⟩
  let last := if status = stOk then (s.taskRec c.task).last else c.stepNo
  let s := s.pushItem (qCompletion x) (completionItem last status (itemFlags false false true false) x c.failures c.task ev)
  let s := s.putTask { s.taskRec c.task with status := status, final := true }
  let s := (s.serving x).foldl (fun s k => s.putCore k { s.core k with ctx := none, grants := [], tokens := 0 }) s
  let s := s.forgetRemote x
  let s := [0, 1].foldl (fun s d => s.setFld (Reg.TILECTR_CFG d x) Fld.TILECTR_CFG_ENABLE 0) s
  ((s.putCtx x { s.ctx x with live := false, run := .ended, launch := none, queue := [] }).doneReqs (c.queue.map (·.reqId))).tryEndGroup c.group

/-- The step of context `x` aborts with a status, its cause already recorded by event `ev` (R475, R477, R478). A status of
class 0x01 to 0x04 ends the task; the other causes leave the step to its replay, until its count of failures reaches the
replay limit. -/
def State.abortAs (s : State) (x status ev : Nat) (counted : Bool) : State :=
  if (s.ctx x).run ≠ .running then s
  else
    let c := s.ctx x
    let n := if counted then c.failures + 1 else c.failures
    let s := s.stopStep x
    let s := s.bump Reg.FLT_ABORT_CNT Fld.FLT_ABORT_CNT_ABORTS 1
    let s := s.raise ⟨islMantis 0, evStepAbort, status, x, c.stepNo, noTile, c.gen, leBytes 8 ev ++ leBytes 4 n⟩
    let s := s.putCtx x { s.ctx x with run := .aborted, failures := n, cause := ev, causeSt := status }
    if endsTask status || status = stTenantScrub then s.endTask x status ev
    else if counted && n ≥ s.fld Reg.FLT_CFG Fld.FLT_CFG_REPLAY_LIMIT then
      let s := s.undefine c.wrote
      let s := s.bump Reg.FLT_ABORT_CNT Fld.FLT_ABORT_CNT_LIMIT_ENDS 1
      s.endTask x stReplayLimit ev
    else s

/-- A cause of abort found in the step of context `x`: its event is queued in any case, and the step aborts unless it has
already stopped (R478). -/
def State.fault (s : State) (x status : Nat) (counted : Bool) (e : Ev) : State :=
  let ev := s.evSeq
  (s.raise e).abortAs x status ev counted

/-- R270: a mid-stream fault aborts the step for replay; it has no status of its own. -/
def State.midStream (s : State) (x : Nat) (e : Ev) : State := s.fault x stOk true e

/-- A PROGRAM_ERROR event (R491, R603). -/
def programError (isl status ctx step tile gen addr row pos tag : Nat) : Ev :=
  ⟨isl, evProgramError, status, ctx, step, tile, gen, leBytes 8 addr ++ leBytes 4 row ++ leBytes 4 pos ++ leBytes 8 tag⟩

end Sys2Proof.Machine
end

