-- ==== Sys2Proof/Machine/Recover.lean ====
section
/-!
DEFINITION. What a failed unit costs (R309 to R317, R481 to R485, R519): re-issue of a core's grants, the fence of a core,
the hold state, the withdrawal of the module, a trip, and the loss of power.
-/
namespace Sys2Proof.Machine

/-! Re-issue. -/

/-- The die whose counter of context `x` grants to a core of die `d` (R310, R311). -/
def State.counterDie (s : State) (x d : Nat) : Nat := if s.assured then d else x % 2

/-- R313: the order of a re-issue list: lowest tile index first, combine entries before tile entries. -/
def Reissue.le (a b : Reissue) : Bool := a.tile < b.tile || (a.tile == b.tile && (a.combine || !b.combine))

/-- A tile of a running step has ended or been skipped (R312). -/
def Ctx.endTile (c : Ctx) (t : Nat) : Ctx := if c.done.contains t then c else { c with done := t :: c.done }

/-- A grant placed on its counter's re-issue list with its generation and copy unchanged (R313, R315, R336). A copy whose
signature or partial is posted is not issued again: a tile whose partial is released has ended (R316). -/
def State.reissueGrant (s : State) (x c : Nat) (g : Grant) : State :=
  if g.gen ≠ (s.ctx x).gen then s
  else if g.stands && !g.combine then (if g.won then s.putCtx x ((s.ctx x).endTile g.tile) else s)
  else
    let s := s.putCtx x { s.ctx x with
      reissue := insertBy Reissue.le ⟨s.counterDie x (dieOf c), g.tile, g.gen, g.copy, g.combine, g.audit⟩ (s.ctx x).reissue }
    s.bump (Reg.TILECTR_REISSUE (s.counterDie x (dieOf c)) x) Fld.TILECTR_REISSUE_COUNT 1

/-- Every grant a core holds placed on its list (R315). -/
def State.reissueAll (s : State) (c : Nat) : State :=
  match (s.core c).ctx with
  | none => s
  | some x =>
    let s := (s.core c).grants.foldl (fun s g => s.reissueGrant x c g) s
    s.putCore c { s.core c with grants := [], tokens := 0 }

/-- R321, R322, R328: an anchor core stays with its context: a move on its way ends, and a test of it waits. -/
def State.holdAnchor (s : State) (c : Nat) : State :=
  let k := s.core c
  if k.moving then s.putCore c { k with moving := false, moveTo := none, test := if k.test = 1 then 3 else k.test } else s

/-- R322: the anchor core of a running step, where the present one no longer serves the context: the lowest-numbered
unfenced core that does. -/
def State.fixAnchor (s : State) (x : Nat) : State :=
  let c := s.ctx x
  if c.run == .running && !(s.serving x).contains c.anchor then
    match s.serving x with
    | [] => s
    | a :: _ => (s.putCtx x { c with anchor := a }).holdAnchor a
  else s

/-! Mantis cores (R3, R482). -/

/-- The Mantis core is fenced. -/
def State.mantisFenced (s : State) (m : Nat) : Bool := bitAt s.hmd.mantisFence m

/-- The unfenced Mantis cores of a die. -/
def State.liveMantis (s : State) (d : Nat) : List Nat := (List.range 16).filter (fun m => m / 8 == d && !s.mantisFenced m)

/-- A Mantis core fenced. -/
def State.fenceMantis (s : State) (m : Nat) : State := { s with hmd := { s.hmd with mantisFence := s.hmd.mantisFence ||| 2 ^ m } }

/-! Power lost, hold, withdrawal. -/

/-- The compute rails go off (R519): cores, stacks, Mantis cores, ports and every register outside the Hamada and Wadi blocks
lose their state, and memory is lost. The Wadi port keeps its link and session; its request queue, whose region lay in HBM,
is lost. -/
def State.computeOff (s : State) : State :=
  { s with
    regs := s.regs.filter (fun r => wadiBase ≤ r.1 && !(qWadi ≤ r.1 && r.1 < qWadi + 0x40))
    mem := []
    badBytes := []
    badAcc := []
    softAcc := []
    queues := []
    ports := []
    routes := []
    members := []
    epoch := 0
    annNo := 0
    wins := []
    handles := []
    mcasts := []
    groups := []
    tasks := []
    ctxs := []
    cores := []
    spadAcc := []
    ant := []
    stackTab := []
    swarm := .idle
    swarmDone := none
    digests := []
    takeover := []
    shadowOf := []
    history := []
    params := none
    wadi := { s.wadi with
      reqs := [], bulkWr := [], urgent := [], urgWait := [], aestEnter := false, aestWake := false, modTest := false, testing := false }
    hmd := { s.hmd with scrub := [], parked := [], hot := [] } }

/-- R509, R515, R517: the start stops in the hold state. The Hamada then runs S21 and S22 itself (R519), unless S04 has
failed, for without its identity the module opens no session. -/
def State.enterHold (s : State) (cause step unit : Nat) : State :=
  let s := s.computeOff
  let s := { s with power := .hold, start := { s.start with running := [], finished := [] } }
  let s := s.setFld Reg.START_STATUS Fld.START_STATUS_HOLD 1
  let s := s.setFld Reg.START_STATUS Fld.START_STATUS_HOLD_CAUSE cause
  let s := s.setFld Reg.START_STATUS Fld.START_STATUS_HOLD_STEP step
  let s := s.setFld Reg.START_STATUS Fld.START_STATUS_HOLD_UNIT (if unit < 0x1FF then unit else 0x1FF)
  if step = 4 then s else s.setFld Reg.START_STATUS Fld.START_STATUS_STEP 21

/-- R399, R485: WITHDRAW announcements for the module's own ID on every up port. -/
def State.sayWithdraw (s : State) : State :=
  let s := { s with annNo := s.annNo + 1 }
  s.flood none (annBytes .withdraw s.ownId s.hmd.incarnation s.annNo)

/-- Every context that holds a task ends it (R485). -/
def State.endAll (s : State) (status ev : Nat) : State :=
  (List.range 16).foldl (fun s x =>
    if (s.ctx x).live then (if (s.ctx x).run == .running then s.stopStep x else s).endTask x status ev else s) s

/-- R567, R568: `count` items that the firmware has read from a queue leave in one frame, in an open session. -/
def State.sendItems (s : State) (q type ctx count : Nat) (wrap : List Byte → List Byte) : State :=
  let x := s.queue q
  let body := leBytes 1 ctx ++ zeros 3 ++ leBytes 4 count ++ (x.inbox.take count).flatMap wrap
  if !s.live || !s.hmd.sessOpen || !s.linkUp || count = 0 || count > x.inbox.length || body.length > 9164 then s
  else (s.putQ q { x with inbox := x.inbox.drop count }).sendFrame clEvents type 0 0 body

/-- R479, R485, R567: what a queue still holds when the module withdraws leaves before the rails go off, an item a frame. -/
def State.sendLast (s : State) (q type ctx : Nat) (wrap : List Byte → List Byte) : State :=
  let c := s.qcfg q
  let x := s.queue q
  let x := (x.credit c x.backlog.length).close
  let y := (x.words.drop x.held).foldl (fun y w => Queue.deliver c y w) x
  (List.range y.inbox.length).foldl (fun s _ => s.sendItems q type ctx 1 wrap) (s.putQ q { y with words := [] })

/-- R485, R567: the last events, completions and tokens of a module that withdraws. -/
def State.sayLast (s : State) : State :=
  (List.range 16).foldl
    (fun s x => (s.sendLast (qCompletion x) 2 x id).sendLast (qToken x) 3 x (fun t => leBytes 2 t.length ++ zeros 2 ++ t))
    (s.sendLast qEvent 1 0xFF id)

/-- R485, R491: the module is withdrawn with a reason: its contexts stop, WITHDRAW goes out, its tasks end, the ledger
records it, and the module stays as in the hold state. -/
def State.withdraw (s : State) (reason stack : Nat) : State :=
  let ev := s.evSeq
  let s := s.raise (Ev.plain islHamada evWithdraw
    (leBytes 1 reason ++ zeros 1 ++ leBytes 2 (if reason = 0 then stack else 0xFFFF)))
  let s := s.sayWithdraw
  let s := s.endAll stWithdrawn ev
  let s := s.writeRec ltWithdraw 0 0xFFFF 0 0 (leBytes 1 reason ++ zeros 1 ++ leBytes 2 (if reason = 0 then stack else 0xFFFF))
  let s := s.sayLast.computeOff
  let s := { s with power := .hold, hmd := { s.hmd with withdrawn := true } }
  s.setFld Reg.START_STATUS Fld.START_STATUS_HOLD 1

/-- R529, R530, R548: a trip: its log, then the withdrawal with reason 2. In a module already stopped nothing is withdrawn. -/
def State.trip (s : State) (cause sensor cyc : Nat) : State :=
  if s.power == .off || s.fld Reg.HMD_TRIP_LOG Fld.HMD_TRIP_LOG_VALID = 1 then s
  else
    let s := s.putReg Reg.HMD_TRIP_LOG (2 ^ 63 + cause % 8 * 2 ^ 60 + sensor % 256 * 2 ^ 52 + cyc % 2 ^ 40)
    if s.power == .hold then s else s.withdraw 2 0

/-- The loss of input power (R583, R584): everything but flash, ledger and fuses is gone. A record that was being
programmed is torn (R512): whether the loss fell there is a free value during a start. -/
def State.powerOff (s : State) : State :=
  let t0 := s.power == .starting && Config.freeBit s.free
  let t1 := s.power == .starting && !t0 && Config.freeBit (s.free + 1)
  let head := s.fld Reg.LEDGER_STATUS Fld.LEDGER_STATUS_HEAD_SLOT
  let written := s.fld Reg.LEDGER_STATUS Fld.LEDGER_STATUS_HEAD_SEQ > 0
  let s' : State := { State.reset with
    pending := s.pending
    flash0 := s.flash0
    flash1 := s.flash1
    ledger0 := if t0 && written then tput .erased s.ledger0 head .torn else s.ledger0
    ledger1 := if t0 && written then tput .erased s.ledger1 head .erased
      else if t1 && written then tput .erased s.ledger1 head .torn else s.ledger1
    hmd := { Hmd.idle with svnHmd := s.hmd.svnHmd, svnMnt := s.hmd.svnMnt }
    owners := s.owners
    free := s.free + 2
    out := s.out }
  s'

/-! The fence. -/

/-- R481: whether too few cores are left: fewer than the minimum on a die, or in the Assured profile fewer than three in the
module. -/
def State.tooFewCores (s : State) : Bool :=
  let n0 := (s.unfenced 0).length
  let n1 := (s.unfenced 1).length
  let m := s.fld Reg.FLT_CFG Fld.FLT_CFG_MIN_CORES_PER_DIE
  n0 < m || n1 < m || (s.assured && n0 + n1 < 3)

/-- R530: the parked cores and their counts in HMD_CLK. -/
def State.setParked (s : State) (l : List Nat) : State :=
  let s := { s with hmd := { s.hmd with parked := l } }
  (s.setFld Reg.HMD_CLK Fld.HMD_CLK_PARKED0 (l.filter (fun c => dieOf c == 0)).length).setFld
    Reg.HMD_CLK Fld.HMD_CLK_PARKED1 (l.filter (fun c => dieOf c == 1)).length

/-- R328, R564: the requests for a self-test of a core are answered with the code of the result, which the manual does not give (log 41). -/
def State.answerTests (s : State) (c : Nat) (pass : Bool) (ev : Nat) : State :=
  (s.core c).testReq.foldl (fun s r => s.mgmtReply 0x08 r stOk 0 ev (leBytes 2 (Config.testCode pass))) s

/-- R315, R316, R491: the Hamada fences a core: its grants go to the re-issue lists, its streams are cancelled, a parked core
is parked no longer, and a test failure enters the ledger. The module is withdrawn when too few cores are left (R481). -/
def State.fenceCore (s : State) (c reason : Nat) : State :=
  if s.fenced c then s
  else
    let old := (s.core c).ctx
    let s := s.setFence c
    let s := s.reissueAll c
    let s := s.cancelAll c
    let s := s.answerTests c false s.evSeq
    let s := s.putCore c { s.core c with ctx := none, moving := false, moveTo := none, test := 0, testReq := [] }
    let s := s.setParked (s.hmd.parked.filter (fun p => p != c))
    let s := match old with
      | none => s
      | some x => s.fixAnchor x
    let s := s.raise (Ev.plain islHamada evCoreFenced (leBytes 2 c ++ leBytes 1 reason))
    let s := if reason = 0 then s.writeRec ltFence 0 0xFFFF 0 0 (leBytes 2 c) else s
    if s.tooFewCores then s.withdraw 3 0 else s

/-! Budgets of errors within a span of time. The span is not modelled: once the count has reached the budget, whether it
was reached within the window is a free value, unless the errors of one command reach it. -/

/-- R204: the parity budget of a core, where `n` errors have just been recorded. -/
def State.parityBudget (s : State) (c n : Nat) : State :=
  if n ≥ s.conf.spadBudget ∨ ((s.core c).errs ≥ s.conf.spadBudget ∧ Config.freeBit s.free) then s.used.fenceCore c 1 else s.used

/-- R344: the persistent fault of a stack. -/
def State.stackFault (s : State) (t reason : Nat) : State :=
  let s := s.setFld (Reg.HBM_STATUS t) Fld.HBM_STATUS_STATE 4
  let s := s.raise (Ev.plain (islHbm t) evStackFault (leBytes 1 t ++ leBytes 1 reason))
  s.withdraw 0 t

/-- R344: the uncorrectable budget of a stack, where an error has just been counted. -/
def State.ueBudget (s : State) (t : Nat) : State :=
  if s.conf.hbmBudget ≤ 1 ∨ ((s.stack t).ues ≥ s.conf.hbmBudget ∧ Config.freeBit s.free) then s.used.stackFault t 0 else s.used

/-- R363, R364: an Erg engine fails with a cause: 0 self-test, 1 operation timeout, 2 SRAM errors. The records that wait in its queue are
run on cores from now on. -/
def State.failErg (s : State) (t cause : Nat) : State :=
  let s := s.setFld (Reg.ERG_STATUS t) Fld.ERG_STATUS_STATE 3
  let s := s.setFld (Reg.ERG_STATUS t) Fld.ERG_STATUS_CAUSE cause
  let s := s.putStack t { s.stack t with queue := [], onCores := (s.stack t).onCores ++ (s.stack t).queue }
  s.raise (Ev.plain (islErg t) evErgFailed (leBytes 1 t ++ leBytes 1 cause))

/-- R363, R364: an engine fails while the module runs: the ledger records it (DESIGN CHOICE: log 108), and the step of the operation that
runs on the engine aborts. -/
def State.engineFails (s : State) (t cause : Nat) : State :=
  let front := (s.stack t).queue.head?
  let ev := s.evSeq
  let s := (s.failErg t cause).writeRec ltEnded 13 t 0 1 (zeros 2 ++ leBytes 1 cause)
  front.elim s (fun e => s.abortAs e.ctx stOk ev true)

/-- R344, R363: the budget of the memory in which an uncorrectable error at `pa` has been counted: that of a stack, or of an engine's
SRAM. -/
def State.ueBudgets (s : State) (pa : Nat) : State :=
  let t := stackOf pa
  if inHbm pa then s.ueBudget t
  else if (s.stack t).sues ≥ s.conf.ergBudget ∧ s.fld (Reg.ERG_STATUS t) Fld.ERG_STATUS_STATE ≠ 3 then s.engineFails t 2 else s

/-- R342: an uncorrectable error that the firmware meets while it reads for a step is a mid-stream fault of the step. -/
def State.firmwareUe (s : State) (x pa tag : Nat) : State :=
  let s := s.noteUe .mantis pa
  let kind := if inHbm pa then 0 else 1
  (s.midStream x ⟨islMantis 0, evStreamFault, stOk, x, (s.ctx x).stepNo, noTile, (s.ctx x).gen,
    leBytes 8 (2 ^ 63 + kind * 2 ^ 60 + pa % 2 ^ 48) ++ leBytes 8 tag⟩).ueBudgets pa

/-! Messages to the firmware that end a test or a scrub. -/

/-- A free core of R320: unfenced, not withdrawn for a test, not parked. A request that waits for its turn (3) withdraws none. -/
def State.usable (s : State) (c : Nat) : Bool := !s.fenced c && (s.core c).test % 3 == 0 && !s.hmd.parked.contains c

end Sys2Proof.Machine
end

