-- ==== Sys2Proof/Machine/Link.lean ====
section
/-!
DEFINITION. Training of a Seif port and what its two partners tell each other (R380, R388, R397 to R400): lane sets, the
grant of credits, link-control flits and the module's own JOIN.
-/
namespace Sys2Proof.Machine

/-- R388: the lane sets in order of choice, with their widths. -/
def laneSets : List (Nat × Nat) :=
  [(0xFF, 8), (0x0F, 4), (0xF0, 4), (0x03, 2), (0x0C, 2), (0x30, 2), (0xC0, 2),
   (1, 1), (2, 1), (4, 1), (8, 1), (16, 1), (32, 1), (64, 1), (128, 1)]

/-- R388: the widest lane set that is healthy. -/
def laneChoice (mask : Nat) : Option (Nat × Nat) := laneSets.find? (fun l => mask &&& l.1 == l.1)

/-- SEIF_WIDTH set by the port (R409). -/
def State.setWidth (s : State) (p state healthy active width : Nat) : State :=
  s.putReg (Reg.SEIF_WIDTH p) (state * 2 ^ 24 + healthy % 256 * 2 ^ 16 + active * 2 ^ 8 + width)

/-- The state of a port changed, its lanes kept, with the PORT_STATE event (R491). -/
def State.setPortState (s : State) (p state : Nat) : State :=
  if s.portState p = state then s
  else
    let s := s.setFld (Reg.SEIF_WIDTH p) Fld.SEIF_WIDTH_STATE state
    s.raise (Ev.plain (islPort p) evPortState
      (leBytes 1 p ++ leBytes 1 state ++ leBytes 2 (s.fld (Reg.SEIF_PEER p) Fld.SEIF_PEER_MODULE)))

/-- Lanes of a port changed, with the PORT_WIDTH event where the width changes (R491). -/
def State.setLanes (s : State) (p state healthy active width : Nat) : State :=
  let old := s.fld (Reg.SEIF_WIDTH p) Fld.SEIF_WIDTH_WIDTH
  let was := s.portState p
  let s := s.setWidth p was healthy active width
  let s := if old = width then s else s.raise (Ev.plain (islPort p) evPortWidth
    (leBytes 1 p ++ leBytes 1 old ++ leBytes 1 width ++ leBytes 1 healthy))
  s.setPortState p state

/-- An idle flit of a port. -/
def idleFlit (src : Nat) : Flit := mkFlit 0 src 0 0 0 0 []

/-- R378, R380: idle flits carry the credits a port owes; as many leave as it takes. -/
def State.sendIdles : Nat → State → Nat → State
  | 0, s, _ => s
  | fuel + 1, s, p => if (owedLane 0 ((s.port p).owing (s.portLow p))).isSome then sendIdles fuel (s.sendRaw p (idleFlit s.ownId)) p else s

/-- Every credit a port owes goes out (R380). In the low mode none goes out for lanes 1 to 7 (R403). -/
def State.returnCredits (s : State) (p : Nat) : State := if s.portUp p then s.sendIdles 64 p else s

/-- A link-control flit with the bytes it carries; the manual leaves them open. DESIGN CHOICE (log 20). -/
def State.sendControl (s : State) (p : Nat) (bytes : List Byte) : State :=
  s.sendRaw p (mkFlit (s.fld (Reg.SEIF_PEER p) Fld.SEIF_PEER_MODULE) s.ownId 3 0 0 3 bytes)

/-- R398: the HELLO of this module on a port. -/
def State.sendHello (s : State) (p : Nat) : State :=
  s.sendControl p (leBytes 1 1 ++ leBytes 1 p ++ leBytes 2 s.ownId ++ leBytes 8 s.hmd.incarnation)

/-- R380, R384: at the end of training the link starts afresh: nothing is in flight, and the full allocation of every virtual
lane is granted to the partner by credit returns; this side's credits come from the partner's. -/
def State.freshLink (s : State) (p : Nat) : State :=
  let x := s.port p
  s.putPort p { x with
    slots := [], retry := [], nextSeq := 0, expSeq := 0, nakFor := none, replays := 0, fails := 0, after := none
    credits := [0, 0, 0, 0, 0, 0, 0, 0], owed := (List.range 8).map (s.vlAlloc p), peerInc := 0, wakeStage := 0 }

/-- R403: the lane that stays up in the low mode: the lowest-numbered healthy one. -/
def keptLane (mask : Nat) : Option Nat := lowest 8 (bitAt mask)

/-- R380, R389, R391, R403: a port comes up on the lanes of the mask that passed training: on the widest set, or on the kept lane of the
low mode, where no credit of lanes 1 to 7 is granted yet. -/
def State.trainUp (s : State) (p mask : Nat) (low : Bool) : State :=
  let mask := mask % 256
  match if low then (keptLane mask).map (fun k => (2 ^ k, 1)) else laneChoice mask with
  | none => s
  | some (act, w) =>
    let s := (s.setLanes p (if low then psLow else psUp) mask act w).freshLink p
    (s.returnCredits p).pump p

/-! Receive slots (R380, R382). -/

/-- The slot of a receive buffer is free again, and its credit owed (R380). -/
def State.freeSlot (s : State) (p vl : Nat) : State :=
  let x := s.port p
  s.putPort p { x with owed := mapAt x.owed vl (fun n => n + 1) }

/-- The flits of the first message among those that `m` picks whose first flit `p` picks, and the others; `inside` says that the flits before
belong to that message. -/
def cutMessage (m p : Flit → Bool) : Bool → List Flit → List Flit × List Flit
  | _, [] => ([], [])
  | inside, f :: l =>
    if m f && (inside || ((f.msg == 1 || f.msg == 3) && p f)) then
      if f.msg == 2 || f.msg == 3 then ([f], l)
      else
        let (a, b) := cutMessage m p true l
        (f :: a, b)
    else
      let (a, b) := cutMessage m p inside l
      (a, f :: b)

/-- R382: the payload of a message of `src` has been taken, whose flits `m` picks and its first flit `p`: they leave their slots, at the
lowest port that holds the message. -/
def State.consumeHead (s : State) (src : Nat) (m p : Flit → Bool) : State :=
  let hit (f : Flit) : Bool := f.dst == s.ownId && f.src == src && m f
  match lowest 12 (fun q => (s.port q).slots.any (fun f => hit f && (f.msg == 1 || f.msg == 3) && p f)) with
  | none => s
  | some p' =>
    let (a, b) := cutMessage hit p false (s.port p').slots
    ((a.foldl (fun s f => s.freeSlot p' f.vl) (s.putPort p' { s.port p' with slots := b })).returnCredits p').pump p'

/-- The first message of `src` among the flits that `m` picks is taken. -/
def State.consume (s : State) (src : Nat) (m : Flit → Bool) : State := s.consumeHead src m (fun _ => true)

/-- The number of ports up. -/
def State.portsUp (s : State) : Nat := ((List.range 12).filter s.portUp).length

/-- R399: the module's own entry is present, and its JOIN goes out on every up port. -/
def State.joinSelf (s : State) : State :=
  let s := { s with annNo := s.annNo + 1 }
  let s := if s.member s.ownId = ⟨1, s.hmd.incarnation, s.annNo, (s.member s.ownId).ev⟩ then s else s.setMember s.ownId 1 s.hmd.incarnation s.annNo
  s.flood none (annBytes .join s.ownId s.hmd.incarnation s.annNo)

end Sys2Proof.Machine
end

