-- ==== Sys2Proof/Machine/Fp.lean ====
section
/-!
DEFINITION. Number formats, the one rounding of the module and the FP32 operations (R35 to R62, R604). A value is decoded
to an exact number, computed exactly and rounded once to nearest, ties to even, on the destination's grid, its subnormal
range included (R56). Every NaN the module makes has the fixed pattern of R57.
-/
namespace Sys2Proof.Machine

/-- A decoded value: NaN, an infinity, or `± m × 2^e` (a signed zero when `m` is 0). -/
inductive FV where
  | nan
  | inf (neg : Bool)
  | fin (neg : Bool) (m : Nat) (e : Int)
deriving DecidableEq, Repr

/-- How a format spends its largest exponent (R36). -/
inductive Specials where
  | ieee      -- infinities and NaNs
  | nanOnly   -- E4M3: one NaN significand, no infinity
  | none      -- every code finite
deriving DecidableEq, Repr

/-- A floating-point element format of R36. -/
structure Fmt where
  eb   : Nat
  mb   : Nat
  bias : Nat
  sp   : Specials
deriving DecidableEq, Repr

/-- The element formats of R36, and UE5M3 of R38 as a format without its sign. -/
def fmt32   : Fmt := ⟨8, 23, 127, .ieee⟩
def fmtBf16 : Fmt := ⟨8, 7, 127, .ieee⟩
def fmt16   : Fmt := ⟨5, 10, 15, .ieee⟩
def fmtE4M3 : Fmt := ⟨4, 3, 7, .nanOnly⟩
def fmtE5M2 : Fmt := ⟨5, 2, 15, .ieee⟩
def fmtE3M2 : Fmt := ⟨3, 2, 3, .none⟩
def fmtE2M3 : Fmt := ⟨2, 3, 1, .none⟩
def fmtE2M1 : Fmt := ⟨2, 1, 1, .none⟩
def fmtUE5M3 : Fmt := ⟨5, 3, 15, .nanOnly⟩

/-- The weight, as a power of two, of one unit of the subnormal range. -/
def Fmt.unit (f : Fmt) : Int := 1 - (f.bias : Int) - (f.mb : Int)

/-- The sign bit's place. -/
def Fmt.signAt (f : Fmt) : Nat := f.eb + f.mb

/-- The largest finite magnitude code (R36). -/
def Fmt.maxCode (f : Fmt) : Nat :=
  match f.sp with
  | .ieee => (2 ^ f.eb - 1) * 2 ^ f.mb - 1
  | .nanOnly => 2 ^ (f.eb + f.mb) - 2
  | .none => 2 ^ (f.eb + f.mb) - 1

/-- The code of +infinity, where the format has one. -/
def Fmt.infCode (f : Fmt) : Nat := (2 ^ f.eb - 1) * 2 ^ f.mb

/-- R57: the NaN pattern the module writes. -/
def Fmt.nanCode (f : Fmt) : Nat :=
  match f.sp with
  | .ieee => f.infCode + 2 ^ (f.mb - 1)
  | _ => 2 ^ (f.eb + f.mb) - 1

/-- The value of a code (R36, R58). -/
def Fmt.decode (f : Fmt) (code : Nat) : FV :=
  let neg := bitAt code f.signAt
  let mag := code % 2 ^ f.signAt
  let ex := mag / 2 ^ f.mb
  let fr := mag % 2 ^ f.mb
  if f.sp = .ieee ∧ ex = 2 ^ f.eb - 1 then (if fr = 0 then .inf neg else .nan)
  else if f.sp = .nanOnly ∧ mag = 2 ^ f.signAt - 1 then .nan
  else if ex = 0 then .fin neg fr f.unit
  else .fin neg (2 ^ f.mb + fr) (f.unit + (ex : Int) - 1)

/-- Shift by a signed power of two as a fraction: `n × 2^t` as (numerator, denominator). -/
def scale2 (n d : Nat) (t : Int) : Nat × Nat :=
  if t ≥ 0 then (n * 2 ^ t.toNat, d) else (n, d * 2 ^ (-t).toNat)

/-- `n / d` rounded to the nearest integer, ties to even. -/
def rne (n d : Nat) : Nat :=
  let q := n / d
  let r := n % d
  if 2 * r > d ∨ (2 * r = d ∧ q % 2 = 1) then q + 1 else q

/-- `floor (log₂ (n / d))` for positive `n` and `d`. -/
def floorLog2Q (n d : Nat) : Int :=
  let l : Int := (Nat.log2 n : Int) - (Nat.log2 d : Int)
  let (n', d') := scale2 n d (-l)
  if n' ≥ d' then l else l - 1

/-- The magnitude code of `n / d × 2^e` rounded once on the grid of `f` with an unbounded exponent range (R56, R59): a
result above `f.maxCode` has overflowed. -/
def Fmt.roundMag (f : Fmt) (n d : Nat) (e : Int) : Nat :=
  if n = 0 then 0
  else
    let ex := floorLog2Q n d + e
    let q := max (ex - (f.mb : Int)) f.unit
    let (n', d') := scale2 n d (e - q)
    (q - f.unit).toNat * 2 ^ f.mb + rne n' d'

/-- A sign bit over a magnitude code. -/
def Fmt.withSign (f : Fmt) (neg : Bool) (mag : Nat) : Nat := if neg then 2 ^ f.signAt + mag else mag

/-- FP32 `+0`. -/
def f32zero : F32 := 0
/-- FP32 NaN of R57. -/
def f32nan : F32 := 0x7FC00000
/-- FP32 infinity of a sign. -/
def f32inf (neg : Bool) : F32 := if neg then 0xFF800000 else 0x7F800000

/-- The value of an FP32 pattern. -/
def dec32 (x : F32) : FV := fmt32.decode x.toNat

/-- RN of the exact value `± n / d × 2^e`: one rounding to FP32, overflow to infinity (R48, R56). -/
def rn32 (neg : Bool) (n d : Nat) (e : Int) : F32 :=
  let m := fmt32.roundMag n d e
  if m > fmt32.maxCode then f32inf neg else BitVec.ofNat 32 (fmt32.withSign neg m)

/-- RN of a decoded value. -/
def enc32 : FV → F32
  | .nan => f32nan
  | .inf neg => f32inf neg
  | .fin neg m e => rn32 neg m 1 e

/-- The signed mantissa of a finite value at exponent `t`, for `t` at or below its own. -/
def mantAt (neg : Bool) (m : Nat) (e t : Int) : Int :=
  let a : Int := ((m * 2 ^ (e - t).toNat : Nat) : Int)
  if neg then -a else a

/-- The exact sum of two values as a value; a zero sum is +0 unless both are −0 (IEEE 754, nearest rounding). -/
def fvAdd : FV → FV → FV
  | .nan, _ => .nan
  | _, .nan => .nan
  | .inf a, .inf b => if a = b then .inf a else .nan
  | .inf a, _ => .inf a
  | _, .inf b => .inf b
  | .fin na ma ea, .fin nb mb eb =>
    let t := min ea eb
    let s := mantAt na ma ea t + mantAt nb mb eb t
    if s = 0 then .fin (na && nb) 0 t else .fin (decide (s < 0)) s.natAbs t

/-- The exact product of two values (IEEE 754). -/
def fvMul : FV → FV → FV
  | .nan, _ => .nan
  | _, .nan => .nan
  | .inf a, .inf b => .inf (a != b)
  | .inf a, .fin b m _ => if m = 0 then .nan else .inf (a != b)
  | .fin a m _, .inf b => if m = 0 then .nan else .inf (a != b)
  | .fin a ma ea, .fin b mb eb => .fin (a != b) (ma * mb) (ea + eb)

/-- The value with its sign flipped. -/
def fvNeg : FV → FV
  | .nan => .nan
  | .inf a => .inf (!a)
  | .fin a m e => .fin (!a) m e

/-- FP32 addition, rounded once. -/
def fadd (a b : F32) : F32 := enc32 (fvAdd (dec32 a) (dec32 b))
/-- FP32 subtraction, rounded once. -/
def fsub (a b : F32) : F32 := enc32 (fvAdd (dec32 a) (fvNeg (dec32 b)))
/-- FP32 multiplication, rounded once. -/
def fmul (a b : F32) : F32 := enc32 (fvMul (dec32 a) (dec32 b))
/-- FP32 division, rounded once (IEEE 754). -/
def fdiv (a b : F32) : F32 :=
  match dec32 a, dec32 b with
  | .nan, _ => f32nan
  | _, .nan => f32nan
  | .inf _, .inf _ => f32nan
  | .inf s, .fin t _ _ => f32inf (s != t)
  | .fin s _ _, .inf t => BitVec.ofNat 32 (fmt32.withSign (s != t) 0)
  | .fin s m e, .fin t m' e' =>
    if m' = 0 then (if m = 0 then f32nan else f32inf (s != t)) else rn32 (s != t) m m' (e - e')

/-- FP32 value of an integer, rounded once. -/
def f32OfInt (i : Int) : F32 := rn32 (decide (i < 0)) i.natAbs 1 0

/-- A value is NaN. -/
def isNan (x : F32) : Bool := dec32 x == .nan
/-- A value is NaN or an infinity. -/
def nonFinite (x : F32) : Bool :=
  match dec32 x with
  | .fin _ _ _ => false
  | _ => true
/-- A value is +0 or −0. -/
def isZero (x : F32) : Bool := x == 0 || x == 0x80000000
/-- The magnitude pattern. -/
def fabs (x : F32) : F32 := x &&& 0x7FFFFFFF

/-- A key that orders the FP32 numbers, infinities included, with −0 equal to +0 (R99, R165): larger key, larger value. -/
def ordKey (x : F32) : Int :=
  let mag : Int := ((x &&& 0x7FFFFFFF).toNat : Int)
  if bitAt x.toNat 31 then -mag else mag

/-- `a ≥ b` for numbers; false when either is NaN. -/
def fge (a b : F32) : Bool := !isNan a && !isNan b && decide (ordKey a ≥ ordKey b)

/-- The larger of two values; NaN when either is NaN (R159). -/
def fmax (a b : F32) : F32 := if isNan a || isNan b then f32nan else if ordKey a ≥ ordKey b then a else b

/-- R158: one level of the fixed tree: adjacent pairs added. -/
def pairSums : List F32 → List F32
  | a :: b :: l => fadd a b :: pairSums l
  | l => l

/-- R52, R158: the fixed tree of additions over a list whose length is a power of two at most `2^levels`. -/
def treeSum : Nat → List F32 → F32
  | 0, l => l.headD f32zero
  | _, [] => f32zero
  | _, [a] => a
  | n + 1, l => treeSum n (pairSums l)

/-- R158: the chunk sum. -/
def chunkSum (l : List F32) : F32 := treeSum 9 l

/-! Element formats by code (R35). -/

/-- The FP32 value of an element of a floating-point format that widens exactly (R58). -/
def widen (f : Fmt) (code : Nat) : F32 := enc32 (f.decode code)

/-- Codes of R35. -/
def validFormat (c : Nat) : Bool := c ≤ 0x04 || (0x06 ≤ c && c ≤ 0x0E) || c == 0x10 || c == 0x11

/-- Element width in bits (R35). -/
def elemBits (c : Nat) : Nat :=
  if c = 0x00 ∨ c = 0x04 then 32
  else if c = 0x01 ∨ c = 0x02 then 16
  else if c = 0x0A ∨ c = 0x0B then 6
  else if c = 0x0C ∨ c = 0x0E then 4
  else 8

/-- Block size (R35); 0 for a format without blocks. -/
def blockSize (c : Nat) : Nat := if c = 0x0E then 16 else if 0x06 ≤ c ∧ c ≤ 0x0D then 32 else 0

/-- A format whose blocks carry a scale array (R35). -/
def isScaled (c : Nat) : Bool := 0x08 ≤ c && c ≤ 0x0E

/-- The companion scale format (R35). -/
def scaleFormat (c : Nat) : Nat := if c = 0x0E then 0x11 else 0x10

/-- The cell operand formats of R43. -/
def isCellOperand (c : Nat) : Bool := (0x01 ≤ c && c ≤ 0x03) || (0x06 ≤ c && c ≤ 0x0E)

/-- R43: the operand pairs the cell accepts. -/
def pairAllowed (a b : Nat) : Bool :=
  let f8 (c : Nat) : Bool := (0x06 ≤ c && c ≤ 0x0C) || c == 0x0E
  (f8 a && f8 b) || (a == 0x0D && b == 0x0D) || (a == 0x03 && b == 0x03) || (a == 0x01 && b == 0x01) || (a == 0x02 && b == 0x02)

/-- R43: twice the K elements per cycle of a pair. -/
def pairRate2 (a b : Nat) : Nat :=
  if (a = 0x0C ∨ a = 0x0E) ∧ (b = 0x0C ∨ b = 0x0E) then 4 else if a = 0x01 ∨ a = 0x02 then 1 else 2

/-- The floating-point format behind a code (R35); FP32 for a code without one. -/
def fmtOf (c : Nat) : Fmt :=
  if c = 0x01 then fmtBf16 else if c = 0x02 then fmt16
  else if c = 0x06 ∨ c = 0x08 then fmtE4M3 else if c = 0x07 ∨ c = 0x09 then fmtE5M2
  else if c = 0x0A then fmtE3M2 else if c = 0x0B then fmtE2M3
  else if c = 0x0C ∨ c = 0x0E then fmtE2M1 else fmt32

/-- The unscaled value of an element (R36, R37). -/
def elemValue (c code : Nat) : FV :=
  if c = 0x03 then (let i := signed 8 code; .fin (decide (i < 0)) i.natAbs 0)
  else if c = 0x04 then (let i := signed 32 code; .fin (decide (i < 0)) i.natAbs 0)
  else if c = 0x0D then (let i := signed 8 code; .fin (decide (i < 0)) i.natAbs (-6))
  else (fmtOf c).decode code

/-- R38: the value of a scale code of a scaled format; 1 for an unscaled one. -/
def scaleValue (c code : Nat) : FV :=
  if c = 0x0E then fmtUE5M3.decode (code % 256)
  else if isScaled c then (if code % 256 = 0xFF then .nan else .fin false 1 ((code % 256 : Nat) - 127 : Int))
  else .fin false 1 0

/-- R124: the pad element of a format: most negative or −∞ for mode 2. -/
def padMin (c : Nat) : Nat :=
  if c = 0x03 ∨ c = 0x0D then 0x80 else if c = 0x04 then 0x80000000
  else
    let f := fmtOf c
    f.withSign true (if f.sp = .ieee then f.infCode else f.maxCode)

/-- R39, R40: the code of element `i` in a packed run of `w`-bit elements. -/
def elemAt (bs : List Byte) (w i : Nat) : Nat :=
  let lo := i * w
  let b := lo / 8
  (ofLE ((bs.drop b).take 5) / 2 ^ (lo % 8)) % 2 ^ w

/-- R39, R40: the number that a run of `w`-bit codes spells, the first in its lowest bits. -/
def packNum (w : Nat) (codes : List Nat) : Nat := codes.reverse.foldl (fun acc c => acc * 2 ^ w + c % 2 ^ w) 0

/-- R39, R40: a run of `w`-bit codes packed into bytes. -/
def packElems (w : Nat) (codes : List Nat) : List Byte := leBytes (ceilDiv (codes.length * w) 8) (packNum w codes)

/-! The cell's sums (R47 to R54). -/

/-- The weight of the block accumulator's least significant bit, as a power of two (R47). -/
def blockLsb : Int := -32

/-- What the products of one accumulation block have come to (R47, R50). -/
structure BlockAcc where
  sum    : Int
  nan    : Bool
  posInf : Bool
  negInf : Bool
deriving DecidableEq, Repr

def BlockAcc.empty : BlockAcc := ⟨0, false, false, false⟩

/-- One product added to a block (R47, R50). -/
def BlockAcc.add (b : BlockAcc) (p : FV) : BlockAcc :=
  match p with
  | .nan => { b with nan := true }
  | .inf false => { b with posInf := true }
  | .inf true => { b with negInf := true }
  | .fin neg m e =>
    let v : Int := ((m * 2 ^ (e - blockLsb).toNat : Nat) : Int)
    { b with sum := b.sum + (if neg then -v else v) }

/-- R49, R50: the value of a finished block before its scales. -/
def BlockAcc.value (b : BlockAcc) : FV :=
  if b.nan || (b.posInf && b.negInf) then .nan
  else if b.posInf then .inf false
  else if b.negInf then .inf true
  else .fin (decide (b.sum < 0)) b.sum.natAbs blockLsb

/-- R48, R50, R51: a block joins the FP32 tile accumulator with a single rounding. -/
def addBlock (acc : F32) (b : BlockAcc) (sa sb : FV) : F32 :=
  if sa = .nan ∨ sb = .nan then enc32 (fvAdd (dec32 acc) .nan)
  else enc32 (fvAdd (dec32 acc) (fvMul (fvMul b.value sa) sb))

/-- R52: a chunk of sixteen products joins the FP32 tile accumulator. -/
def addChunk16 (acc : F32) (products : List F32) : F32 := fadd acc (treeSum 4 products)

/-- R55: the second-level scales: one rounding of the exact product of three values. -/
def secondScale (x ta tb : F32) : F32 := enc32 (fvMul (fvMul (dec32 x) (dec32 ta)) (dec32 tb))

/-! Narrowing conversions (R59 to R62). Each gives the code and whether ARITH_SAT_CNT counts it. -/

/-- A finite magnitude rounded to a floating-point destination that saturates: the code and whether it overflowed. -/
def Fmt.satMag (f : Fmt) (n d : Nat) (e : Int) : Nat × Bool :=
  let m := f.roundMag n d e
  if m > f.maxCode then (f.maxCode, true) else (m, false)

/-- A rational rounded to an integer and saturated to `lo … hi`. -/
def satInt (lo hi : Int) (neg : Bool) (n d : Nat) (e : Int) : Int × Bool :=
  let (n', d') := scale2 n d e
  let i : Int := (if neg then -((rne n' d' : Nat) : Int) else ((rne n' d' : Nat) : Int))
  if i > hi then (hi, true) else if i < lo then (lo, true) else (i, false)

/-- R59: an FP32 value to an unscaled destination format. -/
def narrow (c : Nat) (x : F32) : Nat × Bool :=
  match dec32 x with
  | .nan => (if c = 0x03 ∨ c = 0x04 then 0 else (fmtOf c).nanCode, false)
  | .inf neg =>
    if c = 0x03 then (if neg then 0x80 else 0x7F, true)
    else if c = 0x04 then (if neg then 0x80000000 else 0x7FFFFFFF, true)
    else
      let f := fmtOf c
      if f.sp = .ieee then (f.withSign neg f.infCode, false) else (f.withSign neg f.maxCode, true)
  | .fin neg m e =>
    if c = 0x00 then (x.toNat, false)
    else if c = 0x03 then (let (i, o) := satInt (-128) 127 neg m 1 e; (unsigned 8 i, o))
    else if c = 0x04 then (let (i, o) := satInt (-(2 ^ 31 : Nat)) ((2 ^ 31 : Nat) - 1) neg m 1 e; (unsigned 32 i, o))
    else
      let f := fmtOf c
      let r := f.roundMag m 1 e
      if r > f.maxCode then
        (f.withSign neg (if c = 0x01 ∨ c = 0x02 then f.infCode else f.maxCode), true)
      else (f.withSign neg r, false)

/-- R59: the 48-bit accumulator of an INT8 tile to INT32. -/
def narrowInt48 (i : Int) : Nat × Bool :=
  if i > (2 ^ 31 : Nat) - 1 then (2 ^ 31 - 1, true)
  else if i < -(2 ^ 31 : Nat) then (2 ^ 31, true) else (unsigned 32 i, false)

/-- What quantising one block gives: the scale code, the element codes, the counted conversions and whether the block is
counted in ARITH_NONFIN_CNT. -/
structure QBlock where
  scale  : Nat
  elems  : List Nat
  sat    : Nat
  nonfin : Bool
deriving DecidableEq, Repr

/-- emax of R60. -/
def emaxOf (c : Nat) : Int :=
  if c = 0x08 then 8 else if c = 0x09 then 15 else if c = 0x0A then 4 else if c = 0x0B then 2 else if c = 0x0C then 2 else 0

/-- One element of a scaled block: the value `± n / d × 2^e` in the element format of `c` (R59). -/
def quantElem (c : Nat) (neg : Bool) (n d : Nat) (e : Int) : Nat × Bool :=
  if c = 0x0D then
    let (i, o) := satInt (-127) 127 neg n d (e + 6)
    (unsigned 8 i, o)
  else
    let f := fmtOf c
    let (m, o) := f.satMag n d e
    (f.withSign neg m, o)

/-- The largest magnitude of a block, as its FP32 pattern. -/
def amaxOf (xs : List F32) : F32 := xs.foldl (fun a x => if (fabs x).toNat > a.toNat then fabs x else a) 0

/-- The signed zero of an element format: MXINT8 has one zero. -/
def zeroElem (c : Nat) (x : F32) : Nat :=
  if c = 0x0D then 0 else (fmtOf c).withSign (bitAt x.toNat 31) 0

/-- R60 to R62: one block of a scaled format quantised; `t` is the destination's second-level scale (R42). -/
def quantBlock (c : Nat) (t : F32) (xs : List F32) : QBlock :=
  if xs.any nonFinite then ⟨0xFF, xs.map (fun _ => 0), 0, true⟩
  else
    match dec32 (amaxOf xs) with
    | .fin _ m e =>
      if c = 0x0E then
        match dec32 t with
        | .fin _ mt et =>
          let r := fmtUE5M3.roundMag m (6 * mt) (e - et)
          let s := if r > 0xFE then 0xFE else r
          let cnt := if r > 0xFE then 1 else 0
          if s = 0 then ⟨0, xs.map (zeroElem c), cnt, false⟩
          else
            match fmtUE5M3.decode s with
            | .fin _ ms es =>
              let qs := xs.map (fun x =>
                match dec32 x with
                | .fin neg mx ex => quantElem c neg mx (ms * mt) (ex - es - et)
                | _ => (0, false))
              ⟨s, qs.map (·.1), cnt + (qs.filter (·.2)).length, false⟩
            | _ => ⟨s, xs.map (fun _ => 0), cnt, false⟩
        | _ => ⟨0xFF, xs.map (fun _ => 0), 0, true⟩
      else if m = 0 then ⟨0x7F, xs.map (zeroElem c), 0, false⟩
      else
        let se := min (max (floorLog2Q m 1 + e - emaxOf c) (-127)) 127
        let qs := xs.map (fun x =>
          match dec32 x with
          | .fin neg mx ex => quantElem c neg mx 1 (ex - se)
          | _ => (0, false))
        ⟨(se + 127).toNat, qs.map (·.1), (qs.filter (·.2)).length, false⟩
    | _ => ⟨0xFF, xs.map (fun _ => 0), 0, true⟩

end Sys2Proof.Machine
end

