-- ==== Sys2Proof/Machine/Operands.lean ====
section
/-!
DEFINITION. Operand forms: translation (R233 to R236), reads that the firmware makes for a step (R342), tensor descriptors
with their validation (R217 to R226), the addresses of their elements, blocks of a tensor and block-coordinate lists (R229,
R246).
-/
namespace Sys2Proof.Machine

/-! Translation. -/

/-- A translation: a number (a leaf entry or a module physical address), or the KIND of XLT_FAULT_LOG (R241). -/
inductive Xlt where
  | ok (n : Nat)
  | bad (kind : Nat)
deriving DecidableEq, Repr

/-- R234, R235: the walk from a level-1 table to the level-2 entry of a task virtual address. -/
def State.walk (s : State) (root va : Nat) : Xlt :=
  let e1 := s.num (root + 8 * bitsOf va 47 34) 8
  if !bitAt e1 0 || bitsOf e1 63 48 ≠ 0 || bitsOf e1 15 1 ≠ 0 then .bad 2
  else
    let e2 := s.num (bitsOf e1 47 16 * 2 ^ 16 + 8 * bitsOf va 33 21) 8
    if !bitAt e2 0 || bitsOf e2 63 48 ≠ 0 || bitsOf e2 20 3 ≠ 0 then .bad 3 else .ok e2

/-- The two table entries that a walk reads. -/
def State.walkReads (s : State) (root va : Nat) : List Nat :=
  let a1 := root + 8 * bitsOf va 47 34
  [a1, bitsOf (s.num a1 8) 47 16 * 2 ^ 16 + 8 * bitsOf va 33 21]

/-- R235: the rights that a leaf gives an access, and its module physical address. -/
def leafXlt (e va : Nat) (write : Bool) : Xlt :=
  let page := bitsOf e 47 21 * 2 ^ 21
  if !(inHbm page || inSram page) then .bad 4
  else if write && !bitAt e 2 then .bad 1
  else if !write && !bitAt e 1 then .bad 0
  else .ok (page + va % 2 ^ 21)

/-- A task virtual address translated through a root. -/
def State.xlate (s : State) (root va : Nat) (write : Bool) : Xlt :=
  match s.walk root (va % 2 ^ 48) with
  | .bad k => .bad k
  | .ok e => leafXlt e va write

/-- Why an item that a step names cannot be used: a refusal under a rule, with what R603 records of it; a translation
fault at an address (R235); an uncorrectable error at an address (R342). The last two carry the descriptor's address and PIECE_TAG, where
the access is one of a descriptor (R232). -/
inductive Stop where
  | refuse (status item row pos detail : Nat)
  | xlt (kind va desc tag : Nat)
  | ue (pa tag : Nat)
deriving DecidableEq, Repr

/-- A reading that can stop. -/
abbrev Chk (α : Type) := Except Stop α

/-- R232, R235: what stops an access names the descriptor through which it was made. -/
def Stop.named (addr tag : Nat) : Stop → Stop
  | .xlt kind va _ _ => .xlt kind va addr tag
  | .ue pa _ => .ue pa tag
  | z => z

/-- R232: an access through the descriptor at `addr` with PIECE_TAG `tag`. -/
def naming {α : Type} (addr tag : Nat) (c : Chk α) : Chk α := c.mapError (Stop.named addr tag)

/-- A reading of every element of a list; the first that stops decides. -/
def mapChk {α β : Type} (l : List α) (f : α → Chk β) : Chk (List β) :=
  l.foldr (fun a (acc : Chk (List β)) =>
    match f a with
    | .error e => .error e
    | .ok b => acc.map (fun t => b :: t)) (.ok [])

/-- A check of every element of a list; the first that stops decides. -/
def eachChk {α : Type} (l : List α) (f : α → Chk Unit) : Chk Unit := (mapChk l f).map (fun _ => ())

/-- All ones in 4 bytes: none (R603). -/
def none32 : Nat := 2 ^ 32 - 1
/-- All ones in 8 bytes: none (R603). -/
def none64 : Nat := 2 ^ 64 - 1

/-- Refused with a status, naming an item only. -/
def refuse {α : Type} (status item : Nat) : Chk α := .error (.refuse status item none32 none32 none64)

/-- Refused with FORMAT at a byte offset of an item. -/
def badField {α : Type} (item off : Nat) : Chk α := .error (.refuse stFormat item none32 none32 off)

/-- A condition that refuses with FORMAT at a byte offset of an item. -/
def needField (item off : Nat) (ok : Bool) : Chk Unit := if ok then .ok () else badField item off

/-- The module physical ranges of `n` bytes from a task virtual address, page by page. -/
def State.ranges (s : State) (root : Nat) (write : Bool) : Nat → Nat → Nat → Chk (List (Nat × Nat))
  | 0, _, _ => .ok []
  | fuel + 1, va, n =>
    if n = 0 then .ok []
    else
      let k := min n (0x200000 - va % 0x200000)
      match s.xlate root va write with
      | .bad kind => .error (.xlt kind va 0 0)
      | .ok pa =>
        match s.ranges root write fuel (va + k) (n - k) with
        | .error e => .error e
        | .ok l => .ok ((pa, k) :: l)

/-- The ranges of an access of any size. -/
def State.rangesOf (s : State) (root va n : Nat) (write : Bool) : Chk (List (Nat × Nat)) :=
  s.ranges root write (n / 0x200000 + 2) va n

/-- Bytes of memory at module physical addresses, or the first uncorrectable access among them. -/
def State.fetch (s : State) (l : List (Nat × Nat)) : Chk (List Byte) :=
  match l.findSome? (fun r => s.firstUe r.1 r.2) with
  | some a => .error (.ue a 0)
  | none => .ok (l.flatMap (fun r => s.bytes r.1 r.2))

/-- `n` bytes at a task virtual address, as the firmware reads them for a step. -/
def State.readVa (s : State) (root va n : Nat) : Chk (List Byte) :=
  match s.rangesOf root va n false with
  | .error e => .error e
  | .ok l => s.fetch l

/-- R342: the corrections that a reading of the firmware makes. An access with one bad symbol is read where the reading would stop at it,
did it hold two. -/
def State.mend {α : Type} (s : State) (f : State → Chk α) : State :=
  (s.softAcc.filter (fun x => !s.badAcc.contains x &&
    (match f { s with badAcc := x :: s.badAcc } with
      | .error (.ue pa _) => pa / 64 == x
      | _ => false))).foldl State.correctAcc s

/-- A little-endian number at a task virtual address. -/
def State.numVa (s : State) (root va n : Nat) : Chk Nat := (s.readVa root va n).map ofLE

/-- Bytes stored at module physical ranges in order. -/
def State.storeAll (s : State) (l : List (Nat × Nat)) (bs : List Byte) : State :=
  (l.foldl (fun (p : State × List Byte) r => (p.1.store r.1 (p.2.take r.2), p.2.drop r.2)) (s, bs)).1

/-- Bytes written at a task virtual address by a unit that writes them as one. -/
def State.writeVa (s : State) (root va : Nat) (bs : List Byte) : Chk State :=
  match s.rangesOf root va bs.length true with
  | .error e => .error e
  | .ok l => .ok (s.storeAll l bs)

/-- The level-1 table of the group of a context (R234). -/
def State.rootOf (s : State) (x : Nat) : Nat := (s.group (s.ctx x).group).root

/-! Tensor descriptors. -/

/-- R217: what an absent dimension acts as. -/
def Dim.absent : Dim := ⟨0, 1, 0, 1⟩

/-- Dimension `i` of a descriptor. -/
def Desc.dim (d : Desc) (i : Nat) : Dim := nth Dim.absent d.dims i

/-- A dimension entry (R217). -/
def parseDim (b : List Byte) : Dim := ⟨signed 40 (fieldLE b 0 5), fieldLE b 8 4, fieldLE b 12 4, fieldLE b 16 4⟩

/-- R217: a descriptor from its 192 bytes. -/
def parseDesc (addr : Nat) (b : List Byte) : Desc :=
  let ndim := fieldLE b 0x0A 1
  { addr := addr
    base := fieldLE b 0 6
    fmt := fieldLE b 8 1 % 32
    w := elemBits (fieldLE b 8 1 % 32)
    spform := fieldLE b 9 1 % 8
    declNm := fieldLE b 9 1 / 8 % 8
    ndim := ndim
    alias_ := bitAt (fieldLE b 0x0B 1) 0
    tscale := fieldLE b 0x0C 4
    fill := fieldLE b 0x10 4
    zp := fieldLE b 0x14 4
    tag := fieldLE b 0x18 8
    dims := (List.range (min ndim 6)).map (fun i => parseDim (b.drop (0x20 + 24 * i))) }

/-- R217, R220: every reserved field is zero. -/
def descReserved (b : List Byte) : Bool :=
  let w := elemBits (fieldLE b 8 1 % 32)
  let ndim := fieldLE b 0x0A 1
  zeroAt b 6 2 && fieldLE b 8 1 < 32 && fieldLE b 9 1 < 64 && fieldLE b 0x0B 1 < 2 &&
    fieldLE b 0x10 4 < 2 ^ w && fieldLE b 0x14 4 < 2 ^ w && zeroAt b 0xB0 16 &&
    (List.range 6).all (fun i =>
      let o := 0x20 + 24 * i
      if i < ndim then fieldLE b o 8 < 2 ^ 40 && zeroAt b (o + 20) 4 else zeroAt b o 24)

/-- R42: a second-level scale that is positive, normal and finite. -/
def goodTscale (t : Nat) : Bool := 0x00800000 ≤ t && t < 0x7F800000

/-- The bytes that one step of a dimension moves. -/
def Desc.stepBytes (d : Desc) (i : Nat) : Int := (d.dim i).stride * d.w / 8

/-- R220: every byte of every in-bounds element lies below 2^48. -/
def Desc.reachOk (d : Desc) : Bool :=
  if d.dims.any (fun k => k.extent == 0) then true
  else
    let outer := (List.range 5).map (fun i => ((d.dim (i + 1)).extent - 1 : Int) * d.stepBytes (i + 1))
    let lo := outer.foldl (fun a v => a + min v 0) (d.base : Int)
    let hi := outer.foldl (fun a v => a + max v 0) (d.base : Int) + (ceilDiv ((d.dim 0).extent * d.w) 8 : Nat) - 1
    decide (0 ≤ lo) && decide (hi < (2 ^ 48 : Nat))

/-- R225: the aliasing test over the outer dimensions in order of step. -/
def aliasWalk : Nat → List (Nat × Nat) → Bool
  | _, [] => true
  | span, (step, n) :: l => if step < span then false else aliasWalk (step * (n - 1) + span) l

/-- R225: no two index vectors of the valid region reach one byte. -/
def Desc.aliasFree (d : Desc) : Bool :=
  let outer := ((List.range 5).map (fun i => ((d.stepBytes (i + 1)).natAbs, (d.dim (i + 1)).vlen))).filter (fun p => p.2 > 1)
  aliasWalk (ceilDiv ((d.dim 0).vlen * d.w) 8) (sortBy (fun a b => a.1 ≤ b.1) outer)

/-- What a descriptor is bound as (R220, R226). -/
structure DescUse where
  write   : Bool
  struct_ : Bool
  ordered : Bool
deriving DecidableEq, Repr

/-- R67, R220: the sparse form and its element format agree. -/
def Desc.formOk (d : Desc) : Bool :=
  validFormat d.fmt && d.spform ≤ 6 && !((1 ≤ d.spform && d.spform ≤ 5) && !isCellOperand d.fmt) &&
    (if d.fmt = 0x0E then goodTscale d.tscale else d.tscale == 0)

/-- A descriptor that is only read. -/
def DescUse.read : DescUse := ⟨false, false, false⟩

/-- R220: the status of the first row of the validation table that a descriptor meets. -/
def descStatus (b : List Byte) (d : Desc) (u : DescUse) : Option Nat :=
  let bad : List (Bool × Nat) :=
    [(!descReserved b || d.addr % 64 != 0, stFormat),
     (d.ndim == 0 || d.ndim > 6, stFormat),
     (!d.formOk, stFormat),
     (!(d.declNm == 0 || (2 ≤ d.declNm && d.declNm ≤ 5 && d.spform == 1)), stFormat),
     (d.spform == 6 && (d.fmt != 0x04 || d.ndim != 1), stFormat),
     (decide ((d.dim 0).stride ≠ 1), stFormat),
     (d.base % 32 != 0, stFormat),
     ((List.range 5).any (fun i => decide ((d.dim (i + 1)).stride * d.w % 256 ≠ 0)), stFormat),
     (d.dims.any (fun k => k.vlo + k.vlen > k.extent), stFormat),
     ((d.dim 0).vlo * d.w % 256 != 0, stFormat),
     (u.struct_ && d.fill != 0, stFormat),
     (d.alias_ && !(u.write && u.ordered && d.spform == 0 && d.fmt ≤ 7), stFormat),
     (!d.reachOk, stAddrProt),
     (u.write && !d.alias_ && !d.aliasFree, stWriteAlias)]
  (bad.find? (·.1)).map (·.2)

/-- A descriptor read and validated for the use that it has, which may hang on what it holds; a refusal names it with its PIECE_TAG
(R603). `bitmap` marks the structure part of a bitmap-compressed tensor. -/
def State.loadDescFor (s : State) (root addr : Nat) (bitmap : Bool) (use : Desc → DescUse) : Chk Desc :=
  match s.readVa root addr 192 with
  | .error e => .error e
  | .ok b =>
    let d := parseDesc addr b
    let d := if bitmap then { d with w := 64 } else d
    match descStatus b d (use d) with
    | some st => .error (.refuse st addr none32 none32 d.tag)
    | none => .ok d

/-- A descriptor read and validated for a use. -/
def State.loadDesc (s : State) (root addr : Nat) (bitmap : Bool) (u : DescUse) : Chk Desc := s.loadDescFor root addr bitmap (fun _ => u)

/-! Elements. -/

/-- An index vector, dimension 0 first. -/
abbrev Idx := List Int

/-- R221: the element is in bounds. -/
def Desc.inBounds (d : Desc) (i : Idx) : Bool :=
  (List.range 6).all (fun k => decide (0 ≤ nth 0 i k) && decide (nth 0 i k < ((d.dim k).extent : Int)))

/-- R224: the element lies in the valid region. -/
def Desc.inValid (d : Desc) (i : Idx) : Bool :=
  (List.range 6).all (fun k =>
    decide (((d.dim k).vlo : Int) ≤ nth 0 i k) && decide (nth 0 i k < ((d.dim k).vlo + (d.dim k).vlen : Nat)))

/-- R218: the address of the run of an element, in bytes. -/
def Desc.runBase (d : Desc) (i : Idx) : Nat :=
  (((List.range 5).foldl (fun a k => a + nth 0 i (k + 1) * d.stepBytes (k + 1)) (d.base : Int))).toNat

/-- R218, R39, R40: the bit of task virtual memory at which an element begins. -/
def Desc.bitOf (d : Desc) (i : Idx) : Nat := 8 * d.runBase i + (nth 0 i 0).toNat * d.w

/-- R219, R227: the place of an element among those of the valid region, in canonical order. -/
def Desc.place (d : Desc) (i : Idx) : Nat :=
  ((List.range 6).reverse.foldl (fun a k => a * (d.dim k).vlen + (nth 0 i k - ((d.dim k).vlo : Int)).toNat) 0)

/-- R226: the number of elements of the valid region. -/
def Desc.validCount (d : Desc) : Nat := d.dims.foldl (fun a k => a * k.vlen) 1

/-- Bits of task virtual memory read through a root. -/
def State.bitsVa (s : State) (root bit n : Nat) : Chk Nat :=
  match s.readVa root (bit / 8) ((bit % 8 + n + 7) / 8) with
  | .error e => .error e
  | .ok b => .ok (ofLE b / 2 ^ (bit % 8) % 2 ^ n)

/-- R228: bits of task virtual memory replaced as one masked operation. -/
def State.setBitsVa (s : State) (root bit n v : Nat) : Chk State :=
  let k := (bit % 8 + n + 7) / 8
  match s.rangesOf root (bit / 8) k true with
  | .error e => .error e
  | .ok l =>
    let old := ofLE (l.flatMap (fun r => s.bytes r.1 r.2))
    .ok (s.storeAll l (leBytes k (withBits old (bit % 8 + n - 1) (bit % 8) v)))

/-- R221: one element read, FILL out of bounds. -/
def State.readElem (s : State) (root : Nat) (d : Desc) (i : Idx) : Chk Nat :=
  if d.inBounds i then naming d.addr d.tag (s.bitsVa root (d.bitOf i) d.w) else .ok d.fill

/-- R221: `n` elements read along dimension 0 from an index. -/
def State.readRun (s : State) (root : Nat) (d : Desc) (i : Idx) (n : Nat) : Chk (List Nat) :=
  (List.range n).foldr (fun k (acc : Chk (List Nat)) =>
    match s.readElem root d ((nth 0 i 0 + Int.ofNat k) :: i.drop 1) with
    | .error e => .error e
    | .ok c => acc.map (fun l => c :: l)) (.ok [])

/-- R224: one element written: nothing outside the valid region; whether it was dropped out of bounds. -/
def State.writeElem (s : State) (root : Nat) (d : Desc) (i : Idx) (v : Nat) : Chk (State × Nat) :=
  if !d.inBounds i then .ok (s, 1)
  else if !d.inValid i then .ok (s, 0)
  else (naming d.addr d.tag (s.setBitsVa root (d.bitOf i) d.w v)).map (fun t => (t, 0))

/-- R224: elements written along dimension 0 from an index, with the count dropped. -/
def State.writeRun (s : State) (root : Nat) (d : Desc) (i : Idx) (vs : List Nat) : Chk (State × Nat) :=
  (vs.mapIdx (fun k v => (k, v))).foldl (fun (acc : Chk (State × Nat)) kv =>
    match acc with
    | .error e => .error e
    | .ok (s, n) =>
      match s.writeElem root d ((nth 0 i 0 + Int.ofNat kv.1) :: i.drop 1) kv.2 with
      | .error e => .error e
      | .ok (s, m) => .ok (s, n + m)) (.ok (s, 0))

/-! Blocks (R246). -/

/-- The offsets of the outer dimensions of a box, in canonical order. -/
def boxOuter : List Nat → List (List Nat)
  | [] => [[]]
  | b :: bs => (boxOuter bs).flatMap (fun t => (List.range b).map (fun i => i :: t))

/-- The number of elements of a box. -/
def boxSize (box : List Nat) : Nat := box.foldl (· * ·) 1

/-- A run of a box: its outer index, and its number among the runs. -/
def boxRuns (o : Idx) (box : List Nat) : List (Idx × Nat) :=
  (boxOuter (box.drop 1)).mapIdx (fun n v => ((v.mapIdx (fun k (e : Nat) => nth 0 o (k + 1) + Int.ofNat e)), n))

/-- The part of a run's columns `o … o + n − 1` that lies below `ext` and at or above `lo`: first column and count. -/
def clipCols (o : Int) (n : Nat) (lo ext : Nat) : Nat × Nat :=
  let a := max o (lo : Int)
  let b := min (o + n) (ext : Int)
  if a < b then (a.toNat, (b - a).toNat) else (0, 0)

/-- A stretch of bits cut at the ends of 128-byte lines: line address, first bit in the line, bits, destination bit. -/
def cutLines : Nat → Nat → Nat → Nat → List (Nat × Nat × Nat × Nat)
  | 0, _, _, _ => []
  | fuel + 1, bit, n, dst =>
    if n = 0 then []
    else
      let k := min n (1024 - bit % 1024)
      (bit / 1024 * 128, bit % 1024, k, dst) :: cutLines fuel (bit + k) (n - k) (dst + k)

/-- The lines of a stretch of any length. -/
def linesOf (bit n dst : Nat) : List (Nat × Nat × Nat × Nat) := cutLines (n / 1024 + 2) bit n dst

/-! Block-coordinate lists (R229). -/

/-- R229: the header of the list at an address, checked against a target descriptor. -/
def State.listHead (s : State) (root va : Nat) (target : Desc) : Chk ListHead := do
  let b ← s.readVa root va 32
  let h : ListHead := ⟨fieldLE b 1 1, fieldLE b 4 4, (List.range 6).map (fun i => fieldLE b (8 + 2 * i) 2)⟩
  needField va 0 (fieldLE b 0 1 == 1)
  needField va 1 (h.ndim == target.ndim)
  needField va 2 (zeroAt b 2 2)
  needField va 8 (h.block.mapIdx (fun i v => if i < h.ndim then decide (v > 0) else v == 1)).and
  needField va 8 (nth 0 h.block 0 * target.w % 256 == 0)
  needField va 0x14 (zeroAt b 0x14 12)
  pure h

/-- A list entry: the coordinates and SLOT. -/
structure ListEnt where
  coord : List Nat
  slot  : Nat
deriving DecidableEq, Repr

/-- R229: entry `n` of a list; a reserved field that is not zero stops with FORMAT at that entry. -/
def State.listEnt (s : State) (root va n : Nat) : Chk ListEnt := do
  let b ← s.readVa root (va + 32 + 32 * n) 32
  if zeroAt b 0x1C 4 then pure ⟨(List.range 6).map (fun i => fieldLE b (4 * i) 4), fieldLE b 0x18 4⟩
  else .error (.refuse stFormat va n none32 none64)

/-- R229: the origin of an entry's block. -/
def ListEnt.origin (e : ListEnt) (block : List Nat) : Idx :=
  (List.range 6).map (fun i => ((nth 0 e.coord i * nth 1 block i : Nat) : Int))

/-- R219: a coordinate vector comes before another in canonical order. -/
def canonLt (a b : List Nat) : Bool :=
  ((List.range 6).reverse.foldl (fun (r : Option Bool) i =>
    match r with
    | some v => some v
    | none => if nth 0 a i = nth 0 b i then none else some (nth 0 a i < nth 0 b i)) none).getD false

end Sys2Proof.Machine
end

