-- ==== Sys2Proof/Machine/Elem.lean ====
section
/-!
DEFINITION. The elementary functions of R157: the FP32 value nearest the exact value at the FP32 input, ties to even. The
exact value is approached by fixed-point series with 512 fraction bits, far beyond what separates an FP32 rounding
boundary from any of these values, and rounded once (DEDUCED: log 12).
-/
namespace Sys2Proof.Machine

/-- Fraction bits of the fixed-point values. -/
def fxBits : Nat := 512
/-- One in fixed point. -/
def fxOne : Nat := 2 ^ fxBits

/-- Fixed-point product. -/
def fxMul (a b : Nat) : Nat := a * b / fxOne

/-- A non-negative dyadic in fixed point, truncated below 2^-512. -/
def fxOf (m : Nat) (e : Int) : Nat :=
  let (n, d) := scale2 m 1 (e + fxBits)
  n / d

/-- The sum of the exponential series from term `n` on, with `t` the current term. -/
def expSeries (x : Nat) : Nat → Nat → Nat → Nat
  | 0, _, _ => 0
  | fuel + 1, n, t => t + expSeries x fuel (n + 1) (fxMul t x / (n + 1))

/-- Repeated squaring. -/
def fxSquare : Nat → Nat → Nat
  | 0, a => a
  | n + 1, a => fxSquare n (fxMul a a)

/-- `exp x` in fixed point for a non-negative fixed-point `x`. -/
def fxExp (x : Nat) : Nat := fxSquare 10 (expSeries (x / 2 ^ 10) 120 0 fxOne)

/-- `exp (−x)` in fixed point for a non-negative fixed-point `x`. -/
def fxExpNeg (x : Nat) : Nat := fxOne * fxOne / fxExp x

/-- The integer square root, by bits from `2^k` down. -/
def isqrtBits : Nat → Nat → Nat → Nat
  | 0, _, r => r
  | k + 1, n, r => isqrtBits k n (if (r + 2 ^ k) * (r + 2 ^ k) ≤ n then r + 2 ^ k else r)

/-- `floor (sqrt n)`. -/
def isqrt (n : Nat) : Nat := isqrtBits (Nat.log2 n / 2 + 1) n 0

/-- `arctan (1 / k)` in fixed point by its alternating series. -/
def fxAtanInv (k : Nat) : Nat → Nat → Nat → Int
  | 0, _, _ => 0
  | fuel + 1, n, t => ((t / (2 * n + 1) : Nat) : Int) - fxAtanInv k fuel (n + 1) (t / (k * k))

/-- π in fixed point: 16 arctan(1/5) − 4 arctan(1/239). -/
def fxPi : Nat := (16 * fxAtanInv 5 120 0 (fxOne / 5) - 4 * fxAtanInv 239 40 0 (fxOne / 239)).toNat

/-- √(2/π) in fixed point. -/
def fxSqrt2OverPi : Nat := isqrt (2 * fxOne * fxOne * fxOne / fxPi)

/-- The alternating series of erf: Σ (−1)^n y^n / (n! (2n+1)). -/
def erfSeries (y : Nat) : Nat → Nat → Nat → Int
  | 0, _, _ => 0
  | fuel + 1, n, t => ((t / (2 * n + 1) : Nat) : Int) - erfSeries y fuel (n + 1) (fxMul t y / (n + 1))

/-- R157: exp. -/
def fexp (x : F32) : F32 :=
  match dec32 x with
  | .nan => f32nan
  | .inf neg => if neg then f32zero else f32inf false
  | .fin neg m e =>
    if m = 0 then 0x3F800000
    else if fge (fabs x) 0x43000000 then (if neg then f32zero else f32inf false)
    else if neg then rn32 false (fxExpNeg (fxOf m e)) fxOne 0 else rn32 false (fxExp (fxOf m e)) fxOne 0

/-- R157: SILU(x) = x / (1 + e^−x). -/
def silu (x : F32) : F32 :=
  match dec32 x with
  | .nan => f32nan
  | .inf neg => if neg then 0x80000000 else f32inf false
  | .fin neg m e =>
    if m = 0 then x
    else if fge (fabs x) 0x43000000 then (if neg then 0x80000000 else x)
    else
      let en := fxExpNeg (fxOf m e)
      if neg then rn32 true (m * en) (fxOne + en) e else rn32 false (m * fxOne) (fxOne + en) e

/-- R157: GELU_ERF(x) = (x / 2)(1 + erf(x / √2)). -/
def geluErf (x : F32) : F32 :=
  match dec32 x with
  | .nan => f32nan
  | .inf neg => if neg then 0x80000000 else f32inf false
  | .fin neg m e =>
    if m = 0 then x
    else if fge (fabs x) 0x41800000 then (if neg then 0x80000000 else x)
    else
      let y := fxOf (m * m) (2 * e - 1)
      let s := erfSeries y 900 0 fxOne
      let erf := (fxOf m e * fxSqrt2OverPi / fxOne * s.toNat) / fxOne
      let g := if neg then fxOne - erf else fxOne + erf
      rn32 neg (m * g) (2 * fxOne) e

/-- R157: GELU_TANH(x) = (x / 2)(1 + tanh(√(2/π)(x + 0.044715 x³))) = x / (1 + e^−2u). -/
def geluTanh (x : F32) : F32 :=
  match dec32 x with
  | .nan => f32nan
  | .inf neg => if neg then 0x80000000 else f32inf false
  | .fin neg m e =>
    if m = 0 then x
    else if fge (fabs x) 0x41800000 then (if neg then 0x80000000 else x)
    else
      let a := fxOf m e
      let u := fxMul fxSqrt2OverPi (a + fxMul (fxMul a a) a * 44715 / 1000000)
      let en := fxExpNeg (2 * u)
      if neg then rn32 true (m * en) (fxOne + en) e else rn32 false (m * fxOne) (fxOne + en) e

/-- R157: the reciprocal square root. -/
def rsqrt (x : F32) : F32 :=
  match dec32 x with
  | .nan => f32nan
  | .inf neg => if neg then f32nan else f32zero
  | .fin neg m e =>
    if m = 0 then f32inf neg
    else if neg then f32nan
    else
      -- 1 / sqrt(m 2^e) with e made even
      let (m', e') := if e % 2 = 0 then (m, e) else (2 * m, e - 1)
      rn32 false (isqrt (2 ^ 600 / m')) 1 (-(e' / 2) - 300)

/-- R465: the square root, rounded once. -/
def fsqrt (x : F32) : F32 :=
  match dec32 x with
  | .nan => f32nan
  | .inf neg => if neg then f32nan else f32inf false
  | .fin neg m e =>
    if m = 0 then x
    else if neg then f32nan
    else
      let (m', e') := if e % 2 = 0 then (m, e) else (2 * m, e - 1)
      rn32 false (isqrt (m' * 2 ^ 400)) 1 (e' / 2 - 200)

end Sys2Proof.Machine
end

