-- ==== Sys2Proof/Machine/Rowfn.lean ====
section
/-!
DEFINITION. Row functions (R155 to R166) on the FP32 values of one row, and the conversion of rows to a storage format
(R59 to R62, R166, R246).
-/
namespace Sys2Proof.Machine

/-! Function codes of R155. -/
def fnNone : Nat := 0x00
def fnSoftmax : Nat := 0x01
def fnRmsnorm : Nat := 0x02
def fnLayernorm : Nat := 0x03
def fnGatedSilu : Nat := 0x07
def fnGatedGelu : Nat := 0x08
def fnThresh : Nat := 0x09
def fnTopk : Nat := 0x0A
def fnQuantRow : Nat := 0x0B

/-- A function over a whole row (R155). -/
def wholeRow (fn : Nat) : Bool := 1 ≤ fn && fn ≤ 3
/-- An element function (R155). -/
def elementFn (fn : Nat) : Bool := fn == 0 || (4 ≤ fn && fn ≤ 6) || fn == fnThresh
/-- A gated function (R163). -/
def gatedFn (fn : Nat) : Bool := fn == fnGatedSilu || fn == fnGatedGelu
/-- A function with a vector operand that it reads (R155). -/
def readsVector (fn : Nat) : Bool := fn == fnRmsnorm || fn == fnLayernorm
/-- A function with a vector operand: step 4 of R132 is not performed for it. -/
def hasVector (fn : Nat) : Bool := readsVector fn || fn == fnQuantRow

/-- −∞. -/
def f32ninf : F32 := f32inf true
/-- 1. -/
def f32one : F32 := 0x3F800000

/-- A row's state before its first chunk (R159, R161, R162). -/
def RowSt.start : RowSt := ⟨f32ninf, f32zero, f32zero, f32zero⟩

/-- The values of a row with the columns at or beyond `n` replaced by +0 (R123, R158). -/
def belowExt (n : Nat) (xs : List F32) : List F32 := xs.mapIdx (fun j x => if j < n then x else f32zero)

/-- The maximum over a chunk: NaN if any value is NaN (R159). -/
def chunkMax (xs : List F32) : F32 := xs.foldl fmax f32ninf

/-- R159: the scores of a chunk: scaled, with masked columns at −∞. `masked j` says which. -/
def scores (sigma : F32) (masked : Nat → Bool) (xs : List F32) : List F32 :=
  xs.mapIdx (fun j x => if masked j then f32ninf else fmul sigma x)

/-- What SOFTMAX makes of one chunk (R159): the values p, the new state and the rescale factor of set 1. -/
structure SoftChunk where
  p  : List F32
  st : RowSt
  c  : F32
deriving DecidableEq, Repr

/-- R159: one chunk of SOFTMAX. -/
def softChunk (sigma : F32) (masked : Nat → Bool) (st : RowSt) (xs : List F32) : SoftChunk :=
  let s := scores sigma masked xs
  let m := fmax st.m (chunkMax s)
  if m = f32ninf then ⟨s.map (fun _ => f32zero), { st with m := m, l := fadd (fmul st.l f32one) (chunkSum (s.map (fun _ => f32zero))) }, f32one⟩
  else
    let c := fexp (fsub st.m m)
    let p := s.map (fun v => fexp (fsub v m))
    ⟨p, { st with m := m, l := fadd (fmul st.l c) (chunkSum p) }, c⟩

/-- R159: a value divided by the row's sum; +0 when the sum is zero. -/
def softDiv (l v : F32) : F32 := if isZero l then f32zero else fdiv v l

/-- R161, R162: the sums of a chunk added to a row's state, over the columns below the extent. -/
def normChunk (n : Nat) (st : RowSt) (xs : List F32) : RowSt :=
  { st with
    q := fadd st.q (chunkSum (belowExt n (xs.map (fun x => fmul x x))))
    sum := fadd st.sum (chunkSum (belowExt n xs)) }

/-- R161: the factor r of RMSNORM over `n` columns. -/
def rmsFactor (n : Nat) (eps : F32) (st : RowSt) : F32 := rsqrt (fadd (fdiv st.q (f32OfInt n)) eps)

/-- R162: μ of LAYERNORM. -/
def lnMean (n : Nat) (st : RowSt) : F32 := fdiv st.sum (f32OfInt n)

/-- R162: the factor r of LAYERNORM. -/
def lnFactor (n : Nat) (eps : F32) (st : RowSt) : F32 :=
  let mu := lnMean n st
  let v := fsub (fdiv st.q (f32OfInt n)) (fmul mu mu)
  let v := if bitAt v.toNat 31 && !isNan v && !isZero v then f32zero else v
  rsqrt (fadd v eps)

/-- R163: the gated function of a row of gate and up values; the first `n` neurons are valid. -/
def gatedRow (fn n : Nat) (xs : List F32) : List F32 :=
  let h := xs.length / 2
  (List.range h).map (fun j =>
    if j < n then
      fmul ((if fn = fnGatedSilu then silu else geluErf) (nth f32zero xs j)) (nth f32zero xs (h + j))
    else f32zero)

/-- R165: the order of TOPK: NaN above every number, −0 equal to +0. -/
def topKey (x : F32) : Int := if isNan x then (2 ^ 32 : Nat) else if isZero x then 0 else ordKey x

/-- R165: the columns selected: the `k` largest of the first `n`, ties to the lower column. -/
def topkCols (k n : Nat) (xs : List F32) : List Nat :=
  let cols := sortBy (fun a b => decide (topKey (nth f32zero xs b) ≤ topKey (nth f32zero xs a))) (List.range (min n xs.length))
  cols.take k

/-- R164, R165: whether each column is selected by THRESH or TOPK. -/
def selected (fn : Nat) (par : ParamEnt) (n : Nat) (xs : List F32) : List Bool :=
  if fn = fnThresh then xs.mapIdx (fun j x => decide (j < n) && fge x par.p0)
  else
    let cols := topkCols par.k n xs
    xs.mapIdx (fun j _ => cols.contains j)

/-- An element function on one value (R157). -/
def elementVal (fn : Nat) (x : F32) : F32 :=
  if fn = 4 then silu x else if fn = 5 then geluErf x else if fn = 6 then geluTanh x else x

/-- Functions that keep no state across chunks (R163 to R165, R123): the values they emit. `n` columns lie below the extent
and `v` neurons are valid. -/
def plainFn (fn : Nat) (par : ParamEnt) (n v : Nat) (xs : List F32) : List F32 :=
  if gatedFn fn then gatedRow fn v xs
  else if fn = fnThresh ∨ fn = fnTopk then
    (xs.zip (selected fn par n xs)).map (fun p => if p.2 then p.1 else f32zero)
  else (belowExt n xs).map (elementVal fn)

/-! QUANT_ROW (R166). -/

/-- Q of R166. -/
def quantMax (c : Nat) : Nat := if c = 0x03 then 127 else if c = 0x06 then 448 else 57344

/-- A row quantised: the scale, the codes, the counted conversions and whether it counts in ARITH_NONFIN_CNT. -/
structure QuantRow where
  rho    : F32
  codes  : List Nat
  sat    : Nat
  nonfin : Bool
deriving DecidableEq, Repr

/-- R59, R166: the exact quotient x / ρ rounded to a format. -/
def quantQuot (c : Nat) (x rho : F32) : Nat × Bool :=
  match dec32 x, dec32 rho with
  | .fin neg m e, .fin _ mr er =>
    if c = 0x03 then (let (i, o) := satInt (-128) 127 neg m mr (e - er); (unsigned 8 i, o))
    else
      let f := fmtOf c
      let (v, o) := f.satMag m mr (e - er)
      (f.withSign neg v, o)
  | _, _ => (0, false)

/-- R166: QUANT_ROW on the first `n` columns; the others are zero codes. -/
def quantRow (c n : Nat) (xs : List F32) : QuantRow :=
  let v := xs.take n
  let rest := List.replicate (xs.length - n) 0
  if v.any nonFinite then ⟨f32nan, xs.map (fun _ => 0), 0, true⟩
  else
    let amax := amaxOf v
    let rho := if amax = 0 then f32one
      else
        let r := fdiv amax (f32OfInt (quantMax c))
        if r = 0 then 1 else r
    let qs := v.map (fun x => quantQuot c x rho)
    ⟨rho, qs.map (·.1) ++ rest, (qs.filter (·.2)).length, false⟩

/-! Conversion of a row (step 6 of R132). -/

/-- The codes and scales of a row, with what the counters count. -/
structure ConvRow where
  codes  : List Nat
  scales : List Nat
  sat    : Nat
  nonfin : Nat
deriving DecidableEq, Repr

/-- R59 to R62: the first `n` values of a row of `width` elements converted; what lies beyond is zero. DESIGN CHOICE (log 21): in
a row function's output, which the next product reads, the elements beyond the extent are zero. -/
def convRow (c : Nat) (t : F32) (width n : Nat) (xs : List F32) : ConvRow :=
  let v := xs.take (min n width)
  if isScaled c then
    let b := blockSize c
    let qs := (chunksOf b v.length v).map (quantBlock c t)
    let codes := qs.flatMap (·.elems)
    let sc := qs.map (·.scale)
    ⟨codes ++ List.replicate (width - codes.length) 0, sc ++ List.replicate (ceilDiv width b - sc.length) 0,
      (qs.map (·.sat)).sum, (qs.filter (·.nonfin)).length⟩
  else
    let qs := v.map (narrow c)
    ⟨qs.map (·.1) ++ List.replicate (width - qs.length) 0, [], (qs.filter (·.2)).length, 0⟩

/-- A row that is not written: zero codes and scales. -/
def convNone (c width : Nat) : ConvRow :=
  ⟨List.replicate width 0, if isScaled c then List.replicate (ceilDiv width (blockSize c)) 0 else [], 0, 0⟩

end Sys2Proof.Machine
end

