-- ==== Sys2Proof/Machine/Grid.lean ====
section
/-!
DEFINITION. The geometry of a launched step: tile operations by their fields (R113), gangs (R106), the tile grid (R119), the
overflow passes (R128 to R131), the two sweeps of R154, the extents of a pass, the run positions of a pair (R148) and the
partial region (R605).
-/
namespace Sys2Proof.Machine

/-! Tile operations (R113). -/

def opNop : Nat := 0x00
def opLoad : Nat := 0x01
def opMatch : Nat := 0x02
def opMma : Nat := 0x03
def opRowfn : Nat := 0x04
def opMma2 : Nat := 0x05
def opDrain : Nat := 0x06
def opStore : Nat := 0x07
def opTokwait : Nat := 0x08
def opTokpost : Nat := 0x09
def opFence : Nat := 0x0A

/-- The opcode of an operation. -/
def opCode (w : Nat) : Nat := bitsOf w 63 56
/-- The prefetch flag. -/
def opPf (w : Nat) : Bool := bitAt w 55

/-! Fields of the operations that share places. -/
/-- Bits 51:47: the first buffer reference, or FN of a ROWFN. -/
def fA (w : Nat) : Nat := bitsOf w 51 47
/-- Bits 46:42: the second buffer reference. -/
def fB (w : Nat) : Nat := bitsOf w 46 42
/-- Bits 41:37: A scale or A row-pointer. -/
def fAs (w : Nat) : Nat := bitsOf w 41 37
/-- Bits 36:32: B scale or B row-pointer. -/
def fBs (w : Nat) : Nat := bitsOf w 36 32
/-- Bits 31:29: OPA slot. -/
def fOpa (w : Nat) : Nat := bitsOf w 31 29
/-- Bits 28:26: OPB slot. -/
def fOpb (w : Nat) : Nat := bitsOf w 28 26
def fSparse (w : Nat) : Bool := bitAt w 25
def fAccIn (w : Nat) : Bool := bitAt w 24
def fPartialBr (w : Nat) : Nat := bitsOf w 23 19
/-- STREAM of a LOAD or STORE. -/
def fStream (w : Nat) : Nat := bitsOf w 46 43
/-- PART of a LOAD. -/
def fPart (w : Nat) : Nat := bitsOf w 42 41
/-- COORD of a LOAD or STORE: bit 0 mb, 1 nb, 2 kb. -/
def fCoord (w : Nat) : Nat := if opCode w = opLoad then bitsOf w 40 38 else bitsOf w 42 40
def rfFn (w : Nat) : Nat := bitsOf w 51 47
def rfPset (w : Nat) : Nat := bitsOf w 46 43
def rfOut (w : Nat) : Nat := bitsOf w 42 38
def rfSlot (w : Nat) : Nat := bitsOf w 37 35
def rfBias (w : Nat) : Bool := bitAt w 34
def rfBiasBr (w : Nat) : Nat := bitsOf w 33 29
def drOut (w : Nat) : Nat := bitsOf w 51 47
def drSlot (w : Nat) : Nat := bitsOf w 46 44
def drBias (w : Nat) : Bool := bitAt w 43
def drBiasBr (w : Nat) : Nat := bitsOf w 42 38
def drFn (w : Nat) : Nat := bitsOf w 37 33
def drPset (w : Nat) : Nat := bitsOf w 32 29
def drPartial (w : Nat) : Bool := bitAt w 28
/-- STATE of a TOKWAIT or TOKPOST. -/
def fState (w : Nat) : Bool := bitAt w 46
/-- SCOPE of a FENCE. -/
def fScope (w : Nat) : Nat := bitsOf w 51 48

/-- R115: the buffer that a reference names at a run count. -/
def bufNo (br parity : Nat) : Nat := if br ≥ 16 ∧ parity % 2 = 1 then (br % 16) ^^^ 1 else br % 16

/-! Gangs (R106). -/
def tileM (gang : Nat) : Nat := if gang = 0 then 64 else if gang = 1 then 32 else 16
def tileN (gang : Nat) : Nat := if gang = 0 then 64 else if gang = 1 then 128 else 256

/-! A launch. -/

/-- A launch that holds nothing. -/
def Launch.empty : Launch :=
  ⟨0, ⟨0, false, false, false, 0, 0, 0, 0, 0, 0, 0⟩, ⟨0, 0, 16, 0, 0, 1, 1, 16, 0, [], []⟩, [], [], [], Option.none, 0, 0, Option.none,
    false, 0, 0, 0, 0, 0, [], [], 0, [], 0⟩

/-- R173: the predictor step of a layer that runs dense, which completes without running. -/
def Launch.unrun (l : Launch) : Bool := l.dense && l.pred.any (·.isPred)

/-- The launch of a context. -/
def State.launchOf (s : State) (x : Nat) : Launch := (s.ctx x).launch.getD Launch.empty

def Launch.tm (l : Launch) : Nat := tileM l.prog.gang
def Launch.tn (l : Launch) : Nat := tileN l.prog.gang
def Launch.tk (l : Launch) : Nat := l.prog.tileK

/-- A pair program (R148). -/
def TileProg.isPair (p : TileProg) : Bool := p.ops.any (fun w => opCode w == opMma2)
def Launch.isPair (l : Launch) : Bool := l.prog.isPair
/-- R25: a matrix tile. -/
def TileProg.isMatrix (p : TileProg) : Bool := p.ops.any (fun w => opCode w == opMma || opCode w == opMma2)

/-- The byte offset of operation `i` in its program. -/
def TileProg.opOff (p : TileProg) (i : Nat) : Nat := 32 + 8 * p.bufs.length + 8 * i

/-- The first operation of a kind in a program. -/
def TileProg.first (p : TileProg) (op : Nat) : Option Nat := p.ops.find? (fun w => opCode w == op)

/-- The index of the first DRAIN of the compute section; the number of operations when there is none. -/
def TileProg.drainAt (p : TileProg) : Nat := (p.ops.findIdx? (fun w => opCode w == opDrain && !opPf w)).getD p.ops.length

/-- Passes of one dimension (R128). -/
def passesOf (ext plan : Nat) : Nat := max 1 (ceilDiv ext plan)

/-- The number of passes per dimension: M, N, K, J (R128). -/
structure Passes where
  m : Nat
  n : Nat
  k : Nat
  j : Nat
deriving DecidableEq, Repr

def Launch.passes (l : Launch) : Passes :=
  ⟨if l.bins.isSome then 1 else passesOf l.extM l.prog.planM, passesOf l.extN l.prog.planN, passesOf l.extK l.prog.planK,
   if l.isPair then passesOf l.extJ l.prog.planJ else 1⟩

/-- The passes of one sweep. -/
def Launch.passCount (l : Launch) : Nat := l.passes.m * l.passes.n * l.passes.k * l.passes.j

/-- R154: a DRAIN SOFTMAX outside a pair over N overflow passes runs its passes twice. -/
def Launch.sweeps (l : Launch) : Nat :=
  if !l.isPair && l.passes.n > 1 && l.prog.ops.any (fun w => opCode w == opDrain && drFn w == fnSoftmax) then 2 else 1

/-- R129: the coordinates of a pass: K fastest, then J, N, M. -/
def Launch.passCoord (l : Launch) (p : Nat) : Passes :=
  let q := l.passes
  ⟨p / (q.k * q.j * q.n), p / (q.k * q.j) % q.n, p % q.k, p / q.k % q.j⟩

/-- The extents within a pass (R129). -/
structure Exts where
  m : Nat
  n : Nat
  k : Nat
  j : Nat
deriving DecidableEq, Repr

/-- R129: the extents of a pass; with a row-bin table M keeps the launch's extent. -/
def Launch.extsIn (l : Launch) (p : Nat) : Exts :=
  let c := l.passCoord p
  ⟨if l.bins.isSome then l.extM else min l.prog.planM (l.extM - c.m * l.prog.planM),
   min l.prog.planN (l.extN - c.n * l.prog.planN), min l.prog.planK (l.extK - c.k * l.prog.planK),
   if l.isPair then min l.prog.planJ (l.extJ - c.j * l.prog.planJ) else l.extJ⟩

/-- R119: the grid. -/
def Launch.mbs (l : Launch) : Nat := match l.bins with
  | some t => t.bins.length
  | none => ceilDiv l.prog.planM l.tm
def Launch.nbs (l : Launch) : Nat := ceilDiv l.prog.planN l.tn
/-- KB of the program's run; a pair forms its grid with KB of 1 (R148). -/
def Launch.runKb (l : Launch) : Nat := ceilDiv l.prog.planK l.tk
def Launch.kbs (l : Launch) : Nat := if l.isPair then 1 else l.runKb
/-- The tiles of one pass. -/
def Launch.perPass (l : Launch) : Nat := l.mbs * l.nbs * l.kbs
/-- The tiles of a whole step. -/
def Launch.tiles (l : Launch) : Nat := l.perPass * l.passCount * l.sweeps

/-- The pass of a tile within its sweep, and its sweep (R129, R154). -/
def Launch.passOf (l : Launch) (t : Nat) : Nat := t / l.perPass % l.passCount
def Launch.sweepOf (l : Launch) (t : Nat) : Nat := t / l.perPass / l.passCount

/-- R119: the coordinates of a tile within its pass. -/
def Launch.kbOf (l : Launch) (t : Nat) : Nat := t % l.kbs
def Launch.nbOf (l : Launch) (t : Nat) : Nat := t / l.kbs % l.nbs
def Launch.mbOf (l : Launch) (t : Nat) : Nat := t / (l.kbs * l.nbs) % l.mbs

/-- A K overflow pass other than the last (R130). -/
def Launch.midK (l : Launch) (p : Nat) : Bool := (l.passCoord p).k + 1 < l.passes.k

/-- The row-bin table with the rows of one bin as given, as many as the bin holds. -/
def BinTab.withRows (t : BinTab) (b : Nat) (rows : List Nat) : BinTab := match t.bins[b]? with
  | some (f, n) => if rows.length = n then { t with rows := t.rows.take f ++ rows ++ t.rows.drop (f + n) } else t
  | none => t

/-- The stored rows of a bin (R95). -/
def BinTab.rowsOf (t : BinTab) (b : Nat) : List Nat := match t.bins[b]? with
  | some (f, n) => (t.rows.drop f).take n
  | none => []

/-- The launch's index of each row of a tile, for `r < TILE_M`; none where no row stands there (R95, R159). -/
def Launch.rowAt (l : Launch) (p mb r : Nat) : Option Nat := match l.bins with
  | some t => (t.rowsOf mb)[r]?
  | none => some ((l.passCoord p).m * l.prog.planM + mb * l.tm + r)

/-- R123: row `r` of a tile lies within the extents. -/
def Launch.rowLive (l : Launch) (p mb r : Nat) : Bool := match l.bins with
  | some t => ((t.rowsOf mb)[r]?).elim false (fun q => decide (q < l.extM))
  | none => mb * l.tm + r < (l.extsIn p).m

/-- R123: the columns of a tile within the extents. -/
def Launch.liveCols (l : Launch) (p nb : Nat) : Nat := min l.tn ((l.extsIn p).n - nb * l.tn)

/-- R51, R53: the K positions of a tile within the extents. -/
def Launch.liveK (l : Launch) (p kb : Nat) : Nat := min l.tk ((l.extsIn p).k - kb * l.tk)

/-- R122: a tile is skipped. -/
def Launch.skips (l : Launch) (t : Nat) : Bool :=
  let p := l.passOf t
  let e := l.extsIn p
  let mb := l.mbOf t
  let kb := l.kbOf t
  (match l.bins with
    | some b => (b.rowsOf mb).all (fun r => decide (l.extM ≤ r))
    | none => decide (e.m ≤ mb * l.tm)) ||
  decide (e.n ≤ l.nbOf t * l.tn) || (!l.isPair && kb > 0 && decide (e.k ≤ kb * l.tk))

/-- R125: no tile of the step runs. -/
def Launch.isEmpty (l : Launch) : Bool := l.extM == 0 || l.extN == 0 || l.perPass == 0

/-! Run positions of a pair (R148, R150). -/

/-- The last chunk and the last K block that run in a pass; DEDUCED (log 22): ROWFN and MMA2 issue at the last K block that
runs. -/
def Launch.lastJb (l : Launch) (p : Nat) : Nat := ceilDiv (l.extsIn p).j l.tn - 1
def Launch.lastKb (l : Launch) (p : Nat) : Nat := ceilDiv (l.extsIn p).k l.tk - 1

/-- The row function of a pair. -/
def Launch.rowfnWord (l : Launch) : Nat := (l.prog.first opRowfn).getD 0
/-- The pair is gated. -/
def Launch.gated (l : Launch) : Bool := l.isPair && gatedFn (rfFn l.rowfnWord)

/-- A parameter entry. -/
def Launch.param (l : Launch) (n : Nat) : ParamEnt := nth ⟨0, false, 0, 0, 0, 0⟩ l.params n

/-- R159: the launch's index of column 0 of a chunk. -/
def Launch.chunkCol (l : Launch) (p jb : Nat) : Nat := (l.passCoord p).j * l.prog.planJ + jb * l.tn

/-- R160: every column of a chunk is masked for every row of the tile below EXT_M. -/
def Launch.causalSkip (l : Launch) (p mb jb : Nat) : Bool :=
  let w := l.rowfnWord
  let par := l.param (rfPset w)
  l.isPair && rfFn w == fnSoftmax && par.causal &&
    (List.range l.tm).all (fun r => !l.rowLive p mb r ||
      decide (par.qpos0 + (l.rowAt p mb r).getD 0 < par.kpos0 + l.chunkCol p jb))

/-- R163: the valid neurons of a chunk of a gated pair in a launch of `ext` columns. -/
def gatedLive (ext jb tn : Nat) : Nat := min (tn / 2) (ext / 2 - jb * (tn / 2))

/-- The columns that a chunk's row function emits. -/
def Launch.chunkOut (l : Launch) : Nat := if l.gated then l.tn / 2 else l.tn

/-- R123, R163: the K positions of a second product within the extents. -/
def Launch.liveK2 (l : Launch) (p jb : Nat) : Nat :=
  if l.gated then gatedLive (l.extsIn p).j jb l.tn else min l.tn ((l.extsIn p).j - jb * l.tn)

/-! Audit tiles (R170). -/

/-- R170: the audit tiles of a step with their pass and rows: of every pass that forms the first column block, its audited
rows in ascending order, TILE_M at a time. DEDUCED (log 29) for a step of several passes: a gated pair has one J pass (R153). -/
def Launch.auditTiles (l : Launch) : List (Nat × List Nat) :=
  (List.range l.passCount).flatMap (fun p =>
    let c := l.passCoord p
    if c.n ≠ 0 then []
    else
      let rows := if l.bins.isSome then l.audRows
        else l.audRows.filter (fun r => c.m * l.prog.planM ≤ r && r < c.m * l.prog.planM + (l.extsIn p).m)
      (chunksOf l.tm rows.length rows).map (fun rs => (p, rs)))

/-- The pass and the rows of an audit tile; its index follows those of the ordinary tiles. -/
def Launch.auditOf (l : Launch) (t : Nat) : Nat × List Nat := nth (0, []) l.auditTiles (t - l.tiles)

/-- The pass of a tile, audit tiles included. -/
def Launch.passFor (l : Launch) (t : Nat) : Nat := if t < l.tiles then l.passOf t else (l.auditOf t).1

/-- The launch as an audit tile sees it: the tile's rows are the audited ones. -/
def Launch.auditView (l : Launch) (t : Nat) : Launch :=
  let rs := (l.auditOf t).2
  { l with bins := some ⟨0, l.tm, [(0, rs.length)], rs⟩ }

/-! The partial region (R605). -/

/-- The operands of the first product are INT8 (R47). -/
def SlotBind.fmt (b : SlotBind) : Nat := (b.values.map (·.fmt)).getD 0
def Launch.slot (l : Launch) (i : Nat) : SlotBind := nth ⟨none, none, none, none, 0⟩ l.slots i
def Launch.intTile (l : Launch) : Bool := (l.prog.first opMma).elim false (fun w => (l.slot (fOpa w)).fmt == 0x03)

/-- R164: the slot whose bitmap array the DRAIN writes, where its output is one bit per element. -/
def bitmapSlot (p : TileProg) (slots : List SlotBind) : Option Nat :=
  match p.first opDrain with
  | none => none
  | some w =>
    let b := nth ⟨none, none, none, none, 0⟩ slots (drSlot w)
    if (drFn w = fnThresh ∨ drFn w = fnTopk) ∧ b.values.elim false (fun d => d.spform == 1) then some (drSlot w) else none

/-- R245: a STORE of a slot writes its structure part, since the drain writes a bitmap. -/
def Launch.storesBits (l : Launch) (slot : Nat) : Bool := bitmapSlot l.prog l.slots == some slot

/-- An unused entry of a stream table (R244). -/
def StreamEnt.unused : StreamEnt := ⟨0, 0, 0, 0, 0, [], 0, 0, 0, 0, 0, 0, [], [], 0⟩
/-- A stream of a launch. -/
def Launch.stream (l : Launch) (n : Nat) : StreamEnt := nth .unused l.streams n

/-- The operands of the second product are INT8 (R47). -/
def Launch.intTile2 (l : Launch) : Bool := (l.prog.first opMma2).elim false (fun w => (l.slot (fOpa w)).fmt == 0x03)

/-- The set that a DRAIN reads holds integers: set 1 of a pair, the tile's set otherwise. -/
def Launch.intOut (l : Launch) : Bool := if l.isPair then l.intTile2 else l.intTile

/-- The size of one partial (R605). -/
def Launch.partSize (l : Launch) : Nat := if l.intOut then 32768 else 16384

/-- The task virtual address of a tile's partial. -/
def Launch.partVa (l : Launch) (mb nb kb : Nat) : Nat := l.partAddr + ((mb * l.nbs + nb) * l.kbs + kb) * l.partSize

/-- R153: the task virtual address of a tile's carried state. -/
def Launch.carryVa (l : Launch) (mb nb : Nat) : Nat := l.partAddr + (mb * l.nbs + nb) * 16896

/-- R605: the launch writes partials or carried state. -/
def Launch.usesPart (l : Launch) : Bool := l.passes.k > 1 || l.kbs > 1 || l.passes.j > 1 || l.sweeps > 1

/-- The kb values of a tile that are not skipped (R122, R134). -/
def Launch.liveKbs (l : Launch) (p : Nat) : List Nat :=
  (List.range l.kbs).filter (fun kb => kb == 0 || decide (kb * l.tk < (l.extsIn p).k))

/-- The key of an output tile: its tile index with kb of 0, in tiles of the grid (R135). -/
def Launch.outKey (l : Launch) (t : Nat) : Nat := t / l.kbs

end Sys2Proof.Machine
end

