-- ==== Sys2Proof/Machine/Cells.lean ====
section
/-!
DEFINITION. The cells and the Scarab: operands as they lie in buffers, dense and sparse (R66 to R81, R246), the checks of
sparse structure (R73, R74, R90 to R92), the products of an MMA (R47 to R54) and what the Scarab counts (R82 to R89).
-/
namespace Sys2Proof.Machine

/-- One row of an operand: a code per K position, none where a sparse form stores nothing, and the block scales. -/
structure OpRow where
  codes  : List (Option Nat)
  scales : List Nat
deriving DecidableEq, Repr

/-- An operand with K innermost. DEDUCED (log 23): a buffer holds both operands with K innermost, each row at a multiple of 32
bytes. -/
structure OpMat where
  fmt  : Nat
  rows : List OpRow
deriving DecidableEq, Repr

/-- The `w`-bit code at a bit of a byte string. -/
def codeAt (bs : List Byte) (w bit : Nat) : Nat := ofLE ((bs.drop (bit / 8)).take 9) / 2 ^ (bit % 8) % 2 ^ w

/-- The bits from one row of an operand to the next in a buffer (R220, R246). -/
def rowBits (k w : Nat) : Nat := alignUp (k * w) 256

/-- The codes of a dense row. -/
def denseCodes (bs : List Byte) (w bit k : Nat) : List (Option Nat) :=
  (List.range k).map (fun i => some (codeAt bs w (bit + i * w)))

/-! N:M forms (R75 to R77). -/

/-- N, M and the index width of a form (R76). -/
structure NmShape where
  n  : Nat
  m  : Nat
  ib : Nat
deriving DecidableEq, Repr

def nmShape (form : Nat) : NmShape :=
  if form = 2 then ⟨1, 4, 2⟩ else if form = 3 then ⟨2, 4, 2⟩ else if form = 4 then ⟨4, 8, 3⟩ else ⟨2, 8, 3⟩

/-- The index of value slot `j` of group `g` in a row of indices that begins at a bit. -/
def nmIndex (q : NmShape) (bs : List Byte) (bit g j : Nat) : Nat := codeAt bs q.ib (bit + (g * q.n + j) * q.ib)

/-- The code holds zero. -/
def zeroCode (fmt c : Nat) : Bool := match elemValue fmt c with
  | .fin _ m _ => m == 0
  | _ => false

/-- The values of an N:M row of `k` positions; on the bitmap path a slot that holds zero stores nothing (R79). -/
def nmCodes (q : NmShape) (fmt : Nat) (skipZero : Bool) (vals idx : List Byte) (vbit ibit k : Nat) : List (Option Nat) :=
  let w := elemBits fmt
  (List.range k).map (fun p =>
    match lowest q.n (fun j => nmIndex q idx ibit (p / q.m) j == p % q.m) with
    | none => none
    | some j =>
      let c := codeAt vals w (vbit + (p / q.m * q.n + j) * w)
      if skipZero && zeroCode fmt c then none else some c)

/-- What is wrong in a sparse row: the status and the K position, or the group and the repeated index. -/
structure RowFault where
  status : Nat
  pos    : Nat
  extra  : Nat
deriving DecidableEq, Repr

/-- The first repeated value of a list. -/
def firstRepeat : List Nat → Option Nat
  | [] => none
  | a :: l => if l.contains a then some a else firstRepeat l

/-- R90 to R92: one group of an N:M row whose first position is position `k0` of the operand's row. -/
def nmGroupFault (q : NmShape) (idx : List Byte) (ibit lim k0 g : Nat) : Option RowFault :=
  let is := (List.range q.n).map (nmIndex q idx ibit g)
  match is.find? (fun i => decide (lim ≤ g * q.m + i)) with
  | some i => some ⟨stIndexRange, k0 + g * q.m + i, none32⟩
  | none => (firstRepeat is).map (fun i => ⟨stDupIndex, k0 / q.m + g, i⟩)

/-- The first fault of an N:M row with `lim` positions within the K extent. -/
def nmRowFault (q : NmShape) (idx : List Byte) (ibit lim k0 : Nat) : Option RowFault :=
  (List.range (ceilDiv lim q.m)).findSome? (nmGroupFault q idx ibit lim k0)

/-! Bitmap form (R70 to R74). -/

/-- The bitmap words of a row of `k` positions. -/
def bitmapWords (k : Nat) : Nat := ceilDiv k 64

/-- R70: bit `p` of a row of a buffer of bitmap words, `words` to a row. -/
def wordBit (bs : List Byte) (words row p : Nat) : Bool := codeAt bs 1 (row * words * 64 + p) == 1

/-- The bit of position `p` of a row of `k` positions. -/
def bitmapBit (bs : List Byte) (row k p : Nat) : Bool := wordBit bs (bitmapWords k) row p

/-- R70, R81, R248: the bitmap words that a row of a tile takes in its buffer. A tile whose positions fill no whole segments holds the
words of the segments that they touch, as many in every tile (DEDUCED: log 112). -/
def tileWords (k : Nat) (split : Bool) : Nat := if split then ceilDiv (k + 64 - Nat.gcd 64 k) 64 else bitmapWords k

/-- The values of `k` positions of a bitmap row from its position `off`: packed values that begin at `vbit`. -/
def bitmapCodes (fmt : Nat) (vals map : List Byte) (words row off k vbit : Nat) : List (Option Nat) :=
  let w := elemBits fmt
  (((List.range (off + k)).foldl (fun (acc : List (Option Nat) × Nat) p =>
    if wordBit map words row p then (some (codeAt vals w (vbit + acc.2 * w)) :: acc.1, acc.2 + 1)
    else (none :: acc.1, acc.2)) ([], 0)).1.reverse).drop off

/-- R73, R74, R92: the first fault of a bitmap row whose space runs from unit `a` to unit `b`. The tile has `lim` positions from position
`k0` of the operand's row, which has `ext`; its words begin with the segment of `k0`. Words past the last segment of the `lim` positions
are not looked at (R70). -/
def bitmapRowFault (fmt : Nat) (map : List Byte) (words row lim k0 ext a b : Nat) : Option RowFault :=
  let off := k0 % 64
  let bits := (List.range (alignUp (off + lim) 64)).filter (wordBit map words row)
  if b < a then some ⟨stFormat, none32, none32⟩
  else
    match bits.find? (fun p => decide (ext ≤ k0 - off + p)) with
    | some p => some ⟨stIndexRange, k0 - off + p, none32⟩
    | none => if bits.length * elemBits fmt > (b - a) * 256 then some ⟨stFormat, none32, none32⟩ else none

/-! Operands from buffers. -/

/-- The bytes that an operand is read from. -/
structure OpBytes where
  vals   : List Byte
  scales : List Byte
  map    : List Byte
  ptrs   : List Byte
deriving DecidableEq, Repr

/-- The offset, in 32-byte units, at which a bitmap row's copied values begin (R248). -/
def ptrAt (ptrs : List Byte) (r : Nat) : Nat := fieldLE ptrs (4 * r) 4

/-- R78: the matrix paths. -/
inductive ScarabPath where
  | dense | index | bitmap
deriving DecidableEq, Repr

/-- R78, R80: the path of an operand pair whose MMA has SPARSE set. -/
def scarabPath (fa da fb : Nat) : ScarabPath :=
  if fa = 0 ∧ fb = 0 then .dense
  else if fb ≠ 0 then .bitmap
  else if fa = 1 ∧ da = 0 then .bitmap
  else .index

/-- The shape of an operand: rows, K positions of a tile, the bits from row to row of dense values, and the bitmap words of a row. -/
structure OpShape where
  n      : Nat
  k      : Nat
  stride : Nat
  words  : Nat
deriving DecidableEq, Repr

/-- The rows of an operand whose positions begin at position `k0` of its row. -/
def operandRows (d : Desc) (sparse skipZero : Bool) (o : OpBytes) (sh : OpShape) (k0 : Nat) : List OpRow :=
  let n := sh.n
  let k := sh.k
  let stride := sh.stride
  let w := elemBits d.fmt
  let nb := if isScaled d.fmt then ceilDiv k (blockSize d.fmt) else 0
  (List.range n).map (fun r =>
    let codes :=
      if !sparse || d.spform = 0 then denseCodes o.vals w (r * stride) k
      else if d.spform = 1 then bitmapCodes d.fmt o.vals o.map sh.words r (k0 % 64) k (ptrAt o.ptrs r * 256)
      else
        let q := nmShape d.spform
        nmCodes q d.fmt skipZero o.vals o.map (r * rowBits (k / q.m * q.n) w) (r * rowBits (k / q.m * q.n) q.ib) k
    ⟨codes, (List.range nb).map (fun i => (nth 0 o.scales (r * nb + i)).toNat)⟩)

/-- R124: the pad code of a slot. -/
def padCode (d : Desc) (mode : Nat) : Nat := if mode = 0 then 0 else if mode = 1 then d.zp else padMin d.fmt

/-- R123: rows beyond the extent take the pad value. -/
def padRows (pad k : Nat) (live : Nat → Bool) (rows : List OpRow) : List OpRow :=
  rows.mapIdx (fun r x => if live r then x else { x with codes := List.replicate k (some pad) })

/-- The first faulty row of a sparse operand among its live rows (R92); `k0` is the position of the first of its positions in the
operand's row, of which `lim` are live and `ext` the whole extent. -/
def operandFault (d : Desc) (o : OpBytes) (live : Nat → Bool) (sh : OpShape) (lim k0 ext : Nat) : Option (Nat × RowFault) :=
  if d.spform = 0 ∨ d.spform > 5 then none
  else
    (List.range sh.n).findSome? (fun r =>
      if !live r then none
      else
        (if d.spform = 1 then bitmapRowFault d.fmt o.map sh.words r lim k0 ext (ptrAt o.ptrs r) (ptrAt o.ptrs (r + 1))
         else
           let q := nmShape d.spform
           nmRowFault q o.map (r * rowBits (sh.k / q.m * q.n) q.ib) lim k0).map (fun f => (r, f)))

/-! Products. -/

/-- A product of two element codes. -/
def product (fa fb : Nat) (a b : Nat) : FV := fvMul (elemValue fa a) (elemValue fb b)

/-- R45: the scale of an accumulation block that begins at K position `k` of a row whose first position is `k0`: that of the block
of the operand's format that contains it. -/
def OpRow.scaleAt (r : OpRow) (f k0 k : Nat) : FV := scaleValue f (nth 0 r.scales ((k0 % blockSize f + k) / blockSize f))

/-- R45, R47 to R51, R54: the accumulation blocks of one output position. -/
def dotBlocks (fa fb k0 kn : Nat) (ra rb : OpRow) (acc : F32) : F32 :=
  let b := min (blockSize fa) (blockSize fb)
  ((chunksOf b kn ((ra.codes.zip rb.codes).take kn)).foldl (fun (p : F32 × Nat) blk =>
    let sum := blk.foldl (fun (t : BlockAcc) q =>
      match q with
      | (some x, some y) => t.add (product fa fb x y)
      | _ => t) BlockAcc.empty
    (addBlock p.1 sum (ra.scaleAt fa k0 (p.2 * b)) (rb.scaleAt fb k0 (p.2 * b)), p.2 + 1)) (acc, 0)).1

/-- R52 to R54: the chunks of sixteen of one output position. -/
def dotChunks (fa fb kn : Nat) (ra rb : OpRow) (acc : F32) : F32 :=
  (chunksOf 16 kn ((ra.codes.zip rb.codes).take kn)).foldl (fun acc blk =>
    let ps := blk.map (fun q =>
      match q with
      | (some x, some y) => enc32 (product fa fb x y)
      | _ => f32zero)
    addChunk16 acc (ps ++ List.replicate (16 - ps.length) f32zero)) acc

/-- A 48-bit two's-complement accumulator (R47). -/
def wrap48 (i : Int) : Int := signed 48 (unsigned 48 i)

/-- R47: the exact sum of one output position of an INT8 tile. -/
def dotInt (kn : Nat) (ra rb : OpRow) (acc : Int) : Int :=
  ((ra.codes.zip rb.codes).take kn).foldl (fun a q =>
    match q with
    | (some x, some y) => a + signed 8 x * signed 8 y
    | _ => a) acc

/-- The accumulators of a set as rows, +0 where nothing has been accumulated. -/
def Acc.rowsF (a : Acc) (tm tn : Nat) : List (List F32) :=
  if a.f.isEmpty then List.replicate tm (List.replicate tn f32zero) else chunksOf tn tm a.f
def Acc.rowsI (a : Acc) (tm tn : Nat) : List (List Int) :=
  if a.i.isEmpty then List.replicate tm (List.replicate tn 0) else chunksOf tn tm a.i

/-- The products of two operands added to a set of accumulators; `k0` is the K position at which the operands begin. -/
def mulAcc (a b : OpMat) (k0 kn tm tn : Nat) (acc : Acc) : Acc :=
  if a.fmt = 0x03 then
    { acc with int := true, i := ((a.rows.zip (acc.rowsI tm tn)).map (fun r => (b.rows.zip r.2).map (fun c => wrap48 (dotInt kn r.1 c.1 c.2)))).flatten }
  else
    let dot := if a.fmt = 0x01 ∨ a.fmt = 0x02 then dotChunks a.fmt b.fmt kn else dotBlocks a.fmt b.fmt k0 kn
    { acc with int := false, f := ((a.rows.zip (acc.rowsF tm tn)).map (fun r => (b.rows.zip r.2).map (fun c => dot r.1 c.1 c.2))).flatten }

/-! What the Scarab counts. -/

/-- The rows and columns of a cell of a gang (R106): first row, first column. -/
def cellOrigin (gang c : Nat) : Nat × Nat :=
  if gang = 0 then (16 * c, 0) else if gang = 1 then (16 * (c / 2), 64 * (c % 2)) else (0, 64 * c)

/-- Position `p` holds a value in some of the rows. -/
def unionAt (rows : List OpRow) (p : Nat) : Bool := rows.any (fun r => (nth none r.codes p).isSome)

/-- The counts of one MMA: positions and steps taken, cycles at the segment floor, rows over their declared group. -/
structure ScarabCount where
  taken : Nat
  floor : Nat
  overCnt  : Nat
deriving DecidableEq, Repr

/-- The cycles of `u` positions at twice the rate `r2`. -/
def cyclesAt (u r2 : Nat) : Nat := ceilDiv (2 * u) r2

/-- R82, R84, R86: one cell on the bitmap path: live positions, and cycles spent at the floor of its segments. -/
def cellBitmap (a b : List OpRow) (kn r2 : Nat) : Nat × Nat :=
  (List.range (bitmapWords kn)).foldl (fun p s =>
    let ps := (List.range 64).map (fun i => 64 * s + i)
    let ls := ps.filter (fun q => decide (q < kn))
    let u := (ls.filter (fun q => unionAt a q && unionAt b q)).length
    let f := cyclesAt (max u (ceilDiv ls.length 4)) r2
    (p.1 + u, p.2 + (f - cyclesAt u r2))) (0, 0)

/-- R89, R103: the rows of A whose declared groups hold more than N values, group by group. -/
def overGroups (q : NmShape) (a : List OpRow) (kn : Nat) : Nat :=
  (a.map (fun r => ((List.range (ceilDiv kn q.m)).filter (fun g =>
    decide (((List.range q.m).filter (fun i => (nth none r.codes (g * q.m + i)).isSome)).length > q.n))).length)).sum

/-- R82 to R89, R104, R105: what the Scarab counts over the four cells. -/
def scarabCount (path : ScarabPath) (gang kn r2 : Nat) (form decl : Nat) (a b : List OpRow) : ScarabCount :=
  let cells := (List.range 4).map (fun c =>
    let o := cellOrigin gang c
    ((a.drop o.1).take 16, (b.drop o.2).take 64))
  match path with
  | .dense => ⟨0, 0, 0⟩
  | .bitmap =>
    let l := cells.map (fun c => cellBitmap c.1 c.2 kn r2)
    ⟨(l.map (·.1)).sum, (l.map (·.2)).sum, 0⟩
  | .index =>
    let q := nmShape (if form = 1 then decl else form)
    ⟨4 * (ceilDiv kn q.m * q.n), 0, if form = 1 then overGroups q a kn else 0⟩

end Sys2Proof.Machine
end

