-- ==== Sys2Proof/Machine/Tile.lean ====
section
/-!
DEFINITION. A tile on a core: its grant and sections (R114 to R118), its buffers in the scratchpad, the faults that its units
find (R202, R235, R269 to R271), the accumulators and the events it raises.
-/
namespace Sys2Proof.Machine

/-! Grants and sections. -/

/-- The grant at a position among those a core holds. -/
def State.grantAt (s : State) (c g : Nat) : Option Grant := (s.core c).grants[g]?

/-- A grant changed. -/
def State.modGrant (s : State) (c g : Nat) (f : Grant → Grant) : State :=
  s.putCore c { s.core c with grants := mapAt (s.core c).grants g f }

/-- A section of a grant: prefetch or compute. -/
def Grant.sect (g : Grant) (pf : Bool) : Sect := if pf then g.pf else g.cp
/-- A section changed. -/
def Grant.modSect (g : Grant) (pf : Bool) (f : Sect → Sect) : Grant :=
  if pf then { g with pf := f g.pf } else { g with cp := f g.cp }

/-- R114: the operations of a section, in program order. -/
def TileProg.section (p : TileProg) (pf : Bool) : List Nat := p.ops.filter (fun w => opPf w == pf)

/-- The place in a section of the DRAIN of the compute section; the section's length in a prefetch section. -/
def TileProg.drainIn (p : TileProg) (pf : Bool) : Nat :=
  if pf then (p.section true).length
  else ((p.section false).findIdx? (fun w => opCode w == opDrain)).getD (p.section false).length

/-- A section has issued its last operation and waits for nothing. -/
def Sect.issuedAll (k : Sect) (n : Nat) : Bool := k.pc ≥ n && k.wait.isNone && k.fence.isNone

/-- Both sections of a grant have issued every operation. -/
def Grant.issuedAll (g : Grant) (p : TileProg) : Bool :=
  g.pf.issuedAll (p.section true).length && g.cp.issuedAll (p.section false).length

/-- Nothing of a grant is outstanding: every operation issued is complete and every TOKPOST has taken effect. -/
def Grant.quiet (g : Grant) : Bool := g.pf.open_.isEmpty && g.cp.open_.isEmpty && g.pf.posts.isEmpty && g.cp.posts.isEmpty

/-- The pass of a grant's tile. -/
def Launch.passAt (l : Launch) (g : Grant) : Nat := l.passFor g.tile

/-- The launch as a grant's tile sees it: an audit tile its audited rows, a tile of a bin the row-list entries that were read when
the grant arrived (R122). -/
def Launch.view (l : Launch) (g : Grant) : Launch :=
  if g.audit then l.auditView g.tile
  else { l with bins := l.bins.map (fun t => t.withRows (l.mbOf g.tile) g.binRows) }

/-- R150: a grant stands at the final run position of its pair. -/
def Launch.finalPos (l : Launch) (g : Grant) : Bool :=
  !l.isPair || g.alone || (g.jb == l.lastJb (l.passAt g) && g.kb == l.lastKb (l.passAt g))

/-- R134: the operation moves or computes: what a tile whose partial is drained does not do again. DEDUCED (log 80): its tokens and
fences keep their effect. -/
def moves (op : Nat) : Bool := opLoad ≤ op && op ≤ opStore

/-- R134, R155: the operation loads the bias buffer that the DRAIN of a program reads. -/
def TileProg.loadsVectors (p : TileProg) (w : Nat) : Bool :=
  let dw := (p.first opDrain).getD 0
  opCode w == opLoad && (drBias dw || readsVector (drFn dw)) && fA w == drBiasBr dw

/-- R134, R150, R170: the operation at a place of a section is treated as NOP. -/
def Launch.isNop (l : Launch) (g : Grant) (pf : Bool) (pc w : Nat) : Bool :=
  let d := l.prog.drainIn pf
  let op := opCode w
  if g.relist then
    (pf || pc < d) && !l.prog.loadsVectors w
  else if !l.isPair then decide (l.kbs > 1) && !pf && decide (pc > d) && g.drained && !g.merged && moves op
  else if g.audit then g.alone || op == opMma2 || op == opStore || (!pf && pc ≥ d) || (op == opRowfn && g.kb ≠ l.lastKb (l.passAt g))
  else if g.alone then pf || pc < d
  else (!pf && pc ≥ d && !l.finalPos g) || ((op == opRowfn || op == opMma2) && g.kb ≠ l.lastKb (l.passAt g))

/-- A section of a grant of context `x`. -/
def Grant.sectId (g : Grant) (x : Nat) (pf : Bool) : SectId := ⟨x, g.tile, g.gen, g.copy, pf⟩

/-- The operation that a section of a grant issues next, as the accesses it makes name it. -/
def Grant.own (g : Grant) (x : Nat) (pf : Bool) : Option (SectId × Nat) := some (g.sectId x pf, (g.sect pf).seq)

/-- Where the next operation of a section stands: context, operation word. -/
structure Next where
  x : Nat
  w : Nat
  g : Grant
deriving DecidableEq, Repr

/-- R112: the operations of a section that a core issues: those of the program in its store. -/
def State.opsOf (s : State) (c x : Nat) (pf : Bool) : List Nat :=
  let p := (s.launchOf x).prog
  (((s.core c).progs.find? (fun q => q.1 == x && q.2.1 == p.addr)).elim p.ops (fun q => q.2.2)).filter (fun w => opPf w == pf)

/-- The next operation of a section, where it can issue (R114, R116, R118): the tile has arrived, its compute section runs, and
neither a TOKWAIT nor a FENCE holds it. The DRAIN of a combine taken from the re-issue list is the combine itself. -/
def State.nextOp (s : State) (c gi : Nat) (pf : Bool) : Option Next :=
  match (s.core c).ctx, s.grantAt c gi with
  | some x, some g =>
    let l := s.launchOf x
    let k := g.sect pf
    match (s.opsOf c x pf)[k.pc]? with
    | none => none
    | some w =>
      if (s.ctx x).run == .running && g.arrived && (pf || g.running) && k.wait.isNone && k.fence.isNone &&
          !(g.relist && !pf && k.pc == l.prog.drainIn false) &&
          !(g.combine && !g.merged && !pf && k.pc > l.prog.drainIn false) then some ⟨x, w, g⟩
      else none
  | _, _ => none

/-- R138: the first operation of a compute section other than TOKWAIT starts the tile's watchdog. -/
def Grant.mark (g : Grant) (pf : Bool) (op : Nat) : Grant :=
  if pf || op == opTokwait then g else { g with issued := true, wdog := true }

/-- R148, R160, R176: the run position after `(jb, kb)`: chunk, K block, whether it runs the DRAIN alone, and the positions left
unrun on the way. None after the final one. -/
def Launch.nextPos (l : Launch) (p mb jb kb : Nat) : Option (Nat × Nat × Bool × Nat) :=
  if kb < l.lastKb p then some (jb, kb + 1, false, 0)
  else
    let rest := (List.range (l.lastJb p + 1)).filter (fun j => j > jb)
    match rest.find? (fun j => !l.causalSkip p mb j) with
    | some j => some (j, 0, false, (j - jb - 1) * (l.lastKb p + 1))
    | none => if rest.isEmpty then none else some (l.lastJb p, l.lastKb p, true, rest.length * (l.lastKb p + 1))

/-- R150: the first run position of a pair tile, with the positions left unrun before it. -/
def Launch.firstPos (l : Launch) (p mb : Nat) : Nat × Nat × Bool × Nat :=
  if (l.extsIn p).j = 0 then (0, 0, true, 0)
  else
    match (List.range (l.lastJb p + 1)).find? (fun j => !l.causalSkip p mb j) with
    | some j => (j, 0, false, j * (l.lastKb p + 1))
    | none => (l.lastJb p, l.lastKb p, true, (l.lastJb p + 1) * (l.lastKb p + 1))

/-- Run positions left unrun, counted (R176). -/
def State.countSkips (s : State) (c n : Nat) : State :=
  s.bump (Reg.ROWFN_SKIP_CHUNK_CNT c) Fld.ROWFN_SKIP_CHUNK_CNT_COUNT n

/-- The grant moved to a run position: both sections begin again, with the next run count (R115, R148). -/
def Grant.toPos (g : Grant) (jb kb : Nat) (alone : Bool) (parity : Nat) : Grant :=
  { g with
    jb := jb, kb := kb, alone := alone, parity := parity, maskIn := false
    pf := { g.pf with pc := 0, armed := none }
    cp := { g.cp with pc := 0, armed := none } }

/-- R148: a pair tile that has issued a whole run position goes on to the next. -/
def State.turnPos (s : State) (c gi : Nat) : State :=
  match (s.core c).ctx, s.grantAt c gi with
  | some x, some g =>
    let l := s.launchOf x
    if !l.isPair || !g.issuedAll l.prog || l.finalPos g then s
    else
      match (l.view g).nextPos (l.passAt g) g.mb g.jb g.kb with
      | none => s
      | some (jb, kb, alone, n) =>
        let r := (s.core c).runs
        let s := (s.countSkips c (if g.audit then 0 else n)).modGrant c gi (fun g => g.toPos jb kb alone r)
        s.putCore c { s.core c with runs := r + 1 }
  | _, _ => s

/-- R114: an operation has issued: its section goes on to the next. -/
def State.issued (s : State) (c gi : Nat) (pf : Bool) (op : Nat) : State :=
  (s.modGrant c gi (fun g => (g.mark pf op).modSect pf (fun k => { k with pc := k.pc + 1, seq := k.seq + 1 }))).turnPos c gi

/-- An operation of a kind issues: treated as NOP it only passes, otherwise `k` says what it does before. -/
def State.issue (s : State) (c gi : Nat) (pf : Bool) (op : Nat) (k : State → Next → State) : State :=
  match s.nextOp c gi pf with
  | none => s
  | some n =>
    if opCode n.w ≠ op then s
    else if (s.launchOf n.x).isNop n.g pf (n.g.sect pf).pc n.w then s.issued c gi pf op
    else k s n

/-! Events and faults. -/

/-- An event of a tile on a core. -/
def State.tileEv (s : State) (c x : Nat) (g : Grant) (code st : Nat) (detail : List Byte) : Ev :=
  ⟨islCore c, code, st, x, (s.ctx x).stepNo, g.tile, g.gen, detail⟩

/-- R202, R204: a unit's read finds bad parity: every failing word is counted, the step aborts with PARITY, and the core's
budget is tried. -/
def State.parityStop (s : State) (c x : Nat) (tile gen : Nat) (a : Agent) (reads : List (Nat × Nat)) : State :=
  let n := (s.core c).errs
  let s := reads.foldl (fun s r => s.noteParities c a r.1 r.2) s
  let e : Ev := ⟨islCore c, evParity, stParity, x, (s.ctx x).stepNo, tile, gen, leBytes 8 (s.reg (Reg.SPAD_PARITY_LOG c))⟩
  let k := (s.core c).errs - n
  (s.fault x stParity true e).parityBudget c k

/-- R235, R241, R271: a translation fault ends the task with ADDR_PROT. -/
def State.xltStop (s : State) (c x tile gen kind va desc tag : Nat) : State :=
  let s := s.noteXlt c kind va
  s.fault x stAddrProt false ⟨islCore c, evAddrFault, stAddrProt, x, (s.ctx x).stepNo, tile, gen,
    leBytes 6 va ++ leBytes 2 kind ++ leBytes 8 desc ++ leBytes 8 tag⟩

/-- R269, R270, R276: a mid-stream fault of a stream. -/
def State.streamStop (s : State) (c x tile gen kind stream addr tag : Nat) : State :=
  let s := s.noteStream c kind stream addr
  let entry := 2 ^ 63 + kind * 2 ^ 60 + stream * 2 ^ 56 + addr % 2 ^ 48
  s.midStream x ⟨islCore c, evStreamFault, stOk, x, (s.ctx x).stepNo, tile, gen, leBytes 8 entry ++ leBytes 8 tag⟩

/-- R342: an uncorrectable error found by a unit of a core on its way is logged and becomes a mid-stream fault. -/
def State.ueStop (s : State) (c x tile gen stream : Nat) (r : Reader) (pa tag : Nat) : State :=
  let s := s.noteUe r pa
  (s.streamStop c x tile gen (if inHbm pa then 0 else 1) stream pa tag).ueBudgets pa

/-- R22, R271: an error in a program, list or operand ends the task with a status. -/
def State.errorStop (s : State) (c x tile gen status addr row pos tag : Nat) : State :=
  s.fault x status false (programError (islCore c) status x (s.ctx x).stepNo tile gen addr row pos tag)

/-- What stops a unit of a core while it works for a tile. -/
def State.stopBy (s : State) (c x tile gen stream desc tag : Nat) : Stop → State
  | .refuse st item row pos d => s.errorStop c x tile gen st item row pos d
  | .xlt kind va d t => s.xltStop c x tile gen kind va (if d = 0 then desc else d) (if d = 0 then tag else t)
  | .ue pa t => s.ueStop c x tile gen stream .die pa (if t = 0 then tag else t)

/-! Translation through a core. -/

/-- R235, R239: the root through which a core translates; none while translation is off. -/
def State.coreRoot (s : State) (c : Nat) : Option Nat :=
  if s.fld (Reg.XLT_ROOT c) Fld.XLT_ROOT_ENABLE = 1 then some (s.fld (Reg.XLT_ROOT c) Fld.XLT_ROOT_ROOT * 2 ^ 17) else none

/-- Bytes read through a core's root. -/
def State.readBy (s : State) (c va n : Nat) : Chk (List Byte) :=
  match s.coreRoot c with
  | none => .error (.xlt 5 va 0 0)
  | some r => s.readVa r va n

/-- Bytes written through a core's root. -/
def State.writeBy (s : State) (c va : Nat) (bs : List Byte) : Chk State :=
  match s.coreRoot c with
  | none => .error (.xlt 5 va 0 0)
  | some r => s.writeVa r va bs

/-! The TLB (R236). Leaves stand in order of use, the latest first. -/

/-- The context number that tags a core's translations. -/
def State.tlbCtx (s : State) (c : Nat) : Nat := s.fld (Reg.XLT_ROOT c) Fld.XLT_ROOT_CTX

/-- The leaf of a page, with the leaf moved to the front. -/
def lookupLeaf (l : List Leaf) (ctx vpn : Nat) : Option (Leaf × List Leaf) :=
  match l.find? (fun f => f.ctx == ctx && f.vpn == vpn) with
  | some f => some (f, f :: l.filter (fun g => !(g.ctx == ctx && g.vpn == vpn)))
  | none => none

/-- R236: a leaf installed: the least recently used of 64 makes room. -/
def installLeaf (l : List Leaf) (f : Leaf) : List Leaf :=
  (f :: l.filter (fun g => !(g.ctx == f.ctx && g.vpn == f.vpn))).take 64

/-- R242: a TLB miss counted. -/
def State.countXltMiss (s : State) (c : Nat) : State := s.bump (Reg.XLT_MISS_CNT c) Fld.XLT_MISS_CNT_COUNT 1

/-- R236, R242, R342: a page looked up in the TLB of a core by an access that ends within its command (DESIGN CHOICE: log 93): a miss is
counted, the entries that its walk reads are corrected, and the leaf that it finds is installed. -/
def State.lookPage (s : State) (c vpn : Nat) : State :=
  match s.coreRoot c with
  | none => s
  | some root =>
    match lookupLeaf (s.core c).tlb (s.tlbCtx c) vpn with
    | some (_, l) => s.putCore c { s.core c with tlb := l }
    | none =>
      let s := (s.countXltMiss c).correctAll ((s.walkReads root (pageStart vpn)).map (fun a => (a, 8)))
      match s.walk root (pageStart vpn) with
      | .ok e => s.putCore c { s.core c with tlb := installLeaf (s.core c).tlb ⟨s.tlbCtx c, vpn, e⟩ }
      | .bad _ => s

/-- R233, R236: every page of `n` bytes at a task virtual address looked up in the TLB of a core. -/
def State.lookUp (s : State) (c va n : Nat) : State :=
  if n = 0 then s else (List.range (pageOf (va + n - 1) + 1 - pageOf va)).foldl (fun s i => s.lookPage c (pageOf va + i)) s

/-- R342: `n` bytes at a task virtual address that a unit of a core reads: what they hold of one bad symbol is corrected. -/
def State.correctVa (s : State) (c va n : Nat) : State :=
  match s.coreRoot c with
  | none => s
  | some root =>
    match s.rangesOf root va n false with
    | .error _ => s
    | .ok l => s.correctAll l

/-- R236, R342: a read of `n` bytes looked up and corrected. -/
def State.readUp (s : State) (c va n : Nat) : State := (s.lookUp c va n).correctVa c va n

/-! Buffers. -/

/-- The buffer that a reference of a grant names (R115). -/
def Launch.buf (l : Launch) (g : Grant) (br : Nat) : Buf := nth ⟨0, 0, false⟩ l.prog.bufs (bufNo br g.parity)

/-- The module physical address of a buffer's first byte (R110, R179). -/
def bufAddr (c : Nat) (b : Buf) : Nat := spadBase c + 128 * b.base

/-- The context of a core is of class 0 (R258). -/
def State.urgentCtx (s : State) (x : Nat) : Bool := (s.ctx x).cls == 0

/-! The urgent queues of the HBM controllers (R325). -/

/-- The request is still to be answered. -/
def State.awaited (s : State) : MemReq → Bool
  | .read c id e => (s.core c).rd.any (fun t => t.id == id && t.epoch == e) || (s.core c).late.contains (id, e)
  | .walk c vpn => (s.core c).walks.any (fun w => w.vpn == vpn)
  | .fill c line => (s.core c).misses.contains line

/-- The urgent requests of a controller. -/
def State.urgentOf (s : State) (t : Nat) : List MemReq := (s.stack t).urgent.filter s.awaited

/-- R325: a read of a class-0 context enters the urgent queue of the controller of its address, or waits for room behind it. -/
def State.enterUrgent (s : State) (urg : Bool) (pa : Nat) (r : MemReq) : State :=
  if urg && inHbm pa then s.putStack (stackOf pa) { s.stack (stackOf pa) with urgent := s.urgentOf (stackOf pa) ++ [r] } else s

/-- R325: the controller of an address has no urgent request before it. -/
def State.noUrgent (s : State) (pa : Nat) : Bool := !inHbm pa || (s.urgentOf (stackOf pa)).isEmpty

/-- R325: a request may be served: no urgent request stands before it. DESIGN CHOICE (log 99): a controller serves a request when its
answer is commanded. -/
def State.mayServe (s : State) (pa : Nat) (r : MemReq) : Bool := s.noUrgent pa || (s.urgentOf (stackOf pa)).head? == some r

/-- R325: a read of `n` bytes at a task virtual address that a unit of a core makes within its command may be served: no urgent request
stands at the controllers of its bytes. -/
def State.vaServed (s : State) (c va n : Nat) : Bool :=
  n == 0 || (s.coreRoot c).elim true (fun root => (s.rangesOf root va n false).toOption.elim true (fun l => l.all (fun r => s.noUrgent r.1)))

/-- A read of `n` bytes from the first byte of a buffer: address and length. -/
def Launch.bufRead (l : Launch) (c : Nat) (g : Grant) (br n : Nat) : Nat × Nat := (bufAddr c (l.buf g br), n)

/-- The bytes of a read. -/
def State.got (s : State) (r : Nat × Nat) : List Byte := s.bytes r.1 r.2

/-- One of the reads meets bad parity. -/
def State.anyBad (s : State) (rs : List (Nat × Nat)) : Bool := rs.any (fun r => s.hasBad r.1 r.2)

/-! Accumulators. -/

/-- The accumulators of a set. -/
def Core.acc (x : Core) (set : Nat) : Acc := if set = 0 then x.acc0 else x.acc1
/-- A set replaced. -/
def State.putAcc (s : State) (c set : Nat) (a : Acc) : State :=
  s.putCore c (if set = 0 then { s.core c with acc0 := a } else { s.core c with acc1 := a })

/-- R113, R605: accumulators from the bytes of a partial. -/
def accOf (int : Bool) (bs : List Byte) : Acc :=
  if int then ⟨true, [], (chunksOf 8 4096 bs).map (fun b => signed 48 (ofLE b))⟩
  else ⟨false, (chunksOf 4 4096 bs).map (fun b => BitVec.ofNat 32 (ofLE b)), []⟩

/-- R605: the bytes of a partial of FP32 values. -/
def bytesOfF (rows : List (List F32)) : List Byte := rows.flatten.flatMap (fun v => leBytes 4 v.toNat)
/-- R605: the bytes of a partial of integer accumulators. -/
def bytesOfI (rows : List (List Int)) : List Byte := rows.flatten.flatMap (fun v => leBytes 8 (unsigned 64 v))

end Sys2Proof.Machine
end

