-- ==== Sys2Proof/Machine/Output.lean ====
section
/-!
DEFINITION. Output slots and votes (R26 to R31, R135 to R137): what a drain may write, the copies of the Assured profile and
the losses charged to cores, and the end of a tile at its counter (R312).
-/
namespace Sys2Proof.Machine

/-! Output slots. -/

/-- The slot of a tile's output for the step's generation (R135). -/
def Ctx.slotFor (c : Ctx) (key : Nat) : OutSlot :=
  let o := tget OutSlot.free c.slots key
  if o.gen = c.gen then o else .free

/-- A slot set for the step's generation. -/
def Ctx.setSlot (c : Ctx) (key state core : Nat) : Ctx :=
  { c with slots := tput OutSlot.free c.slots key ⟨c.gen, state, core⟩ }

/-- R135: the tag of a grant differs from the generation of the running step. -/
def State.stale (s : State) (x : Nat) (g : Grant) : Bool := g.gen != (s.ctx x).gen

/-- What a claim gives (R135, R136). -/
inductive Claim where
  | write | discard | wait
deriving DecidableEq, Repr

/-- R135, R136: the claim of core `c` on a slot of context `x`. A claim of a core that is fenced, or that has abandoned the
tile (R139), is taken. -/
def State.claim (s : State) (x c key : Nat) : Claim :=
  let o := (s.ctx x).slotFor key
  if o.state = 2 then .discard
  else if o.state = 1 ∧ o.core ≠ c ∧ !s.fenced o.core then .wait
  else .write

/-- R135: the slot that the grant's drain claimed becomes FREE (0) or DONE (2). -/
def State.closeSlot (s : State) (c x : Nat) (g : Grant) (state : Nat) : State :=
  let key := (s.launchOf x).outKey g.tile
  let o := (s.ctx x).slotFor key
  if g.drained && !g.mute && o.state == 1 && o.core == c then s.putCtx x ((s.ctx x).setSlot key state c) else s

/-- R136, R147: a drain's output discarded. -/
def State.discardTile (s : State) (c x : Nat) (g : Grant) : State :=
  let o := tget OutSlot.free (s.ctx x).slots ((s.launchOf x).outKey g.tile)
  (s.bump (Reg.DRAIN_DISCARD_CNT c) Fld.DRAIN_DISCARD_CNT_COUNT 1).raise
    (s.tileEv c x g evDrainDiscard 0 (leBytes 2 o.gen ++ leBytes 2 o.core))

/-! Votes. -/

/-- The key of a copy of a tile among those granted in a run. -/
def copyKey (tile copy : Nat) : Nat := tile * 4 + copy

/-- R26: the signature of a tile: the CRC over tile index, generation tag and output bytes. DESIGN CHOICE (log 24): the index
in four bytes and the tag in two. -/
def signature (tile gen : Nat) (out : List Byte) : Nat := crc64 (leBytes 4 tile ++ leBytes 2 gen ++ out)

/-- What a drain does after its vote (R26 to R28). -/
inductive VoteRes where
  | write | posted | lost
deriving DecidableEq, Repr

/-- The entries of a tile's vote slot. -/
def Ctx.votesOf (c : Ctx) (tile : Nat) : List Vote := tget [] c.votes tile

/-- R26, R27: what a signature meets at the slot. -/
def voteOf (es : List Vote) (sig : Nat) : VoteRes :=
  match es with
  | [] => .posted
  | [e] => if e.sig = sig then .write else .posted
  | _ => if es.any (fun e => e.sig == sig) then .write else .lost

/-- R29: a core is charged a vote loss; a second one within the window of its own Assured tiles fences it. -/
def State.charge (s : State) (c : Nat) : State :=
  let k := s.core c
  let again := k.lossAt.elim false (fun a => decide (k.execs - a ≤ s.conf.lossWindow))
  let s := s.putCore c { k with lossAt := some k.execs }
  if again then s.fenceCore c 2 else s

/-- The die whose counter granted copy A of a tile (R25, R26): that of the core which took it; until one has, the die to which it is
offered. -/
def State.voteDie (s : State) (x tile : Nat) : Nat :=
  match (s.ctx x).took.find? (fun p => p.1 == copyKey tile 1) with
  | some p => dieOf p.2
  | none =>
    let d := tile % 2
    if (s.serving x).any (fun c => dieOf c == d) then d else 1 - d

/-- The event of vote losses (R491). -/
def State.voteEv (s : State) (c x : Nat) (g : Grant) (loser o1 o2 st : Nat) : State :=
  s.raise (s.tileEv c x g evVoteLoss st (leBytes 2 loser ++ leBytes 2 o1 ++ leBytes 2 o2 ++ leBytes 2 st))

/-- R26 to R29: the vote of a tile's drain and what follows from it. -/
def State.vote (s : State) (c x : Nat) (g : Grant) (sig : Nat) : State × VoteRes :=
  let es := (s.ctx x).votesOf g.tile
  let me : Vote := ⟨sig, c, g.copy⟩
  let put (s : State) (l : List Vote) : State := s.putCtx x { s.ctx x with votes := tput [] (s.ctx x).votes g.tile l }
  let d := s.voteDie x g.tile
  match voteOf es sig with
  | .write =>
    let s := put s (es.filter (fun e => e.sig == sig))
    match es.find? (fun e => e.sig != sig), es.find? (fun e => e.sig == sig) with
    | some l, some o => ((s.voteEv c x g l.core o.core c 0).charge l.core, .write)
    | _, _ => (s, .write)
  | .posted =>
    if es.isEmpty then (put s [me], .posted)
    else
      let s := (put s (es ++ [me])).bump (Reg.TILECTR_VOTE_CNT d x) Fld.TILECTR_VOTE_CNT_THIRD 1
      let s := s.putCtx x { s.ctx x with
        reissue := insertBy Reissue.le ⟨d, g.tile, g.gen, 3, false, g.audit⟩ (s.ctx x).reissue }
      (s.bump (Reg.TILECTR_REISSUE d x) Fld.TILECTR_REISSUE_COUNT 1, .posted)
  | .lost =>
    let s := s.bump (Reg.TILECTR_VOTE_CNT d x) Fld.TILECTR_VOTE_CNT_LOST 1
    let c0 := nth 0 (es.map (·.core)) 0
    let c1 := nth 0 (es.map (·.core)) 1
    let lost (l o1 o2 : Nat) : Ev := s.tileEv c x g evVoteLoss stVoteLost (leBytes 2 l ++ leBytes 2 o1 ++ leBytes 2 o2 ++ leBytes 2 stVoteLost)
    let s := s.fault x stVoteLost true (lost c c0 c1)
    let s := (s.raise (lost c0 c c1)).raise (lost c1 c c0)
    ([c, c0, c1].foldl State.charge s, .lost)

/-! A tile at its counter. -/

/-- The pass that a context runs, counted over both sweeps. -/
def Ctx.passIdx (c : Ctx) (l : Launch) : Nat := c.sweep * l.passCount + c.pass

/-- R312: every tile of the running pass has ended or been skipped, no entry waits on the list and no combine is left. -/
def State.passDone (s : State) (x : Nat) : Bool :=
  let c := s.ctx x
  let l := s.launchOf x
  let q := c.passIdx l
  c.reissue.isEmpty && c.combines.isEmpty &&
    (List.range l.perPass).all (fun t => c.done.contains (q * l.perPass + t))

/-- R129, R154, R312: the next pass of a step begins once the running one is complete. -/
def State.turnPass (s : State) (x : Nat) : State :=
  let c := s.ctx x
  let l := s.launchOf x
  if c.passIdx l + 1 < l.passCount * l.sweeps && s.passDone x then
    let q := c.passIdx l + 1
    s.putCtx x { c with
      pass := q % l.passCount, sweep := q / l.passCount, base := q * l.perPass, cur := [q * l.perPass, q * l.perPass]
      released := [] }
  else s

/-- A tile ended or skipped, at its counter; its vote slot is free again (R26). -/
def State.endTileAt (s : State) (x t : Nat) : State :=
  (s.putCtx x { (s.ctx x).endTile t with votes := tput [] (s.ctx x).votes t [] }).turnPass x

end Sys2Proof.Machine
end

