-- ==== Sys2Proof/Machine/Remote.lean ====
section
/-!
DEFINITION. What a sender's streams send through remote windows and multicast groups (R418 to R421, R430): handles and
their credits, the header of a window message, and the bytes staged for a group until the commit.
-/
namespace Sys2Proof.Machine

/-- The key of a handle: the group's number and the handle's index (R418). -/
def State.handleKey (s : State) (x win : Nat) : Nat := (s.ctx x).group * 4096 + (win - 1)

/-- R421: the 32-byte header of a window write or read. -/
def winHeader (entry gen off len seq ref : Nat) : List Byte :=
  leBytes 2 entry ++ leBytes 2 gen ++ zeros 4 ++ leBytes 8 off ++ leBytes 4 len ++ leBytes 4 seq ++ leBytes 2 ref ++ zeros 6

/-- R421: TASKREF, whose bits the manual leaves open. DESIGN CHOICE (log 26): the context in the low byte, the low byte of the
task tag above it. -/
def State.taskRef (s : State) (x : Nat) : Nat := x + 256 * ((s.ctx x).task % 256)

/-- R418: every in-bounds byte of a descriptor lies below a window's size. -/
def Desc.fitsIn (d : Desc) (size : Nat) : Bool :=
  if d.dims.any (fun k => k.extent == 0) then true
  else
    let outer := (List.range 5).map (fun i => ((d.dim (i + 1)).extent - 1 : Int) * d.stepBytes (i + 1))
    let lo := outer.foldl (fun a v => a + min v 0) (d.base : Int)
    let hi := outer.foldl (fun a v => a + max v 0) (d.base : Int) + (ceilDiv ((d.dim 0).extent * d.w) 8 : Nat)
    decide (0 ≤ lo) && decide (hi ≤ (size : Int))

/-- The descriptors of a slot. -/
def SlotBind.all (b : SlotBind) : List Desc := [b.values, b.scales, b.struct_, b.rowptr].filterMap id

/-- R418: a descriptor of a stream through the window `win` that leaves a window of `size` bytes. -/
def Launch.outsideWindow (l : Launch) (win size : Nat) : Option Desc :=
  (l.streams.filter (fun e => e.kind != 0 && e.window == win)).findSome? (fun e =>
    (l.slot e.slot).all.find? (fun d => !d.fitsIn size))

/-- How many credits a request asks for; the manual leaves the number to the firmware. DESIGN CHOICE (log 26): the 96 that R420
calls enough for a port. -/
def askCount : Nat := 96

/-- R419: a credit request of the sender's firmware for a handle, unless one is on its way. -/
def State.askCredits (s : State) (cls key : Nat) : State :=
  let h := s.handle key
  if h.asked || h.mcast || !h.live then s
  else (s.putHandle key { h with asked := true }).sendMsg h.module_ 3 (laneOf cls 4) (msgCreditRequest h.entry h.gen askCount)

/-- The 32-byte units of a line that bits `sbit … sbit + n − 1` touch: byte offset in the line and length. -/
def unitsOf (sbit n : Nat) : Nat × Nat := (sbit / 256 * 32, (ceilDiv (sbit + n) 256 - sbit / 256) * 32)

/-- R245: the bits of its 32-byte units that a piece writes, first bit and count; none where it writes them whole. -/
def Piece.part (p : Piece) : Option (Nat × Nat) :=
  let (lo, n) := unitsOf p.sbit p.nbits
  if p.sbit == 8 * lo && p.nbits == 8 * n then none else some (p.sbit - 8 * lo, p.nbits)

/-- R228, R245: the data of a window write of a piece. A write of part of its units carries after them which bits it writes, for a
window stream behaves as a local one; the manual gives no field for them (DESIGN CHOICE: log 27). -/
def Piece.windowBytes (p : Piece) : List Byte :=
  let (lo, n) := unitsOf p.sbit p.nbits
  leBytes n (p.val * 2 ^ (p.sbit - 8 * lo)) ++ p.part.elim [] (fun b => leBytes 4 b.1 ++ leBytes 4 b.2)

/-- R420, R421: one window write of a piece leaves and spends a credit. -/
def State.sendWindowWrite (s : State) (x key : Nat) (p : Piece) (o : Origin) : State :=
  let h := s.handle key
  let (lo, n) := unitsOf p.sbit p.nbits
  let bytes := winHeader h.entry h.gen (p.va + lo) n 0 (s.taskRef x) ++ p.windowBytes
  let s := s.putHandle key { h with credits := h.credits - 1, inUse := h.inUse + 1 }
  let s := s.putCtx x { s.ctx x with remote := (s.ctx x).remote ++ [(key, (p.sbit % 8 + p.nbits + 7) / 8)] }
  s.sendFor (some o) h.module_ 0 (laneOf (s.ctx x).cls 3) bytes

/-- R421: one window read request of a piece. -/
def State.sendWindowRead (s : State) (x key : Nat) (p : Piece) (o : Origin) : State :=
  let h := s.handle key
  let (lo, n) := unitsOf p.sbit p.nbits
  s.sendFor (some o) h.module_ 1 (laneOf (s.ctx x).cls 1) (winHeader h.entry h.gen (p.va + lo) n 0 (s.taskRef x))

/-- The unit of a multicast group in bytes (R429). -/
def State.mcastUnit (s : State) (g : Nat) : Nat := 2 ^ s.fld (Reg.MCAST_CFG g) Fld.MCAST_CFG_UNIT_LOG2

/-- Bits of a byte string replaced. -/
def patchBits (bs : List Byte) (bit n v : Nat) : List Byte :=
  if n = 0 then bs else leBytes bs.length (withBits (ofLE bs) (bit + n - 1) bit v)

/-- R430: a piece written to a multicast group is staged in the unit that its offset names, until the step commits. Bytes of a
unit that the step never writes are free values, the same in every run of the step (R13, R435; log 27). -/
def State.stageUnit (s : State) (x g : Nat) (p : Piece) : State :=
  let u := s.mcastUnit g
  let key := x * 2 ^ 32 + p.va / u
  let m := s.mcast g
  let old := match m.staged.find? (fun t => t.1 == key) with
    | some t => t.2
    | none => (List.range u).map Config.unitByte
  let new := patchBits old (8 * (p.va % u) + p.sbit) p.nbits p.val
  s.putMcast g { m with staged := (key, new) :: m.staged.filter (fun t => t.1 != key) }

end Sys2Proof.Machine
end

