-- ==== Sys2Proof/Machine/Mcast.lean ====
section
/-!
DEFINITION. Multicast groups at their sender (R429 to R434): the lag limit, the retained buffer with its released position, the
units sent to each receiver, and receivers that fall behind, are detached, come back or are removed.
-/
namespace Sys2Proof.Machine

/-- Units of a group in `n` MiB. -/
def State.mcastUnits (s : State) (g n : Nat) : Nat := n * 2 ^ (20 - s.fld (Reg.MCAST_CFG g) Fld.MCAST_CFG_UNIT_LOG2)

/-- R432: the lag limit in units. -/
def State.lagLimit (s : State) (g : Nat) : Nat := s.mcastUnits g (s.fld (Reg.MCAST_CFG g) Fld.MCAST_CFG_LAG_LIMIT)

/-- R430: the units that the retained buffer holds. -/
def State.retainCap (s : State) (g : Nat) : Nat := s.mcastUnits g (s.fld (Reg.MCAST_CFG g) Fld.MCAST_CFG_RETAIN)

/-- The receiver counts under R432. -/
def McastRcv.attached (r : McastRcv) : Bool := !r.detached && !r.removed

/-- The lowest acknowledged position of some receivers; `d` where there is none. -/
def lowestAcked (d : Nat) (l : List McastRcv) : Nat := l.foldl (fun a r => min a r.acked) d

/-- R434: the released position follows the lowest acknowledged position over every receiver that has not been removed. -/
def Mcast.release (m : Mcast) : Mcast :=
  let n := max m.released (lowestAcked m.pushed (m.rcvs.filter (fun r => !r.removed)))
  { m with released := n, units := m.units.drop (n - m.released) }

/-- R433: a detached receiver whose acknowledged position reaches the lowest of the attached ones is attached again. -/
def Mcast.reattach (m : Mcast) : Mcast :=
  let att := m.rcvs.filter McastRcv.attached
  { m with rcvs := m.rcvs.map (fun r =>
      if r.detached && !r.removed && att.all (fun a => lowestAcked a.acked att ≤ r.acked) then { r with detached := false } else r) }

/-- R433, R434, R491: LAG_DETACH of a receiver. -/
def State.sayDetach (s : State) (g r flag : Nat) : State :=
  s.raise (Ev.plain (islMantis 0) evLagDetach (leBytes 1 g ++ leBytes 1 r ++ leBytes 1 flag))

/-- R434: a detached receiver that alone holds the oldest unit is removed; its module learns of it by a refusal with
LAG_DETACHED (DESIGN CHOICE: log 37). -/
def State.removeLagging (s : State) (g i : Nat) : State :=
  let m := s.mcast g
  match m.rcvs[i]? with
  | none => s
  | some r =>
    let s := s.putMcast g { m with rcvs := mapAt m.rcvs i (fun r => { r with removed := true, detached := false }) }
    let s := (s.sayDetach g i 1).bump (Reg.MCAST_CNT g) Fld.MCAST_CNT_ENDED 1
    s.sendMsg r.id 3 (s.keyLane m.group 4) (msgRefuse r.entry r.gen stLagDetached)

/-- R434: the receivers that hold the oldest retained unit. -/
def Mcast.holders (m : Mcast) : List Nat :=
  (List.range m.rcvs.length).filter (fun i => (m.rcvs[i]?).any (fun r => !r.removed && r.acked ≤ m.released))

/-- R434: room is needed and only detached receivers hold the oldest unit: they are removed. -/
def State.makeMcastRoom (s : State) (g : Nat) : State :=
  let m := s.mcast g
  if m.units.length < s.retainCap g || !m.holders.all (fun i => (m.rcvs[i]?).any (·.detached)) then s
  else
    let s := m.holders.foldl (fun s i => s.removeLagging g i) s
    s.putMcast g (s.mcast g).release

/-- R432: after one more push every attached receiver's lag is within the limit. -/
def State.mayPush (s : State) (g : Nat) : Bool :=
  let m := s.mcast g
  (m.rcvs.filter McastRcv.attached).all (fun r => m.pushed + 1 - r.acked ≤ s.lagLimit g)

/-- R430, R432, R434: waiting units enter the retained buffer in order while the lag limit and the room allow it. -/
def State.pushUnits : Nat → State → Nat → State
  | 0, s, _ => s
  | fuel + 1, s, g =>
    match (s.mcast g).waiting with
    | [] => s
    | u :: rest =>
      if !s.mayPush g then s
      else
        let s := s.makeMcastRoom g
        let m := s.mcast g
        if m.units.length ≥ s.retainCap g then s
        else
          pushUnits fuel (s.putMcast g { m with pushed := m.pushed + 1, units := m.units ++ [u], waiting := rest }.release) g

/-- The group goes on after a change: it releases, receivers come back, and waiting units enter. -/
def State.runMcast (s : State) (g : Nat) : State :=
  let s := s.putMcast g (s.mcast g).release.reattach
  s.pushUnits (s.mcast g).waiting.length g

/-- R431: the acknowledged position of a receiver after unit `q` has landed, with the units landed ahead of it. -/
def advanceAcked : Nat → Nat → List Nat → Nat × List Nat
  | 0, a, l => (a, l)
  | fuel + 1, a, l => if l.contains a then advanceAcked fuel (a + 1) (l.filter (fun x => x != a)) else (a, l)

/-- R431: unit `q` acknowledged at a receiver. A unit that lands before its replay leaves the credit of its slot spent. -/
def McastRcv.ack (r : McastRcv) (q : Nat) : McastRcv :=
  if q < r.acked ∨ r.early.contains q then r
  else
    let (a, l) := advanceAcked (r.early.length + 1) r.acked (q :: r.early)
    { r with acked := a, early := l, cursor := max r.cursor a, credits := r.credits - (max r.cursor a - r.cursor) }

/-- Unit `q` of a receiver has not been acknowledged. -/
def McastRcv.awaits (r : McastRcv) (q : Nat) : Bool := r.acked ≤ q && !r.early.contains q

/-- R422, R434: unit `q` refused at a receiver, which is removed; the slot stays free. -/
def McastRcv.refuse (r : McastRcv) (q : Nat) : McastRcv :=
  { r.ack q with removed := true, detached := false, credits := (r.ack q).credits + if r.closing || !r.awaits q then 0 else 1 }

/-- R431, R432: the next unit of a receiver leaves: slot q mod S of its window, on virtual lane 6. -/
def State.sendUnit (s : State) (g i : Nat) (r : McastRcv) (bytes : List Byte) : State :=
  let m := s.mcast g
  let x := s.firstCtx m.group
  let u := s.mcastUnit g
  let off := r.cursor % max 1 (r.size / u) * u
  let s := s.putMcast g { m with rcvs := mapAt m.rcvs i (fun r => { r with cursor := r.cursor + 1, credits := r.credits - 1 }) }
  s.sendMsg r.id 5 (laneOf (s.ctx x).cls 6) (winHeader r.entry r.gen off u (r.cursor % 2 ^ 32) (s.taskRef x) ++ bytes)

/-- R432: MULTICAST_UNIT_SEND: a receiver with a slot credit gets its next unit. -/
def execMulticastUnitSend (group rcv : Nat) (s : State) : Res :=
  .next (let m := s.mcast group
    match m.rcvs[rcv]? with
    | none => s
    | some r =>
      if r.removed || r.credits = 0 || r.cursor < m.released then s
      else
        match m.units[r.cursor - m.released]? with
        | none => s
        | some b => s.sendUnit group rcv r b)

/-- R433: the receiver has lagged at the limit while another attached one is ahead of it. -/
def Mcast.lags (m : Mcast) (limit : Nat) (r : McastRcv) : Bool :=
  r.attached && m.pushed + 1 - r.acked ≥ limit && m.rcvs.any (fun o => o.attached && o.acked > r.acked)

/-- R433: MULTICAST_DETACH: DETACH_US have passed for the receivers named since their lag came to the limit: those that meet the rule
are detached, and the cursor of each goes back to its acknowledged position; the slots of the units to be sent again are free for
them. How long a lag has stayed at the limit comes with the command (DESIGN CHOICE: log 37). -/
def execMulticastDetach (late : LateRcvs) (s : State) : Res :=
  .next (let group := late.group
    let m := s.mcast group
    let late := (List.range m.rcvs.length).filter (fun i => late.rcvs.contains i && (m.rcvs[i]?).any (m.lags (s.lagLimit group)))
    if late.isEmpty then s
    else
      let s := s.putMcast group { m with rcvs := m.rcvs.mapIdx (fun i r =>
        if late.contains i then { r with detached := true, credits := r.credits + (r.cursor - r.acked), cursor := r.acked } else r) }
      let s := late.foldl (fun s i => (s.sayDetach group i 0).bump (Reg.MCAST_CNT group) Fld.MCAST_CNT_DETACHES 1) s
      s.runMcast group)

end Sys2Proof.Machine
end

