-- ==== Sys2Proof/Machine/Regs.lean ====
section
/-!
DEFINITION. Register writes under the access codes of R8 to R11: the place of an address in the register blocks (R6), the
fields that a unit's state freezes (R301, R302, R436 to R438, R441), the bounds that definitions apply to written values, and
the write itself.
-/
namespace Sys2Proof.Machine

/-- Where a register address lies (R6). -/
inductive RegAt where
  | core (c o : Nat)
  | spq (q o : Nat)
  | ctr (d x o : Nat)
  | ctrDie (d o : Nat)
  | port (p o : Nat)
  | stack (t o : Nat)
  | win (e o : Nat)
  | mcast (g o : Nat)
  | mantis (o : Nat)
  | wadi (o : Nat)
  | hamada (o : Nat)
  | reserved
deriving DecidableEq, Repr

/-- The place of an address. -/
def regAt (a : Nat) : RegAt :=
  if a < 0x020000000000 then .reserved
  else if a < 0x020100000000 then
    let o := a - 0x020000000000
    let r := o % 0x10000
    if o / 0x10000 ≥ 288 then .reserved
    else if 0x1200 ≤ r ∧ r < 0x1240 then .spq (a - r % 0x40) (r % 0x40)
    else .core (o / 0x10000) r
  else if a < 0x020200000000 then
    let o := a - 0x020100000000
    let r := o % 0x100000
    if o / 0x100000 ≥ 2 then .reserved
    else if r < 0x1000 then .ctr (o / 0x100000) (r / 0x100) (r % 0x100)
    else .ctrDie (o / 0x100000) r
  else if a < 0x020300000000 then
    let o := a - 0x020200000000
    let r := o % 0x1000
    if o / 0x1000 ≥ 12 then .reserved
    else if 0x800 ≤ r ∧ r < 0xA00 then .spq (a - r % 0x40) (r % 0x40)
    else .port (o / 0x1000) r
  else if a < 0x020400000000 then
    let o := a - 0x020300000000
    if o / 0x1000 ≥ 12 then .reserved else .stack (o / 0x1000) (o % 0x1000)
  else if a < 0x020500000000 then
    let o := a - 0x020400000000
    if (0x2000 ≤ o ∧ o < 0x2480) ∨ (0x2800 ≤ o ∧ o < 0x2C00) then .spq (a - o % 0x40) (o % 0x40)
    else if 0x4000 ≤ o ∧ o < 0x4800 then .mcast ((o - 0x4000) / 0x20) (o % 0x20)
    else if 0x10000 ≤ o ∧ o < 0x30000 then .win ((o - 0x10000) / 0x20) (o % 0x20)
    else .mantis o
  else if a < 0x021000000000 then
    let o := a - 0x020500000000
    if 0x1000 ≤ o ∧ o < 0x1040 then .spq (a - o % 0x40) (o % 0x40) else .wadi o
  else if a < 0x021100000000 then .hamada (a - 0x021000000000)
  else .reserved

/-- The bits of a whole register. -/
def allBits : Nat := 2 ^ 64 - 1

/-- The bits that the state of a unit lets a write reach: while ENABLE of a queue or a multicast group is one only ENABLE
itself, and the fields of a window entry only while it is CLOSED (CMD always). -/
def State.openBits (s : State) (a : Nat) : Nat :=
  match regAt a with
  | .spq q o =>
    if (s.qcfg q).enable then (if o = 0 then 2 ^ 63 else if o = 8 then 0 else allBits) else allBits
  | .mcast g o => if o = 0 ∧ s.fld (Reg.MCAST_CFG g) Fld.MCAST_CFG_ENABLE = 1 then 2 ^ 63 else allBits
  | .win e o =>
    if s.fld (Reg.WIN_CTL e) Fld.WIN_CTL_STATE = 0 then allBits else if o = 0x10 then 3 * 2 ^ 44 else 0
  | _ => allBits

/-- A field of a value replaced by the nearer bound where it lies outside `lo … hi`. -/
def boundField (v : Nat) (f : Fld) (lo hi : Nat) : Nat := withBits v f.hi f.lo (clampTo lo hi (bitsOf v f.hi f.lo))

/-- The bounds that definitions apply to written values (R145, R273, R366, R373, R440, R494). -/
def boundReg (a v : Nat) : Nat :=
  match regAt a with
  | .core _ 0xD20 => boundField v Fld.TILE_WDOG_LIMIT_LIMIT 2000 32000
  | .core _ 0x1108 => boundField v Fld.STRM_RESP_TIMEOUT_LOG2 16 26
  | .stack _ 0x8 => boundField v Fld.HBM_ARB_ERG_SHARE 0 16
  | .stack _ 0x118 => boundField v Fld.ERG_OP_TIMEOUT_LOG2 18 28
  | .mantis 0x3008 => boundField v Fld.WIN_CLOSE_TIMEOUT_CYCLES 1500000 1500000000
  | .mantis 0x6008 =>
    boundField (boundField v Fld.FLT_CFG_MIN_CORES_PER_DIE 1 144) Fld.FLT_CFG_REPLAY_LIMIT 1 16
  | _ => v

/-- R410: the sum of the eight allocations of a SEIF_VL_CREDITS value. -/
def vlSum (v : Nat) : Nat := (List.range 8).foldl (fun n i => n + bitsOf v (8 * i + 7) (8 * i)) 0

/-- R410: a write that is discarded whole. -/
def refusedWhole (a v : Nat) : Bool :=
  match regAt a with
  | .port _ 0x18 => vlSum v > 256
  | _ => false

/-- R8: the value of an access placed at the half that it names. -/
def placed (a v : Nat) : Nat := if a % 8 = 4 then v % 2 ^ 32 * 2 ^ 32 else v

/-- A write of `size` bytes at address `a` under the access codes alone (R7 to R11), with no effect beyond the register. -/
def State.plainWrite (s : State) (a size v : Nat) : State :=
  let base := a - a % 8
  let fs := fieldsAt base
  let mask := accessMask a size &&& s.openBits base
  if fs.isEmpty then s
  else
    let w := boundReg base (writeFields s.start.locked fs (s.reg base) (placed a v) mask)
    if refusedWhole base w then s else s.putReg base w

end Sys2Proof.Machine
end

