-- ==== Sys2Proof/Machine/Spill.lean ====
section
/-!
DEFINITION. The commands on spill queues (R277 to R298, R301 to R307): enabling, the consumer's commands, pushes, reads, the
timeout and the flush. The operations on one queue are in Queue.lean.
-/
namespace Sys2Proof.Machine

/-- The address is the base of a queue's register set. -/
def isQueue (q : Nat) : Bool :=
  match regAt q with
  | .spq b o => b == q && o == 0
  | _ => false

/-- The queue operates. -/
def State.qOn (s : State) (q : Nat) : Bool := isQueue q && (s.qcfg q).enable

/-- R301: a write to SPQ_CFG, at address `a`: one that sets ENABLE enables the queue, or leaves it off with CFG_ERR. -/
def State.writeSpqCfg (s : State) (q a size v : Nat) : State :=
  let was := (s.qcfg q).enable
  let s := s.plainWrite a size v
  if was || !(s.qcfg q).enable then s
  else s.tryEnable q

/-- R301: SPQ_ENABLE: a whole write of SPQ_CFG with ENABLE set. -/
def execSpqEnable (q : Nat) (value : Word) (s : State) : Res :=
  .next (if isQueue q ∧ bitAt value.toNat 63 then s.writeSpqCfg q q 8 value.toNat else s)

/-- R296, R307: a flush is requested. -/
def State.requestFlush (s : State) (q : Nat) : State :=
  (s.putQ q { s.queue q with flushes := (s.queue q).flushes + 1 }).bump (Reg.SPQ_EVT_CNT q) Fld.SPQ_EVT_CNT_FLUSHES 1

/-- R296: FLUSH. -/
def execFlush (q : Nat) (s : State) : Res := .next (if s.qOn q then s.requestFlush q else s)

/-- R296, R554: a flush takes effect; the credits of the Wadi request queue are owed to the control node, which holds its pool; the
requests that the firmware still examines have no words there any more. -/
def State.flushQueue (s : State) (q : Nat) : State :=
  let n := (s.queue q).flushed (s.qcfg q)
  let s := s.setQueue q ((s.queue q).flush (s.qcfg q))
  if q = qWadi then s.withWadi (fun w => { w with
      retReq := w.retReq + n, reqs := w.reqs.map (fun r => { r with words := 0 }) })
  else s

/-- R296 to R298: FLUSH_EFFECT. -/
def execFlushEffect (q : Nat) (s : State) : Res :=
  .next (if s.qOn q ∧ (s.queue q).flushes > 0 then s.flushQueue q else s)

/-! R287: the commands of a queue's consumer: the firmware, or the vector engine of a core on its reduction staging (R299). -/

/-- R287: RELEASE. -/
def execRelease (q : Nat) (s : State) : Res :=
  .next (if s.qOn q then s.setQueue q ((s.queue q).release (s.qcfg q)) else s)

/-- R287: REWIND. -/
def execRewind (q : Nat) (s : State) : Res := .next (if s.qOn q then s.setQueue q ((s.queue q).rewind (s.qcfg q)) else s)

/-- R287: MARK. -/
def execMark (q : Nat) (s : State) : Res := .next (if s.qOn q then s.setQueue q (s.queue q).setMark else s)

/-- R287: CLEAR_MARK. -/
def execClearMark (q : Nat) (s : State) : Res := .next (if s.qOn q then s.setQueue q (s.queue q).clearMark else s)

/-- R288, R304: the commands of one write to SPQ_CTL, in the order RELEASE, REWIND, CLEAR_MARK, MARK, with FLUSH; on
a queue that the firmware does not consume FLUSH alone acts. -/
def State.spqCtl (s : State) (q v : Nat) : State :=
  let s := if s.qOn q && mantisReads q then
      let x := s.queue q
      let x := if bitAt v 1 then x.release (s.qcfg q) else x
      let x := if bitAt v 2 then x.rewind (s.qcfg q) else x
      let x := if bitAt v 4 then x.clearMark else x
      let x := if bitAt v 3 then x.setMark else x
      s.setQueue q x
    else s
  if bitAt v 0 ∧ s.qOn q then s.requestFlush q else s

/-- R280 to R282, R290, R291: SPQ_PUSH: one unit. -/
def execSpqPush (q : Nat) (data : List Byte) (last : Bool) (s : State) : Res :=
  .next (if s.qOn q ∧ data.length ≤ (s.qcfg q).width then s.pushed q ((s.queue q).push (s.qcfg q) data last) else s)

/-- R279, R204, R342: the errors of a spilled word counted under the rules of the region's memory, each of its data and of its tag; the word
of a scratchpad region is read as the stream engine reads (R278). -/
def State.countSpillErr (s : State) (q : Nat) (w : QWord) : State :=
  let c := s.qcfg q
  w.slot.elim s (fun i =>
    if c.kind = 2 then
      ((s.firstUe (c.dataAt i) 64).toList ++ (s.firstUe (c.tagAt i) 8).toList).foldl
        (fun s a => s.noteUe (if mantisReads q then .mantis else .die) a) s
    else
      let k := stagingCore q
      (s.noteParities k .stream (c.dataAt i) 64).noteParities k .stream (c.tagAt i) 8)

/-- R204, R344: the budget of the region's memory, once its errors are counted; `n` of a core's parity errors are those of this read. -/
def State.spillBudget (s : State) (q n : Nat) (w : QWord) : State :=
  let c := s.qcfg q
  w.slot.elim s (fun i => if c.kind = 2 then s.ueBudget (stackOf (c.dataAt i)) else s.parityBudget (stagingCore q) n)

/-- R276: the address of the first part of a spilled word that meets an error. -/
def State.spillErrAt (s : State) (q : Nat) (w : QWord) : Nat :=
  let c := s.qcfg q
  w.slot.elim 0 (fun i =>
    if if c.kind = 2 then s.hasUe (c.dataAt i) 64 else s.hasBad (c.dataAt i) 64 then c.dataAt i else c.tagAt i)

/-- The context whose results a queue carries (R279). -/
def State.resultCtx (s : State) (q : Nat) : Nat :=
  if qToken 0 ≤ q ∧ q ≤ qToken 15 then (q - qToken 0) / 0x40 else s.swarm.ctx

/-- The gap marker that stands for a word that could not be read (R279). -/
def lostWord (w : QWord) : QWord := { w with kind := 1, ends := 0, data := leBytes 4 0xFFFFFFFF }

/-- R269, R270, R279: the mid-stream fault of a queue that carries results; parity of a scratchpad region has KIND 2 (DESIGN CHOICE: log
97). The core whose vector engine reads reduction staging logs it, on stream 0 (DESIGN CHOICE: log 97). -/
def State.spillFault (s : State) (q at_ : Nat) : State :=
  let x := s.resultCtx q
  let kind := if (s.qcfg q).kind = 2 then 0 else 2
  let s := if mantisReads q then s else s.noteStream (stagingCore q) kind 0 at_
  s.midStream x ⟨if mantisReads q then islMantis 0 else islCore (stagingCore q), evStreamFault, stOk, x, (s.ctx x).stepNo, noTile,
    (s.ctx x).gen, leBytes 8 (2 ^ 63 + kind * 2 ^ 60 + at_ % 2 ^ 48) ++ zeros 8⟩

/-- R279: a spilled word that cannot be read: a mid-stream fault where the queue carries results, else a gap marker in its place. -/
def State.loseWord (s : State) (q : Nat) (w : QWord) : State :=
  let at_ := s.spillErrAt q w
  let was := (s.core (stagingCore q)).errs
  let s := s.countSpillErr q w
  let found := (s.core (stagingCore q)).errs - was
  let s :=
    if carriesResults q then s.spillFault q at_
    else
      let x := s.queue q
      let y := { x with words := x.words.mapIdx (fun i v => if i = x.held then lostWord v else v) }
      s.setQueue q (y.read (s.qcfg q) (lostWord w))
  s.spillBudget q found w

/-- R186, R342: a word is read from its spill region: an HBM one is corrected; a core's vector engine reads its scratchpad. -/
def State.readSpill (s : State) (q : Nat) (w : QWord) : State :=
  let c := s.qcfg q
  if c.kind = 2 then s.correctSpill c w
  else w.slot.elim s (fun i => s.noteAcc (stagingCore q) ⟨.vector, false, [(c.dataAt i, 64), (c.tagAt i, 8)], none⟩)

/-- R279, R284, R287: the consumer reads the word at its read position. -/
def State.readQueue (s : State) (q : Nat) : State :=
  let x := s.queue q
  match x.words[x.held]? with
  | none => s
  | some w =>
    let s := s.readSpill q w
    if s.badSpill q w then s.loseWord q w else s.setQueue q (x.read (s.qcfg q) w)

/-- R284: SPQ_READ; with no unread word the read stalls. -/
def execSpqRead (q : Nat) (s : State) : Res := .next (if s.qOn q then s.readQueue q else s)

/-- The queue holds a byte not yet read (R285). -/
def Queue.unread (x : Queue) : Bool := x.depth > 0 || !x.opened.isEmpty || !x.item.isEmpty

/-- R285: SPQ_TIMEOUT: the expiry is counted, and the close of an open word is sent to the producer. -/
def execSpqTimeout (q : Nat) (s : State) : Res :=
  .next (if s.qOn q ∧ (s.qcfg q).timeout > 0 ∧ (s.queue q).unread then
      let x := s.queue q
      (s.putQ q { x with closing := x.closing || !x.opened.isEmpty }).bump (Reg.SPQ_EVT_CNT q) Fld.SPQ_EVT_CNT_TIMEOUTS 1
    else s)

/-- R286: SPQ_CLOSE_ARRIVAL: the open word closes at a boundary of the producer's cycle. -/
def execSpqCloseArrival (q : Nat) (s : State) : Res :=
  .next (if s.qOn q ∧ (s.queue q).closing then
      s.setQueue q { s.queue q with closing := false }.close
    else s)

/-- R290, R295: one release reaches the producer: a credit, with which waiting units go in, or room for an uncredited
queue. A credit of the Wadi request queue is owed to the control node (R554). -/
def State.returnOne (s : State) (q : Nat) : State :=
  let c := s.qcfg q
  let x := { s.queue q with returns := (s.queue q).returns - 1 }
  let x := if c.credited then x.credit c 1 else x
  let s := s.setQueue q x
  if q = qWadi then { s with wadi := { s.wadi with retReq := s.wadi.retReq + 1 } } else s

/-- R290: SPQ_CREDIT_RETURN. -/
def execSpqCreditReturn (q : Nat) (s : State) : Res :=
  .next (if s.qOn q ∧ (s.queue q).returns > 0 then s.returnOne q else s)

end Sys2Proof.Machine
end

