-- ==== Sys2Proof/Machine/Blocks.lean ====
section
/-!
DEFINITION. Blocks of a stream (R222, R224, R227, R228, R245 to R248, R250): the pieces of memory that a read block is made
of and what it fills, the bitmap-compressed parts with their row pointers, and the elements that a write block stores.
-/
namespace Sys2Proof.Machine

/-! Rows of a box (R95, R248). -/

/-- The slot of the A operand of the first product. -/
def Launch.opaSlot (l : Launch) : Option Nat := (l.prog.first opMma).map fOpa
/-- The slot of the A structure of a MATCH. -/
def Launch.maskSlot (l : Launch) : Option Nat := (l.prog.first opMatch).map fOpa

/-- Which stored row a box row is: a row of a bin (R95, R248), or a row of an audit tile whose first row is `base` (R170). -/
inductive RowMap where
  | plain
  | bins (t : BinTab)
  | audit (base : Nat) (rows : List Nat)
deriving DecidableEq, Repr

/-- The map that a stream's box rows go through: those of the A operand, and of the output (R95, R248); in an audit tile those
of the A operand and the mask. -/
def Launch.rowMap (l : Launch) (e : StreamEnt) (tile : Nat) : RowMap :=
  if tile ≥ l.tiles && !l.audRows.isEmpty then
    if l.opaSlot = some e.slot ∨ l.maskSlot = some e.slot then
      let a := l.auditOf tile
      .audit (if l.bins.isSome then 0 else (l.passCoord a.1).m * l.prog.planM) a.2
    else .plain
  else
    match l.bins with
    | none => .plain
    | some t => if e.dir = 1 ∨ l.opaSlot = some e.slot then .bins t else .plain

/-- The stored row of row `q` of a box with origin `o1`. -/
def RowMap.row (m : RowMap) (o1 : Int) (q : Nat) : Option Int :=
  match m with
  | .plain => some (o1 + q)
  | .bins t => if o1 < 0 then none else ((t.rowsOf (o1.toNat / t.gangRows))[q]?).map (fun r => (r : Int))
  | .audit base rows => if o1 + q < base then none else (rows[(o1 + q - base).toNat]?).map (fun r => (r : Int))

/-- The rows come from a table, and their clip is that of stored rows. -/
def RowMap.listed (m : RowMap) : Bool := match m with
  | .bins _ => true
  | _ => false

/-- The outer index of a run (dimensions 1 to 5), with its row mapped; none where no stored row stands there. -/
def mapRun (m : RowMap) (o1 : Int) (outer : Idx) : Option Idx :=
  (m.row o1 (nth 0 outer 0 - o1).toNat).map (fun p => p :: outer.drop 1)

/-- An outer index within the extents. -/
def Desc.outerIn (d : Desc) (v : Idx) : Bool :=
  (List.range 5).all (fun k => decide (0 ≤ nth 0 v k) && decide (nth 0 v k < ((d.dim (k + 1)).extent : Int)))

/-! Read blocks. -/

/-- A stretch of bits of one line to read: `n` bits from bit `bit` of the line at `va`, to bit `dst` and to each bit of `more`. -/
structure Line where
  va   : Nat
  bit  : Nat
  n    : Nat
  dst  : Nat
  more : List Nat
deriving DecidableEq, Repr

/-- The lines of a stretch of bits. -/
def linesTo (bit n dst : Nat) : List Line := (linesOf bit n dst).map (fun x => ⟨x.1, x.2.1, x.2.2.1, x.2.2.2, []⟩)

/-- What a block is made of: stretches of elements to fill (bit, elements), and lines to read. -/
structure Segs where
  fills : List (Nat × Nat)
  lines : List Line
deriving DecidableEq, Repr

/-- Two sets of stretches. -/
def Segs.append (a b : Segs) : Segs := ⟨a.fills ++ b.fills, a.lines ++ b.lines⟩

/-- R221, R222: one run of `n` elements from column `o0`, to bit `dst`. -/
def Desc.runSegs (d : Desc) (o0 : Int) (n dst : Nat) (outer : Option Idx) : Segs :=
  match outer with
  | none => ⟨[(dst, n)], []⟩
  | some v =>
    let (a, k) := clipCols o0 n 0 (d.dim 0).extent
    if k = 0 || !d.outerIn v then ⟨[(dst, n)], []⟩
    else
      let pre := ((a : Int) - o0).toNat
      ⟨[(dst, pre), (dst + (pre + k) * d.w, n - pre - k)], linesTo (d.bitOf ((a : Int) :: v)) (k * d.w) (dst + pre * d.w)⟩

/-- R223, R247: two runs in bounds that differ in dimensions of stride 0 only: the same run, of a descriptor that broadcasts. -/
def Desc.sameRun (d : Desc) (a b : Option Idx) : Bool :=
  match a, b with
  | some v, some u =>
    (d.dims.drop 1).any (fun k => decide (k.stride = 0)) && d.outerIn v && d.outerIn u &&
      (List.range 5).all (fun k => decide ((d.dim (k + 1)).stride = 0) || nth 0 v k == nth 0 u k)
  | _, _ => false

/-- R246, R247: a box of a descriptor read into bits from `dst`; `there` says which outer rows exist. A run of stride 0 that appears
several times is fetched once. -/
def Desc.boxSegs (d : Desc) (bt : RowMap) (there : Idx → Bool) (o : Idx) (box : List Nat) (dst : Nat) : Segs :=
  let n := nth 1 box 0
  let runs := (boxRuns o box).map (fun r =>
    ((mapRun bt (nth 0 o 1) r.1).bind (fun v => if there v then some v else none), dst + r.2 * n * d.w))
  runs.zipIdx.foldl (fun a r =>
    let g := d.runSegs (nth 0 o 0) n r.1.2 r.1.1
    let later := (runs.drop (r.2 + 1)).filter (fun q => d.sameRun r.1.1 q.1)
    a.append { g with
      lines := if (runs.take r.2).any (fun q => d.sameRun q.1 r.1.1) then []
        else g.lines.map (fun l => { l with more := later.map (fun q => l.dst + (q.2 - r.1.2)) }) }) ⟨[], []⟩

/-! Bitmap-compressed parts (R70 to R74, R248). -/

/-- R248: a stored row that has its two row pointers. -/
def SlotBind.rowThere (b : SlotBind) (p : Int) : Bool :=
  match b.struct_, b.rowptr with
  | some m, some r => decide (0 ≤ p) && decide (p < ((m.dim 1).extent : Int)) && decide (p + 1 < ((r.dim 0).extent : Int))
  | _, _ => true

/-- What reads `n` bits from a bit of task virtual memory, or of a window. -/
abbrev BitReader := Nat → Nat → Chk Nat

/-- R221: one element read, FILL out of bounds. -/
def Desc.elemBy (rd : BitReader) (d : Desc) (i : Idx) : Chk Nat :=
  if d.inBounds i then naming d.addr d.tag (rd (d.bitOf i) d.w) else .ok d.fill

/-- R70: the set positions of a stored row of a bitmap array, in ascending order, among the words that hold `k` positions. -/
def rowBitsBy (rd : BitReader) (m : Desc) (k p : Nat) : Chk (List Nat) :=
  (mapChk (List.range (ceilDiv k 64)) (fun i => m.elemBy rd [(i : Int), (p : Int)])).map (fun ws =>
    (ws.mapIdx (fun i w => ((List.range 64).filter (fun b => bitAt w b)).map (fun b => 64 * i + b))).flatten)

/-- What a values or row-pointer LOAD finds in a stored row: where its space begins and ends (in units of 32 bytes), its set
positions before the box, and those in it. -/
structure PackRow where
  start  : Nat
  before : Nat
  here   : Nat
deriving DecidableEq, Repr

/-- R71 to R74, R92, R248: a stored row read for a box of K positions `o0 … o0 + n − 1`; `ext` is the K extent, and a bit set beyond it in
the row's last word a sparse index out of range. -/
def packRow (rd : BitReader) (b : SlotBind) (ext : Nat) (o0 : Int) (n : Nat) (p : Nat) : Chk PackRow :=
  match b.values, b.struct_, b.rowptr with
  | some d, some m, some r => do
    let bits ← rowBitsBy rd m ext p
    let a ← r.elemBy rd [(p : Int)]
    let z ← r.elemBy rd [((p + 1 : Nat) : Int)]
    let bad (st pos : Nat) : Chk Unit := .error (.refuse st m.addr p pos m.tag)
    if z < a then bad stFormat none32 else pure ()
    match bits.find? (fun q => decide (ext ≤ q)) with
    | some q => bad stIndexRange q
    | none => pure ()
    if bits.length * d.w > (z - a) * 256 || z * 256 > (d.dim 0).extent * d.w then bad stFormat none32 else pure ()
    pure ⟨a, (bits.filter (fun (q : Nat) => decide ((q : Int) < o0))).length,
      (bits.filter (fun (q : Nat) => decide (o0 ≤ (q : Int)) && decide ((q : Int) < o0 + n))).length⟩
  | _, _, _ => pure ⟨0, 0, 0⟩

/-- The rows of a box in order, each with what it packs; an empty row packs nothing. -/
def packRows (rd : BitReader) (b : SlotBind) (bt : RowMap) (ext : Nat) (o : Idx) (box : List Nat) :
    Chk (List PackRow) :=
  mapChk (List.range (nth 1 box 1)) (fun q =>
    match mapRun bt (nth 0 o 1) [nth 0 o 1 + (q : Int)] with
    | some (p :: _) =>
      if 0 ≤ p && b.rowThere p then packRow rd b ext (nth 0 o 0) (nth 1 box 0) p.toNat else .ok ⟨0, 0, 0⟩
    | _ => .ok ⟨0, 0, 0⟩)

/-- The units of 32 bytes of a row's copied values. -/
def PackRow.units (r : PackRow) (w : Nat) : Nat := ceilDiv (r.here * w) 256

/-- The unit at which each row's copied values begin, and the end of the last (R248). -/
def packStarts (w : Nat) (rows : List PackRow) : List Nat :=
  (rows.foldl (fun (p : List Nat × Nat) r => (p.1 ++ [p.2 + r.units w], p.2 + r.units w)) ([0], 0)).1

/-- R248: the lines of a values LOAD of a bitmap-compressed operand. -/
def packSegs (d : Desc) (rows : List PackRow) (dst : Nat) : Segs :=
  ⟨[], ((rows.zip (packStarts d.w rows)).map (fun r =>
    if r.1.here = 0 then [] else linesTo (8 * d.base + r.1.start * 256 + r.1.before * d.w) (r.1.here * d.w) (dst + r.2 * 256))).flatten⟩

/-! A stream's parts. -/

/-- The part of a slot (R245). -/
def SlotBind.part (b : SlotBind) (part : Nat) : Option Desc :=
  if part = 0 then b.values else if part = 1 then b.scales else if part = 2 then b.struct_ else b.rowptr

/-- A bitmap-compressed values tensor. -/
def SlotBind.packed (b : SlotBind) : Bool := b.values.elim false (fun d => d.spform == 1)

/-- The block size of a part in bytes (R246, R248). -/
def blockBytes (b : SlotBind) (part : Nat) (box : List Nat) : Nat :=
  if part = 3 then alignUp (4 * (nth 1 box 1 + 1)) 32
  else (boxSize box * ((b.part part).elim 0 (·.w)) + 7) / 8

/-- The K extent of the operand in a slot: EXT_K in a first product, the valid neurons in the second product of a pair (R74,
R123). -/
def Launch.kExtent (l : Launch) (slot : Nat) : Nat :=
  let second := l.prog.ops.any (fun w => opCode w == opMma2 && (fOpa w == slot || fOpb w == slot))
  let first := l.prog.ops.any (fun w => opCode w == opMma && (fOpa w == slot || fOpb w == slot))
  if second && !first then (if l.gated then l.extJ / 2 else l.extJ) else l.extK

/-- R248: the stretches of bitmap words and row pointers that a block of a bitmap-compressed operand needs, with their descriptors. -/
def SlotBind.packLines (b : SlotBind) (bt : RowMap) (ext : Nat) (o : Idx) (box : List Nat) : List (Desc × Line) :=
  match b.struct_, b.rowptr with
  | some m, some r =>
    (List.range (nth 1 box 1)).flatMap (fun (q : Nat) =>
      match mapRun bt (nth 0 o 1) [nth 0 o 1 + (q : Int)] with
      | some (p :: _) =>
        if 0 ≤ p && b.rowThere p then
          (linesTo (m.bitOf [0, p]) (64 * min (ceilDiv ext 64) (m.dim 0).extent) 0).map (fun l => (m, l)) ++
            (linesTo (r.bitOf [p]) (2 * r.w) 0).map (fun l => (r, l))
        else []
      | _ => [])
  | _, _ => []

/-- One element of every fill of an operation, written. -/
def State.fillBits (s : State) (o : StrmOp) (w code : Nat) (f : Nat × Nat) : State :=
  if f.2 = 0 then s
  else s.arriveWrite o.own (f.1 / 8) (s.mergeBits (f.1 / 8) (f.1 % 8) (f.2 * w) (ofLE (packElems w (List.replicate f.2 code))))

/-! The Ant chain (R260 to R264). -/

/-- The operation of a core with a number. -/
def Core.opOf (x : Core) (id : Nat) : Option StrmOp := x.ops.find? (fun o => o.id == id)

/-- The Ant directory of a core's mesh row. -/
def State.antOf (s : State) (c : Nat) : List AntEntry := tget [] s.ant (antRow c)
/-- The directory replaced. -/
def State.putAnt (s : State) (c : Nat) (l : List AntEntry) : State := { s with ant := tput [] s.ant (antRow c) l }

/-- The rows of 128 bytes of a block that a piece's bits reach, counted from bit `b`. -/
def rowsAt (b dst n : Nat) : List Nat := (List.range ((dst - b + n - 1) / 1024 + 1 - (dst - b) / 1024)).map (fun i => (dst - b) / 1024 + i)

/-- The rows of a block at bit `b` that a piece writes. -/
def Piece.rows (b : Nat) (p : Piece) : List Nat :=
  if p.meta_ then [] else (p.dst :: p.more).flatMap (fun d => rowsAt b d p.nbits)

/-- The bytes of row `r` of a block of `size` bytes at `base`. -/
def antReach (base size r : Nat) : Nat × Nat := (base + 128 * r, min 128 (size - 128 * r))

/-- R261: the key of a block on the Ant chain: context, stream, generation, pass, part and audit tile (DEDUCED: log 25) and origin. -/
def antKey (o : StrmOp) (pass audit : Nat) (origin : Idx) : List Int :=
  [(o.ctx : Int), (o.stream : Int), (o.gen : Int), (pass : Int), (o.part : Int), (audit : Int)] ++ origin

/-- The pieces of a core that are waiting or on their way for a block. -/
def Core.piecesOf (x : Core) (blk : Nat) : List Piece := (x.lines ++ x.rd.map (·.piece)).filter (fun q => q.blk == blk)

/-- R261, R262: the rows of a block that stand whole in its source's buffer go to the takers, and the entry closes. R201, R202: a row read
with bad parity stops the source's step. -/
def State.antSend (s : State) (c blk : Nat) : State :=
  match (s.antOf c).find? (fun e => e.source == c && e.blk == blk && e.known) with
  | none => s
  | some e =>
    let rest := (s.core c).piecesOf blk
    let new := e.need.filter (fun r => !e.rows.any (fun y => y.1 == r) && !rest.any (fun q => (q.rows (8 * e.base)).contains r))
    let reads := new.map (antReach e.base e.size)
    if s.anyBad reads then
      match (s.core c).opOf e.op with
      | none => s
      | some o => s.parityStop c o.ctx o.tile o.gen .stream reads
    else
      let e' := { e with
        isOpen := e.isOpen && new.isEmpty
        rows := e.rows ++ new.map (fun r => (r, s.bytes (antReach e.base e.size r).1 (antReach e.base e.size r).2)) }
      s.putAnt c (((s.antOf c).map (fun x => if x == e then e' else x)).filter (fun x => !x.finished))

/-- R261, R274: a core becomes the source of a new entry, which a full directory does not keep; the block is counted. -/
def State.antOpen (s : State) (c : Nat) (o : StrmOp) (key : List Int) (base size : Nat) : State :=
  let es := s.antOf c
  let e : AntEntry := ⟨key, c, o.sect, o.id, (s.core c).nextBlk, base, size, true, [], false, [], [], [], []⟩
  (if es.length < 8 then s.putAnt c (es ++ [e]) else s).bump (Reg.STRM_ANT_CNT c) Fld.STRM_ANT_CNT_SOURCED 1

/-- R274: each of these cores has taken a block. -/
def State.countTaken (s : State) (cs : List Nat) : State :=
  cs.foldl (fun s c => s.bump (Reg.STRM_ANT_CNT c) Fld.STRM_ANT_CNT_TAKEN 1) s

/-- R261, R274: what memory supplies of a block is known to its entry: its pieces and its rows. An entry of which it supplies nothing is
over, and each of its takers has its block (DESIGN CHOICE: log 25). -/
def State.antKnow (s : State) (c blk : Nat) (ps : List Piece) (rows : List Nat) : State :=
  let es := (s.antOf c).map (fun e =>
    if e.source == c && e.blk == blk then
      { e with known := true, need := distinct rows, pieces := ps.map (fun p => { p with dst := p.dst - 8 * e.base, more := p.more.map (· - 8 * e.base) }) }
    else e)
  let ended := es.filter (fun e => e.source == c && e.blk == blk && e.finished)
  (s.putAnt c (es.filter (fun e => !e.finished))).countTaken (ended.flatMap (fun e => e.takers.map (·.core)))

/-! The lines of a block enter the engine. -/

/-- R257: a block of a core: its pieces wait to be sent. -/
def State.queueBlock (s : State) (c : Nat) (ps : List Piece) : State :=
  let x := s.core c
  s.putCore c { x with nextBlk := x.nextBlk + 1, lines := x.lines ++ ps.map (fun p => { p with blk := x.nextBlk }) }

/-- The pieces of a read block. -/
def pieces (o : StrmOp) (e : StreamEnt) (d : Desc) (ls : List Line) : List Piece :=
  (ls.filter (fun l => l.n > 0)).map (fun l =>
    { op := o.id, blk := 0, va := l.va, sbit := l.bit, nbits := l.n, dst := l.dst, val := 0, write := false,
      win := e.window, ant := bitAt e.flags 1, cache := bitAt e.flags 0, desc := d.addr, tag := d.tag, miss := false, looked := false,
      more := l.more, meta_ := false })

/-- R248: the pieces that fetch the structure of a block for the engine. -/
def metaPieces (o : StrmOp) (e : StreamEnt) (ls : List (Desc × Line)) : List Piece :=
  ls.flatMap (fun l => (pieces o e l.1 [l.2]).map (fun p => { p with ant := false, cache := false, meta_ := true }))

/-- R248: an origin that the row-bin table or the bitmap form forbids. -/
def originBad (bt : RowMap) (wordAligned : Bool) (o : Idx) : Bool :=
  (match bt with
    | .bins t => decide (nth 0 o 1 % (t.gangRows : Int) ≠ 0)
    | _ => false) || (wordAligned && decide (nth 0 o 0 % 64 ≠ 0))

/-- A block of a LOAD: its operation with what the launch binds, and its place. -/
structure LoadAt where
  o      : StrmOp
  l      : Launch
  e      : StreamEnt
  b      : SlotBind
  d      : Desc
  bt     : RowMap
  origin : Idx
  slot   : Nat
deriving DecidableEq, Repr

/-- The size of the block, and the address of its slot. -/
def LoadAt.size (k : LoadAt) : Nat := blockBytes k.b k.o.part k.e.box
def LoadAt.base (k : LoadAt) : Nat := k.o.base + k.slot * k.size
/-- R248: the block is one of packed values or of row pointers. -/
def LoadAt.isPack (k : LoadAt) : Bool := k.b.packed && (k.o.part == 0 || k.o.part == 3)
/-- R246: what the block of any other part is made of. -/
def LoadAt.segs (k : LoadAt) : Segs :=
  k.d.boxSegs k.bt (fun v => k.o.part ≠ 2 || k.b.rowThere (nth 0 v 0)) k.origin k.e.box (8 * k.base)

/-- R247, R248: box row `r` of a STORE lies beyond the extent: by its stored row where the slot binds a row-bin table, by its row in the
output tile otherwise. -/
def LoadAt.rowCut (k : LoadAt) (r : Nat) : Bool :=
  match mapRun k.bt (nth 0 k.origin 1) [nth 0 k.origin 1 + (r : Int)] with
  | none => true
  | some v =>
    let row := if k.bt.listed then (nth 0 v 0).toNat else k.slot * nth 1 k.e.box 1 + r
    (if k.bt.listed then some k.l.extM else k.o.clipM).elim false (fun n => decide (n ≤ row))

/-- A block of an operation as its launch binds it; none where its slot has no such part. -/
def State.loadAt (s : State) (o : StrmOp) (origin : Idx) (slot : Nat) : Option LoadAt :=
  let l := s.launchOf o.ctx
  let e := l.stream o.stream
  ((l.slot e.slot).part o.part).map (fun d => ⟨o, l, e, l.slot e.slot, d, l.rowMap e o.tile, origin, slot⟩)

/-- R248: the bytes that have come for a block. -/
def Pack.bits (k : Pack) : BitReader := fun bit n =>
  .ok (ofLE ((List.range ((bit % 8 + n + 7) / 8)).map (fun i => ((k.got.find? (fun x => x.1 == bit / 8 + i)).map (·.2)).getD 0)) /
    2 ^ (bit % 8) % 2 ^ n)

/-- The pieces of a stretch of `n` bits written at a bit, with their values from the buffer at bit `src`. -/
def State.writePieces (s : State) (o : StrmOp) (e : StreamEnt) (d : Desc) (bit n src : Nat) : List Piece :=
  (linesOf bit n src).filterMap (fun x =>
    if x.2.2.1 = 0 then none
    else some { op := o.id, blk := 0, va := x.1, sbit := x.2.1, nbits := x.2.2.1, dst := 0,
                val := s.getBits (x.2.2.2 / 8) (x.2.2.2 % 8) x.2.2.1, write := true, win := e.window, ant := false,
                cache := false, desc := d.addr, tag := d.tag, miss := false, looked := false,
                more := [], meta_ := false })

/-- R247, R248: the columns of a box that lie below a clip, where `per` columns of the output tile make one element. -/
def clipTo (clip : Option Nat) (per n : Nat) : Nat := match clip with
  | none => n
  | some k => min n (ceilDiv k per)

/-- R224, R247, R248: the pieces that a STORE of packed values writes: of each box row within the row clip, the values that the buffer
holds of the K positions below the column clip, to their packed places within the valid region. `rows` are the rows of the whole box,
`cut` those of the box cut at the column clip. -/
def State.packPieces (s : State) (q : LoadAt) (rows cut : List PackRow) : List Piece :=
  let lo := (q.d.dim 0).vlo * q.d.w
  let hi := lo + (q.d.dim 0).vlen * q.d.w
  ((rows.zip cut).zip (packStarts q.d.w rows)).zipIdx.flatMap (fun x =>
    let r := x.1.1.2
    let from_ := r.start * 256 + r.before * q.d.w
    let a := max lo from_
    let z := min hi (from_ + r.here * q.d.w)
    if q.rowCut x.2 || z ≤ a then []
    else s.writePieces q.o q.e q.d (8 * q.d.base + a) (z - a) (8 * q.base + x.1.2 * 256 + (a - from_)))

/-- R201, R202, R248: a block of a STORE of packed values whose structure has come: its values are read from the buffer and go to their
packed places. -/
def State.storePack (s : State) (c : Nat) (k : Pack) (q : LoadAt) (rows : List PackRow) : State :=
  let reads := [(q.base, q.size)]
  if s.anyBad reads then s.parityStop c q.o.ctx q.o.tile q.o.gen .stream reads
  else
    match packRows k.bits q.b q.bt (q.l.kExtent q.e.slot) k.origin (q.e.box.set 0 (clipTo q.o.clipN 1 (nth 1 q.e.box 0))) with
    | .error z => s.stopBy c q.o.ctx q.o.tile q.o.gen q.o.stream q.d.addr q.d.tag z
    | .ok cut =>
      let ps := (s.packPieces q rows cut).map (fun p => { p with blk := k.blk })
      (s.putCore c { s.core c with lines := (s.core c).lines ++ ps }).noteAcc c ⟨.streamRead, false, reads, q.o.own⟩

/-- R248: a block whose structure has come: its values are fetched, or stored, or its row pointers are written. -/
def State.openPack (s : State) (c : Nat) (k : Pack) : State :=
  let s := s.putCore c { s.core c with packs := (s.core c).packs.filter (fun q => q.blk != k.blk) }
  match ((s.core c).opOf k.op).bind (fun o => s.loadAt o k.origin k.slot) with
  | none => s
  | some q =>
    match packRows k.bits q.b q.bt (q.l.kExtent q.e.slot) k.origin q.e.box with
    | .error z => s.stopBy c q.o.ctx q.o.tile q.o.gen q.o.stream q.d.addr q.d.tag z
    | .ok rows =>
      let w := q.b.values.elim 8 (·.w)
      if q.o.write then s.storePack c k q rows
      else if q.o.part = 0 then
        let ps := (pieces q.o q.e q.d (packSegs q.d rows (8 * q.base)).lines).map (fun p => { p with blk := k.blk })
        (s.antKnow c k.blk ps (ps.flatMap (·.rows (8 * q.base)))).putCore c { s.core c with lines := (s.core c).lines ++ ps }
      else
        let bs := (packStarts w rows).flatMap (leBytes 4)
        ((s.arriveWrite q.o.own q.base bs).antKnow c k.blk [] (List.range (ceilDiv bs.length 128))).antSend c k.blk

/-- R248: a block of packed values or row pointers: its structure is fetched first. `ps` are pieces of the block that need none. -/
def State.queuePack (s : State) (c : Nat) (q : LoadAt) (ps : List Piece) : State :=
  let ms := metaPieces q.o q.e (q.b.packLines q.bt (q.l.kExtent q.e.slot) q.origin q.e.box)
  let k : Pack := ⟨q.o.id, (s.core c).nextBlk, q.origin, q.slot, []⟩
  if ms.isEmpty then (s.queueBlock c ps).openPack c k
  else
    let s := s.queueBlock c (ms ++ ps)
    s.putCore c { s.core c with packs := (s.core c).packs ++ [k] }

/-- R248: structure has come for a block; with the last of it the block is opened. -/
def State.landMeta (s : State) (c : Nat) (p : Piece) (v : Nat) : State :=
  let bs := leBytes ((p.sbit % 8 + p.nbits + 7) / 8) (v * 2 ^ (p.sbit % 8))
  let new := bs.mapIdx (fun i b => (p.va + p.sbit / 8 + i, b))
  let s := s.putCore c { s.core c with packs := (s.core c).packs.map (fun k => if k.blk == p.blk then { k with got := new ++ k.got } else k) }
  if ((s.core c).piecesOf p.blk).any (·.meta_) then s
  else
    match (s.core c).packs.find? (fun k => k.blk == p.blk) with
    | none => s
    | some k => s.openPack c k

/-- R246 to R248: the pieces of a block enter the engine. -/
def State.fetchBlock (s : State) (c : Nat) (q : LoadAt) : State :=
  if q.isPack then s.queuePack c q []
  else
    let ps := pieces q.o q.e q.d q.segs.lines
    (s.antKnow c (s.core c).nextBlk ps (ps.flatMap (·.rows (8 * q.base)))).queueBlock c ps

/-- R261: a block of an Ant stream: taken from an open entry, or fetched as the source of a new one. -/
def State.antBlock (s : State) (c : Nat) (q : LoadAt) : State :=
  let o := q.o
  let l := q.l
  let key := antKey o ((s.ctx o.ctx).passIdx l) (match q.bt with | .audit _ _ => o.tile + 1 | _ => 0) q.origin
  let es := s.antOf c
  match es.find? (fun e => e.isOpen && e.key == key) with
  | some e =>
    s.putAnt c (es.map (fun x => if x == e then { e with takers := e.takers ++ [⟨c, ⟨o.id, q.origin, q.slot⟩, q.base⟩] } else x))
  | none => (s.antOpen c o key q.base q.size).fetchBlock c q

/-- R246 to R248, R261: one block of a LOAD, to a slot of its buffer: its fills are written, and it is fetched or taken. -/
def State.loadBlock (s : State) (c : Nat) (o : StrmOp) (origin : Idx) (slot : Nat) : State :=
  match s.loadAt o origin slot with
  | none => s
  | some q =>
    if originBad q.bt q.isPack origin then s.errorStop c o.ctx o.tile o.gen stFormat q.d.addr none32 none32 q.d.tag
    else
      let s := if q.isPack then s else q.segs.fills.foldl (fun s f => s.fillBits o q.d.w q.d.fill f) s
      if bitAt q.e.flags 1 then s.antBlock c q else s.fetchBlock c q

/-! Write blocks. -/

/-- R227: the mark bits of elements from a canonical place, one bit each. -/
def markPieces (o : StrmOp) (d : Desc) (bit n : Nat) : List Piece :=
  (linesOf bit n 0).filterMap (fun x =>
    if x.2.2.1 = 0 then none
    else some { op := o.id, blk := 0, va := x.1, sbit := x.2.1, nbits := x.2.2.1, dst := 0, val := 2 ^ x.2.2.1 - 1,
                write := true, win := 0, ant := false, cache := false, desc := d.addr, tag := d.tag, miss := false, looked := false,
                more := [], meta_ := false })

/-- What one run of a write block stores, and how many elements it drops out of bounds. -/
structure RunOut where
  pieces : List Piece
  oob    : Nat
deriving DecidableEq, Repr

/-- R224, R226, R227, R247: one run: `n` columns from `o0`, of which `lim` lie below the clip, from bit `src` of the buffer. -/
def State.storeRun (s : State) (l : Launch) (o : StrmOp) (e : StreamEnt) (d : Desc) (o0 : Int) (lim src : Nat) (v : Idx) : RunOut :=
  let (a, k) := clipCols o0 lim 0 (d.dim 0).extent
  if k = 0 || !d.outerIn v then ⟨[], lim⟩
  else
    let (b, m) := clipCols (a : Int) k (d.dim 0).vlo ((d.dim 0).vlo + (d.dim 0).vlen)
    let i : Idx := (b : Int) :: v
    if m = 0 || !d.inValid i then ⟨[], lim - k⟩
    else
      let from_ := src + ((b : Int) - o0).toNat * d.w
      if d.alias_ then
        ⟨s.writePieces o { e with window := 0 } d (8 * l.staging + d.place i * d.w) (m * d.w) from_ ++
          markPieces o d (8 * l.staging + d.validCount * d.w + d.place i) m, lim - k⟩
      else ⟨s.writePieces o e d (d.bitOf i) (m * d.w) from_, lim - k⟩

/-- One part of a write block from bit `src`: its runs with their rows clipped (R247, R248). -/
def State.storePart (s : State) (l : Launch) (o : StrmOp) (e : StreamEnt) (d : Desc) (bt : RowMap) (origin : Idx)
    (box : List Nat) (slot per src : Nat) : RunOut :=
  let n := nth 1 box 0
  (boxRuns origin box).foldl (fun acc r =>
    let q := (nth 0 r.1 0 - nth 0 origin 1).toNat
    match mapRun bt (nth 0 origin 1) r.1 with
    | none => acc
    | some v =>
      let row := if bt.listed then (nth 0 v 0).toNat else slot * nth 1 box 1 + q
      let lim := if bt.listed then some l.extM else o.clipM
      if lim.elim false (fun k => decide (k ≤ row)) then acc
      else
        let x := s.storeRun l o e d (nth 0 origin 0) (clipTo o.clipN per n) (src + r.2 * n * d.w) v
        ⟨acc.pieces ++ x.pieces, acc.oob + x.oob⟩) ⟨[], 0⟩

/-- The bytes of the values of a whole output tile (V of R246, before its rounding). -/
def Launch.tileBytes (l : Launch) (w : Nat) : Nat :=
  let dw := (l.prog.first opDrain).getD 0
  l.tm * (if gatedFn (drFn dw) then l.tn / 2 else l.tn) * w / 8

/-- R245 to R248: the scales of a block of a STORE: their runs, and the bytes of the buffer that hold them. -/
def State.storeScales (s : State) (q : LoadAt) : RunOut × List (Nat × Nat) :=
  match q.b.scales with
  | none => (⟨[], 0⟩, [])
  | some z =>
    let blk := max (blockSize q.d.fmt) 1
    let sbox := (nth 1 q.e.box 0 / blk) :: q.e.box.drop 1
    let sat := q.o.base + alignUp (q.l.tileBytes q.d.w) 32 + q.slot * boxSize sbox
    (s.storePart q.l q.o q.e z q.bt ((nth 0 q.origin 0 / (blk : Int)) :: q.origin.drop 1) sbox q.slot blk (8 * sat),
      [(sat, boxSize sbox)])

/-- R224, R245 to R248: one block of a STORE, from a slot of its buffer: the bitmap that the drain writes, or the values with their
scales. Those of a bitmap-compressed slot go to their packed places, once the structure that says where these are has come (DESIGN
CHOICE: log 94). -/
def State.storeBlock (s : State) (c : Nat) (o : StrmOp) (origin : Idx) (slot : Nat) : State :=
  let l := s.launchOf o.ctx
  let e := l.stream o.stream
  let b := l.slot e.slot
  let bt := l.rowMap e o.tile
  let bits := l.storesBits e.slot
  match if bits then b.struct_ else b.values with
  | none => s
  | some d =>
    let q : LoadAt := ⟨o, l, e, b, d, bt, origin, slot⟩
    let size := boxSize e.box * d.w / 8
    let at_ := o.base + slot * size
    let x := if bits then (⟨[], 0⟩, []) else s.storeScales q
    let pack := !bits && q.isPack
    let reads := (if pack then [] else [(at_, size)]) ++ x.2
    if originBad bt pack origin then s.errorStop c o.ctx o.tile o.gen stFormat d.addr none32 none32 d.tag
    else if s.anyBad reads then s.parityStop c o.ctx o.tile o.gen .stream reads
    else
      let m := if pack then ⟨[], 0⟩ else s.storePart l o e d bt origin e.box slot (if bits then 64 else 1) (8 * at_)
      let s := s.bump (Reg.DESC_OOB_WR_CNT c) Fld.DESC_OOB_WR_CNT_COUNT (m.oob + x.1.oob)
      let s := if reads.isEmpty then s else s.noteAcc c ⟨.streamRead, false, reads, o.own⟩
      if pack then s.queuePack c q x.1.pieces else s.queueBlock c (m.pieces ++ x.1.pieces)

/-- A block of either direction that has a place in its buffer. -/
def State.moveBlock (s : State) (c : Nat) (o : StrmOp) (origin : Idx) (slot : Nat) : State :=
  if o.write then s.storeBlock c o origin slot else s.loadBlock c o origin slot

/-- The block size of an operation (R246). -/
def State.opBlock (s : State) (o : StrmOp) : Nat :=
  let l := s.launchOf o.ctx
  let e := l.stream o.stream
  let b := l.slot e.slot
  blockBytes b (if o.write then (if l.storesBits e.slot then 2 else 0) else o.part) e.box

end Sys2Proof.Machine
end

