-- ==== Sys2Proof/Machine/Lists.lean ====
section
/-!
DEFINITION. The operations of a stream engine (R249 to R257): the operation queue, the block queue, and the groups of list streams.
-/
namespace Sys2Proof.Machine

/-- A core's operation changed. -/
def State.modOp (s : State) (c id : Nat) (f : StrmOp → StrmOp) : State :=
  s.putCore c { s.core c with ops := (s.core c).ops.map (fun o => if o.id == id then f o else o) }

/-- Every block of an operation has been sent to the engine. -/
def State.markSent (s : State) (c id : Nat) : State := s.modOp c id (fun o => { o with sent := true })

/-- R255: a run or a list that reaches beyond its buffer or its limits. -/
def State.streamError (s : State) (c : Nat) (o : StrmOp) (addr row pos : Nat) : State :=
  s.errorStop c o.ctx o.tile o.gen stFormat addr row pos none64

/-- R250: the group of an operation on a list stream. -/
def listGroup (l : Launch) (e : StreamEnt) (o : StrmOp) : Nat :=
  ((if bitAt o.coord 0 then o.mb * e.lm else 0) + (if bitAt o.coord 1 then o.nb * e.ln else 0) +
    (if bitAt o.coord 2 then o.kb * e.lk else 0) + (if l.isPair then o.jb * e.lj else 0)) % 2 ^ 64

/-- R231, R233, R250: an entry of a list, read through the core's unit, with what its place demands; a write checks the order against
the entry before it. -/
def State.entryOf (s : State) (c : Nat) (o : StrmOp) (e : StreamEnt) (n : Nat) : Chk ListEnt :=
  match s.coreRoot c with
  | none => .error (.xlt 5 (e.source + 32 + 32 * n) 0 0)
  | some root => do
    let x ← s.listEnt root e.source n
    if o.write && n > 0 then
      let y ← s.listEnt root e.source (n - 1)
      if canonLt y.coord x.coord then pure x else .error (.refuse stWriteAlias e.source n none32 none64)
    else pure x

/-- R251: the slot that an entry beyond COUNT stands for, filled. -/
def State.fillSlot (s : State) (o : StrmOp) (b : SlotBind) (i size : Nat) : State :=
  let d := b.part o.part
  let w := d.elim 8 (·.w)
  s.fillBits o w (d.elim 0 (·.fill)) (8 * (o.base + i * size), 8 * size / max w 1)

/-- R250: the entry of its list that an operation reads next, or, once it has read them all, the one it read last. -/
def State.entryNo (s : State) (o : StrmOp) : Nat :=
  let l := s.launchOf o.ctx
  let e := l.stream o.stream
  listGroup l e o * e.entries + (if o.sent then o.next - 1 else o.next)

/-- R229: the task virtual address of that entry. -/
def State.entryVa (s : State) (o : StrmOp) : Nat := ((s.launchOf o.ctx).stream o.stream).source + 32 + 32 * s.entryNo o

/-- R250, R251: entry `i` of the group of an operation. -/
def State.moveEntry (s : State) (c : Nat) (o : StrmOp) (i : Nat) : State :=
  let l := s.launchOf o.ctx
  let e := l.stream o.stream
  let size := s.opBlock o
  let n := listGroup l e o * e.entries + i
  if n ≥ e.count then
    if o.write then s
    else if (i + 1) * size > o.size then s.streamError c o e.source n none32
    else s.fillSlot o (l.slot e.slot) i size
  else
    let t := s.readUp c (e.source + 32 + 32 * n) 32
    match s.entryOf c o e n with
    | .error z => t.stopBy c o.ctx o.tile o.gen o.stream 0 0 z
    | .ok x =>
      if (x.slot + 1) * size > o.size then t.streamError c o e.source n none32
      else t.moveBlock c o (x.origin e.box) x.slot

/-- R250: an operation on a list stream moves the next block of its group, in list order. -/
def State.listStep (s : State) (c : Nat) (o : StrmOp) : State :=
  let e := (s.launchOf o.ctx).stream o.stream
  (s.modOp c o.id (fun p => { p with next := o.next + 1, sent := decide (e.entries ≤ o.next + 1) })).moveEntry c o o.next

/-- R253: a run at instruction 0, with every register zero. -/
def ProgRun.start (id : Nat) : ProgRun := ⟨id, 0, List.replicate 16 0, List.replicate 8 0, 0, 0⟩

/-- R256: an operation begins. -/
def State.beginOp (s : State) (c : Nat) (o : StrmOp) : State :=
  let e := (s.launchOf o.ctx).stream o.stream
  let s := s.modOp c o.id (fun o => { o with begun := true })
  if e.kind = 1 then s else s.putCore c { s.core c with prog := some (ProgRun.start o.id) }

/-- The operations of the engine in issue order, without the LOADs that the sequencer holds (R168). -/
def Core.queued (x : Core) : List StrmOp := x.ops.filter (fun o => !o.held)

/-- The first operation that has not sent every block: it is the one that sends, or the one that begins next (R256). -/
def Core.sender (x : Core) : Option StrmOp := x.queued.find? (fun o => !(o.begun && o.sent))

/-- R257: the block queue of a core is full: four blocks have pieces to be sent or wait for their structure. -/
def Core.blocksFull (x : Core) : Bool := (distinct (x.lines.map (·.blk) ++ x.packs.map (·.blk))).length ≥ 4

/-- R257, R263: the blocks that a core has to register again enter its block queue while it has room. -/
def State.registerBlocks (s : State) (c : Nat) : State :=
  (s.core c).again.foldl (fun s k =>
    if (s.core c).blocksFull then s.putCore c { s.core c with again := (s.core c).again ++ [k] }
    else ((s.core c).opOf k.op).elim s (fun o => s.loadBlock c o k.origin k.slot)) (s.putCore c { s.core c with again := [] })

/-- R250, R256, R257, R263, R325: what a core's engine does next of its own: blocks are registered again, an operation begins, or a list
stream reads an entry, which no urgent request precedes, and moves its block; for a block the block queue must have room. A stream
program goes on by its own commands. -/
def State.sendNext (s : State) (c : Nat) : Option State :=
  if !(s.core c).again.isEmpty && !(s.core c).blocksFull then some (s.registerBlocks c)
  else
    match (s.core c).sender with
    | none => none
    | some o =>
      if !o.begun then some (s.beginOp c o)
      else if ((s.launchOf o.ctx).stream o.stream).kind = 1 && !(s.core c).blocksFull && s.vaServed c (s.entryVa o) 32 then
        some (s.listStep c o)
      else none

end Sys2Proof.Machine
end

