-- ==== Sys2Proof/Machine/Stream.lean ====
section
/-!
DEFINITION. The stream engine from its waiting pieces to memory and back (R191 to R195, R236, R256 to R267): the TLB, the
cache, read and write trackers, the Ant chain, and the end of a piece.
-/
namespace Sys2Proof.Machine

/-! The cache (R191, R192). -/

/-- The sets of a core's cache; 0 when it has none. -/
def State.cacheSets (s : State) (c : Nat) : Nat := 64 * s.fld (Reg.SPAD_SPLIT c) Fld.SPAD_SPLIT_SPLIT

/-- The module physical address of the row of a way (R191). -/
def State.cacheRow (s : State) (c set w : Nat) : Nat :=
  spadBase c + 128 * (4096 - 8 * s.cacheSets c + 8 * set + w)

/-- The way of a set that holds a line. -/
def Core.wayOf (x : Core) (set line : Nat) : Option Nat := lowest 8 (fun w => tget 0 x.cache (8 * set + w) == line + 1)

/-- R191: the way a miss replaces: the invalid way of lowest number, or the one the three bits name. DEDUCED (log 28): three
bits for eight ways are the number of the way, and an access sets them to the complement of its way. -/
def Core.victim (x : Core) (set : Nat) : Nat :=
  (lowest 8 (fun w => tget 0 x.cache (8 * set + w) == 0)).getD (tget 0 x.plru set)

/-- The bits of a set after an access. -/
def Core.touch (x : Core) (set w : Nat) : Core := { x with plru := tput 0 x.plru set (7 - w) }

/-- One way holds a line, or nothing for 0. -/
def Core.setWay (x : Core) (set w v : Nat) : Core := { x with cache := tput 0 x.cache (8 * set + w) v }

/-- R194: a STORE of the core invalidates the cached line whose bytes it writes. -/
def State.dropLine (s : State) (c pa : Nat) : State :=
  let n := s.cacheSets c
  if n = 0 then s
  else
    let set := pa / 128 % n
    match (s.core c).wayOf set (pa / 128) with
    | none => s
    | some w => s.putCore c ((s.core c).setWay set w 0)

/-! Pieces. -/

/-- A piece waits. -/
def State.keepLine (s : State) (c : Nat) (p : Piece) : State :=
  s.putCore c { s.core c with lines := (s.core c).lines ++ [p] }

/-- R257, R258: the trackers of a kind in use: those of reads, and those of walks. -/
def Core.trackers (x : Core) (urg : Bool) : Nat := (x.rd.filter (fun t => t.urg == urg)).length + (x.walks.filter (fun w => w.urg == urg)).length

/-- R257, R258, R267: a tracker of a kind is free; none is given while a cancellation waits for its epoch. -/
def Core.hasTracker (x : Core) (urg : Bool) : Bool := x.busy == 0 && decide (x.trackers urg < if urg then 64 else 512)

/-- R236: the address of the first access of a walk. -/
def State.walkAt (s : State) (c vpn : Nat) : Nat :=
  ((s.coreRoot c).map (fun root => ((s.walkReads root (pageStart vpn)).head?).getD 0)).getD 0

/-- R257, R267: a read takes a free tracker of its kind, or waits. -/
def State.takeTracker (s : State) (c : Nat) (o : StrmOp) (p : Piece) (pa : Nat) : Option State :=
  let x := s.core c
  let u := s.urgentCtx o.ctx
  if !x.hasTracker u then none
  else
    let first := if u then 512 else 0
    match lowest (if u then 64 else 512) (fun i => !x.rd.any (fun t => t.id == first + i)) with
    | none => none
    | some i =>
      some ((s.putCore c { x with rd := x.rd ++ [⟨first + i, p, pa, x.epoch, u⟩] }).enterUrgent (u && p.win == 0) pa
        (.read c (first + i) x.epoch))

/-- R247, R248, R256: a piece whose read data has come is written to the buffer, at each of its places, or is structure for the engine. -/
def State.landRead (s : State) (c : Nat) (p : Piece) (v : Nat) : State :=
  if p.nbits = 0 then s
  else if p.meta_ then s.landMeta c p v
  else (p.dst :: p.more).foldl (fun s d => s.arriveWrite (((s.core c).opOf p.op).bind StrmOp.own) (d / 8) (s.mergeBits (d / 8) (d % 8) p.nbits v)) s

/-- R261, R262: what a landed piece completes of its block's rows goes to the takers. -/
def State.antCapture (s : State) (c : Nat) (p : Piece) : State := if p.ant then s.antSend c p.blk else s

/-- R261: whether a core takes an operation's block from the Ant chain and still lacks rows. -/
def State.antWaits (s : State) (c op : Nat) : Bool :=
  (s.antOf c).any (fun e => e.takers.any (fun t => t.core == c && t.at_.op == op && !e.complete t))

/-! Sending. -/

/-- R195: a cached line with a parity error is counted and invalidated, and counts towards the core's budget. -/
def State.badLine (s : State) (c set w : Nat) : State :=
  let n := (s.core c).errs
  let s := s.noteParities c .cache (s.cacheRow c set w) 128
  (s.putCore c ((s.core c).setWay set w 0)).parityBudget c ((s.core c).errs - n)

/-- R215: lookups served from a valid line. -/
def State.countHit (s : State) (c : Nat) : State := s.bump (Reg.SPAD_CACHE_STAT c) Fld.SPAD_CACHE_STAT_HIT 1
/-- R215: lookups that fetch or wait for a fill, and refetches. -/
def State.countMiss (s : State) (c : Nat) : State := s.bump (Reg.SPAD_CACHE_STAT c) Fld.SPAD_CACHE_STAT_MISS 1

/-- R192, R215: the lookup of a cacheable line misses: its line is fetched, where fewer than sixteen fills are outstanding, and the piece
waits. A piece that waits already is no new lookup. -/
def State.cacheMiss (s : State) (c : Nat) (p : Piece) (pa : Nat) : State :=
  let s := if p.looked then s else s.countMiss c
  let x := s.core c
  let s := if x.misses.contains pa || x.misses.length ≥ 16 then s
    else (s.putCore c { x with misses := x.misses ++ [pa] }).enterUrgent (x.ctx.elim false s.urgentCtx) pa (.fill c pa)
  if ((s.core c).opOf p.op).isSome then s.keepLine c { p with looked := true } else s

/-- R192, R195, R215: a cacheable line: a hit is copied, a miss waits for its fill; a line of bad parity is fetched again. -/
def State.readCached (s : State) (c : Nat) (p : Piece) (pa : Nat) : State :=
  let set := pa / 128 % s.cacheSets c
  match (s.core c).wayOf set (pa / 128) with
  | none => s.cacheMiss c p pa
  | some w =>
    let row := s.cacheRow c set w
    if s.hasBad row 128 then (s.badLine c set w).cacheMiss c { p with looked := false } pa
    else
      let s := if p.looked then s else s.countHit c
      ((s.putCore c ((s.core c).touch set w)).landRead c p (s.getBits row 0 1024)).noteAcc c ⟨.cache, false, [(row, 128)], none⟩

/-- R257, R259: a read of local memory. -/
def State.readPiece (s : State) (c : Nat) (o : StrmOp) (p : Piece) (pa : Nat) : State :=
  if p.cache && p.sbit == 0 && p.nbits == 1024 && inHbm pa && s.cacheSets c > 0 then s.readCached c p pa
  else (s.takeTracker c o p pa).getD (s.keepLine c p)

/-- R194, R257: a write of local memory is accepted by the mesh stop, or waits for a tracker. -/
def State.writePiece (s : State) (c : Nat) (o : StrmOp) (p : Piece) (pa : Nat) : State :=
  if (s.core c).wr.length ≥ 256 then s.keepLine c p
  else
    let s := s.dropLine c pa
    s.putCore c { s.core c with wr := (s.core c).wr ++ [⟨p, pa, o.ctx, o.gen, o.tile, o.stream⟩] }

/-- R222, R241: the address at which a piece accesses memory: that of the first 32-byte unit it needs. -/
def Piece.unitVa (p : Piece) : Nat := (p.va + p.sbit / 8) / 32 * 32

/-- R235: a piece of local memory that has been translated: sent to memory, or a fault. `l` is the TLB after the lookup. -/
def State.sendXlt (s : State) (c : Nat) (o : StrmOp) (p : Piece) (l : List Leaf) : Xlt → State
  | .bad kind => s.xltStop c o.ctx o.tile o.gen kind p.unitVa p.desc p.tag
  | .ok pa =>
    let s := s.putCore c { s.core c with tlb := l }
    if p.write then s.writePiece c o p pa else s.readPiece c o p pa

/-- R235, R236, R258: a piece of local memory: translated, then sent; a TLB miss walks, where fewer than two walks are under way and a
tracker of the context's class is free. -/
def State.sendLocal (s : State) (c : Nat) (o : StrmOp) (p : Piece) : State :=
  let x := s.core c
  let vpn := pageOf p.va
  match s.coreRoot c with
  | none => s.xltStop c o.ctx o.tile o.gen 5 p.unitVa p.desc p.tag
  | some _ =>
    match lookupLeaf x.tlb (s.tlbCtx c) vpn with
    | none =>
      let u := s.urgentCtx o.ctx
      let walk := !x.walks.any (fun w => w.vpn == vpn) && x.walks.length < 2 && x.hasTracker u
      let s := if walk then
          (s.putCore c { x with walks := x.walks ++ [⟨vpn, false, u⟩] }).enterUrgent u (s.walkAt c vpn) (.walk c vpn)
        else s
      let s := if p.miss then s else s.countXltMiss c
      s.keepLine c { p with miss := true }
    | some (f, l) => s.sendXlt c o p l (leafXlt f.entry p.va p.write)

/-- R418 to R421, R430: a piece of a window stream: it waits for the handle's first grant, and a write for a credit. -/
def State.sendRemote (s : State) (c : Nat) (o : StrmOp) (p : Piece) : State :=
  let key := s.handleKey o.ctx p.win
  let h := s.handle key
  let from_ : Origin := ⟨o.ctx, o.gen, c, o.stream, o.tile, p.tag⟩
  if h.mcast then (if p.write then s.stageUnit o.ctx h.module_ p else s)
  else if h.size = 0 then (s.askCredits (s.ctx o.ctx).cls key).keepLine c p
  else if !p.write then
    match s.takeTracker c o p 0 with
    | none => s.keepLine c p
    | some s => s.sendWindowRead o.ctx key p from_
  else if h.credits = 0 then (s.askCredits (s.ctx o.ctx).cls key).keepLine c p
  else if (s.core c).wr.length ≥ 256 then s.keepLine c p
  else
    let s := s.putCore c { s.core c with wr := (s.core c).wr ++ [⟨p, 0, o.ctx, o.gen, o.tile, o.stream⟩] }
    s.sendWindowWrite o.ctx key p from_

/-- A waiting piece is sent, or goes on waiting; one whose operation has been cancelled is dropped. -/
def State.sendPiece (s : State) (c : Nat) (p : Piece) : State :=
  match (s.core c).opOf p.op with
  | none => s
  | some o => if p.win = 0 then s.sendLocal c o p else s.sendRemote c o p

/-- Every waiting piece of a core that can be sent is. -/
def State.pumpOnce (s : State) (c : Nat) : State :=
  let ls := (s.core c).lines
  ls.foldl (fun s p => s.sendPiece c p) (s.putCore c { s.core c with lines := [] })

/-- A core's engine goes on: what waits is sent, then the next operation begins or the next block of a list is moved, as far as it can. -/
def State.goOn : Nat → State → Nat → State
  | 0, s, _ => s
  | fuel + 1, s, c =>
    let s := s.pumpOnce c
    match s.sendNext c with
    | none => s
    | some t => goOn fuel t c

/-- More than the operations of a queue and the blocks of their groups (R244, R257). -/
def engineFuel : Nat := 16 * 4098

/-- R263: after a cancellation the takers of abandoned Ant entries register their blocks again, lowest column first, and the cores send
what they can. -/
def State.settle (s : State) : State :=
  let s := (allCores.filter (fun c => !(s.core c).again.isEmpty)).foldl State.registerBlocks s
  (allCores.filter (fun c => !(s.core c).lines.isEmpty)).foldl (fun s c => s.goOn engineFuel c) s

/-- A core's engine goes on; where parity errors fence the core on the way (R204), the cores that become Ant sources in its place
follow. -/
def State.pumpCore (s : State) (c : Nat) : State :=
  let t := (s.registerBlocks c).goOn engineFuel c
  if t.fenced c && !s.fenced c then t.settle else t

/-! What comes back. -/

/-- A tracker answered; a cancellation that waited for its epoch goes on (R267). -/
def State.dropTracker (s : State) (c id : Nat) : State :=
  let x := { s.core c with rd := (s.core c).rd.filter (fun t => t.id != id) }
  s.putCore c (x.advance x.busy)

/-- R265, R267: a response for a released tracker is discarded; a cancellation that waited for its epoch goes on. -/
def State.dropLate (s : State) (c id epoch : Nat) : State :=
  let x := { s.core c with late := (s.core c).late.filter (fun t => t != (id, epoch)) }
  s.putCore c (x.advance x.busy)

/-- The tracker that a response names, where its epoch matches (R267). -/
def Core.tracker (x : Core) (id epoch : Nat) : Option Tracker := x.rd.find? (fun t => t.id == id && t.epoch == epoch)

/-- R256, R342: read data of local memory at its tracker. -/
def State.readData (s : State) (c : Nat) (o : StrmOp) (t : Tracker) : State :=
  let p := t.piece
  match s.firstUe (t.pa + p.sbit / 8) ((p.sbit % 8 + p.nbits + 7) / 8) with
  | some a => s.ueStop c o.ctx o.tile o.gen o.stream (if t.urg then .urgent else .die) a p.tag
  | none =>
    let s := s.correct (t.pa + p.sbit / 8) ((p.sbit % 8 + p.nbits + 7) / 8)
    (((s.dropTracker c t.id).landRead c p (s.getBits t.pa p.sbit p.nbits)).antCapture c p).pumpCore c

/-- What a request of the engine is for: its tile and stream, with the address and PIECE_TAG that an event names. -/
structure Request where
  ctx    : Nat
  tile   : Nat
  gen    : Nat
  stream : Nat
  addr   : Nat
  tag    : Nat
deriving DecidableEq, Repr

/-- The first piece that waits for a page, with its operation. -/
def Core.waiter (x : Core) (vpn : Nat) : Option (StrmOp × Piece) :=
  x.lines.findSome? (fun p => if p.win = 0 && pageOf p.va == vpn then (x.opOf p.op).map (fun o => (o, p)) else none)

/-- The first piece that waits for the fill of a line, with its operation. -/
def State.lineWaiter (s : State) (c line : Nat) : Option (StrmOp × Piece) :=
  (s.core c).lines.findSome? (fun p =>
    if p.cache && p.win = 0 && (match s.coreRoot c with
        | none => false
        | some root => s.xlate root p.va false == Xlt.ok line) then ((s.core c).opOf p.op).map (fun o => (o, p)) else none)

/-- R276: the module physical address of the list entry that an operation reads. -/
def State.entryPa (s : State) (c : Nat) (o : StrmOp) : Nat :=
  match (s.coreRoot c).map (fun root => s.xlate root (s.entryVa o) false) with
  | some (.ok pa) => pa
  | _ => 0

/-- The requests of an engine that are on their way, by number: the trackers by their own, then cache misses, walks, writes and the entry
reads of list streams, each in order from 576, 592, 594 and 850 (DESIGN CHOICE: log 92). -/
def State.strmRequest (s : State) (c n : Nat) : Option Request :=
  let x := s.core c
  let of (o : StrmOp) (p : Piece) (a : Nat) : Request := ⟨o.ctx, o.tile, o.gen, o.stream, a, p.tag⟩
  if n < 576 then (x.rd.find? (fun t => t.id == n)).bind (fun t => (x.opOf t.piece.op).map (fun o => of o t.piece t.pa))
  else if n < 592 then x.misses[n - 576]?.bind (fun a => (s.lineWaiter c a).map (fun w => of w.1 w.2 a))
  else if n < 594 then
    x.walks[n - 592]?.bind (fun w => (x.waiter w.vpn).map (fun y =>
      of y.1 y.2 (s.walkAt c w.vpn)))
  else if n < 850 then x.wr[n - 594]?.map (fun w => ⟨w.ctx, w.tile, w.gen, w.stream, w.pa, w.piece.tag⟩)
  else
    let lists := x.ops.filter (fun o => o.begun && ((s.launchOf o.ctx).stream o.stream).kind == 1)
    lists[n - 850]?.map (fun o => ⟨o.ctx, o.tile, o.gen, o.stream, s.entryPa c o, 0⟩)

/-- R269: a fault of a kind on the path of a request. -/
def State.requestFault (s : State) (c n kind : Nat) : State :=
  match s.strmRequest c n with
  | none => s
  | some r => if (s.ctx r.ctx).gen = r.gen then s.streamStop c r.ctx r.tile r.gen kind r.stream r.addr r.tag else s

/-- R256, R265, R267, R269: STREAM_READ_RESPONSE: data, or an error found on the way, of a read; an error on the way of a fill, a walk or a
write. -/
def execStreamReadResponse (core tracker epoch : Nat) (err : Option Nat) (s : State) : Res :=
  .next (match err with
    | some k =>
      if tracker < 576 && ((s.core core).tracker tracker epoch).isNone then (s.dropLate core tracker epoch).pumpCore core
      else s.requestFault core tracker k
    | none =>
      match (s.core core).tracker tracker epoch with
      | none => (s.dropLate core tracker epoch).pumpCore core
      | some t =>
        match (s.core core).opOf t.piece.op with
        | none => s.dropTracker core t.id
        | some o => if t.piece.win ≠ 0 || !s.mayServe t.pa (.read core t.id t.epoch) then s else s.readData core o t)

/-- R269: STRM_RESP_TIMEOUT of a read: a tracked one, a fill, a walk or that of a list entry. -/
def execStrmRespTimeout (core tracker : Nat) (s : State) : Res := .next (if tracker < 594 ∨ 850 ≤ tracker then s.requestFault core tracker 5 else s)

/-- R265, R275: STREAM_CANCEL. -/
def execStreamCancel (core : Nat) (s : State) : Res := .next (s.cancelAll core).settle

/-- R192: the miss of a line is filled. -/
def State.fillLine (s : State) (c line : Nat) : State :=
  let x := s.core c
  let n := s.cacheSets c
  let s := s.putCore c { x with misses := x.misses.filter (fun m => m != line) }
  if n = 0 then s.pumpCore c
  else
    let set := line / 128 % n
    let w := x.victim set
    let s := s.land .cache none (s.cacheRow c set w) (s.bytes line 128)
    (s.putCore c ((s.core c).setWay set w (line / 128 + 1))).pumpCore c

/-- R195, R342: the fill of a line meets an uncorrectable error at `ue`: it is handled as a parity error of the cache, of one word
of the access in the way that the fill would take, and counts towards the core's budget. Which bytes of the word fail is a free
value (log 35). The line is fetched again. -/
def State.badFill (s : State) (c line ue : Nat) : State :=
  let n := s.cacheSets c
  let set := if n = 0 then 0 else line / 128 % n
  let off := s.cacheRow c set ((s.core c).victim set) - spadBase c + (ue - line)
  let s := ((s.noteUe .cacheFill ue).countMiss c).noteParity c .cache off (1 + (Config.freeByte s.free).toNat % 15)
  (s.used.parityBudget c 1).ueBudget (stackOf ue)

/-- R192, R195, R342: CACHE_FILL. -/
def execCacheFill (core line : Nat) (s : State) : Res :=
  .next (if !(s.core core).misses.contains line || !s.mayServe line (.fill core line) then s
    else
      match s.firstUe line 128 with
      | some a => s.badFill core line a
      | none => (s.correct line 128).fillLine core line)

/-- R135, R194, R270: a stream write of a core lands unless its step's run is over, and invalidates its line once more: a fill may have
brought the bytes as they were before. -/
def State.landWrite (s : State) (c : Nat) (w : WrTracker) : State :=
  if (s.ctx w.ctx).gen ≠ w.gen then s
  else
    let p := w.piece
    let s := (s.setBits w.pa p.sbit p.nbits p.val).dropLine c w.pa
    s.putCtx w.ctx { s.ctx w.ctx with
      wrote := (w.pa + p.sbit / 8, (p.sbit % 8 + p.nbits + 7) / 8) :: (s.ctx w.ctx).wrote }

/-- R257: MEMORY_WRITE_ACK: memory acknowledges the oldest local write of the core. -/
def State.writeAcked (s : State) (core : Nat) : State :=
  (match (s.core core).wr.findIdx? (fun w => w.piece.win == 0) with
    | none => s
    | some i =>
      match (s.core core).wr[i]? with
      | none => s
      | some w =>
        if !s.noUrgent w.pa then s else
        ((s.putCore core { s.core core with wr := dropAt (s.core core).wr i }).landWrite core w).pumpCore core)

/-- R342: a walk meets an uncorrectable error. -/
def State.endWalkUe (s : State) (c a : Nat) : Option (StrmOp × Piece) → State
  | some (o, p) => s.ueStop c o.ctx o.tile o.gen o.stream (if s.urgentCtx o.ctx then .urgent else .die) a p.tag
  | none => s.noteUe .die a

/-- R235: what a walk found: a fault of the piece that waits for it, or a leaf. -/
def State.walkFound (s : State) (c vpn : Nat) (who : Option (StrmOp × Piece)) : Xlt → State
  | .ok e => (s.putCore c { s.core c with tlb := installLeaf (s.core c).tlb ⟨s.tlbCtx c, vpn, e⟩ }).pumpCore c
  | .bad kind =>
    match who with
    | some (o, p) => s.xltStop c o.ctx o.tile o.gen kind p.unitVa p.desc p.tag
    | none => s

/-- R235, R236, R342: the end of a walk that met an uncorrectable access, or none. -/
def State.walkDone (s : State) (c vpn : Nat) (who : Option (StrmOp × Piece)) (found : Xlt) : Option Nat → State
  | some a => s.endWalkUe c a who
  | none => s.walkFound c vpn who found

/-- R235, R236, R342: the walk of a page ends: the leaf is installed, or the access faults. -/
def State.endWalk (s : State) (c root vpn : Nat) : State :=
  let x := s.core c
  let s := (s.putCore c { x with walks := x.walks.filter (fun w => w.vpn != vpn) }).correctAll
    ((s.walkReads root (pageStart vpn)).map (fun a => (a, 8)))
  s.walkDone c vpn (x.waiter vpn) (s.walk root (pageStart vpn))
    ((s.walkReads root (pageStart vpn)).findSome? (fun a => s.firstUe a 8))

/-- R236, R238: TABLE_WALK: the oldest walk completes; one that an invalidation overtook begins again. -/
def execTableWalk (core : Nat) (s : State) : Res :=
  .next (match (s.core core).walks with
    | [] => s
    | w :: rest =>
      if !s.mayServe (s.walkAt core w.vpn) (.walk core w.vpn) then s
      else if w.stale then s.putCore core { s.core core with walks := rest ++ [{ w with stale := false }] }
      else
        match s.coreRoot core with
        | none => (s.putCore core { s.core core with walks := rest }).pumpCore core
        | some root => s.endWalk core root w.vpn)

/-- R262, R274: a row written at a taker's slot; with its last row the taker counts its block. -/
def State.antLand (s : State) (row : Nat) (bs : List Byte) (e : AntEntry) (t : Taker) : State :=
  let s := s.arriveWrite (((s.core t.core).opOf t.at_.op).bind StrmOp.own) (t.base + 128 * row) bs
  let e' := { e with landed := (t, row) :: e.landed }
  let s := if e'.complete t then s.bump (Reg.STRM_ANT_CNT t.core) Fld.STRM_ANT_CNT_TAKEN 1 else s
  s.putAnt t.core ((s.antOf t.core).map (fun x => if x == e then e' else x))

/-- R262: a row at a mesh stop is written to every slot that the core takes from the entry. -/
def State.antRow_ (s : State) (c row : Nat) (bs : List Byte) (e : AntEntry) : State :=
  let s := ((e.takers.filter (fun t => t.core == c && !e.landed.contains (t, row))).foldl (fun (p : State × AntEntry) t =>
    (p.1.antLand row bs p.2 t, { p.2 with landed := (t, row) :: p.2.landed })) (s, e)).1
  s.putAnt c ((s.antOf c).filter (fun x => !x.finished))

/-- The module physical address of a row of a block as its source read it, with the PIECE_TAG of its descriptor. -/
def State.antAddr (s : State) (e : AntEntry) (row : Nat) : Nat × Nat :=
  match e.pieces.find? (fun p => (p.rows 0).contains row) with
  | none => (0, 0)
  | some p =>
    match (s.coreRoot e.source).map (fun root => s.xlate root p.va false) with
    | some (.ok a) => (a + p.sbit / 8, p.tag)
    | _ => (0, p.tag)

/-- R262, R269: ANT_ROW_ARRIVAL. -/
def execAntRowArrival (core row : Nat) (bad : Bool) (s : State) : Res :=
  .next (match (s.antOf core).findSome? (fun e =>
      match e.takers.find? (fun t => t.core == core && !e.landed.contains (t, row)), e.rows.find? (fun r => r.1 == row) with
      | some t, some r => some (e, t, r)
      | _, _ => none) with
    | none => s
    | some (e, t, r) =>
      if bad then
        match (s.core core).opOf t.at_.op with
        | none => s
        | some o => s.streamStop core o.ctx o.tile o.gen 3 o.stream (s.antAddr e row).1 (s.antAddr e row).2
      else s.antRow_ core row r.2 e)

end Sys2Proof.Machine
end

