-- ==== Sys2Proof/Machine/Engine.lean ====
section
/-!
DEFINITION. The runs of stream programs with one command for each instruction (R252 to R255), the completion of LOADs and STOREs in
issue order (R256), and the invalidations of R193 and R240.
-/
namespace Sys2Proof.Machine

/-! Stream programs (R252 to R255). -/

def spEnd : Nat := 0x00
def spSeti : Nat := 0x01
def spAddi : Nat := 0x02
def spMuli : Nat := 0x03
def spAndi : Nat := 0x04
def spShri : Nat := 0x05
def spAdd : Nat := 0x06
def spSub : Nat := 0x07
def spMul : Nat := 0x08
def spLdc : Nat := 0x09
def spLdp : Nat := 0x0A
def spLoop : Nat := 0x0B
def spEndl : Nat := 0x0C
def spJge : Nat := 0x0D
def spEmit : Nat := 0x0E

/-- The opcode of an instruction. -/
def spCode (w : Nat) : Nat := bitsOf w 31 26
def spD (w : Nat) : Nat := bitsOf w 25 22
def spS (w : Nat) : Nat := bitsOf w 21 18
def spT (w : Nat) : Nat := bitsOf w 17 14
/-- imm18, signed. -/
def spImm (w : Nat) : BitVec 64 := BitVec.ofInt 64 (signed 18 w)
/-- The counter of LOOP and ENDL. -/
def spC (w : Nat) : Nat := bitsOf w 25 23
def spTarget (w : Nat) : Nat := bitsOf w 5 0

/-- An address register. -/
def ProgRun.ar (r : ProgRun) (i : Nat) : BitVec 64 := nth 0 r.a i
/-- An address register set. -/
def ProgRun.setA (r : ProgRun) (i : Nat) (v : BitVec 64) : ProgRun := { r with a := mapAt r.a i (fun _ => v) }
/-- The instruction has run: the next one stands after it. -/
def ProgRun.next (r : ProgRun) : ProgRun := { r with pc := r.pc + 1, insts := r.insts + 1 }
/-- The instruction has branched. -/
def ProgRun.jump (r : ProgRun) (t : Nat) : ProgRun := { r with pc := t, insts := r.insts + 1 }

/-- Where the running program of a core stands: its run, its operation, the stream and the instruction. -/
structure Fetch where
  r : ProgRun
  o : StrmOp
  e : StreamEnt
  w : Nat
deriving DecidableEq, Repr

/-- The instruction at which the running program of a core stands. -/
def State.instAt (s : State) (c : Nat) : Option Fetch :=
  match (s.core c).prog with
  | none => none
  | some r =>
    match (s.core c).opOf r.op with
    | none => none
    | some o =>
      let e := (s.launchOf o.ctx).stream o.stream
      (e.code[r.pc]?).map (fun w => ⟨r, o, e, w⟩)

/-- The run of a core replaced; one that has reached the end of its program is over, and the next operation begins. -/
def State.putRun (s : State) (c : Nat) (f : Fetch) (r : ProgRun) : State :=
  if r.pc ≥ f.e.code.length then
    ((s.putCore c { s.core c with prog := none }).markSent c f.o.id).pumpCore c
  else s.putCore c { s.core c with prog := some r }

/-- R253, R255: one instruction of an opcode runs: `k` says what it does. A run of more than 16,384 instructions aborts. -/
def State.inst (s : State) (c op : Nat) (k : State → Fetch → State) : State :=
  match s.instAt c with
  | none => s
  | some f =>
    if spCode f.w ≠ op then s
    else if f.r.insts ≥ 16384 then s.streamError c f.o f.e.source f.o.stream f.r.pc
    else k s f

/-- An instruction that only changes registers. -/
def State.instReg (s : State) (c op : Nat) (g : Fetch → ProgRun) : State :=
  s.inst c op (fun s f => s.putRun c f (g f).next)

/-- R253: END. -/
def execStreamEnd (core : Nat) (s : State) : Res :=
  .next (s.inst core spEnd (fun s f => s.putRun core f { f.r with pc := f.e.code.length, insts := f.r.insts + 1 }))

/-- R253: SETI. -/
def execSeti (core : Nat) (s : State) : Res :=
  .next (s.instReg core spSeti (fun f => f.r.setA (spD f.w) (BitVec.ofInt 64 (signed 22 f.w))))

/-- R253: ADDI. -/
def execAddi (core : Nat) (s : State) : Res :=
  .next (s.instReg core spAddi (fun f => f.r.setA (spD f.w) (f.r.ar (spS f.w) + spImm f.w)))

/-- R253: MULI. -/
def execMuli (core : Nat) (s : State) : Res :=
  .next (s.instReg core spMuli (fun f => f.r.setA (spD f.w) (f.r.ar (spS f.w) * spImm f.w)))

/-- R253: ANDI. -/
def execAndi (core : Nat) (s : State) : Res :=
  .next (s.instReg core spAndi (fun f => f.r.setA (spD f.w) (f.r.ar (spS f.w) &&& BitVec.ofNat 64 (bitsOf f.w 17 0))))

/-- R253: SHRI. -/
def execShri (core : Nat) (s : State) : Res :=
  .next (s.instReg core spShri (fun f => f.r.setA (spD f.w) ((f.r.ar (spS f.w)).sshiftRight (bitsOf f.w 5 0))))

/-- R253: ADD. -/
def execAdd (core : Nat) (s : State) : Res :=
  .next (s.instReg core spAdd (fun f => f.r.setA (spD f.w) (f.r.ar (spS f.w) + f.r.ar (spT f.w))))

/-- R253: SUB. -/
def execSub (core : Nat) (s : State) : Res :=
  .next (s.instReg core spSub (fun f => f.r.setA (spD f.w) (f.r.ar (spS f.w) - f.r.ar (spT f.w))))

/-- R253: MUL. -/
def execMul (core : Nat) (s : State) : Res :=
  .next (s.instReg core spMul (fun f => f.r.setA (spD f.w) (f.r.ar (spS f.w) * f.r.ar (spT f.w))))

/-- R253: the value that LDC selects. -/
def ldcValue (l : Launch) (o : StrmOp) (sel : Nat) : Nat :=
  let q := l.passCoord (l.passFor o.tile)
  match sel with
  | 0 => if bitAt o.coord 0 then o.mb else 0
  | 1 => if bitAt o.coord 1 then o.nb else 0
  | 2 => if bitAt o.coord 2 then o.kb else 0
  | 3 => if l.isPair then o.jb else 0
  | 4 => l.extM
  | 5 => l.extN
  | 6 => l.extK
  | 7 => l.extJ
  | 8 => q.m
  | 9 => q.n
  | 10 => q.k
  | 11 => q.j
  | 12 => if l.sweeps > 1 then l.sweepOf o.tile else 0
  | _ => 0

/-- R253: LDC. -/
def execLdc (core : Nat) (s : State) : Res :=
  .next (s.inst core spLdc (fun s f =>
    s.putRun core f (f.r.setA (spD f.w) (BitVec.ofNat 64 (ldcValue (s.launchOf f.o.ctx) f.o (bitsOf f.w 3 0)))).next))

/-- R253: LDP. -/
def execLdp (core : Nat) (s : State) : Res :=
  .next (s.instReg core spLdp (fun f => f.r.setA (spD f.w) (BitVec.ofNat 64 (nth 0 f.e.params (bitsOf f.w 2 0)))))

/-- R253: the index after the next ENDL of a counter. -/
def afterEndl (code : List Nat) (pc c : Nat) : Nat :=
  match (code.drop (pc + 1)).findIdx? (fun w => spCode w == spEndl && spC w == c) with
  | some i => pc + 1 + i + 1
  | none => code.length

/-- R253: the count that LOOP sets. -/
def loopCount (r : ProgRun) (w : Nat) : Nat :=
  if bitAt w 22 then clampTo 0 (2 ^ 32 - 1) ((r.ar (spS w)).toInt.toNat) else bitsOf w 17 0

/-- R253: LOOP. -/
def execLoopOp (core : Nat) (s : State) : Res :=
  .next (s.inst core spLoop (fun s f =>
    let n := loopCount f.r f.w
    let r := { f.r with n := mapAt f.r.n (spC f.w) (fun _ => BitVec.ofNat 32 n) }
    s.putRun core f (if n = 0 then r.jump (afterEndl f.e.code f.r.pc (spC f.w)) else r.next)))

/-- R253: ENDL. -/
def execEndl (core : Nat) (s : State) : Res :=
  .next (s.inst core spEndl (fun s f =>
    let n := nth 0 f.r.n (spC f.w) - 1
    let r := { f.r with n := mapAt f.r.n (spC f.w) (fun _ => n) }
    s.putRun core f (if n = 0 then r.next else r.jump (spTarget f.w))))

/-- R253: JGE. -/
def execJge (core : Nat) (s : State) : Res :=
  .next (s.inst core spJge (fun s f =>
    s.putRun core f (if (f.r.ar (spS f.w)).toInt ≥ (f.r.ar (spT f.w)).toInt then f.r.jump (spTarget f.w) else f.r.next)))

/-- The origin that EMIT sends: a0 to a5. -/
def ProgRun.origin (r : ProgRun) : Idx := (List.range 6).map (fun i => (r.ar i).toInt)

/-- R253, R255: EMIT. -/
def execEmit (core : Nat) (s : State) : Res :=
  .next (s.inst core spEmit (fun s f =>
    if (s.core core).blocksFull then s
    else
      let slot := (f.r.ar (spS f.w)).toInt
      let r := { f.r with emits := f.r.emits + 1 }
      if f.r.emits ≥ 4096 || decide (slot < 0) || (slot.toNat + 1) * s.opBlock f.o > f.o.size then
        s.streamError core f.o f.e.source f.o.stream f.r.pc
      else
        let s := s.moveBlock core f.o f.r.origin slot.toNat
        if ((s.core core).opOf f.o.id).isNone then s else (s.putRun core f r.next).pumpCore core))

/-! Completion (R114, R116, R256). -/

/-- An operation is out of the queue, and complete in the section that issued it. -/
def State.opDone (s : State) (c : Nat) (o : StrmOp) : State :=
  let x := s.core c
  s.putCore c { x with
    ops := x.ops.filter (fun p => p.id != o.id)
    grants := x.grants.map (fun g =>
      if g.tile == o.tile && g.gen == o.gen && g.copy == o.copy then
        g.modSect o.pf (fun k => { k with open_ := k.open_.filter (fun n => n != o.num) })
      else g) }

/-- Nothing of an operation is on its way. -/
def State.opIdle (s : State) (c : Nat) (o : StrmOp) : Bool :=
  let x := s.core c
  o.sent && !x.lines.any (fun p => p.op == o.id) && !x.rd.any (fun t => t.piece.op == o.id) && !x.packs.any (fun k => k.op == o.id) &&
    !x.again.any (fun k => k.op == o.id) && !s.antWaits c o.id

/-- The operation at the head of the queue, where it can complete. -/
def State.headDone (s : State) (c : Nat) (write : Bool) : Option StrmOp :=
  match (s.core c).queued with
  | [] => none
  | o :: _ => if o.write == write && s.opIdle c o then some o else none

/-- R168: where the mask words of the rows below EXT_M lie in a run position's mask buffer. -/
def Launch.maskReads (l : Launch) (c : Nat) (g : Grant) : List (Nat × Nat) :=
  let n := bitmapWords l.chunkOut * 8
  let b := bufAddr c (l.buf g (fA ((l.prog.first opMatch).getD 0)))
  ((List.range l.tm).filter (l.rowLive (l.passAt g) g.mb)).map (fun r => (b + r * n, n))

/-- R168: the mask buffer of a run position holds no set bit in a row below EXT_M. -/
def State.maskEmpty (s : State) (c : Nat) (l : Launch) (g : Grant) : Bool := (l.maskReads c g).all (fun r => s.num r.1 r.2 == 0)

/-- R115, R148, R168: a run position left unrun: what it has issued is dropped, it is counted, and the tile goes on to the next, which
takes its place in the run count. -/
def State.skipPosition (s : State) (c gi x : Nat) (g : Grant) : State :=
  let l := (s.launchOf x).view g
  let cut (k : Sect) : Sect :=
    let first := k.seq - k.pc
    { k with wait := none, fence := none, open_ := k.open_.filter (fun n => decide (n < first)),
             posts := k.posts.filter (fun p => decide (p.1 < first)) }
  let s := s.putCore c { s.core c with
    ops := (s.core c).ops.filter (fun o => !(o.tile == g.tile && o.gen == g.gen && o.copy == g.copy && !o.begun)) }
  let go (jb kb n : Nat) (alone : Bool) (s : State) : State :=
    (s.countSkips c n).modGrant c gi (fun g => { g with pf := cut g.pf, cp := cut g.cp }.toPos jb kb alone g.parity)
  match l.nextPos (l.passAt g) g.mb g.jb g.kb with
  | some (jb, kb, alone, n) => go jb kb (n + 1) alone s
  | none => go g.jb g.kb 1 true s

/-- R168: the mask of a grant's run position has been loaded: a mask with no bit set leaves the position unrun; otherwise the LOADs
that waited for it go on. -/
def State.maskLoaded (s : State) (c gi x : Nat) (g : Grant) : State :=
  let l := (s.launchOf x).view g
  let reads := l.maskReads c g
  if s.anyBad reads then s.parityStop c x g.tile g.gen .scarab reads
  else if s.maskEmpty c l g then s.skipPosition c gi x g
  else
    let s := s.modGrant c gi (fun g => { g with maskIn := true })
    s.putCore c { s.core c with ops := (s.core c).ops.map (fun o =>
      if o.tile == g.tile && o.gen == g.gen && o.copy == g.copy then { o with held := false } else o) }

/-- The grant that an operation of the engine belongs to. -/
def Core.grantOf (x : Core) (o : StrmOp) : Option Nat :=
  x.grants.findIdx? (fun g => g.tile == o.tile && g.gen == o.gen && g.copy == o.copy)

/-- A grant's operation of the engine has completed: `k` says what follows for the grant. -/
def State.opEnds (s : State) (c : Nat) (o : StrmOp) (k : State → Nat → Grant → State) : State :=
  let s := s.opDone c o
  match (s.core c).grantOf o with
  | none => s
  | some gi =>
    match s.grantAt c gi with
    | none => s
    | some g => k s gi g

/-- R116, R256: LOAD_COMPLETE: the oldest operation of the engine, a LOAD with every byte landed, completes. -/
def execLoadComplete (core : Nat) (s : State) : Res :=
  .next (match s.headDone core false with
    | none => s
    | some o => (s.opEnds core o (fun s gi g => if o.mask then s.maskLoaded core gi o.ctx g else s)).pumpCore core)

/-- R135: every STORE of a grant's output has completed: its drain has written, and no STORE of its compute section is left to issue
or outstanding. -/
def State.storesDone (s : State) (c : Nat) (l : Launch) (g : Grant) : Bool :=
  g.drained && !g.mute && l.finalPos g && !((l.prog.section false).drop g.cp.pc).any (fun w => opCode w == opStore) &&
    !(s.core c).ops.any (fun o => o.write && o.tile == g.tile && o.gen == g.gen && o.copy == g.copy)

/-- R194: the cached lines whose bytes a STORE writes are invalid before it completes. -/
def State.dropLines (s : State) (c : Nat) (o : StrmOp) : State :=
  ((s.core c).wr.filter (fun w => w.piece.op == o.id && w.piece.win == 0)).foldl (fun s w => s.dropLine c w.pa) s

/-- R116, R135, R194, R256: STORE_COMPLETE: the oldest operation, a STORE with every byte accepted, completes; with the last STORE of an
output its slot becomes DONE. -/
def execStoreComplete (core : Nat) (s : State) : Res :=
  .next (match s.headDone core true with
    | none => s
    | some o => ((s.dropLines core o).opEnds core o (fun s _ g =>
        if s.storesDone core (s.launchOf o.ctx) g then s.closeSlot core o.ctx g 2 else s)).pumpCore core)

/-! Invalidations. -/

/-- R237, R238, R240: entries of a context, or all, leave the TLB, and walks under way begin again. -/
def State.invalidateXlt (s : State) (c v : Nat) : State :=
  if !bitAt v 0 then s
  else
    let x := s.core c
    let all := bitAt v 6
    s.putCore c { x with
      tlb := if all then [] else x.tlb.filter (fun f => f.ctx != bitsOf v 5 2)
      walks := x.walks.map (fun w => { w with stale := true }) }

/-- R240: XLT_INVALIDATE. -/
def execXltInvalidate (core : Nat) (value : Word) (s : State) : Res :=
  .next (if core < 288 then s.invalidateXlt core value.toNat else s)

/-- R193, R209: INVALIDATE. -/
def execInvalidate (core : Nat) (s : State) : Res := .next (if core < 288 then (s.flushCache core).pumpCore core else s)

end Sys2Proof.Machine
end

