-- ==== Sys2Proof/Machine/Product.lean ====
section
/-!
DEFINITION. The operations of a tile that form products (R47 to R54, R73, R78 to R92, R113, R130, R148 to R151, R168 to R171):
MATCH, MMA, ROWFN and MMA2, on the operands that lie in a core's buffers.
-/
namespace Sys2Proof.Machine

/-! Operands in buffers. -/

/-- The buffers of an operand: values, scales, structure, row pointers. -/
structure OpBufs where
  vals   : Nat
  scales : Nat
  map    : Nat
  ptrs   : Nat
deriving DecidableEq, Repr

/-- The reads of an operand's structure and row pointers, as the Scarab makes them. -/
def structReads (d : Desc) (sh : OpShape) (b : OpBufs) : List (Nat × Nat) :=
  if d.spform = 0 ∨ d.spform > 5 then []
  else if d.spform = 1 then [(b.map, sh.n * sh.words * 8), (b.ptrs, 4 * (sh.n + 1))]
  else
    let q := nmShape d.spform
    [(b.map, sh.n * rowBits (sh.k / q.m * q.n) q.ib / 8)]

/-- The bytes of an operand's structure. -/
def State.structBytes (s : State) (d : Desc) (sh : OpShape) (b : OpBufs) : OpBytes :=
  let r := structReads d sh b
  ⟨[], [], (r[0]?).elim [] s.got, (r[1]?).elim [] s.got⟩

/-- The read of an operand's values. -/
def valueRead (d : Desc) (sparse : Bool) (o : OpBytes) (sh : OpShape) (b : OpBufs) : Nat × Nat :=
  let w := elemBits d.fmt
  (b.vals,
    if !sparse || d.spform = 0 then ceilDiv (sh.n * sh.stride) 8
    else if d.spform = 1 then 32 * ptrAt o.ptrs sh.n
    else
      let q := nmShape d.spform
      sh.n * rowBits (sh.k / q.m * q.n) w / 8)

/-- The read of an operand's scales. -/
def scaleRead (d : Desc) (sh : OpShape) (b : OpBufs) : Nat × Nat :=
  (b.scales, if isScaled d.fmt then sh.n * ceilDiv sh.k (blockSize d.fmt) else 0)

/-- R45, R51: the scales that the cells read for `kn` positions from K position `k0`: in each row, those of the blocks that hold
them. -/
def scaleReads (d : Desc) (sh : OpShape) (b : OpBufs) (k0 kn : Nat) : List (Nat × Nat) :=
  if isScaled d.fmt then
    let n := blockSize d.fmt
    (List.range sh.n).map (fun r => (b.scales + r * ceilDiv sh.k n, ceilDiv (k0 % n + kn) n))
  else []

/-- The reads of an operand by the cells; an operand of no positions is not read (R126). -/
def cellReads (d : Desc) (sparse : Bool) (o : OpBytes) (sh : OpShape) (b : OpBufs) (k0 kn : Nat) : List (Nat × Nat) :=
  if kn = 0 then [] else valueRead d sparse o sh b :: scaleReads d sh b k0 kn

/-- An operand read from its buffers; its positions begin at position `k0` of its row. -/
def State.operand (s : State) (d : Desc) (sparse skipZero : Bool) (sh : OpShape) (b : OpBufs) (k0 : Nat) : List OpRow :=
  let o := if sparse then s.structBytes d sh b else ⟨[], [], [], []⟩
  let o := { o with vals := s.got (valueRead d sparse o sh b), scales := s.got (scaleRead d sh b) }
  operandRows d sparse skipZero o sh k0

/-! The operations that a MATCH serves. -/

/-- The product operation of a section that follows place `pc`. -/
def TileProg.productAfter (p : TileProg) (pf : Bool) (pc : Nat) : Option Nat :=
  ((p.section pf).drop (pc + 1)).find? (fun w => opCode w == opMma || opCode w == opMma2)

/-- The shapes of the operands of a product: A and B of an MMA, or of an MMA2 (R148, R163). -/
def Launch.shapes (l : Launch) (second : Bool) (da db : Desc) : OpShape × OpShape :=
  if second then
    let k := l.chunkOut
    (⟨l.tm, k, k * elemBits da.fmt, bitmapWords k⟩, ⟨l.tn, k, rowBits k (elemBits db.fmt), bitmapWords k⟩)
  else
    let ws := tileWords l.tk (decide (l.tk < l.prog.planK))
    (⟨l.tm, l.tk, rowBits l.tk (elemBits da.fmt), ws⟩, ⟨l.tn, l.tk, rowBits l.tk (elemBits db.fmt), ws⟩)

/-- The K positions of a product within the extents. -/
def Launch.productK (l : Launch) (second : Bool) (p : Nat) (g : Grant) : Nat :=
  if second then l.liveK2 p g.jb else l.liveK p g.kb

/-- The K position at which a product's operands begin: of the launch's K in a first product, of the neurons or columns of its J in a
second. -/
def Launch.productStart (l : Launch) (second : Bool) (p : Nat) (g : Grant) : Nat :=
  if second then (if l.gated then l.chunkCol p g.jb / 2 else l.chunkCol p g.jb)
  else (l.passCoord p).k * l.prog.planK + g.kb * l.tk

/-- R74: the K extent of the operands' rows. -/
def Launch.productExt (l : Launch) (second : Bool) : Nat := if !second then l.extK else if l.gated then l.extJ / 2 else l.extJ

/-- R123, R163: a column of a product's B lies within the extents: a chunk column in the first product of a pair, where a gated
pair takes the gate and up columns of its valid neurons. -/
def Launch.colLive (l : Launch) (second : Bool) (p : Nat) (g : Grant) (j : Nat) : Bool :=
  if l.isPair && !second then
    (if l.gated then decide (j % (l.tn / 2) < gatedLive (l.extsIn p).j g.jb l.tn)
      else decide (j < (l.extsIn p).j - g.jb * l.tn))
  else decide (j < l.liveCols p g.nb)

/-- The index in the launch of row `r` of a product's B operand. -/
def Launch.colIndex (l : Launch) (second : Bool) (p : Nat) (g : Grant) (r : Nat) : Nat :=
  if l.isPair && !second then l.chunkCol p g.jb + r else (l.passCoord p).n * l.prog.planN + g.nb * l.tn + r

/-- The module physical addresses of an operand's buffers. -/
def Launch.bufsOf (l : Launch) (c : Nat) (g : Grant) (vals scales map ptrs : Nat) : OpBufs :=
  ⟨bufAddr c (l.buf g vals), bufAddr c (l.buf g scales), bufAddr c (l.buf g map), bufAddr c (l.buf g ptrs)⟩

/-- The launch is the pair step of a predicted layer (R167). -/
def Launch.predPair (l : Launch) : Bool := l.pred.elim false (fun p => !p.isPred)

/-- R168, R173: the pair step reads its mask; one whose layer has switched to dense takes every bit as one. -/
def Launch.masked (l : Launch) : Bool := l.predPair && !l.dense

/-- A dense descriptor of nothing. -/
def Desc.blank : Desc := ⟨0, 0, 0, 32, 0, 0, 0, false, 0, 0, 0, 0, []⟩

/-- The values of a slot. -/
def Launch.slotDesc (l : Launch) (i : Nat) : Desc := (l.slot i).values.getD Desc.blank

/-- R90 to R92: what the Scarab records of a faulty row: the operand, the stored row, the position or group, and a repeated
index in place of PIECE_TAG. -/
def State.rowStop (s : State) (c x : Nat) (g : Grant) (d : Desc) (row : Nat) (f : RowFault) : State :=
  s.errorStop c x g.tile g.gen f.status d.addr row f.pos (if f.extra = none32 then d.tag else f.extra)

/-- R82, R90 to R92: MATCH: the Scarab is armed and checks the structure of both operands on their live rows. -/
def State.doMatch (s : State) (c gi : Nat) (pf : Bool) (n : Next) : State :=
  let l := (s.launchOf n.x).view n.g
  let p := (s.launchOf n.x).passAt n.g
  let pc := (n.g.sect pf).pc
  let second := (l.prog.productAfter pf pc).elim false (fun w => opCode w == opMma2)
  let da := l.slotDesc (fOpa n.w)
  let db := l.slotDesc (fOpb n.w)
  let (sa, sb) := l.shapes second da db
  let ba := l.bufsOf c n.g 0 0 (fA n.w) (fAs n.w)
  let bb := l.bufsOf c n.g 0 0 (fB n.w) (fBs n.w)
  let kn := l.productK second p n.g
  let k0 := l.productStart second p n.g
  let arm (s : State) : State :=
    (s.modGrant c gi (fun g => g.modSect pf (fun k => { k with armed := some n.w }))).issued c gi pf opMatch
  let reads := structReads da sa ba ++ structReads db sb bb
  if l.predPair || n.g.audit then arm s
  else
    if s.anyBad reads then s.parityStop c n.x n.g.tile n.g.gen .scarab reads
    else
      let liveA (r : Nat) : Bool := l.rowLive p n.g.mb r
      match operandFault da (s.structBytes da sa ba) liveA sa kn k0 (l.productExt second) with
      | some (r, f) => s.rowStop c n.x n.g da ((l.rowAt p n.g.mb r).getD r) f
      | none =>
        match operandFault db (s.structBytes db sb bb) (l.colLive second p n.g) sb kn k0 (l.productExt second) with
        | some (r, f) => s.rowStop c n.x n.g db (l.colIndex second p n.g r) f
        | none => ((arm s).countPasses c).noteAcc c ⟨.scarab, false, reads, n.g.own n.x pf⟩

/-- R82: MATCH. -/
def execMatchOp (core g : Nat) (pf : Bool) (s : State) : Res :=
  .next (s.issue core g pf opMatch (fun s n => s.doMatch core g pf n))

/-! Products. -/

/-- What the Scarab counts of a product (R103 to R105). -/
def State.countScarab (s : State) (c : Nat) (k : ScarabCount) : State :=
  ((s.bump (Reg.SCARAB_GROUP_OVER c) Fld.SCARAB_GROUP_OVER_COUNT k.overCnt).bump
    (Reg.SCARAB_MATCH_CNT c) Fld.SCARAB_MATCH_CNT_COUNT k.taken).bump
      (Reg.SCARAB_FLOOR_CYC c) Fld.SCARAB_FLOOR_CYC_COUNT k.floor

/-- A product operation with its operands ready: the set it adds to, the accumulators it starts from. DESIGN CHOICE (log 78): an
operation with SPARSE clear reads the values of a sparse slot as a dense operand. -/
def State.product (s : State) (c gi : Nat) (pf : Bool) (n : Next) (second : Bool) (set : Nat) (start : Acc) : State :=
  let l := (s.launchOf n.x).view n.g
  let p := (s.launchOf n.x).passAt n.g
  let da := l.slotDesc (fOpa n.w)
  let db := l.slotDesc (fOpb n.w)
  let mask := l.predPair && second
  let sparse := fSparse n.w && !mask && !n.g.audit
  let m := (n.g.sect pf).armed.getD 0
  let (sa, sb) := l.shapes second da db
  let ba := l.bufsOf c n.g (fA n.w) (fAs n.w) (fA m) (fAs m)
  let bb := l.bufsOf c n.g (fB n.w) (fBs n.w) (fB m) (fBs m)
  let path := if mask then .bitmap else if sparse then scarabPath da.spform da.declNm db.spform else .dense
  let skipZero := path == .bitmap && !mask
  let oa := if sparse then s.structBytes da sa ba else ⟨[], [], [], []⟩
  let ob := if sparse then s.structBytes db sb bb else ⟨[], [], [], []⟩
  let kn := l.productK second p n.g
  let k0 := l.productStart second p n.g
  let reads := cellReads da sparse oa sa ba k0 kn ++ cellReads db sparse ob sb bb k0 kn
  let maskRead := (ba.map, l.tm * bitmapWords sa.k * 8)
  if s.anyBad reads then s.parityStop c n.x n.g.tile n.g.gen .cells reads
  else if mask && !l.dense && s.anyBad [maskRead] then s.parityStop c n.x n.g.tile n.g.gen .scarab [maskRead]
  else
    let live (r : Nat) : Bool := l.rowLive p n.g.mb r
    let ra := s.operand da sparse skipZero sa ba k0
    let rb := s.operand db sparse skipZero sb bb k0
    let maskBytes := s.got maskRead
    let ra := if mask then ra.mapIdx (fun r x =>
        { x with codes := x.codes.mapIdx (fun j v => if l.dense || bitmapBit maskBytes r sa.k j then v else none) }) else ra
    let cnt := scarabCount path l.prog.gang kn (pairRate2 da.fmt db.fmt) da.spform da.declNm ra rb
    let ra := padRows (padCode da (l.slot (fOpa n.w)).pad) sa.k live ra
    let rb := padRows (padCode db (l.slot (fOpb n.w)).pad) sb.k (l.colLive second p n.g) rb
    let acc := mulAcc ⟨da.fmt, ra⟩ ⟨db.fmt, rb⟩ k0 kn l.tm l.tn start
    let s := if mask && !l.dense then s.noteAcc c ⟨.scarab, false, [maskRead], n.g.own n.x pf⟩ else s
    ((((s.putAcc c set acc).countScarab c cnt).issued c gi pf (opCode n.w)).countPasses c).noteAcc c
      ⟨.cells, false, reads, n.g.own n.x pf⟩

/-- R47, R148: the operation is the first MMA of its section, with which the accumulators begin. -/
def TileProg.firstMma (p : TileProg) (pf : Bool) (pc : Nat) : Bool := !((p.section pf).take pc).any (fun w => opCode w == opMma)

/-- R113: the MMA loads the partial of ACC_IN: it is the first of its section, in the first K pass. DESIGN CHOICE (log 79): on an
MMA that is not the first, ACC_IN has no effect. -/
def Launch.loadsAccIn (l : Launch) (p : Nat) (pf : Bool) (n : Next) : Bool :=
  fAccIn n.w && l.prog.firstMma pf (n.g.sect pf).pc && !(l.isPair && n.g.kb > 0) && (l.passCoord p).k == 0

/-- What the accumulators hold before an MMA: what earlier MMAs of the tile left, the partial of the previous K pass, a partial of
ACC_IN, or +0 (R47, R113, R130, R149). -/
def State.mmaStart (s : State) (c : Nat) (l : Launch) (p : Nat) (pf : Bool) (n : Next) (set : Nat) : Chk Acc :=
  if !l.prog.firstMma pf (n.g.sect pf).pc then .ok ((s.core c).acc set)
  else if l.isPair && n.g.kb > 0 then .ok ((s.core c).acc set)
  else if (l.passCoord p).k > 0 then
    match s.readBy c (l.partVa n.g.mb n.g.nb 0) l.partSize with
    | .error e => .error e
    | .ok b => .ok (accOf l.intTile b)
  else if fAccIn n.w then .ok (accOf l.intTile (s.got (l.bufRead c n.g (fPartialBr n.w) l.partSize)))
  else .ok { Acc.zero with int := l.intTile }

/-- R130: an MMA of a K overflow pass begins with the partial that the pass before it left. -/
def Launch.loadsPass (l : Launch) (p : Nat) (pf : Bool) (n : Next) : Bool :=
  l.prog.firstMma pf (n.g.sect pf).pc && !(l.isPair && n.g.kb > 0) && (l.passCoord p).k > 0

/-- R325: the partial that an MMA begins with can be read. -/
def State.partServed (s : State) (c : Nat) (pf : Bool) (n : Next) : Bool :=
  let l := s.launchOf n.x
  !l.loadsPass (l.passAt n.g) pf n || s.vaServed c (l.partVa n.g.mb n.g.nb 0) l.partSize

/-- R47: MMA. -/
def State.doMma (s : State) (c gi : Nat) (pf : Bool) (n : Next) : State :=
  let l := s.launchOf n.x
  let set := if l.isPair then 0 else n.g.set
  let part := l.bufRead c n.g (fPartialBr n.w) l.partSize
  if l.loadsAccIn (l.passAt n.g) pf n && s.anyBad [part] then s.parityStop c n.x n.g.tile n.g.gen .accLoad [part]
  else
    let s := if l.loadsPass (l.passAt n.g) pf n then s.readUp c (l.partVa n.g.mb n.g.nb 0) l.partSize else s
    let s := if l.loadsAccIn (l.passAt n.g) pf n then s.noteAcc c ⟨.accLoad, false, [part], n.g.own n.x pf⟩ else s
    match s.mmaStart c l (l.passAt n.g) pf n set with
    | .error e => s.stopBy c n.x n.g.tile n.g.gen 0 0 0 e
    | .ok a => s.product c gi pf n false set a

/-- R47: MMA. -/
def execMma (core g : Nat) (pf : Bool) (s : State) : Res :=
  .next (s.issue core g pf opMma (fun s n => if s.partServed core pf n then s.doMma core g pf n else s))

/-- R148: MMA2. -/
def execMma2 (core g : Nat) (pf : Bool) (s : State) : Res :=
  .next (s.issue core g pf opMma2 (fun s n => s.product core g pf n true 1 ((s.core core).acc 1)))

/-! The row-function unit (R151, R155 to R165). -/

/-- The width of an entry of VFMT, and its value as FP32 (R155, R156). -/
def vfmtBytes (v : Nat) : Nat := if v = 0 then 4 else 2
def vfmtVal (v code : Nat) : F32 :=
  if v = 0 then BitVec.ofNat 32 code else if v = 1 then widen fmtBf16 code else widen fmt16 code

/-- The read of `k` vectors of a bias buffer, and the vectors (R155). -/
def Launch.vecRead (l : Launch) (c : Nat) (g : Grant) (br v k : Nat) : Nat × Nat := l.bufRead c g br (k * l.tn * vfmtBytes v)
def vectorOf (bs : List Byte) (v tn i : Nat) : List F32 :=
  let b := vfmtBytes v
  (chunksOf b tn ((bs.drop (i * tn * b)).take (tn * b))).map (fun x => vfmtVal v (ofLE x))

/-- The FP32 values of a set of accumulators: an INT8 tile is rounded once (step 1 of R132). -/
def Acc.values (a : Acc) (tm tn : Nat) : List (List F32) :=
  if a.int then (a.rowsI tm tn).map (fun r => r.map f32OfInt) else a.rowsF tm tn

/-- R55: the second-level scale of an operand. -/
def Desc.second (d : Desc) : F32 := if d.fmt = 0x0E then BitVec.ofNat 32 d.tscale else f32one

/-- R55: the second-level scales of a product applied to its values. -/
def scaled2 (da db : Desc) (rows : List (List F32)) : List (List F32) :=
  if da.fmt = 0x0E ∨ db.fmt = 0x0E then rows.map (fun r => r.map (fun v => secondScale v da.second db.second)) else rows

/-- The states of the tile's rows before their first chunk. -/
def Grant.rowSt (g : Grant) (r : Nat) : RowSt := nth RowSt.start g.rows r

/-- What a row function makes of one row of a chunk: the values emitted, the new state, and the factor of set 1. -/
structure RowOut where
  vals : List F32
  st   : RowSt
  c    : F32
deriving DecidableEq, Repr

/-- R159: a column of the launch is masked for a row: beyond the extent, or by the causal rule. -/
def colMasked (par : ParamEnt) (ext row col : Nat) : Bool :=
  ext ≤ col || (par.causal && decide (par.qpos0 + row < par.kpos0 + col))

/-- R151, R159 to R165: one row of a chunk through a ROWFN. `n` columns lie below the extent and `v` neurons are valid; `gam` is
the vector operand. -/
def rowfnRow (fn : Nat) (par : ParamEnt) (ext row col0 n v : Nat) (gam : List F32) (st : RowSt) (xs : List F32) : RowOut :=
  if fn = fnSoftmax then
    let r := softChunk par.p0 (fun j => colMasked par ext row (col0 + j)) st xs
    ⟨r.p, r.st, r.c⟩
  else if readsVector fn then ⟨(xs.zip gam).map (fun p => fmul p.1 p.2), normChunk n st xs, f32one⟩
  else ⟨plainFn fn par n v xs, st, f32one⟩

/-- R132, R151: the bias of the columns added to a row. -/
def addBias (bias : List F32) (xs : List F32) : List F32 := (xs.zip bias).map (fun p => fadd p.1 p.2)

/-- R59 to R62, R164: the bytes that rows make in a slot's format: values, then scales; `ns` says how many values of each row
count, none for a row that is not written. -/
structure Block where
  vals   : List Byte
  scales : List Byte
  sat    : Nat
  nonfin : Nat
deriving DecidableEq, Repr

/-- Rows converted to a slot's format. -/
def convert (d : Desc) (width : Nat) (rows : List (List F32 × Option Nat)) : Block :=
  let cs := rows.map (fun r => match r.2 with
    | some n => convRow d.fmt (BitVec.ofNat 32 d.tscale) width n r.1
    | none => convNone d.fmt width)
  ⟨cs.flatMap (fun k => packElems (elemBits d.fmt) k.codes), cs.flatMap (fun k => k.scales.map (fun v => BitVec.ofNat 8 v)),
    (cs.map (·.sat)).sum, (cs.map (·.nonfin)).sum⟩

/-- R65: a tile reads a set that holds a NaN or an infinity: its output tile counts once. An audit tile has none. -/
def State.countNonfin (s : State) (c gi : Nat) (g : Grant) (a : Acc) : State :=
  if g.nonfin || g.audit || a.int || !a.f.any nonFinite then s
  else
    (s.bump (Reg.CELL_NONFIN_TILE_CNT c) Fld.CELL_NONFIN_TILE_CNT_COUNT 1).modGrant c gi (fun g => { g with nonfin := true })

/-- R171: |h| as a fixed-point mass with least significant bit 2^-24, saturating. -/
def massOf (h : F32) : Nat :=
  match dec32 h with
  | .nan => 2 ^ 64 - 1
  | .inf _ => 2 ^ 64 - 1
  | .fin _ m e => let (n, d) := scale2 m 1 (e + 24); min (rne n d) (2 ^ 64 - 1)

/-- R171: the masses of one chunk of an audited row: missed, total. -/
def massesOf (v : Nat) (maskBit : Nat → Bool) (h : List F32) : Nat × Nat :=
  ((h.take v).mapIdx (fun j x => (massOf x, maskBit j))).foldl
    (fun a x => (a.1 + (if x.2 then 0 else x.1), a.2 + x.1)) (0, 0)

/-- The scale buffer of the MMA2 that follows a ROWFN (R151). -/
def TileProg.mma2After (p : TileProg) (pf : Bool) (pc : Nat) : Nat :=
  (((p.section pf).drop (pc + 1)).find? (fun w => opCode w == opMma2)).getD 0

/-- The values that a ROWFN emits for every row of the tile (R151). -/
def State.rowfnOuts (s : State) (c : Nat) (l : Launch) (p : Nat) (n : Next) : List RowOut :=
  let mma := (l.prog.first opMma).getD 0
  let par := l.param (rfPset n.w)
  let fn := rfFn n.w
  let xs := scaled2 (l.slotDesc (fOpa mma)) (l.slotDesc (fOpb mma)) (((s.core c).acc 0).values l.tm l.tn)
  let vec := vectorOf (s.got (l.vecRead c n.g (rfBiasBr n.w) par.vfmt 1)) par.vfmt l.tn 0
  let xs := if rfBias n.w && !hasVector fn then xs.map (addBias vec) else xs
  let live := min l.tn ((l.extsIn p).j - n.g.jb * l.tn)
  xs.mapIdx (fun r x =>
    if l.rowLive p n.g.mb r then
      rowfnRow fn par l.extJ ((l.rowAt p n.g.mb r).getD 0) (l.chunkCol p n.g.jb) live
        (gatedLive (l.extsIn p).j n.g.jb l.tn) vec (n.g.rowSt r) x
    else ⟨List.replicate l.chunkOut f32zero, n.g.rowSt r, f32one⟩)

/-- R168, R171: the mask buffer of a pair tile. -/
def State.maskOf (s : State) (c : Nat) (l : Launch) (g : Grant) : List Byte :=
  s.got (l.bufRead c g (fA ((l.prog.first opMatch).getD 0)) (l.tm * bitmapWords l.chunkOut * 8))

/-- R171: the masses of a chunk added to those of the audit tile's rows. -/
def addMasses (l : Launch) (p : Nat) (g : Grant) (mask : List Byte) (outs : List RowOut) : List (Nat × Nat × Nat) :=
  (outs.mapIdx (fun r o => (r, o))).filterMap (fun ro =>
    if !l.rowLive p g.mb ro.1 then none
    else
      let row := (l.rowAt p g.mb ro.1).getD 0
      let old := ((g.masses.find? (fun m => m.1 == row)).map (·.2)).getD (0, 0)
      let new := massesOf (gatedLive (l.extsIn p).j g.jb l.tn) (fun j => bitmapBit mask ro.1 l.chunkOut j) ro.2.vals
      some (row, old.1 + new.1, old.2 + new.2))

/-- The exact product of an integer and a factor, where it is an integer that an accumulator holds. -/
def exactProduct (v : Int) (c : F32) : Option Int :=
  match dec32 c with
  | .fin neg m e =>
    let x := if neg then -(v * m) else v * m
    let y := if 0 ≤ e then x * (2 ^ e.toNat : Nat) else x / (2 ^ (-e).toNat : Nat)
    if (0 ≤ e ∨ x % (2 ^ (-e).toNat : Nat) = 0) ∧ wrap48 y = y then some y else none
  | _ => none

/-- R159 on an integer accumulator: the exact product where the accumulator holds it. The manual states no rounding of integer
accumulators: any other product is a free value of the accumulator and the factor (log 30). -/
def rescaleInt (v : Int) (c : F32) : Int := (exactProduct v c).getD (wrap48 (Config.intRescale v c))

/-- R159: set 1 rescaled row by row before the second product of a chunk. -/
def State.rescale (s : State) (c : Nat) (l : Launch) (outs : List RowOut) : State :=
  let a := (s.core c).acc 1
  s.putAcc c 1 (if a.int then ⟨true, [], ((a.rowsI l.tm l.tn).zip outs).flatMap (fun r => r.1.map (fun v => rescaleInt v r.2.c))⟩
    else ⟨false, ((a.rowsF l.tm l.tn).zip outs).flatMap (fun r => r.1.map (fun v => fmul v r.2.c)), []⟩)

/-- R151, R168, R171: ROWFN at the last K block of a chunk. -/
def State.doRowfn (s : State) (c gi : Nat) (pf : Bool) (n : Next) : State :=
  let l := (s.launchOf n.x).view n.g
  let p := (s.launchOf n.x).passAt n.g
  let par := l.param (rfPset n.w)
  let fn := rfFn n.w
  let useMask := (l.masked || n.g.audit) && gatedFn fn
  let reads := (if rfBias n.w || readsVector fn then [l.vecRead c n.g (rfBiasBr n.w) par.vfmt 1] else []) ++
    (if useMask then [l.bufRead c n.g (fA ((l.prog.first opMatch).getD 0)) (l.tm * bitmapWords l.chunkOut * 8)] else [])
  if s.anyBad reads then s.parityStop c n.x n.g.tile n.g.gen .drain reads
  else
    let outs := s.rowfnOuts c l p n
    let mask := s.maskOf c l n.g
    let s := (s.countNonfin c gi n.g ((s.core c).acc 0)).noteAcc c ⟨.drain, false, reads, n.g.own n.x pf⟩
    if n.g.audit then
      let ms := addMasses l p n.g mask outs
      (s.modGrant c gi (fun g => { g with masses := ms })).issued c gi pf opRowfn
    else
      let vals := outs.mapIdx (fun r o =>
        if useMask then o.vals.mapIdx (fun j v => if bitmapBit mask r l.chunkOut j then v else f32zero) else o.vals)
      let d := l.slotDesc (rfSlot n.w)
      let cnt := l.liveK2 p n.g.jb
      let b := convert d l.chunkOut (vals.mapIdx (fun r v => (v, if l.rowLive p n.g.mb r then some cnt else none)))
      let s := s.countConv c b.sat b.nonfin
      let at_ := bufAddr c (l.buf n.g (rfOut n.w))
      let sat := bufAddr c (l.buf n.g (fAs (l.prog.mma2After pf (n.g.sect pf).pc)))
      let s := s.landAt .drain at_ b.vals
      let s := if isScaled d.fmt then s.landAt .drain sat b.scales else s
      let s := s.noteAcc c ⟨.drain, true, (at_, b.vals.length) :: (if isScaled d.fmt then [(sat, b.scales.length)] else []),
        n.g.own n.x pf⟩
      let s := if fn = fnSoftmax then s.rescale c l outs else s
      (s.modGrant c gi (fun g => { g with rows := outs.map (·.st) })).issued c gi pf opRowfn

/-- R151: ROWFN. -/
def execRowfn (core g : Nat) (pf : Bool) (s : State) : Res :=
  .next (s.issue core g pf opRowfn (fun s n => s.doRowfn core g pf n))

end Sys2Proof.Machine
end

