-- ==== Sys2Proof/Machine/Drain.lean ====
section
/-!
DEFINITION. The drain (R129 to R137, R151 to R166, R605): partials, carried state, the steps of R132 with the row functions of
a DRAIN, the claim of the output slot, and the combine of a K split.
-/
namespace Sys2Proof.Machine

/-! Memory written by a unit of a core for a tile. -/

/-- Bytes written at a task virtual address through a core for a context; what the step has written is kept for R474. -/
def State.putVa (s : State) (c x va : Nat) (bs : List Byte) : Chk State :=
  match s.coreRoot c with
  | none => .error (.xlt 5 va 0 0)
  | some root =>
    match s.rangesOf root va bs.length true with
    | .error e => .error e
    | .ok l => .ok ((s.storeAll l bs).putCtx x { s.ctx x with wrote := l ++ (s.ctx x).wrote })

/-- A drain that writes nothing more for its tile. -/
def State.muteTile (s : State) (c gi : Nat) (posted : Bool) : State :=
  s.modGrant c gi (fun g => { g with mute := true, drained := true, stands := g.stands || posted, won := !posted })

/-- R23, R25: the vote of a drain in the Assured profile; in the Capacity profile, and outside matrix tiles, every drain
writes. -/
def State.voteFor (s : State) (c x : Nat) (l : Launch) (g : Grant) (out : List Byte) : State × VoteRes :=
  if s.assured && l.prog.isMatrix then s.vote c x g (signature g.tile g.gen out) else (s, .write)

/-! Partials and carried state (R130, R134, R153, R154, R605). -/

/-- R134: the release of a partial; the core whose release completes the count runs the combine. -/
def State.releasePart (s : State) (c gi x : Nat) (l : Launch) (g : Grant) : State :=
  let key := l.outKey g.tile
  let ks := distinct (g.kb :: tget [] (s.ctx x).released key)
  let full := ks.length == (l.liveKbs (l.passAt g)).length
  let s := s.putCtx x { s.ctx x with
    released := tput [] (s.ctx x).released key ks
    combines := if full then key :: (s.ctx x).combines else (s.ctx x).combines }
  s.modGrant c gi (fun g => { g with stands := true, combine := g.combine || full })

/-- R233: bytes that a drain writes for its tile after its vote, through its core's TLB; `after` follows once they lie there. -/
def State.drainTo (s : State) (c gi : Nat) (pf : Bool) (n : Next) (va : Nat) (bs : List Byte) (after : State → State) : State :=
  let (s, r) := s.voteFor c n.x (s.launchOf n.x) n.g bs
  match r with
  | .lost => s
  | .posted => (s.muteTile c gi true).issued c gi pf opDrain
  | .write =>
    let s := s.lookUp c va bs.length
    match s.putVa c n.x va bs with
    | .error e => s.stopBy c n.x n.g.tile n.g.gen 0 0 0 e
    | .ok s => (after (s.muteTile c gi false)).issued c gi pf opDrain

/-- R153: the bytes of set 1 in FP32, unscaled. DESIGN CHOICE (log 30): integers of an INT8 second product are each rounded once. -/
def carryBytes (tm tn : Nat) (a : Acc) : List Byte := bytesOfF (if a.int then (a.rowsI tm tn).map (fun r => r.map f32OfInt) else a.rowsF tm tn)

/-- R153: the bytes of m and l of the tile's rows. -/
def rowStateBytes (tm : Nat) (g : Grant) : List Byte :=
  (List.range tm).flatMap (fun r => leBytes 4 (g.rowSt r).m.toNat ++ leBytes 4 (g.rowSt r).l.toNat)

/-- The rows' states with m and l taken from carried bytes. -/
def rowStatesOf (tm : Nat) (bs : List Byte) : List RowSt :=
  (chunksOf 8 tm bs).map (fun b => { RowSt.start with m := BitVec.ofNat 32 (fieldLE b 0 4), l := BitVec.ofNat 32 (fieldLE b 4 4) })

/-! The steps of R132 on rows of FP32 values. -/

/-- R151, R159, R161, R162: the deferred factor of a pair on one row of set 1; `cg` and `cb` are the vectors of a LAYERNORM
pair. -/
def deferred (l : Launch) (st : RowSt) (cg cb : List F32) (xs : List F32) : List F32 :=
  let w := l.rowfnWord
  let fn := rfFn w
  let par := l.param (rfPset w)
  if l.extJ = 0 then (if fn = fnLayernorm then xs.map (fun _ => f32zero) else xs)
  else if fn = fnSoftmax then xs.map (softDiv st.l)
  else if fn = fnRmsnorm then (let r := rmsFactor l.extJ par.p0 st; xs.map (fun v => fmul v r))
  else if fn = fnLayernorm then
    let mu := lnMean l.extJ st
    let r := lnFactor l.extJ par.p0 st
    (xs.zip (cg.zip cb)).map (fun p => fadd (fmul (fsub p.1 (fmul mu p.2.1)) r) p.2.2)
  else xs

/-- R154, R159, R161, R162: a whole-row function of a DRAIN on one row; `n` columns lie below the extent, `st` holds the m and l
of a second sweep. -/
def drainWhole (fn : Nat) (par : ParamEnt) (ext row col0 n : Nat) (swept : Option RowSt) (v0 v1 xs : List F32) : List F32 :=
  if fn = fnSoftmax then
    let masked (j : Nat) : Bool := colMasked par ext row (col0 + j)
    match swept with
    | none => let r := softChunk par.p0 masked RowSt.start xs; r.p.map (softDiv r.st.l)
    | some st =>
      (scores par.p0 masked xs).map (fun v => if st.m = f32ninf then f32zero else softDiv st.l (fexp (fsub v st.m)))
  else
    let st := normChunk n RowSt.start xs
    if fn = fnRmsnorm then
      let r := rmsFactor ext par.p0 st
      (xs.zip v0).map (fun p => fmul (fmul p.1 r) p.2)
    else
      let mu := lnMean ext st
      let r := lnFactor ext par.p0 st
      (xs.zip (v0.zip v1)).map (fun p => fadd (fmul (fmul (fsub p.1 mu) r) p.2.1) p.2.2)

/-- A row of a drain's output: its place in the tile, the codes of its elements within the extent, their block scales, and its entry
of the scale vector of QUANT_ROW. -/
structure OutRow where
  row    : Nat
  codes  : List Nat
  scales : List Nat
  rho    : Option F32
deriving DecidableEq, Repr

/-- The output of a drain: the rows within the extent (R123), with the bits of an element and the elements and scales that a row takes
in the buffer (R246), and what its conversions count (R63, R64). -/
structure OutBlock where
  w      : Nat
  width  : Nat
  nsc    : Nat
  rows   : List OutRow
  sat    : Nat
  nonfin : Nat
deriving DecidableEq, Repr

/-- R123, R166, R246: where an output goes: the values from `at_`, the scales from byte `v` behind it, the scale vector of
QUANT_ROW from `rho`. -/
def OutBlock.runs (b : OutBlock) (at_ v rho : Nat) : List BitRun :=
  b.rows.flatMap (fun r =>
    ⟨at_, r.row * (b.width * b.w), r.codes.length * b.w, packNum b.w r.codes⟩ ::
    ⟨at_ + v, 8 * (r.row * b.nsc), 8 * r.scales.length, packNum 8 r.scales⟩ ::
    r.rho.elim [] (fun x => [⟨rho, 32 * r.row, 32, x.toNat⟩]))

/-- The bytes of an output as the signature takes them (R26): every run that is written, each from a whole byte (log 24). -/
def OutBlock.bytes (b : OutBlock) : List Byte := (b.runs 0 0 0).flatMap (fun r => leBytes (ceilDiv r.n 8) r.val)

/-- R164: one bit for each column of the words that hold the extent: one for selected. -/
def selectBits (tn n : Nat) (sel : List Bool) : List Nat :=
  (List.range (min tn (alignUp n 64))).map (fun j => if nth false sel j then 1 else 0)

/-- The rows of a tile within the extents with their places (R123). -/
def liveRows {α : Type} (live : Nat → Bool) (rows : List α) : List (α × Nat) := rows.zipIdx.filter (fun r => live r.2)

/-- R127: the function of the final DRAIN: none where the pair has no chunk. -/
def Launch.drainFn (l : Launch) (w : Nat) : Nat := if l.isPair && l.extJ == 0 then fnNone else drFn w

/-- R132 steps 5 and 6 on rows: the row function, then the conversion. `swept` holds the rows' states in a second sweep. -/
def outBlock (l : Launch) (p : Nat) (g : Grant) (w : Nat) (swept : Option (List RowSt)) (v0 v1 : List F32)
    (rows : List (List F32)) : OutBlock :=
  let d := l.slotDesc (drSlot w)
  let fn := l.drainFn w
  let par := l.param (drPset w)
  let col0 := (l.passCoord p).n * l.prog.planN + g.nb * l.tn
  let n := l.liveCols p g.nb
  let v := gatedLive (l.extsIn p).n g.nb l.tn
  let width := if gatedFn (drFn w) then l.tn / 2 else l.tn
  let cnt := min width (if gatedFn (drFn w) then v else n)
  let xs := liveRows (l.rowLive p g.mb) rows
  if (drFn w = fnThresh ∨ drFn w = fnTopk) ∧ d.spform = 1 then
    ⟨1, l.tn, 0, xs.map (fun x => ⟨x.2, selectBits l.tn n (if fn = fnNone then [] else selected fn par n x.1), [], none⟩), 0, 0⟩
  else if fn = fnQuantRow then
    let qs := xs.map (fun x => (x.2, quantRow d.fmt n x.1))
    ⟨elemBits d.fmt, l.tn, 0, qs.map (fun q => ⟨q.1, q.2.codes.take n, [], some q.2.rho⟩),
      (qs.map (·.2.sat)).sum, (qs.filter (·.2.nonfin)).length⟩
  else
    let ys := xs.map (fun x =>
      (x.2, convRow d.fmt (BitVec.ofNat 32 d.tscale) cnt cnt (
        if wholeRow fn then
          drainWhole fn par l.extN ((l.rowAt p g.mb x.2).getD 0) col0 n (swept.map (fun s => nth RowSt.start s x.2)) v0 v1 x.1
        else plainFn fn par n v x.1)))
    ⟨elemBits d.fmt, width, if isScaled d.fmt then ceilDiv width (blockSize d.fmt) else 0,
      ys.map (fun y => ⟨y.1, y.2.codes, y.2.scales, none⟩), (ys.map (·.2.sat)).sum, (ys.map (·.2.nonfin)).sum⟩

/-- R59: rows of integers written as INT32. -/
def outInts (l : Launch) (p : Nat) (g : Grant) (rows : List (List Int)) : OutBlock :=
  let qs := (liveRows (l.rowLive p g.mb) rows).map (fun x => (x.2, (x.1.take (l.liveCols p g.nb)).map narrowInt48))
  ⟨32, l.tn, 0, qs.map (fun q => ⟨q.1, q.2.map (·.1), [], none⟩), (qs.map (fun q => (q.2.filter (·.2)).length)).sum, 0⟩

/-- R246: the byte of an output buffer at which the scales begin: the values of the whole tile, up to a multiple of 32. -/
def OutBlock.scalesAt (b : OutBlock) (tm : Nat) : Nat := alignUp (ceilDiv (tm * (b.width * b.w)) 8) 32

/-- R246: where an output goes in the buffers that its DRAIN names. -/
def Launch.outRuns (l : Launch) (c : Nat) (g : Grant) (w : Nat) (b : OutBlock) : List BitRun :=
  b.runs (bufAddr c (l.buf g (drOut w))) (b.scalesAt l.tm) (bufAddr c (l.buf g (drBiasBr w)))

/-- The output in its buffer (R246), written by an agent; the slot is claimed (R135). -/
def State.writeOut (s : State) (c gi x : Nat) (u : SpadUnit) (l : Launch) (g : Grant) (w : Nat) (b : OutBlock) : State :=
  let s := s.landRuns c u (g.own x false) (l.outRuns c g w b)
  let s := s.putCtx x ((s.ctx x).setSlot (l.outKey g.tile) 1 c)
  s.modGrant c gi (fun g => { g with drained := true, won := true })

/-- The reads of the bias buffer by a DRAIN: one vector, or two for LAYERNORM. -/
def biasReads (c : Nat) (l : Launch) (g : Grant) (w : Nat) : List (Nat × Nat) :=
  let par := l.param (drPset w)
  let ln := l.isPair && rfFn l.rowfnWord == fnLayernorm
  if drFn w = fnLayernorm ∨ (ln && drBias w) then [l.vecRead c g (drBiasBr w) par.vfmt 2]
  else if readsVector (drFn w) || (drBias w && drFn w ≠ fnQuantRow) then [l.vecRead c g (drBiasBr w) par.vfmt 1]
  else []

/-- Vector `i` of the bias buffer of a DRAIN. -/
def State.biasVec (s : State) (c : Nat) (l : Launch) (g : Grant) (w i : Nat) : List F32 :=
  let par := l.param (drPset w)
  vectorOf (s.got (l.vecRead c g (drBiasBr w) par.vfmt 2)) par.vfmt l.tn i

/-- Step 4 of R132 on rows. DESIGN CHOICE (log 81): a DRAIN SOFTMAX outside a pair with BIAS set adds its bias as any other. -/
def State.biased (s : State) (c : Nat) (l : Launch) (g : Grant) (w : Nat) (rows : List (List F32)) : List (List F32) :=
  if drBias w && !hasVector (drFn w) && !(l.isPair && rfFn l.rowfnWord == fnLayernorm) then
    rows.map (addBias (s.biasVec c l g w 0))
  else rows

/-- The output of a tile from its values after step 3 of R132: from integers where R132 keeps them, from FP32 rows
otherwise. -/
def State.outputOf (s : State) (c : Nat) (l : Launch) (g : Grant) (w : Nat) (swept : Option (List RowSt))
    (ints : Option (List (List Int))) (rows : List (List F32)) : OutBlock :=
  let p := l.passAt g
  let d := l.slotDesc (drSlot w)
  match ints with
  | some is =>
    if d.fmt = 0x04 ∧ !drBias w ∧ drFn w = fnNone then outInts l p g is
    else
      outBlock l p g w swept (s.biasVec c l g w 0) (s.biasVec c l g w 1)
        (s.biased c l g w (is.map (fun r => r.map f32OfInt)))
  | none => outBlock l p g w swept (s.biasVec c l g w 0) (s.biasVec c l g w 1) (s.biased c l g w rows)

/-- The rows that a final DRAIN starts from: set 1 of a pair with its deferred factor, or the tile's set, after step 2. DESIGN CHOICE
(log 82): where a program has several MMAs, or MMA2s, the second-level scales are those of the slots of the first. -/
def State.drainRows (s : State) (c : Nat) (l : Launch) (g : Grant) (w : Nat) : List (List F32) :=
  if l.isPair then
    let m := (l.prog.first opMma2).getD 0
    let xs := scaled2 (l.slotDesc (fOpa m)) (l.slotDesc (fOpb m)) (((s.core c).acc 1).values l.tm l.tn)
    let cg := s.biasVec c l g w 0
    let cb := s.biasVec c l g w 1
    xs.mapIdx (fun r x => deferred l (g.rowSt r) cg cb x)
  else
    let m := (l.prog.first opMma).getD 0
    scaled2 (l.slotDesc (fOpa m)) (l.slotDesc (fOpb m)) (((s.core c).acc g.set).values l.tm l.tn)

/-- The set that a DRAIN reads. -/
def Launch.outSet (l : Launch) (g : Grant) : Nat := if l.isPair then 1 else g.set

/-- R151, R159 to R162: the final DRAIN of a pair applies a deferred factor to set 1. -/
def Launch.hasFactor (l : Launch) : Bool := l.isPair && l.extJ != 0 && wholeRow (rfFn l.rowfnWord)

/-- R132, R605: the bytes of a partial: the integers of an INT8 set, FP32 values otherwise, which a K overflow pass leaves
unscaled (R130). -/
def State.partBytes (s : State) (c : Nat) (l : Launch) (g : Grant) (w : Nat) : List Byte :=
  let a := (s.core c).acc (l.outSet g)
  if a.int then bytesOfI (a.rowsI l.tm l.tn)
  else bytesOfF (if l.midK (l.passAt g) then a.rowsF l.tm l.tn else s.drainRows c l g w)

/-- R135, R147: what a drain of a stale generation, or one that finds its slot DONE, would write is discarded and counted. -/
def State.discardDrain (s : State) (c gi : Nat) (pf : Bool) (n : Next) : State :=
  ((s.discardTile c n.x n.g).muteTile c gi false).issued c gi pf opDrain

/-- The DRAIN of R132 that reaches step 6. -/
def State.drainFinal (s : State) (c gi : Nat) (pf : Bool) (n : Next) (swept : Option (List RowSt)) : State :=
  let l := (s.launchOf n.x).view n.g
  let key := l.outKey n.g.tile
  let a := (s.core c).acc (l.outSet n.g)
  let reads := biasReads c l n.g n.w
  if s.claim n.x c key = .wait then s
  else if s.anyBad reads then s.parityStop c n.x n.g.tile n.g.gen .drain reads
  else
    let ints := if a.int && !l.hasFactor then some (a.rowsI l.tm l.tn) else none
    let b := s.outputOf c l n.g n.w swept ints (s.drainRows c l n.g n.w)
    let s := ((s.countNonfin c gi n.g a).countConv c b.sat b.nonfin).noteAcc c ⟨.drain, false, reads, n.g.own n.x pf⟩
    let (s, r) := s.voteFor c n.x l n.g b.bytes
    match r with
    | .lost => s
    | .posted => (s.muteTile c gi true).issued c gi pf opDrain
    | .write =>
      if s.claim n.x c key = .discard then s.discardDrain c gi pf n
      else (s.writeOut c gi n.x .drain l n.g n.w b).issued c gi pf opDrain

/-- R154, R159: m and l of the rows of a tile after one pass of the first sweep. -/
def sweepStates (l : Launch) (g : Grant) (w : Nat) (rows : List (List F32)) : List RowSt :=
  let par := l.param (drPset w)
  let col0 := (l.passCoord (l.passAt g)).n * l.prog.planN + g.nb * l.tn
  rows.mapIdx (fun r x =>
    (softChunk par.p0 (fun j => colMasked par l.extN ((l.rowAt (l.passAt g) g.mb r).getD 0) (col0 + j)) (g.rowSt r) x).st)

/-- R154: the first sweep of a DRAIN SOFTMAX: m and l of the rows go to the next pass. -/
def State.drainSweep (s : State) (c gi : Nat) (pf : Bool) (n : Next) : State :=
  let l := (s.launchOf n.x).view n.g
  let reads := biasReads c l n.g n.w
  if s.anyBad reads then s.parityStop c n.x n.g.tile n.g.gen .drain reads
  else
  let sts := sweepStates l n.g n.w (s.biased c l n.g n.w (s.drainRows c l n.g n.w))
  let s := (s.countNonfin c gi n.g ((s.core c).acc n.g.set)).noteAcc c ⟨.drain, false, reads, n.g.own n.x pf⟩
  s.drainTo c gi pf n (l.carryVa n.g.mb n.g.nb + 16384) (rowStateBytes l.tm { n.g with rows := sts }) id

/-- R130, R132 to R137, R153, R154: DRAIN. -/
def State.doDrain (s : State) (c gi : Nat) (pf : Bool) (n : Next) : State :=
  let l := (s.launchOf n.x).view n.g
  let p := l.passAt n.g
  let q := l.passCoord p
  let reads := biasReads c l n.g n.w
  if s.stale n.x n.g then s.discardDrain c gi pf n
  else if l.isPair && q.j + 1 < l.passes.j then
    (s.countNonfin c gi n.g ((s.core c).acc 1)).drainTo c gi pf n (l.carryVa n.g.mb n.g.nb)
      (carryBytes l.tm l.tn ((s.core c).acc 1) ++ rowStateBytes l.tm n.g) id
  else if drPartial n.w || l.kbs > 1 || l.midK p then
    if l.hasFactor && s.anyBad reads then s.parityStop c n.x n.g.tile n.g.gen .drain reads
    else
      let bs := s.partBytes c l n.g n.w
      let s := if l.hasFactor then s.noteAcc c ⟨.drain, false, reads, n.g.own n.x pf⟩ else s
      (s.countNonfin c gi n.g ((s.core c).acc (l.outSet n.g))).drainTo c gi pf n (l.partVa n.g.mb n.g.nb n.g.kb) bs
        (fun s => if l.kbs > 1 then s.releasePart c gi n.x l n.g else s)
  else if l.sweeps > 1 && l.sweepOf n.g.tile = 0 then s.drainSweep c gi pf n
  else s.drainFinal c gi pf n (if l.sweeps > 1 then some n.g.rows else none)

/-- R132: DRAIN. -/
def execDrain (core g : Nat) (pf : Bool) (s : State) : Res :=
  .next (s.issue core g pf opDrain (fun s n => (s.doDrain core g pf n).settle))

/-! The combine of a K split (R134). -/

/-- The partials of a tile in ascending kb order, as accumulators. -/
def State.partials (s : State) (c : Nat) (l : Launch) (g : Grant) : Chk (List Acc) :=
  (l.liveKbs (l.passAt g)).foldr (fun kb (acc : Chk (List Acc)) =>
    match s.readBy c (l.partVa g.mb g.nb kb) l.partSize with
    | .error e => .error e
    | .ok b => acc.map (fun t => accOf l.intTile b :: t)) (.ok [])

/-- R134: partials added in order: FP32 with one rounding each, integers exactly, in 64 bits. -/
def addParts (int : Bool) : List Acc → Acc
  | [] => { Acc.zero with int := int }
  | a :: l => l.foldl (fun x y =>
      if int then { x with i := (x.i.zip y.i).map (fun p => signed 64 (unsigned 64 (p.1 + p.2))) }
      else { x with f := (x.f.zip y.f).map (fun p => fadd p.1 p.2) }) a

/-- A grant whose combine can run: its release completed the count, or it was taken from the re-issue list and stands at its
DRAIN with the vectors of its bias buffer loaded. -/
def Grant.combines (g : Grant) (l : Launch) : Bool :=
  g.combine && !g.merged && g.running && g.arrived &&
    (if g.relist then g.cp.pc == l.prog.drainIn false && g.cp.open_.isEmpty && g.pf.open_.isEmpty &&
        !((l.prog.section true).drop g.pf.pc).any l.prog.loadsVectors
     else g.cp.pc > l.prog.drainIn false)

/-- The combine has run: the grant goes on with the operations after its DRAIN. -/
def State.combined (s : State) (c gi x key : Nat) (mute : Bool) : State :=
  let s := s.putCtx x { s.ctx x with combines := (s.ctx x).combines.filter (fun k => k != key) }
  (s.modGrant c gi (fun g =>
    { g with
      merged := true, mute := mute, drained := true
      cp := if g.relist then { g.cp with pc := g.cp.pc + 1, seq := g.cp.seq + 1 } else g.cp
      issued := true, wdog := true })).turnPos c gi

/-- R233: the pages of a tile's partials looked up by the core that adds them. -/
def State.lookPartials (s : State) (c : Nat) (l : Launch) (g : Grant) : State :=
  (l.liveKbs (l.passAt g)).foldl (fun s kb => s.readUp c (l.partVa g.mb g.nb kb) l.partSize) s

/-- R325: the partials of a tile can be read. -/
def State.partialsServed (s : State) (c : Nat) (l : Launch) (g : Grant) : Bool :=
  (l.liveKbs (l.passAt g)).all (fun kb => s.vaServed c (l.partVa g.mb g.nb kb) l.partSize)

/-- R134, R154: the combine of a tile of the first sweep: m and l of its rows go to the next pass, and nothing else is written. -/
def State.combineSweep (s : State) (c gi x : Nat) (l : Launch) (g : Grant) (w : Nat) (a : Acc) : State :=
  let va := l.carryVa g.mb g.nb + 16384
  let bs := rowStateBytes l.tm { g with rows := sweepStates l g w (s.biased c l g w (a.values l.tm l.tn)) }
  let s := s.lookUp c va bs.length
  match s.putVa c x va bs with
  | .error e => s.stopBy c x g.tile g.gen 0 0 0 e
  | .ok s => s.combined c gi x (l.outKey g.tile) true

/-- R134: the combine of a grant. -/
def State.doCombine (s : State) (c gi x : Nat) (g : Grant) : State :=
  let l := (s.launchOf x).view g
  let w := (l.prog.first opDrain).getD 0
  let key := l.outKey g.tile
  let reads := biasReads c l g w
  let first := l.sweeps > 1 && l.sweepOf g.tile == 0
  if s.stale x g then (s.discardTile c x g).combined c gi x key true
  else if !first && s.claim x c key = .wait then s
  else if s.anyBad reads then s.parityStop c x g.tile g.gen .vector reads
  else
    let s := s.lookPartials c l g
    match s.partials c l g with
    | .error e => s.stopBy c x g.tile g.gen 0 0 0 e
    | .ok ps =>
      let a := addParts l.intTile ps
      if first then (s.noteAcc c ⟨.vector, false, reads, g.own x false⟩).combineSweep c gi x l g w a
      else
      let ints := if a.int then some (a.rowsI l.tm l.tn) else none
      let b := s.outputOf c l g w (if l.sweeps > 1 then some g.rows else none) ints (a.rowsF l.tm l.tn)
      let s := (s.countConv c b.sat b.nonfin).noteAcc c ⟨.vector, false, reads, g.own x false⟩
      if s.claim x c key = .discard then (s.discardTile c x g).combined c gi x key true
      else (s.writeOut c gi x .vector l g w b).combined c gi x key false

/-- R134: KSPLIT_COMBINE. -/
def execKsplitCombine (core : Nat) (s : State) : Res :=
  .next (match (s.core core).ctx with
    | none => s
    | some x =>
      if (s.ctx x).run ≠ .running then s
      else
        match (s.core core).grants.findIdx? (fun g => g.combines (s.launchOf x)) with
        | none => s
        | some gi =>
          match s.grantAt core gi with
          | none => s
          | some g => if s.partialsServed core (s.launchOf x) g then s.doCombine core gi x g else s)

end Sys2Proof.Machine
end

