-- ==== Sys2Proof/Machine/Sequencer.lean ====
section
/-!
DEFINITION. The tile sequencer (R113 to R118): the operations that move data, and the tokens and fences that order a tile's
sections.
-/
namespace Sys2Proof.Machine

/-- R113: NOP. -/
def execNop (core g : Nat) (pf : Bool) (s : State) : Res :=
  .next (s.issue core g pf opNop (fun s _ => s.issued core g pf opNop))

/-- The rows and columns that a STORE may write, where its COORD passes the coordinate (R247). -/
def clipOf (l : Launch) (g : Grant) (w : Nat) : Option Nat × Option Nat :=
  let e := l.extsIn (l.passAt g)
  (if bitAt (fCoord w) 0 then some (e.m - g.mb * l.tm) else none,
   if bitAt (fCoord w) 1 then some (e.n - g.nb * l.tn) else none)

/-- R168: a LOAD brings the mask of a predicted layer. -/
def isMaskLoad (l : Launch) (g : Grant) (w : Nat) : Bool :=
  l.masked && !g.audit && fPart w == 2 && (l.prog.first opMatch).elim false (fun m => fA m == fA w)

/-- R168: a LOAD that waits for the mask of its run position: the program brings one, and it has not been loaded. -/
def isHeldLoad (l : Launch) (g : Grant) (w : Nat) : Bool :=
  !isMaskLoad l g w && !g.maskIn && l.prog.ops.any (fun v => opCode v == opLoad && isMaskLoad l g v)

/-- R113, R256: the stream operation that a LOAD or STORE is. -/
def streamOp (c : Nat) (l : Launch) (x : Nat) (g : Grant) (pf : Bool) (w id : Nat) : StrmOp :=
  let b := l.buf g (fA w)
  let write := opCode w == opStore
  let clip := clipOf l g w
  { id := id, ctx := x, tile := g.tile, gen := g.gen, copy := g.copy, pf := pf, num := (g.sect pf).seq, write := write,
    stream := fStream w, part := if write then 0 else fPart w, base := bufAddr c b, size := 128 * b.rows,
    mb := g.mb, nb := g.nb, kb := g.kb, jb := g.jb, coord := fCoord w,
    clipM := if write then clip.1 else none, clipN := if write then clip.2 else none,
    mask := !write && isMaskLoad l g w, held := !write && isHeldLoad l g w, begun := false, sent := false, next := 0 }

/-- R116, R256, R257: a LOAD or STORE goes to the stream engine, unless its queue of sixteen is full. -/
def State.sendStream (s : State) (c gi : Nat) (pf : Bool) (n : Next) : State :=
  let x := s.core c
  if x.ops.length ≥ 16 then s
  else
    let o := streamOp c (s.launchOf n.x) n.x n.g pf n.w x.nextOp
    let s := s.putCore c { x with nextOp := x.nextOp + 1, ops := x.ops ++ [o] }
    let s := s.modGrant c gi (fun g => g.modSect pf (fun k => { k with open_ := k.open_ ++ [o.num] }))
    (s.issued c gi pf (opCode n.w)).pumpCore c

/-- R113, R116: LOAD. -/
def execLoad (core g : Nat) (pf : Bool) (s : State) : Res :=
  .next (s.issue core g pf opLoad (fun s n => s.sendStream core g pf n))

/-- R134, R136, R247: STORE; one of a tile that writes nothing completes at once. -/
def execStore (core g : Nat) (pf : Bool) (s : State) : Res :=
  .next (s.issue core g pf opStore (fun s n => if n.g.mute then s.issued core g pf opStore else s.sendStream core g pf n))

/-! Tokens (R116, R117). -/

/-- The token of a buffer is FULL. -/
def Core.token (x : Core) (b : Nat) : Bool := bitAt x.tokens b
/-- The token of a buffer set. -/
def Core.setToken (x : Core) (b : Nat) (full : Bool) : Core := { x with tokens := withBits x.tokens b b (if full then 1 else 0) }

/-- R116: TOKWAIT. -/
def execTokwait (core g : Nat) (pf : Bool) (s : State) : Res :=
  .next (s.issue core g pf opTokwait (fun s n =>
    (s.modGrant core g (fun x => x.modSect pf (fun k =>
      { k with wait := some (bufNo (fA n.w) n.g.parity, fState n.w) }))).issued core g pf opTokwait))

/-- R116, R117: TOKWAIT_PASS. -/
def execTokwaitPass (core g : Nat) (pf : Bool) (s : State) : Res :=
  .next (match s.grantAt core g with
    | none => s
    | some x =>
      match (x.sect pf).wait with
      | none => s
      | some (b, full) =>
        if (s.core core).token b = full then
          (s.modGrant core g (fun x => x.modSect pf (fun k => { k with wait := none }))).turnPos core g
        else s)

/-- R116: TOKPOST. -/
def execTokpost (core g : Nat) (pf : Bool) (s : State) : Res :=
  .next (s.issue core g pf opTokpost (fun s n =>
    (s.modGrant core g (fun x => x.modSect pf (fun k =>
      { k with posts := k.posts ++ [(k.seq, bufNo (fA n.w) n.g.parity, fState n.w)] }))).issued core g pf opTokpost))

/-- R116: TOKPOST_EFFECT: the oldest post of a section, once every earlier operation of it has completed. -/
def execTokpostEffect (core g : Nat) (pf : Bool) (s : State) : Res :=
  .next (match s.grantAt core g with
    | none => s
    | some x =>
      match (x.sect pf).posts with
      | [] => s
      | (num, b, full) :: rest =>
        if (x.sect pf).open_.any (fun n => decide (n < num)) then s
        else
          let s := s.modGrant core g (fun x => x.modSect pf (fun k => { k with posts := rest }))
          let s := s.dropAccs core (fun y => y.isOf (x.sectId ((s.core core).ctx.getD 0) pf) num)
          s.putCore core ((s.core core).setToken b full))

/-! Fences (R118). -/

/-- R118: FENCE; one whose SCOPE is zero is a NOP. -/
def execFence (core g : Nat) (pf : Bool) (s : State) : Res :=
  .next (s.issue core g pf opFence (fun s n =>
    let at_ := (s.core core).nextOp
    let s := if fScope n.w = 0 then s
      else s.modGrant core g (fun x => x.modSect pf (fun k => { k with fence := some (fScope n.w + 16 * at_) }))
    s.issued core g pf opFence))

/-- R118: the scopes of a FENCE are satisfied: earlier LOADs of the tile are complete, its earlier STOREs acknowledged by
memory. The row-function unit is idle between commands. -/
def State.fenceDone (s : State) (c : Nat) (g : Grant) (f : Nat) : Bool :=
  let x := s.core c
  let mine (o : StrmOp) : Bool := o.tile == g.tile && o.gen == g.gen && o.copy == g.copy && decide (o.id < f / 16)
  let loads := x.ops.any (fun o => mine o && !o.write)
  let stores := x.ops.any (fun o => mine o && o.write) ||
    x.wr.any (fun w => w.tile == g.tile && w.gen == g.gen && decide (w.piece.op < f / 16))
  !((bitAt f 0 || bitAt f 2) && loads) && !(bitAt f 1 && stores)

/-- R118: accesses that are over once a FENCE of a section has passed: the earlier writes of the section, its reads by STOREs, and the
writes of its LOADs. -/
def SpadAcc.fenced (y : SpadAcc) (x : Nat) (g : Grant) (pf : Bool) (f : Nat) : Bool :=
  y.isOf (g.sectId x pf) (g.sect pf).seq &&
    ((bitAt f 0 && y.write) || (bitAt f 1 && y.unit == .streamRead) || (bitAt f 2 && y.unit == .streamWrite))

/-- R118: FENCE_PASS. -/
def execFencePass (core g : Nat) (pf : Bool) (s : State) : Res :=
  .next (match s.grantAt core g with
    | none => s
    | some x =>
      match (x.sect pf).fence with
      | none => s
      | some f =>
        if s.fenceDone core x f then
          let s := s.dropAccs core (fun y => y.fenced ((s.core core).ctx.getD 0) x pf f)
          (s.modGrant core g (fun x => x.modSect pf (fun k => { k with fence := none }))).turnPos core g
        else s)

end Sys2Proof.Machine
end

