-- ==== Sys2Proof/Machine/Grants.lean ====
section
/-!
DEFINITION. Tile counters and grants (R308 to R317): what a counter grants next, the arrival of a grant, the start and the
end of a tile, and the tile watchdog (R138, R139).
-/
namespace Sys2Proof.Machine

/-! What a counter grants (R310, R311, R313). -/

/-- An unfenced core of a die serves the context. -/
def State.dieServes (s : State) (x d : Nat) : Bool := (s.serving x).any (fun c => dieOf c == d && !s.fenced c)

/-- The copies are in force: the Assured profile, and a tile program with MMA or MMA2 (R25). -/
def State.copied (s : State) (x : Nat) : Bool := s.assured && (s.launchOf x).prog.isMatrix

/-- R25, R311: the copies of a tile that die `d` is offered, in order. A tile that is no matrix tile has one. -/
def State.copiesFor (s : State) (x d t : Nat) : List Nat :=
  let both := !s.dieServes x (1 - d)
  if s.copied x then (if both then [1, 2] else if t % 2 = d then [1] else [2])
  else if both || t % 2 == d then [1] else []

/-- A copy of a tile has been granted in the run. -/
def Ctx.taken (k : Ctx) (tile copy : Nat) : Bool := k.took.any (fun p => p.1 == copyKey tile copy)

/-- R25, R313: the core holds or has held another copy of the tile in the run. -/
def Ctx.holdsOther (k : Ctx) (c tile copy : Nat) : Bool :=
  k.took.any (fun p => p.2 == c && p.1 / 4 == tile && p.1 != copyKey tile copy)

/-- R25: a copy of a tile that a core may take from its die's cursor. -/
def State.offered (s : State) (x c t : Nat) : Option Nat :=
  let k := s.ctx x
  if k.done.contains t then none
  else (s.copiesFor x (dieOf c) t).find? (fun y => !k.taken t y && !k.holdsOther c t y)

/-- R313: an entry of the re-issue list that a core may take. -/
def State.mayReissue (s : State) (x c : Nat) (e : Reissue) : Bool :=
  if e.combine || !s.assured then true
  else
    let d := dieOf c
    let die := e.copy == 3 || (s.copiesFor x d e.tile).contains e.copy || !s.copied x
    die && !(s.ctx x).holdsOther c e.tile e.copy

/-- The tiles of the running pass, in ascending index. -/
def State.passTiles (s : State) (x : Nat) : List Nat :=
  let l := s.launchOf x
  let q := (s.ctx x).passIdx l
  (List.range l.perPass).map (fun t => q * l.perPass + t)

/-- R310: the tile at the cursor of the Capacity profile. -/
def State.atCursor (s : State) (x : Nat) : Option Nat :=
  let l := s.launchOf x
  let k := s.ctx x
  let n := nth 0 k.cur 0
  if n < k.base + l.perPass then some n else none

/-- R170: the audit tiles of the step that can be granted. -/
def State.auditList (s : State) (x : Nat) : List Nat :=
  let l := s.launchOf x
  (List.range l.auditTiles.length).filterMap (fun a =>
    if (l.auditOf (l.tiles + a)).1 ≤ (s.ctx x).pass then some (l.tiles + a) else none)

/-- What a counter gives a core: a tile with its copy, an entry of the list, an audit tile. -/
structure Offer where
  tile    : Nat
  copy    : Nat
  combine : Bool
  audit   : Bool
  list    : Bool
deriving DecidableEq, Repr

/-- The copy of a tile offered to a core: the one copy of the Capacity profile, where it has not been granted. -/
def State.copyFor (s : State) (x c t : Nat) : Option Nat :=
  if s.assured then s.offered x c t
  else if (s.ctx x).done.contains t || (s.ctx x).taken t 0 then none else some 0

/-- R313, R315: the entry that a core takes from the lists of a context: the first that it may take on the list of its own counter,
else the first on that of the other. -/
def State.listed (s : State) (x c : Nat) (audit : Bool) : Option Reissue :=
  let own := s.counterDie x (dieOf c)
  let may (e : Reissue) : Bool := e.audit == audit && s.mayReissue x c e
  ((s.ctx x).reissue.find? (fun e => e.die == own && may e)).or ((s.ctx x).reissue.find? (fun e => e.die != own && may e))

/-- What an entry of a list offers. -/
def Offer.ofEntry (e : Reissue) : Offer := ⟨e.tile, e.copy, e.combine, e.audit, true⟩

/-- R309 to R313, R170: what a core of a context is granted next: an entry of the lists, the tile at the cursor; an audit tile, from
the lists or for the first time, only when there is no ordinary tile. -/
def State.offerTo (s : State) (x c : Nat) : Option Offer :=
  let pick (t : Nat) (audit : Bool) : Option Offer := (s.copyFor x c t).map (fun y => ⟨t, y, false, audit, false⟩)
  ((s.listed x c false).map Offer.ofEntry).or
    ((if s.assured then (s.passTiles x).findSome? (fun t => pick t false)
        else (s.atCursor x).map (fun t => (⟨t, 0, false, false, false⟩ : Offer))).or
      (((s.listed x c true).map Offer.ofEntry).or ((s.auditList x).findSome? (fun t => pick t true))))

/-! Requests. -/

/-- A grant as the counter gives it. -/
def Grant.ofOffer (o : Offer) (gen : Nat) : Grant :=
  { tile := o.tile, gen := gen, copy := o.copy, combine := o.combine, audit := o.audit, arrived := false
    relist := o.list && o.combine, merged := false, mb := 0, nb := 0, kb := 0, jb := 0, parity := 0, alone := false
    pf := Sect.start, cp := Sect.start, running := false, issued := false, wdog := false, rows := [], set := 0
    drained := false, mute := false, stands := false, won := false, masses := [], maskIn := false, nonfin := false, binRows := [] }

/-- R120: the core asks for a further grant: it holds fewer than three and has issued the prefetch section of its newest. -/
def State.asks (s : State) (c : Nat) : Option Nat :=
  let k := s.core c
  match k.ctx with
  | none => none
  | some x =>
    let n := ((s.launchOf x).prog.section true).length
    let newest := match k.grants.getLast? with
      | none => true
      | some g => g.arrived && g.pf.issuedAll n
    if (s.ctx x).run == .running && (s.launchOf x).kind == 0 && !(s.launchOf x).unrun && !k.moving && !s.fenced c && k.grants.length < 3 && newest
    then some x else none

/-- The cursor and the lists after an offer is taken. -/
def Ctx.takeOffer (k : Ctx) (assured : Bool) (c : Nat) (o : Offer) : Ctx :=
  { k with
    reissue := if o.list then k.reissue.filter (fun e => !(e.tile == o.tile && e.copy == o.copy && e.combine == o.combine)) else k.reissue
    cur := if o.list || o.audit || assured then k.cur else mapAt k.cur 0 (fun n => n + 1)
    took := if o.combine then k.took else (copyKey o.tile o.copy, c) :: k.took }

/-- R311: the cursors of the Assured profile: on each die, the first tile of the pass with a copy that its walk has still to
grant. -/
def State.walkCursors (s : State) (x : Nat) : List Nat :=
  let k := s.ctx x
  [0, 1].map (fun d => ((s.passTiles x).find? (fun t => !k.done.contains t && (s.copiesFor x d t).any (fun y => !k.taken t y))).getD
    (k.base + (s.launchOf x).perPass))

/-- R309: a core is granted a tile, a copy or a combine. -/
def State.giveGrant (s : State) (x c : Nat) (o : Offer) : State :=
  let s := s.putCtx x ((s.ctx x).takeOffer s.assured c o)
  let s := if s.assured then s.putCtx x { s.ctx x with cur := s.walkCursors x } else s
  let s := s.bump (Reg.TILECTR_GRANT_CNT (s.counterDie x (dieOf c)) x) Fld.TILECTR_GRANT_CNT_COUNT 1
  s.putCore c { s.core c with grants := (s.core c).grants ++ [Grant.ofOffer o (s.ctx x).gen] }

/-! Arrival. -/

/-- A grant leaves the core, whose accesses for it are over. -/
def State.dropGrant (s : State) (c gi : Nat) : State :=
  let ended (y : SpadAcc) : Bool := (s.grantAt c gi).elim false (fun g => y.own.elim false (fun o =>
    o.1.ctx == (s.core c).ctx.getD 0 && o.1.tile == g.tile && o.1.gen == g.gen && o.1.copy == g.copy))
  (s.dropAccs c ended).putCore c { s.core c with grants := dropAt (s.core c).grants gi }

/-- R122: the grant with its coordinates. -/
def Grant.arrive (l : Launch) (g : Grant) (parity : Nat) : Grant :=
  let p := l.passFor g.tile
  let mb := if g.audit then 0 else l.mbOf g.tile
  let nb := if g.audit then 0 else l.nbOf g.tile
  let kb := if g.audit || l.isPair then 0 else l.kbOf g.tile
  let pos := if l.isPair then (l.view g).firstPos p mb else (0, kb, false, 0)
  { g with
    arrived := true, mb := mb, nb := nb, jb := pos.1, kb := pos.2.1, alone := pos.2.2.1, parity := parity
    masses := if g.audit then (l.auditOf g.tile).2.map (fun r => (r, 0, 0)) else [] }

/-- R122: where the row-list entries of a grant's bin lie, with their length. -/
def Launch.binRead (l : Launch) (g : Grant) : Nat × Nat :=
  match l.bins.bind (fun t => (t.bins[l.mbOf g.tile]?).map (fun b => (t.listVa + 4 * b.1, 4 * b.2))) with
  | some r => if g.audit then (0, 0) else r
  | none => (0, 0)

/-- R122: the row-list entries of the bin of a grant's tile, read through the core's translation; none without a row-bin table. -/
def State.readBin (s : State) (c : Nat) (l : Launch) (g : Grant) : Chk (List Nat) :=
  let r := l.binRead g
  if r.2 = 0 then .ok [] else (s.readBy c r.1 r.2).map (fun b => (chunksOf 4 (r.2 / 4) b).map ofLE)

/-- R115, R122, R148: a grant arrives with the rows of its bin: its tile is skipped, or takes the next run count. -/
def State.placeGrant (s : State) (c gi x : Nat) (g : Grant) : State :=
  let l := (s.launchOf x).view g
  if !g.audit && !g.relist && l.skips g.tile then
    ((s.dropGrant c gi).bump (Reg.SEQ_SKIP_CNT c) Fld.SEQ_SKIP_CNT_COUNT 1).endTileAt x g.tile
  else
    let r := (s.core c).runs
    let g' := g.arrive (s.launchOf x) r
    let n := if l.isPair && !g.audit then (l.firstPos (l.passFor g.tile) g'.mb).2.2.2 else 0
    let s := (s.countSkips c n).modGrant c gi (fun _ => g')
    s.putCore c { s.core c with runs := r + 1 }

/-- R122: a grant arrives; an error met by the read of its bin stops the step. -/
def State.arriveGrant (s : State) (c gi x : Nat) (g : Grant) : State :=
  let r := (s.launchOf x).binRead g
  let s := s.readUp c r.1 r.2
  match s.readBin c (s.launchOf x) g with
  | .error e => s.stopBy c x g.tile g.gen 0 0 0 e
  | .ok rows => s.placeGrant c gi x { g with binRows := rows }

/-- R122: the oldest grant on its way reaches the core. A pair tile's run positions follow one another (R148),
so the next tile of a pair program arrives when the one before it has gone. -/
def State.grantArrives (s : State) (core : Nat) : State :=
  (match (s.core core).ctx, (s.core core).grants.findIdx? (fun g => !g.arrived) with
    | some x, some gi =>
      match s.grantAt core gi with
      | none => s
      | some g =>
        let r := (s.launchOf x).binRead g
        if (s.ctx x).run ≠ .running || ((s.launchOf x).isPair && gi > 0) || !s.vaServed core r.1 r.2 then s
        else s.arriveGrant core gi x g
    | _, _ => s)

/-! The start of a tile (R114, R120, R149, R153, R154). -/

/-- R114, R120: a grant can become the running tile. -/
def State.mayStart (s : State) (c gi x : Nat) (g : Grant) : Bool :=
  let l := s.launchOf x
  let before := (s.core c).grants.take gi
  let n := (l.prog.section false).length
  let busy := ((s.core c).grants.filter (·.running)).length
  (s.ctx x).run == .running && g.arrived && !g.running && !(s.core c).moving && busy < (if l.isPair then 1 else 2) &&
    before.all (fun b => b.running && b.cp.issuedAll n)

/-- R153, R154: the carried state that a tile begins with, as the bytes of set 1 and of m and l; none where it carries none. -/
def Launch.carries (l : Launch) (g : Grant) : Bool × Bool :=
  let q := l.passCoord (l.passAt g)
  if g.audit then (false, false)
  else if l.isPair then (q.j > 0, q.j > 0)
  else if l.sweeps > 1 then (false, l.sweepOf g.tile > 0 || q.n > 0)
  else (false, false)

/-- The integer that a value of the region holds. -/
def intOf (x : F32) : Int := match dec32 x with
  | .fin neg m e => let v : Int := if 0 ≤ e then ((m * 2 ^ e.toNat : Nat) : Int) else ((m / 2 ^ (-e).toNat : Nat) : Int); if neg then -v else v
  | _ => 0

/-- R153: set 1 as the region holds it; an INT8 second product goes on in integers (log 30). -/
def carryOf (int : Bool) (bs : List Byte) : Acc :=
  let a := accOf false bs
  if int then ⟨true, [], a.f.map intOf⟩ else a

/-- The accumulators of a set and the rows' states loaded from the partial region. -/
def State.loadCarry (s : State) (c gi x : Nat) (g : Grant) : State :=
  let l := s.launchOf x
  let va := l.carryVa g.mb g.nb
  let (acc, st) := l.carries g
  let s := if acc then s.readUp c va 16384 else s
  let s := if st then s.readUp c (va + 16384) (8 * l.tm) else s
  let a : Chk (List Byte) := if acc then s.readBy c va 16384 else .ok []
  let r : Chk (List Byte) := if st then s.readBy c (va + 16384) (8 * l.tm) else .ok []
  match a, r with
  | .error e, _ => s.stopBy c x g.tile g.gen 0 0 0 e
  | _, .error e => s.stopBy c x g.tile g.gen 0 0 0 e
  | .ok a, .ok r =>
    let s := if acc then s.putAcc c 1 (carryOf l.intTile2 a) else s
    if st then s.modGrant c gi (fun g => { g with rows := rowStatesOf l.tm r }) else s

/-- R47, R149: a tile starts: its accumulators begin at +0. DESIGN CHOICE (log 83): a tile counts as one of the core's own Assured
tile executions (R29) when it starts. -/
def State.startTile (s : State) (c gi x : Nat) (g : Grant) : State :=
  let l := s.launchOf x
  let set := if l.isPair then 0 else if (s.core c).grants.any (fun h => h.running && h.set == 0) then 1 else 0
  let s := s.modGrant c gi (fun g => { g with running := true, set := set })
  let s := s.putAcc c set { Acc.zero with int := l.intTile }
  let s := if l.isPair then s.putAcc c 1 { Acc.zero with int := l.intTile2 } else s
  let s := if s.copied x then s.putCore c { s.core c with execs := (s.core c).execs + 1 } else s
  s.loadCarry c gi x g

/-- R325: the carried state of a tile can be read. -/
def State.carryServed (s : State) (c x : Nat) (g : Grant) : Bool :=
  let l := s.launchOf x
  let va := l.carryVa g.mb g.nb
  (!(l.carries g).1 || s.vaServed c va 16384) && (!(l.carries g).2 || s.vaServed c (va + 16384) (8 * l.tm))

/-- R114: TILE_START. -/
def execTileStart (core g : Nat) (s : State) : Res :=
  .next (match (s.core core).ctx, s.grantAt core g with
    | some x, some k => if s.mayStart core g x k && s.carryServed core x k then s.startTile core g x k else s
    | _, _ => s)

/-! The end of a tile. -/

/-- R312: every operation of a grant's tile has completed, its combine too. -/
def Grant.complete (g : Grant) (l : Launch) : Bool :=
  g.arrived && g.running && g.issuedAll l.prog && g.quiet && l.finalPos g && !(g.combine && !g.merged)

/-- R171, R174: the bytes of an audit tile's masses, in row order: missed and total of each row. -/
def massBytes (ms : List (Nat × Nat × Nat)) : List Byte := ms.flatMap (fun m => leBytes 12 m.2.1 ++ leBytes 12 m.2.2)

/-- R170, R171, R174, R177: an audit tile ends with its masses, which in the Assured profile are voted on. -/
def State.endAudit (s : State) (c gi x : Nat) (g : Grant) : State :=
  let s := s.bump (Reg.PRED_AUDIT_CNT c) Fld.PRED_AUDIT_CNT_COUNT g.masses.length
  let (s, r) := s.voteFor c x (s.launchOf x) g (massBytes g.masses)
  match r with
  | .lost => s
  | .posted => s.dropGrant c gi
  | .write =>
    let s := s.putCtx x { s.ctx x with masses := (s.ctx x).masses ++ g.masses }
    (s.dropGrant c gi).endTileAt x g.tile

/-- R312, R135, R143: a tile ends. A copy whose signature is posted leaves its tile to the copy that writes. -/
def State.finishTile (s : State) (c gi x : Nat) (g : Grant) : State :=
  let s := s.bump (Reg.SEQ_TILE_CNT c) Fld.SEQ_TILE_CNT_COUNT 1
  if g.audit then s.endAudit c gi x g
  else
    let s := (s.closeSlot c x g 2).dropGrant c gi
    if g.stands && !g.won && !g.combine then s else s.endTileAt x g.tile

/-- R312: a tile whose operations have all completed ends. -/
def State.tileEnds (s : State) (core g : Nat) : State :=
  (match (s.core core).ctx, s.grantAt core g with
    | some x, some k => if (s.ctx x).run = .running ∧ k.complete (s.launchOf x) then (s.finishTile core g x k).settle else s
    | _, _ => s)

/-! The watchdog. -/

/-- R139: a tile is abandoned at its watchdog's limit. -/
def State.abandon (s : State) (c gi x : Nat) (g : Grant) : State :=
  let n := tget 0 (s.ctx x).expiries g.tile + 1
  let s := s.putCtx x { s.ctx x with expiries := tput 0 (s.ctx x).expiries g.tile n }
  let s := s.bump (Reg.TILE_WDOG_EXP_CNT c) Fld.TILE_WDOG_EXP_CNT_COUNT 1
  let ev := s.tileEv c x g evWdog 0 (leBytes 1 g.copy ++ leBytes 4 n)
  let s := s.closeSlot c x g 0
  let s := (s.dropGrant c gi).cancelOps c false (fun k => k.tile == g.tile && k.gen == g.gen && k.copy == g.copy)
  if n ≥ 2 then s.fault x stOk true ev else (s.raise ev).reissueGrant x c g

/-- R139: the watchdog of a tile expires; a tile whose operations all complete in that cycle has ended. -/
def State.wdogExpires (s : State) (core g : Nat) : State :=
  (match (s.core core).ctx, s.grantAt core g with
    | some x, some k =>
      if (s.ctx x).run ≠ .running ∨ !k.wdog then s
      else if k.complete (s.launchOf x) then (s.finishTile core g x k).settle
      else (s.abandon core g x k).settle
    | _, _ => s)

end Sys2Proof.Machine
end

