-- ==== Sys2Proof/Machine/Power.lean ====
section
/-!
DEFINITION. Input power (R578 to R587), the power cap, the clocks, parking and the sensors' trips (R525 to R530).
-/
namespace Sys2Proof.Machine

/-! The hot-swap controller. -/

/-- R579: the conditions under which the controller switches the input on; `vin` in mV. -/
def inputGood (vin : Nat) (mated : Bool) : Bool := mated && vin > 44000 && vin < 59000

/-- R579, R506, R577: the start sequence begins from Off: every register at its reset value, both test ports reset, S01
running. -/
def State.beginStart (s : State) (straps : Nat) : State :=
  { s with
    power := .starting
    retry := false
    start := { StartSt.idle with straps := straps % 4 }
    scan := []
    scanPins := [] }.setFld Reg.START_STATUS Fld.START_STATUS_STEP 1

/-- R520: a new start of a module that has power: everything is lost as at a loss of power, and the straps keep the values
that S01 sampled (R593). No record is torn. -/
def State.restartNow (s : State) : State :=
  let off := { s with power := .hold }.powerOff
  off.beginStart s.start.straps

/-- R579: POWER_ON. -/
def execPowerOn (vin : Nat) (mated : Bool) (straps : Nat) (s : State) : Res :=
  .next (if s.power = .off ∧ s.retry = false ∧ inputGood vin mated then s.beginStart straps else s)

/-- R579, R584: INPUT_OFF. -/
def execInputOff (vin : Nat) (s : State) : Res :=
  .next (if s.power ≠ .off ∧ (vin < 40000 ∨ vin > 59000) then s.powerOff else s)

/-- R580: CURRENT_FAULT; `peak` in mA. The controller waits one second for its next attempt. -/
def execCurrentFault (held : Bool) (peak : Nat) (s : State) : Res :=
  .next (if s.power ≠ .off ∧ (held ∨ peak > 90000) then { s.powerOff with retry := true } else s)

/-- R580: HOT_SWAP_RETRY. Where the conditions of R579 do not hold the input stays off, and R579 applies from then on. -/
def execHotSwapRetry (vin : Nat) (mated : Bool) (straps : Nat) (s : State) : Res :=
  .next (if s.power = .off ∧ s.retry then
      (if inputGood vin mated then s.beginStart straps else { s with retry := false })
    else s)

/-- R581: PRESENT_OPEN. -/
def execPresentOpen (s : State) : Res := .next (if s.power ≠ .off then s.powerOff else s)

/-! The cap and the clocks. -/

/-- R526: the floor in MHz for a cap in watts. -/
def floorOf (cap : Nat) : Nat :=
  if cap ≥ 1900 then 1800 else if cap ≥ 1600 then 1400 else if cap ≥ 1300 then 1100 else 900

/-- The highest clock of R526. -/
def clockTop : Nat := 2250

/-- R525, R526, R544: the cap in force set, with its floor; no target lies below the floor. -/
def State.setCap (s : State) (w : Nat) : State :=
  let f := floorOf w
  let s := { s with hmd := { s.hmd with
    capRun := w
    pwrTarget := max f s.hmd.pwrTarget
    thTarget0 := max f s.hmd.thTarget0
    thTarget1 := max f s.hmd.thTarget1 } }
  (s.setFld Reg.HMD_PWR_CAP Fld.HMD_PWR_CAP_CAP_RUN w).setFld Reg.HMD_PWR_CAP Fld.HMD_PWR_CAP_FLOOR_MHZ f

/-- The floor in force. -/
def State.clockFloor (s : State) : Nat := floorOf s.hmd.capRun

/-- The thermal target of a die (R527). -/
def State.thTarget (s : State) (d : Nat) : Nat := if d = 0 then s.hmd.thTarget0 else s.hmd.thTarget1

/-- The thermal target of a die set, bounded by the floor and the highest clock, and shown in HMD_THERM (R546). -/
def State.setThTarget (s : State) (d t : Nat) : State :=
  let t := clampTo s.clockFloor clockTop t
  let b := if t < clockTop then 1 else 0
  if d = 0 then
    { s with hmd := { s.hmd with thTarget0 := t } }.setFld Reg.HMD_THERM Fld.HMD_THERM_THROTTLE0 b
  else { s with hmd := { s.hmd with thTarget1 := t } }.setFld Reg.HMD_THERM Fld.HMD_THERM_THROTTLE1 b

/-- The power target set, bounded likewise. -/
def State.setPwrTarget (s : State) (t : Nat) : State :=
  { s with hmd := { s.hmd with pwrTarget := clampTo s.clockFloor clockTop t } }

/-- The average input power over the last 1 ms, watts (R545). -/
def State.avgPower (s : State) : Nat := s.fld Reg.HMD_PWR_STAT Fld.HMD_PWR_STAT_PIN

/-- The hottest junction sensor of a die (R546). -/
def State.dieMax (s : State) (d : Nat) : Nat :=
  if d = 0 then s.fld Reg.HMD_THERM Fld.HMD_THERM_DIE0_MAX else s.fld Reg.HMD_THERM Fld.HMD_THERM_DIE1_MAX

/-- The average lies over the cap: the power target falls (R527). -/
def State.pwrFalls (s : State) : Bool := s.avgPower > s.hmd.capRun
/-- The average lies more than 20 W below the cap: the power target rises (R527). -/
def State.pwrRises (s : State) : Bool := s.avgPower + 20 < s.hmd.capRun
/-- A sensor of the die reads 100 °C or more (R527). -/
def State.thFalls (s : State) (d : Nat) : Bool := s.dieMax d ≥ 100
/-- Every sensor of the die reads 97 °C or less (R527). -/
def State.thRises (s : State) (d : Nat) : Bool := s.dieMax d ≤ 97

/-- The cores that R322 keeps with their context: the anchors of running steps. -/
def State.isAnchor (s : State) (c : Nat) : Bool :=
  (List.range 16).any (fun x => (s.ctx x).run == .running && (s.ctx x).anchor == c && (s.core c).ctx == some x)

/-- The unfenced and unparked cores of a die. -/
def State.unparked (s : State) (d : Nat) : List Nat := (s.unfenced d).filter (fun c => !s.hmd.parked.contains c)

/-- R321, R328, R528: a core is to leave its context at its next tile boundary; one that serves none leaves at once. -/
def State.withdrawCore (s : State) (c : Nat) : State :=
  if (s.core c).ctx.isSome then s.putCore c { s.core c with moving := true, moveTo := none } else s

/-- The largest of a list of readings. -/
def maxOf (l : List Nat) : Nat := l.foldl max 0

/-! Samples. -/

/-- R545, R546, R365: the readings go to their registers. -/
def State.showSample (s : State) (vin iin pavg : Nat) (t0 t1 stackTemps : List Nat) : State :=
  let s := s.setFld Reg.HMD_PWR_STAT Fld.HMD_PWR_STAT_VIN vin
  let s := s.setFld Reg.HMD_PWR_STAT Fld.HMD_PWR_STAT_IIN iin
  let s := s.setFld Reg.HMD_PWR_STAT Fld.HMD_PWR_STAT_PIN pavg
  let s := s.setFld Reg.HMD_THERM Fld.HMD_THERM_DIE0_MAX (maxOf t0)
  let s := s.setFld Reg.HMD_THERM Fld.HMD_THERM_DIE1_MAX (maxOf t1)
  let s := s.setFld Reg.HMD_THERM Fld.HMD_THERM_STACK_MAX (maxOf stackTemps)
  if s.power == .hold then s
  else (List.range 12).foldl (fun s t => s.setFld (Reg.HBM_STATUS t) Fld.HBM_STATUS_TEMP (nth 0 stackTemps t)) s

/-- The junction sensors that read 115 °C or more (die × 16 + index). -/
def hotSensors (t0 t1 : List Nat) : List Nat :=
  (List.range 32).filter (fun i => (if i < 16 then nth 0 t0 i else nth 0 t1 (i - 16)) ≥ 115)

/-- R529: the trip that a sample calls for, as cause and sensor. The input is out of range for 1 ms after 100 samples; rail
number `r` has been out for 100 µs. -/
def State.tripOf (s : State) (vinBad : Nat) (hot : List Nat) (rail : Option Nat) : Option (Nat × Nat) :=
  match hot.find? (fun i => s.hmd.hot.contains i) with
  | some i => some (0, i)
  | none => if vinBad ≥ 100 then some (1, 0) else rail.map (fun r => (2, r))

/-- R527: what the sample does to the targets: a sample over the cap by more than 15 % sends the power target to the floor,
and a junction at 100 °C takes one step off its die's thermal target. -/
def State.sampleTargets (s : State) (vin iin : Nat) : State :=
  let s := if vin * iin * 100 > s.hmd.capRun * 115 * 10000 then s.setPwrTarget s.clockFloor else s
  let s := if s.thFalls 0 then s.setThTarget 0 (s.thTarget 0 - 25) else s
  if s.thFalls 1 then s.setThTarget 1 (s.thTarget 1 - 25) else s

/-- R528: the die holds its floor with only 64 cores unparked. -/
def State.atBottom (s : State) (d : Nat) : Bool :=
  min s.hmd.pwrTarget (s.thTarget d) == s.clockFloor && (s.unparked d).length ≤ 64

/-- R528: one excursion for each 1 ms window over the cap at the floor. -/
def State.excursion (s : State) : State :=
  if !s.pwrFalls then s
  else
    match [0, 1].find? s.atBottom with
    | none => s
    | some d =>
      let s := s.bumpSat Reg.HMD_PWR_STAT Fld.HMD_PWR_STAT_CAP_EXCURSIONS 1
      s.raise (Ev.plain islHamada evCapExcursion
        (leBytes 1 d ++ leBytes 2 s.avgPower ++ leBytes 2 s.hmd.capRun ++ leBytes 2 (s.unparked d).length))

/-- R527 to R529: POWER_SAMPLE. The cap governs Ready and Run only (R587). -/
def execPowerSample (vin iin pavg : Nat) (windowEnd : Bool) (t0 t1 stackTemps : List Nat) (cyc : Nat) (rail : Option Nat)
    (s : State) : Res :=
  .next (if s.power = .off then s
    else
      let s1 := s.showSample vin iin pavg t0 t1 stackTemps
      let bad := if vin < 4500 ∨ vin > 5700 then s1.hmd.vinBad + 1 else 0
      let hot := hotSensors t0 t1
      let s2 := { s1 with hmd := { s1.hmd with vinBad := bad, hot := hot } }
      match s1.tripOf bad hot rail with
      | some (c, i) => s2.trip c i cyc
      | none =>
        if s2.power = .ready ∨ s2.power = .aest then
          match lowest 12 (fun t => nth 0 stackTemps t > 100) with
          | some t => s2.stackFault t 2
          | none =>
            if s2.power = .ready then
              let s3 := s2.sampleTargets vin iin
              if windowEnd then s3.excursion else s3
            else s2
        else s2)

/-- R527, R528: CLOCK_STEP: the timer of a target expires and the target moves one step of 25 MHz. A clock rises only while
no core is parked. -/
def execClockStep (die : Nat) (thermal : Bool) (s : State) : Res :=
  .next (if s.power = .ready ∧ die < 2 then
      if thermal then
        (if s.thRises die ∧ s.hmd.parked.all (fun c => dieOf c != die) then s.setThTarget die (s.thTarget die + 25) else s)
      else if s.pwrFalls then s.setPwrTarget (s.hmd.pwrTarget - 25)
      else if s.pwrRises ∧ s.hmd.parked.isEmpty then s.setPwrTarget (s.hmd.pwrTarget + 25)
      else s
    else s)

/-- R527: CLOCK_CHANGE: the core islands of a die take the lower of the two targets. -/
def execClockChange (die : Nat) (s : State) : Res :=
  .next (if s.power = .ready ∧ die < 2 then
      let m := max s.clockFloor (min s.hmd.pwrTarget (s.thTarget die))
      if die = 0 then s.setFld Reg.HMD_CLK Fld.HMD_CLK_DIE0_MHZ m else s.setFld Reg.HMD_CLK Fld.HMD_CLK_DIE1_MHZ m
    else s)

/-- R528: a target of the die would fall below the floor. -/
def State.belowFloor (s : State) (d : Nat) : Bool :=
  (s.pwrFalls && s.hmd.pwrTarget == s.clockFloor) || (s.thFalls d && s.thTarget d == s.clockFloor)

/-- R528: the core to park: the highest index of the die, passing over anchors, while more than 64 stay. -/
def State.parkChoice (s : State) (d : Nat) : Option Nat :=
  if (s.unparked d).length > 64 then (s.unparked d).reverse.find? (fun c => !s.isAnchor c) else none

/-- R528: CORE_PARK. -/
def execCorePark (die : Nat) (s : State) : Res :=
  .next (if s.power = .ready ∧ die < 2 ∧ s.belowFloor die then
      match s.parkChoice die with
      | none => s
      | some c => (s.setParked (s.hmd.parked ++ [c])).withdrawCore c
    else s)

/-- R528: the target of the die would rise: the lower of the two, or both where they are equal. -/
def State.wouldRise (s : State) (d : Nat) : Bool :=
  let p := s.hmd.pwrTarget
  let t := s.thTarget d
  (p > t || s.pwrRises) && (t > p || s.thRises d)

/-- R528: CORE_UNPARK. A core that has not yet left its context stays with it. -/
def execCoreUnpark (die : Nat) (s : State) : Res :=
  .next (if s.power = .ready ∧ die < 2 ∧ s.wouldRise die then
      match lowest 288 (fun c => dieOf c == die && s.hmd.parked.contains c) with
      | none => s
      | some c =>
        let s := s.setParked (s.hmd.parked.filter (fun p => p != c))
        if (s.core c).moveTo.isNone ∧ (s.core c).test = 0 then s.putCore c { s.core c with moving := false } else s
    else s)

end Sys2Proof.Machine
end

