-- ==== Sys2Proof/Machine/Slices.lean ====
section
/-!
DEFINITION. Which cores serve which contexts (R314, R318 to R327): the assignment at a slice boundary, the urgent dispatch,
the move of a core with the scrub of R200, and the fence of a core.
-/
namespace Sys2Proof.Machine

/-! What a core takes on with a context (R190, R193, R197, R200, R239, R321). -/

/-- The address lies in a working or cache row of a core. -/
def State.inWorking (s : State) (c a : Nat) : Bool :=
  spadBase c ≤ a && a < spadBase c + 0x80000 && !s.residentRow c ((a - spadBase c) / 128)

/-- R200, R237: the Hamada zeroes the working and cache rows of a core that changes its task group, and its translations and
cache lines are invalid. -/
def State.scrubCore (s : State) (c owner : Nat) : State :=
  let s := { s with
    mem := s.mem.filter (fun m => !s.inWorking c m.1)
    badBytes := s.badBytes.filter (fun b => !s.inWorking c b) }
  s.putCore c { s.core c with owner := owner, tlb := [], walks := (s.core c).walks.map (fun w => { w with stale := true }) }

/-- R112: the programs that fit in `room` operations, the one least recently served leaving first. -/
def fitProgs : Nat → List (Nat × Nat × List Nat) → List (Nat × Nat × List Nat)
  | _, [] => []
  | room, p :: ps => if p.2.2.length ≤ room then p :: fitProgs (room - p.2.2.length) ps else []

/-- R112: a program of a context in a core's store of 256 operations, as the one served last. -/
def storeProg (l : List (Nat × Nat × List Nat)) (p : Nat × Nat × List Nat) : List (Nat × Nat × List Nat) :=
  fitProgs 256 (p :: l.filter (fun q => !(q.1 == p.1 && q.2.1 == p.2.1)))

/-- R112: the program of a launch is resident: the store holds it with the operations that its launch has validated (log 84). -/
def Core.resident (k : Core) (x : Nat) (p : TileProg) : Bool := k.progs.contains (x, p.addr, p.ops)

/-- R112: the operations of a launch's program: those of a resident program, else read from HBM through the core's translation. -/
def State.fetchProg (s : State) (c x : Nat) (p : TileProg) : Chk (List Nat) :=
  if (s.core c).resident x p then .ok p.ops
  else (s.readBy c (p.addr + p.opOff 0) (8 * p.ops.length)).map (fun b => (chunksOf 8 p.ops.length b).map ofLE)

/-- R110: the tokens of a program's buffers at a launch. -/
def tokensOf (bufs : List Buf) : Nat := (bufs.mapIdx (fun i b => if b.full then 2 ^ i else 0)).sum

/-- R141, R142: SEQ_EXT and SEQ_EXT_J take the extents of a launch. -/
def State.setExtents (s : State) (c : Nat) (l : Launch) : State :=
  let s := s.setFld (Reg.SEQ_EXT c) Fld.SEQ_EXT_EXT_M l.extM
  let s := s.setFld (Reg.SEQ_EXT c) Fld.SEQ_EXT_EXT_N l.extN
  let s := s.setFld (Reg.SEQ_EXT c) Fld.SEQ_EXT_EXT_K l.extK
  s.setFld (Reg.SEQ_EXT_J c) Fld.SEQ_EXT_J_EXT_J l.extJ

/-- R239: XLT_ROOT holds the root of the context the core serves. -/
def State.setRoot (s : State) (c x : Nat) : State :=
  let s := s.setFld (Reg.XLT_ROOT c) Fld.XLT_ROOT_CTX x
  let s := s.setFld (Reg.XLT_ROOT c) Fld.XLT_ROOT_ROOT (s.rootOf x / 2 ^ 17)
  s.setFld (Reg.XLT_ROOT c) Fld.XLT_ROOT_ENABLE 1

/-- R112, R115, R121, R141, R193, R239: a core takes on the running step of the context it serves, with the run count that it left
it with. DESIGN CHOICE (log 85): its tokens are those of TOKEN_INIT each time. -/
def State.equipStep (s : State) (c x : Nat) : State :=
  let l := s.launchOf x
  let s := ((s.setRoot c x).flushCache c).setExtents c l
  if (s.ctx x).run ≠ .running ∨ l.kind ≠ 0 then s
  else
    let s := if (s.core c).resident x l.prog then s else s.readUp c (l.prog.addr + l.prog.opOff 0) (8 * l.prog.ops.length)
    match s.fetchProg c x l.prog with
    | .error e => s.stopBy c x noTile (s.ctx x).gen 0 0 0 e
    | .ok ops =>
      let k := s.core c
      s.putCore c { k with
        tokens := tokensOf l.prog.bufs, runs := tget 0 (s.ctx x).ran c, progs := storeProg k.progs (x, l.prog.addr, ops) }

/-- R299: a core that takes on a context has reduction staging where a Swarm step of that context runs. -/
def State.equipStaging (s : State) (c x : Nat) : State :=
  if s.swarm.live && s.swarm.ctx == x && (s.ctx x).run == .running then s.setupStaging c (s.ctx x).staging else s.endStaging c

/-- R190, R200, R321: a core takes on a context: the scrub where the task group differs, the split, and the running step,
whose anchor it becomes where no core serves as one (R322). -/
def State.equipCore (s : State) (c x : Nat) : State :=
  let owner := (s.group (s.ctx x).group).owner
  let s := if (s.core c).owner = owner then s else s.scrubCore c owner
  let s := s.setFld (Reg.SPAD_SPLIT c) Fld.SPAD_SPLIT_SPLIT (s.ctx x).split
  (((s.putCore c { s.core c with ctx := some x, moving := false, moveTo := none }).equipStaging c x).equipStep c x).fixAnchor x

/-! What the firmware counts (R320). -/

/-- R311: a tile at a cursor: a copy of it is still to be granted. -/
def State.toGrant (s : State) (x t : Nat) : Bool :=
  let k := s.ctx x
  if s.assured then !k.done.contains t && (if s.copied x then [1, 2] else [1]).any (fun y => !k.taken t y) else decide (nth 0 k.cur 0 ≤ t)

/-- R320: the tiles of the running pass of a context not yet granted. DEDUCED (log 98): each tile counts once, whatever copies of it are
to be granted, and a tile on the re-issue list is one that is to be granted again. -/
def State.ungranted (s : State) (x : Nat) : Nat :=
  let k := s.ctx x
  ((s.passTiles x).filter (s.toGrant x)).length + ((k.reissue.map (·.tile)).eraseDups.filter (fun t => !s.toGrant x t)).length

/-- The audit tiles of a context that wait for a core. -/
def State.auditsLeft (s : State) (x : Nat) : Nat :=
  ((s.auditList x).filter (fun t => !(s.ctx x).done.contains t && !(s.ctx x).took.any (fun p => p.1 / 4 == t))).length

/-- R314: the most cores of a context. -/
def State.maxCores (s : State) (x : Nat) : Nat :=
  if s.copied x then max 3 (s.ctx x).maxCores else (s.ctx x).maxCores

/-- R320: the cores that a context wants. A context whose step runs no tiles wants the cores that its duties name: one for an
Erg step, those that add for a Swarm step (R322, R460); one that no core serves wants one for the anchor's duties (R322). -/
def State.wants (s : State) (x : Nat) : Nat :=
  let k := s.ctx x
  if k.run ≠ .running then 0
  else
    let l := s.launchOf x
    if l.kind = 1 then 1
    else if l.kind = 2 then min (s.maxCores x) (max 1 s.swarm.cores)
    else
      let n := min (s.maxCores x) (s.ungranted x)
      let n := if n = 0 && (s.serving x).isEmpty then 1 else n
      if n > 0 && s.copied x then max 3 n else n

/-- R320, R328, R528: a core that an assignment may use. -/
def State.assignable (s : State) (c : Nat) : Bool := s.usable c

/-- A context that asks for cores: how many it wants, its weight, and the least that it is given when it is given any (R314). -/
structure Ask where
  ctx    : Nat
  want   : Nat
  weight : Nat
  least  : Nat
deriving DecidableEq, Repr

/-- R320: the shares of the contexts of one class out of `free` cores, in ascending context number. -/
def sharesOf (free : Nat) (l : List Ask) : List Nat :=
  if (l.map (·.want)).sum ≤ free then l.map (·.want)
  else
    let w := (l.map (·.weight)).sum
    let floors := l.map (fun r => free * r.weight / w)
    let left := free - floors.sum
    (l.zip floors).mapIdx (fun i r => min r.1.want (if i < left then r.2 + 1 else r.2))

/-- Cores left over, given in order; `room` says how many more a context may take. -/
def giveMore (room : Ask → Nat → Nat) : Nat → List (Ask × Nat) → List (Ask × Nat)
  | _, [] => []
  | spare, (r, n) :: l => let k := min spare (room r n); (r, n + k) :: giveMore room (spare - k) l

/-- R314: no share lies between none and the least. Where one does, those shares are given up, then given whole to such contexts as far
as the cores go, and the rest to the contexts with a share, in ascending context number (DESIGN CHOICE: log 98). -/
def raiseShares (free : Nat) (l : List (Ask × Nat)) : List (Ask × Nat) :=
  if l.all (fun r => r.2 == 0 || r.1.least ≤ r.2) then l
  else
    let kept := l.map (fun r => if r.2 < r.1.least then (r.1, 0) else r)
    let spare := free - (kept.map (·.2)).sum
    let fewer := kept.foldl (fun (a : List (Ask × Nat) × Nat) r =>
      if r.2 = 0 ∧ 1 < r.1.least ∧ r.1.least ≤ a.2 then (a.1 ++ [(r.1, r.1.least)], a.2 - r.1.least) else (a.1 ++ [r], a.2)) ([], spare)
    giveMore (fun r n => if n = 0 then 0 else r.want - n) fewer.2 fewer.1

/-- R320: the shares of all contexts, class by class, then the spare cores for contexts with audits outstanding (R321). -/
def State.shares (s : State) : List (Nat × Nat) :=
  let free := (allCores.filter s.assignable).length
  let ready (cls : Nat) : List Ask := (List.range 16).filterMap (fun x =>
    if (s.ctx x).cls = cls ∧ s.wants x > 0 then some ⟨x, s.wants x, (s.ctx x).weight, if s.copied x then 3 else 1⟩ else none)
  let r := [0, 1, 2, 3].foldl (fun (a : List (Nat × Nat) × Nat) cls =>
    let l := ready cls
    let sh := (raiseShares a.2 (l.zip (sharesOf a.2 l))).map (fun r => (r.1.ctx, r.2))
    (a.1 ++ sh, a.2 - (sh.map (·.2)).sum)) ([], free)
  let audits := (List.range 16).filterMap (fun x =>
    if (s.ctx x).run == .running && s.wants x == 0 && s.auditsLeft x > 0 then some (x, s.auditsLeft x) else none)
  (audits.foldl (fun (a : List (Nat × Nat) × Nat) y =>
    let n := min a.2 (min y.2 (s.maxCores y.1))
    (a.1 ++ [(y.1, n)], a.2 - n)) r).1

/-! Which cores (R207, R320, R322). -/

/-- R322: the core is kept with its context. -/
def State.keptCore (s : State) (c : Nat) : Bool := s.isAnchor c

/-- R207: a remote window onto the core's scratchpad is not closed. -/
def State.spadWindow (s : State) (c : Nat) : Bool :=
  (s.wins.map (·.1)).any (fun e =>
    let b := s.fld (Reg.WIN_BASE e) Fld.WIN_BASE_ADDR * 128
    s.fld (Reg.WIN_CTL e) Fld.WIN_CTL_STATE != 0 && spadBase c ≤ b && b < spadBase c + 0x80000)

/-- R207: a core can be given to a context. -/
def State.canServe (s : State) (c x : Nat) : Bool :=
  !s.spadWindow c || ((s.core c).owner == (s.group (s.ctx x).group).owner && s.fld (Reg.SPAD_SPLIT c) Fld.SPAD_SPLIT_SPLIT == (s.ctx x).split)

/-- The context that a core serves or moves to. -/
def State.headed (s : State) (c : Nat) : Option Nat :=
  let k := s.core c
  if k.moving then k.moveTo else k.ctx

/-- R320: the cores of a context that stay with it under a share: anchors first, then those of highest core ID; in the Assured
profile die by die. -/
def keepSome (anchors l : List Nat) (n : Nat) : List Nat :=
  let a := l.filter (fun c => anchors.contains c)
  let o := (l.filter (fun c => !anchors.contains c)).reverse
  (a ++ o).take n

/-- The share of each die: one part for both in the Capacity profile, split evenly in the Assured profile. -/
def State.dieShares (s : State) (n : Nat) : List (List Nat × Nat) :=
  if s.assured then [(allCores.take 144, (n + 1) / 2), (allCores.drop 144, n / 2)] else [(allCores, n)]

/-- The cores that stay with their contexts. -/
def State.staying (s : State) (sh : List (Nat × Nat)) : List (Nat × Nat) :=
  let anchors := allCores.filter s.keptCore
  sh.flatMap (fun r =>
    let mine := allCores.filter (fun c => s.assignable c && s.headed c == some r.1)
    (s.dieShares r.2).flatMap (fun d => (keepSome anchors (mine.filter (fun c => d.1.contains c)) d.2).map (fun c => (c, r.1))))

/-- R320: the assignment of cores: those that stay, then cores in ascending ID from those that no context keeps. Where a die has too few
cores for its half of a share, cores of the other die fill the share once every half is given (DESIGN CHOICE: log 98). -/
def State.assignment (s : State) : List (Nat × Nat) :=
  let sh := s.shares
  let pass (parts : Nat → List (List Nat × Nat)) (l : List (Nat × Nat)) : List (Nat × Nat) := sh.foldl (fun (a : List (Nat × Nat)) r =>
    let take (a : List (Nat × Nat)) (cores : List Nat) (n : Nat) : List (Nat × Nat) :=
      let have_ := (a.filter (fun p => p.2 == r.1 && cores.contains p.1)).length
      let pool := cores.filter (fun c => s.assignable c && !s.keptCore c && !a.any (fun p => p.1 == c) && s.canServe c r.1)
      a ++ (pool.take (n - have_)).map (fun c => (c, r.1))
    (parts r.2).foldl (fun a d => take a d.1 d.2) a) l
  pass (fun n => [(allCores, n)]) (pass s.dieShares (s.staying sh))

/-- R321: a core is to leave for a context at its next tile boundary; one that already serves it stays. -/
def State.sendCore (s : State) (c x : Nat) : State :=
  let k := s.core c
  if k.ctx = some x then s.putCore c { k with moving := false, moveTo := none }
  else s.putCore c { k with moving := true, moveTo := some x }

/-- R321: a core that no context asks for is to serve none from its next tile boundary. -/
def State.sendIdle (s : State) (c : Nat) : State :=
  let k := s.core c
  if k.ctx.isNone then s.putCore c { k with moving := false, moveTo := none } else s.putCore c { k with moving := true, moveTo := none }

/-- R320, R321, R322: the cores that an assignment leaves without a context. -/
def State.surplus (s : State) (l : List (Nat × Nat)) : List Nat :=
  allCores.filter (fun c => s.assignable c && !s.keptCore c && (s.headed c).isSome && !l.any (fun p => p.1 == c))

/-! Copies that no core may take (R314), and the order of R326. -/

/-- The cores given to each context. -/
def State.given (s : State) (x : Nat) : Nat := (allCores.filter (fun c => s.headed c == some x)).length

/-- R326: the contexts from which cores are taken for context `x`, in order: highest class number first, then the one with the
most cores, then the higher number. -/
def State.victims (s : State) (x : Nat) : List Nat :=
  let l := (List.range 16).filter (fun y => y != x && s.given y > 0)
  let before (a b : Nat) : Bool :=
    (s.ctx a).cls > (s.ctx b).cls || ((s.ctx a).cls == (s.ctx b).cls &&
      (s.given a > s.given b || (s.given a == s.given b && a ≥ b)))
  sortBy before l

/-- R322: the core can be taken for a context. -/
def State.mayTake (s : State) (x c : Nat) : Bool := s.assignable c && !s.keptCore c && s.canServe c x && s.headed c != some x

/-- The cores that serve no context and can be taken. -/
def State.idleFor (s : State) (x : Nat) : List Nat := allCores.filter (fun c => s.mayTake x c && (s.headed c).isNone)

/-- R326: the cores of other contexts that can be taken, in the order of R326, in ascending core ID within one. -/
def State.takenFrom (s : State) (x : Nat) : List Nat :=
  (s.victims x).flatMap (fun y => allCores.filter (fun c => s.mayTake x c && s.headed c == some y))

/-- R314: the cores that can be taken for a context: free cores first, then in the order of R326. -/
def State.takeable (s : State) (x : Nat) : List Nat := s.idleFor x ++ s.takenFrom x

/-- R314: a copy at a cursor, or an entry of the list, that no core serving the context may take: the tile and the copy. -/
def State.stuck (s : State) (x : Nat) : Option (Nat × Nat) :=
  let k := s.ctx x
  let cs := allCores.filter (fun c => s.headed c == some x)
  if !s.copied x || k.run != .running then none
  else
    match k.reissue.find? (fun e => !e.combine && !cs.any (fun c => s.mayReissue x c e)) with
    | some e => some (e.tile, e.copy)
    | none =>
      (s.passTiles x).findSome? (fun t =>
        if k.done.contains t then none
        else
          ([1, 2].find? (fun y => !k.taken t y && !cs.any (fun c => !k.holdsOther c t y &&
            (s.copiesFor x (dieOf c) t).contains y))).map (fun y => (t, y)))

/-- R314: the firmware moves a core that may take the copy to the context. -/
def State.unstick (s : State) (x : Nat) : State :=
  match s.stuck x with
  | none => s
  | some (t, y) =>
    match (s.takeable x).find? (fun c => !(s.ctx x).holdsOther c t y &&
        (y == 3 || (s.copiesFor x (dieOf c) t).contains y || !s.dieServes x (dieOf c))) with
    | none => s
    | some c => s.sendCore c x

/-! Self-tests during work (R328). -/

/-- R322, R328: the waiting self-test of a core may begin: it is no anchor, and its die has room for one more. -/
def State.mayTest (s : State) (c : Nat) : Bool :=
  let busy := allCores.filter (fun k => dieOf k == dieOf c && ((s.core k).test == 1 || (s.core k).test == 2))
  s.ready && (s.core c).test == 3 && !s.fenced c && !s.keptCore c && busy.length < s.conf.testCores

/-- R328: the core is withdrawn at its next tile boundary; one that serves no context is under test at once. -/
def State.withdrawForTest (s : State) (c : Nat) : State :=
  let k := s.core c
  s.putCore c (if k.ctx.isNone then { k with moving := false, moveTo := none, test := 2 }
    else { k with moving := true, moveTo := none, test := 1 })

/-- R328: waiting self-tests begin, in ascending core ID, as far as TEST_CORES_PER_DIE allows. -/
def State.nextTests (s : State) : State := allCores.foldl (fun s c => if s.mayTest c then s.withdrawForTest c else s) s

/-- R314, R320, R321: SLICE_BOUNDARY: the firmware assigns the cores; those that no context asks for go idle. -/
def execSliceBoundary (s : State) : Res :=
  .next (if !s.ready then s
    else
      let s := s.nextTests
      let l := s.assignment
      let s := (s.surplus l).foldl State.sendIdle s
      let s := l.foldl (fun s p => s.sendCore p.1 p.2) s
      (List.range 16).foldl State.unstick s)

/-- R314, R326, R327: a class-0 step takes URGENT_CORES cores, three at least where its tiles are copied, at once from the other
contexts; in the Assured profile half from each die, the odd one from die 0. Where they have too few, cores that serve none follow (DESIGN CHOICE: log 69). -/
def State.dispatch (s : State) (x : Nat) : State :=
  (s.dieShares (if s.copied x then max 3 (s.ctx x).urgCores else (s.ctx x).urgCores)).foldl (fun s d =>
    (((s.takenFrom x ++ s.idleFor x).filter (fun c => d.1.contains c)).take d.2).foldl (fun s c => s.sendCore c x) s) s

/-! A core that becomes idle (R321). -/

/-- R321: the ready context with the fewest cores given against its want, among those that a core can be given to and, where
their tiles are copied, that have the others of three (R314); of equals the lower number (DESIGN CHOICE: log 98). -/
def State.neediest (s : State) (c : Nat) : Option Nat :=
  let l := (List.range 16).filter (fun x => decide (s.given x < s.wants x) && s.canServe c x && (!s.copied x || decide (2 ≤ s.given x)))
  l.find? (fun x => l.all (fun y => decide (s.given x * s.wants y ≤ s.given y * s.wants x)))

/-- R321: the core is idle: it serves no context, or one that has no more tiles to grant and none on this core. -/
def State.isIdle (s : State) (c : Nat) : Bool :=
  s.assignable c && !s.keptCore c && (s.core c).grants.isEmpty && (s.core c).ctx.elim true (fun x => s.wants x == 0)

/-! The move of a core (R120, R321). -/

/-- R120: the grant's compute section has issued no operation other than TOKWAIT. -/
def Grant.returnable (g : Grant) : Bool := !g.issued

/-- R321: a core stands at a tile boundary: every grant it holds can be returned. -/
def State.atBoundary (s : State) (c : Nat) : Bool := (s.core c).grants.all (·.returnable)

/-- R115: the run count that a core leaves with its context: that of the tiles it has run, without those it returns. -/
def State.keepRuns (s : State) (c x : Nat) : State :=
  let k := s.core c
  s.putCtx x { s.ctx x with ran := tput 0 (s.ctx x).ran c (k.runs - (k.grants.filter (·.arrived)).length) }

/-- R120, R265, R321: the grants that a core returns, and its streams, are gone. -/
def State.returnGrants (s : State) (c : Nat) : State :=
  match (s.core c).ctx with
  | none => s
  | some x => ((s.keepRuns c x).reissueAll c).cancelAll c

/-- R120, R321, R328: a core leaves its context for another, or for none. -/
def State.moveCore (s : State) (core : Nat) (dest : Option Nat) : State :=
  let s := (s.returnGrants core).flushCache core
  match dest with
  | none => (s.putCore core { s.core core with
      ctx := none, moving := false, test := if (s.core core).test = 1 then 2 else (s.core core).test }).settle
  | some x =>
    if (s.ctx x).live && s.canServe core x then (s.equipCore core x).settle
    else (s.putCore core { s.core core with ctx := none, moving := false, moveTo := none }).settle

/-- R321, R322, R328: CORE_MOVE: at its tile boundary a core takes on its new context, or serves none; a core that is idle goes to the
context that needs one most. An anchor core stays. -/
def execCoreMove (core : Nat) (s : State) : Res :=
  .next (if s.keptCore core || !s.atBoundary core then s
    else if (s.core core).moving then s.moveCore core (s.core core).moveTo
    else if s.ready && s.isIdle core then (s.neediest core).elim s (fun x => s.moveCore core (some x))
    else s)

/-- R315, R491: CORE_FENCE. -/
def execCoreFence (core reason : Nat) (s : State) : Res :=
  .next (if s.live ∧ core < 288 ∧ reason < 3 then (List.range 16).foldl State.unstick (s.fenceCore core reason).settle else s)

/-- R309, R120, R314: GRANT_REQUEST. A counter that has no copy which a serving core may take reports it. -/
def execGrantRequest (core : Nat) (s : State) : Res :=
  .next (match s.asks core with
    | none => s
    | some x =>
      match s.offerTo x core with
      | none => s.unstick x
      | some o => s.giveGrant x core o)

end Sys2Proof.Machine
end

