-- ==== Sys2Proof/Machine/Check.lean ====
section
/-!
DEFINITION. What the firmware validates at the launch of a tile step (R109 to R131, R152 to R156, R166, R167, R190, R198, R199,
R226 to R231, R244 to R255, R559, R605). It judges the launch description, the tile program, the slots, the streams, the
operations, the parameters, the row-bin table, the predictor record, the extents and the partial region, in this order, each
item's fields in ascending offset.
-/
namespace Sys2Proof.Machine

/-! The launch description (R559). -/

/-- The 128 bytes of a step launch description with its place. -/
structure LaunchDesc where
  addr  : Nat
  bytes : List Byte
deriving DecidableEq, Repr

/-- A field of a description. -/
def LaunchDesc.at (d : LaunchDesc) (o n : Nat) : Nat := fieldLE d.bytes o n

def LaunchDesc.kind (d : LaunchDesc) : Nat := d.at 0 1
def LaunchDesc.program (d : LaunchDesc) : Nat := d.at 0x08 8
def LaunchDesc.streams (d : LaunchDesc) : Nat := d.at 0x10 8
def LaunchDesc.slots (d : LaunchDesc) : Nat := d.at 0x18 8
def LaunchDesc.params (d : LaunchDesc) : Nat := d.at 0x20 8
def LaunchDesc.bintab (d : LaunchDesc) : Nat := d.at 0x28 8
def LaunchDesc.partial_ (d : LaunchDesc) : Nat := d.at 0x30 8
def LaunchDesc.staging (d : LaunchDesc) : Nat := d.at 0x38 8
def LaunchDesc.predictor (d : LaunchDesc) : Nat := d.at 0x40 8
/-- R424: the entry awaited plus one, and the count awaited. -/
def LaunchDesc.waitEntry (d : LaunchDesc) : Nat := d.at 0x48 2
def LaunchDesc.waitBytes (d : LaunchDesc) : Nat := d.at 0x50 8
def LaunchDesc.mcastUnits (d : LaunchDesc) : Nat := d.at 0x58 8

/-- R559: a description's own fields; a field that its kind does not use is zero. -/
def LaunchDesc.check (d : LaunchDesc) : Chk Unit := do
  needField d.addr 0 (d.kind ≤ 2)
  needField d.addr 1 (d.at 1 1 ≤ 1 && (d.at 1 1 == 0 || d.predictor != 0))
  needField d.addr 2 (if d.kind = 1 then 1 ≤ d.at 2 2 && d.at 2 2 ≤ 64 else d.at 2 2 == 0)
  needField d.addr 4 (d.at 4 4 == 0)
  eachChk [0x10, 0x18, 0x20, 0x28, 0x30, 0x38, 0x40] (fun o => needField d.addr o (d.kind == 0 || d.at o 8 == 0))
  needField d.addr 0x48 (d.waitEntry ≤ 4096)
  needField d.addr 0x4A (d.at 0x4A 6 == 0)
  needField d.addr 0x50 (d.waitEntry != 0 || d.waitBytes == 0)
  needField d.addr 0x60 (zeroAt d.bytes 0x60 32)

/-! The tile program. -/

/-- R113: the bits of an operation that its opcode does not name. -/
def opReserved (w : Nat) : Bool :=
  let low (n : Nat) : Bool := w % 2 ^ n == 0
  bitsOf w 54 52 == 0 &&
    (let c := opCode w
     if c = opNop then bitsOf w 51 0 == 0
     else if c = opLoad then low 38
     else if c = opMatch then low 26
     else if c = opMma then low 19
     else if c = opRowfn then low 29
     else if c = opMma2 then low 25
     else if c = opDrain then low 28
     else if c = opStore then low 40
     else if c = opTokwait ∨ c = opTokpost then low 46
     else low 48)

/-- R110: a buffer table entry. -/
def parseBuf (b : List Byte) : Buf := let v := ofLE b; ⟨bitsOf v 11 0, bitsOf v 24 12, bitAt v 25⟩

/-- The rows of two buffers meet. -/
def Buf.meets (a b : Buf) : Bool := a.base < b.base + b.rows && b.base < a.base + a.rows

/-- R109: the header of a tile program, as far as it can be judged without the operations. -/
def progHeader (a : Nat) (h : List Byte) : Chk Unit := do
  let tk := fieldLE h 4 2
  let tn := tileN (fieldLE h 2 1)
  let pk := fieldLE h 0x10 4
  let pj := fieldLE h 0x14 4
  needField a 0 (a % 32 == 0 && fieldLE h 0 1 == 3)
  needField a 1 (1 ≤ fieldLE h 1 1 && fieldLE h 1 1 ≤ 64)
  needField a 2 (fieldLE h 2 1 ≤ 2)
  needField a 3 (1 ≤ fieldLE h 3 1 && fieldLE h 3 1 ≤ 16)
  needField a 4 (tk % 16 == 0 && 16 ≤ tk && tk ≤ 32768)
  needField a 6 (fieldLE h 6 1 ≤ 15)
  needField a 7 (fieldLE h 7 1 ≤ 15)
  needField a 8 (1 ≤ fieldLE h 8 4)
  needField a 0xC (1 ≤ fieldLE h 0xC 4)
  needField a 0x10 (tk ≤ pk && pk % tk == 0)
  needField a 0x14 (pj % tn == 0)
  needField a 0x18 (zeroAt h 0x18 8)

/-- R109 to R113, R190: the program at an address, its header, buffers and the encodings of its operations. -/
def State.loadProg (s : State) (root a split : Nat) : Chk TileProg := do
  let h ← s.readVa root a 32
  progHeader a h
  let nb := fieldLE h 3 1
  let no := fieldLE h 1 1
  let pj := fieldLE h 0x14 4
  let bt ← s.readVa root (a + 32) (8 * nb)
  let ob ← s.readVa root (a + 32 + 8 * nb) (8 * no)
  let ops := (chunksOf 8 no ob).map ofLE
  needField a 0x14 (ops.any (fun w => opCode w == opMma2) == (pj != 0))
  let raw := chunksOf 8 nb bt
  let bufs := raw.map parseBuf
  let p : TileProg := ⟨a, fieldLE h 2 1, fieldLE h 4 2, fieldLE h 6 1, fieldLE h 7 1, fieldLE h 8 4, fieldLE h 0xC 4,
    fieldLE h 0x10 4, fieldLE h 0x14 4, bufs, ops⟩
  eachChk (List.range nb) (fun i =>
    let b := nth ⟨0, 0, false⟩ bufs i
    needField a (32 + 8 * i) (bitsOf (ofLE (nth [] raw i)) 63 26 == 0 && 1 ≤ b.rows && b.rows ≤ 4096 &&
      b.base + b.rows ≤ 4096 - 512 * split && (List.range i).all (fun j => !b.meets (nth ⟨0, 0, false⟩ bufs j))))
  eachChk (List.range no) (fun i =>
    let w := nth 0 ops i
    needField a (p.opOff i) (opCode w ≤ 0x0A && opReserved w))
  pure p

/-- R210: the resident regions of the module, each with its owner and its rows. -/
def State.residents (s : State) : List (Nat × Buf) :=
  distinct (allCores.flatMap (fun c => [0, 1].filterMap (fun n =>
    let r := s.reg (Reg.SPAD_RES c n)
    if bitAt r 40 then some (bitsOf r 63 48, (⟨bitsOf r 11 0, bitsOf r 24 12, false⟩ : Buf)) else none)))

/-- R198: neither buffer of a reference meets a resident region of `owner`. -/
def TileProg.clear (p : TileProg) (regions : List (Nat × Buf)) (owner br : Nat) : Bool :=
  [0, 1].all (fun k => !regions.any (fun r => r.1 == owner && (nth ⟨0, 0, false⟩ p.bufs (bufNo br k)).meets r.2))

/-- R151, R198: the scales of a ROWFN, which it writes to the scale buffer of its MMA2, go to no resident region of the group. -/
def State.checkScaleRows (s : State) (x : Nat) (p : TileProg) (slots : List SlotBind) : Chk Unit :=
  let owner := (s.group (s.ctx x).group).owner
  eachChk (List.range p.ops.length) (fun i =>
    let w := nth 0 p.ops i
    let mma2 := ((p.ops.drop (i + 1)).find? (fun v => opCode v == opMma2 && opPf v == opPf w)).getD 0
    let scaled := ((slots[rfSlot w]?).bind (·.values)).elim false (fun d => isScaled d.fmt)
    needField p.addr (p.opOff i) (opCode w != opRowfn || !scaled || p.clear s.residents owner (fAs mma2)))

/-- R198, R199: a program's buffers and the resident regions: those of other groups, and those of its own where it writes. -/
def State.checkResident (s : State) (x : Nat) (p : TileProg) : Chk Unit := do
  let owner := (s.group (s.ctx x).group).owner
  let regions := s.residents
  eachChk (List.range p.bufs.length) (fun i =>
    let b := nth ⟨0, 0, false⟩ p.bufs i
    if regions.any (fun r => r.1 != owner && b.meets r.2) then .error (.refuse stTenantScrub p.addr none32 none32 (32 + 8 * i))
    else pure ())
  eachChk (List.range p.ops.length) (fun i =>
    let w := nth 0 p.ops i
    let c := opCode w
    let brs := if c = opLoad then [fA w]
      else if c = opDrain then drOut w :: (if drFn w = fnQuantRow then [drBiasBr w] else [])
      else if c = opRowfn then [rfOut w] else []
    needField p.addr (p.opOff i) (brs.all (p.clear regions owner)))

/-- R278: no buffer of a program reaches a row of a scratchpad spill region of a core that may run it: one that serves the context, or
none. -/
def State.checkStaging (s : State) (x : Nat) (p : TileProg) : Chk Unit :=
  let regions := (allCores.filter (fun c => (s.core c).ctx.elim true (fun y => y == x))).filterMap s.stagingRows
  eachChk (List.range p.bufs.length) (fun i =>
    let b := nth ⟨0, 0, false⟩ p.bufs i
    needField p.addr (32 + 8 * i) (regions.all (fun r => !b.meets ⟨r.1, r.2 - r.1, false⟩)))

/-! Slots (R67, R72, R124, R226, R245, R604). -/

/-- How the operations of a program use a slot: as the target of a STORE, of a STORE on a list stream, and of the DRAIN that writes a
bitmap where the slot's tensor has one (R164); and whether some of them move it other than through a remote window. -/
structure SlotUse where
  write : Bool
  list  : Bool
  bits  : Bool
  here  : Bool
deriving DecidableEq, Repr

/-- R220: the write descriptors are those that a STORE names. -/
def slotUse (p : TileProg) (streams : List StreamEnt) (i : Nat) : SlotUse :=
  let ents (op : Nat) := ((p.ops.filter (fun w => opCode w == op)).map (fun w => nth StreamEnt.unused streams (fStream w))).filter
    (fun e => e.kind != 0 && e.slot == i)
  let mine := (ents opStore).filter (fun e => e.dir == 1)
  ⟨!mine.isEmpty, mine.any (fun e => e.kind == 1),
    (p.first opDrain).elim false (fun w => (drFn w == fnThresh || drFn w == fnTopk) && drSlot w == i),
    (ents opLoad ++ mine).isEmpty || (ents opLoad ++ mine).any (fun e => e.window == 0)⟩

/-- R72: the end of the last row lies within the value array. -/
def State.checkEnd (s : State) (root : Nat) (v m r : Desc) : Chk Unit := do
  let rows := (m.dim 1).extent
  if rows < (r.dim 0).extent then
    let e ← s.readElem root r [(rows : Int)]
    if e * 256 > (v.dim 0).extent * v.w then .error (.refuse stFormat r.addr none32 none32 r.tag) else pure ()
  else pure ()

/-- One part of a slot; none where its address is zero. -/
def State.slotPart (s : State) (root a : Nat) (bitmap : Bool) (use : Desc → DescUse) : Chk (Option Desc) :=
  if a = 0 then .ok none else (s.loadDescFor root a bitmap use).map some

/-- R226: the bytes of a staging region that an ordered descriptor needs. -/
def Desc.stagingBytes (d : Desc) : Nat := alignUp (ceilDiv (d.validCount * d.w) 8 + ceilDiv d.validCount 8) 32

/-- R226: a step has a staging region of `n` bytes in HBM: the task may write every one of them. DEDUCED (log 96): a launch gives the
region's address and no size. -/
def State.stagingOk (s : State) (root va n : Nat) : Bool :=
  decide (va + n ≤ 2 ^ 48) && ((s.rangesOf root va n true).toOption.elim false (fun l => l.all (fun r => inHbm r.1)))

/-- R220, R226: the use of a part of a slot, where a STORE writes that part. -/
def State.storedUse (s : State) (root staging : Nat) (u : SlotUse) (struct_ stored : Bool) (d : Desc) : DescUse :=
  ⟨u.write && stored, struct_, staging != 0 && !u.list && d.alias_ && s.stagingOk root staging d.stagingBytes⟩

/-- R220, R226, R245: one entry of the slot table. A STORE writes the bitmap of a slot whose tensor has one and whose DRAIN selects, the
values and the scales of any other. -/
def State.loadSlot (s : State) (root table i staging : Nat) (u : SlotUse) (b : List Byte) : Chk SlotBind := do
  let av := fieldLE b 0 8
  let asc := fieldLE b 8 8
  let ast := fieldLE b 16 8
  let arp := fieldLE b 24 8
  needField table (40 * i) (av != 0 || (asc == 0 && ast == 0 && arp == 0))
  needField table (40 * i + 32) (fieldLE b 32 1 ≤ 2)
  needField table (40 * i + 33) (zeroAt b 33 7)
  let v ← s.slotPart root av false (fun d => s.storedUse root staging u false (!(u.bits && d.spform == 1)) d)
  let d := v.getD Desc.blank
  let bits := u.bits && d.spform == 1
  let sc ← s.slotPart root asc false (s.storedUse root staging u false (!bits))
  let st ← s.slotPart root ast (d.spform == 1) (s.storedUse root staging u true bits)
  let rp ← s.slotPart root arp false (s.storedUse root staging u true false)
  needField table (40 * i) (av == 0 || d.fmt ≤ 0x0E)
  needField table (40 * i + 8) (sc.elim true (fun q => isScaled d.fmt && q.fmt == scaleFormat d.fmt))
  needField table (40 * i + 16) (st.elim true (fun q => 1 ≤ d.spform && d.spform ≤ 5 && q.fmt ≤ 0x0E))
  needField table (40 * i + 24) (rp.elim true (fun q => d.spform == 1 && q.fmt ≤ 0x0E))
  match st, rp with
  | some m, some r => if u.here then s.checkEnd root d m r else pure ()
  | _, _ => pure ()
  pure ⟨v, sc, st, rp, fieldLE b 32 1⟩

/-- The eight slots of a launch; none are bound where the table's address is zero. -/
def State.loadSlots (s : State) (root : Nat) (d : LaunchDesc) (p : TileProg) (streams : List StreamEnt) : Chk (List SlotBind) := do
  if d.slots = 0 then pure []
  else
    let b ← s.readVa root d.slots 320
    mapChk (List.range 8) (fun i =>
      s.loadSlot root d.slots i d.staging (slotUse p streams i) ((b.drop (40 * i)).take 40))

/-! Streams (R244, R245, R252, R254). -/

/-- R244: an entry as it stands, without its program. -/
def parseStream (b : List Byte) : StreamEnt :=
  { StreamEnt.unused with
    kind := fieldLE b 0 1
    dir := fieldLE b 1 1
    slot := fieldLE b 2 1
    flags := fieldLE b 3 1
    window := fieldLE b 4 2
    box := (List.range 6).map (fun i => fieldLE b (8 + 4 * i) 4)
    source := fieldLE b 0x20 8
    entries := fieldLE b 0x28 2
    lm := fieldLE b 0x2C 4
    ln := fieldLE b 0x30 4
    lk := fieldLE b 0x34 4
    lj := fieldLE b 0x38 4 }

/-- R244, R245: the fields of an entry. -/
def checkEntry (table off handles : Nat) (b : List Byte) (e : StreamEnt) : Chk Unit := do
  needField table off (e.kind ≤ 2)
  if e.kind = 0 then needField table (off + 1) (zeroAt b 1 63)
  else
    needField table (off + 1) (e.dir ≤ 1)
    needField table (off + 2) (e.slot ≤ 7)
    needField table (off + 3) (e.flags ≤ 3 && !(bitAt e.flags 0 && e.dir == 1) &&
      !(bitAt e.flags 1 && (e.dir == 1 || e.window != 0 || bitAt e.flags 0)))
    needField table (off + 4) (e.window ≤ handles)
    needField table (off + 6) (zeroAt b 6 2)
    eachChk (List.range 6) (fun i => needField table (off + 8 + 4 * i) (nth 0 e.box i != 0))
    needField table (off + 0x28) (if e.kind = 1 then 1 ≤ e.entries && e.entries ≤ 4096 else e.entries == 0)
    needField table (off + 0x2A) (zeroAt b 0x2A 2)
    needField table (off + 0x2C) (e.kind == 1 || zeroAt b 0x2C 16)
    needField table (off + 0x3C) (zeroAt b 0x3C 4)

/-- R253, R254: the bits of an instruction that its opcode does not name. -/
def spReserved (w : Nat) : Bool :=
  let z (hi lo : Nat) : Bool := bitsOf w hi lo == 0
  let c := spCode w
  if c = spEnd then z 25 0
  else if c = spSeti ∨ c = spAddi ∨ c = spMuli ∨ c = spAndi then true
  else if c = spShri then z 17 6
  else if c = spAdd ∨ c = spSub ∨ c = spMul then z 13 0
  else if c = spLdc then z 21 4 && bitsOf w 3 0 ≤ 12
  else if c = spLdp then z 21 3
  else if c = spLoop then true
  else if c = spEndl then z 22 6
  else if c = spJge then z 25 22 && z 13 6
  else z 25 22 && z 17 0

/-- R254: one instruction of a program. -/
def spOk (code : List Nat) (i : Nat) : Bool :=
  let w := nth 0 code i
  spCode w ≤ 0x0E && spReserved w && !(spCode w == spEndl && spTarget w > i) && !(spCode w == spJge && spTarget w ≤ i) &&
    !(spCode w == spLoop && !(code.drop (i + 1)).any (fun v => spCode v == spEndl && spC v == spC w))

/-- R252, R254: the program image of an entry, copied into the engine. -/
def State.loadImage (s : State) (root : Nat) (e : StreamEnt) : Chk StreamEnt := do
  let h ← s.readVa root e.source 16
  let n := fieldLE h 1 1
  needField e.source 0 (fieldLE h 0 1 == 1)
  needField e.source 1 (1 ≤ n && n ≤ 64)
  needField e.source 2 (zeroAt h 2 14)
  needField e.source 1 (e.source / 0x200000 == (e.source + 0x50 + 4 * n - 1) / 0x200000)
  let b ← s.readVa root e.source (0x50 + 4 * n)
  let code := (List.range n).map (fun i => fieldLE b (0x50 + 4 * i) 4)
  eachChk (List.range n) (fun i => needField e.source (0x50 + 4 * i) (spOk code i))
  pure { e with params := (List.range 8).map (fun i => fieldLE b (0x10 + 8 * i) 8), code := code }

/-- The sixteen entries of a stream table; none are used where its address is zero. -/
def State.loadStreams (s : State) (root handles : Nat) (d : LaunchDesc) : Chk (List StreamEnt) := do
  if d.streams = 0 then pure []
  else
    let b ← s.readVa root d.streams 1024
    mapChk (List.range 16) (fun i =>
      let eb := (b.drop (64 * i)).take 64
      let e := parseStream eb
      match checkEntry d.streams (64 * i) handles eb e with
      | .error z => .error z
      | .ok _ => if e.kind = 2 then s.loadImage root e else .ok e)

/-- The parts that an operation moves: that of a LOAD, or those that a STORE writes (R245): with `bits` the bitmap of the drain. -/
def movedParts (bits : Bool) (b : SlotBind) (w : Nat) : List Nat :=
  if opCode w = opLoad then [fPart w]
  else if bits then [2]
  else if b.scales.isSome then [0, 1] else [0]

/-- R244 to R246, R248: the BOX of an entry against the descriptor of a part. -/
def boxOk (b : SlotBind) (e : StreamEnt) (write : Bool) (part : Nat) (d : Desc) : Bool :=
  let rank := if b.packed && (part == 0 || part == 3) then (b.struct_.map (·.ndim)).getD d.ndim else d.ndim
  let b0 := nth 1 e.box 0
  let vw := (b.values.map (·.w)).getD 0
  let blk := (b.values.map (fun v => blockSize v.fmt)).getD 0
  ((List.range 6).all (fun i => i < rank || nth 1 e.box i == 1)) &&
    (if part = 1 then (if write then b0 % max blk 1 == 0 && (b.packed || b0 * vw % 256 == 0) else b0 * d.w % 8 == 0)
     else if part = 2 && b.packed then true
     else if b.packed then b0 % 64 == 0
     else b0 * d.w % 256 == 0)

/-- R245, R246: an operation on a stream: the entry, its parts, its box, its buffer. -/
def checkMove (p : TileProg) (table : Nat) (streams : List StreamEnt) (slots : List SlotBind) (i : Nat) : Chk Unit := do
  let w := nth 0 p.ops i
  let e := nth StreamEnt.unused streams (fStream w)
  let b := nth ⟨none, none, none, none, 0⟩ slots e.slot
  let store := opCode w = opStore
  let bits := bitmapSlot p slots == some e.slot
  needField p.addr (p.opOff i) (e.kind != 0 && e.dir == (if store then 1 else 0) && !(store && opPf w))
  needField p.addr (p.opOff i) ((movedParts bits b w).all (fun k => (b.part k).isSome))
  eachChk (movedParts bits b w) (fun k => needField table (64 * fStream w + 8) (boxOk b e store k ((b.part k).getD Desc.blank)))
  eachChk (movedParts bits b w) (fun k =>
    let k' := if k = 1 && store then 0 else k
    needField table (64 * fStream w + 8) ([0, 1].all (fun par =>
      decide (blockBytes b k' e.box ≤ 128 * (nth ⟨0, 0, false⟩ p.bufs (bufNo (fA w) par)).rows))))

/-- R229, R231: the list of a list stream that an operation names, checked against the part; COUNT is kept. -/
def State.listOf (s : State) (root : Nat) (slots : List SlotBind) (p : TileProg) (k : Nat) (e : StreamEnt) : Chk StreamEnt := do
  if e.kind ≠ 1 then pure e
  else
    let b := nth ⟨none, none, none, none, 0⟩ slots e.slot
    let bits := bitmapSlot p slots == some e.slot
    let ops := p.ops.filter (fun w => (opCode w == opLoad || opCode w == opStore) && fStream w == k)
    let parts := distinct (0 :: ops.map (fun w => nth 0 (movedParts bits b w) 0))
    let parts := if ops.isEmpty then parts else distinct (ops.map (fun w => nth 0 (movedParts bits b w) 0))
    let hs ← mapChk parts (fun q =>
      match b.part q with
      | none => badField e.source 1
      | some d =>
        match s.listHead root e.source d with
        | .error z => .error z
        | .ok h =>
          if h.block ≠ e.box then badField e.source 8
          else if e.dir = 1 && d.alias_ then .error (.refuse stFormat d.addr none32 none32 d.tag) else .ok h.count)
    pure { e with count := nth 0 hs 0 }

/-! Operations against their slots (R43, R44, R46, R67, R78, R81, R111, R149, R152, R154, R155, R166). -/

/-- R43, R44: a pair of operand formats that the cell accepts. -/
def goodPair (a b : Nat) : Bool :=
  let small (c : Nat) : Bool := (0x06 ≤ c && c ≤ 0x0C) || c == 0x0E
  (small a && small b) || (a == b && (a == 0x0D || a == 0x03 || a == 0x01 || a == 0x02))

/-- R46, R81: the multiple at which the K range of a product on two operands begins. -/
def kAlign (sparse : Bool) (da db : Desc) : Nat :=
  let blk := if blockSize da.fmt = 0 then blockSize db.fmt
    else if blockSize db.fmt = 0 then blockSize da.fmt else min (blockSize da.fmt) (blockSize db.fmt)
  let path := if !sparse then 1
    else match scarabPath da.spform da.declNm db.spform with
      | .bitmap => 64
      | .index => (nmShape (if da.spform = 1 then da.declNm else da.spform)).m
      | .dense => 1
  max 1 (max blk path)

/-- The bytes of an operand's values, scales, structure and row pointers at its dense size (R111, R248). -/
def operandBytes (d : Desc) (sh : OpShape) : Nat × Nat × Nat × Nat :=
  let rs := structReads d sh ⟨0, 0, 0, 0⟩
  (ceilDiv (sh.n * sh.stride) 8, (scaleRead d sh ⟨0, 0, 0, 0⟩).2, ((rs[0]?).map (·.2)).getD 0, ((rs[1]?).map (·.2)).getD 0)

/-- The bytes of an output of `rows` rows of `width` values with its scales (R246). -/
def outputBytes (d : Desc) (rows width : Nat) : Nat :=
  let v := ceilDiv (rows * width * elemBits d.fmt) 8
  if isScaled d.fmt then alignUp v 32 + rows * ceilDiv width (blockSize d.fmt) else v

/-- R111: the buffers that an operation names, each with the bytes it must hold. -/
def Launch.opNeeds (l : Launch) (pf : Bool) (pc w : Nat) : List (Nat × Nat) :=
  let c := opCode w
  let vec (n : Nat) : Nat := n * l.tn * vfmtBytes (l.param (if c = opDrain then drPset w else rfPset w)).vfmt
  if c = opLoad ∨ c = opStore ∨ c = opTokwait ∨ c = opTokpost then [(fA w, 0)]
  else if c = opMma ∨ c = opMma2 then
    let (sa, sb) := l.shapes (c == opMma2) (l.slotDesc (fOpa w)) (l.slotDesc (fOpb w))
    let a := operandBytes (l.slotDesc (fOpa w)) sa
    let b := operandBytes (l.slotDesc (fOpb w)) sb
    [(fA w, a.1), (fB w, b.1)] ++ (if a.2.1 > 0 then [(fAs w, a.2.1)] else []) ++ (if b.2.1 > 0 then [(fBs w, b.2.1)] else []) ++
      (if c = opMma && fAccIn w then [(fPartialBr w, l.partSize)] else [])
  else if c = opMatch then
    let second := (l.prog.productAfter pf pc).elim false (fun v => opCode v == opMma2)
    let (sa, sb) := l.shapes second (l.slotDesc (fOpa w)) (l.slotDesc (fOpb w))
    let a := operandBytes (l.slotDesc (fOpa w)) sa
    let b := operandBytes (l.slotDesc (fOpb w)) sb
    [(fA w, if l.predPair then l.tm * bitmapWords l.chunkOut * 8 else a.2.2.1), (fB w, b.2.2.1)] ++
      (if a.2.2.2 > 0 then [(fAs w, a.2.2.2)] else []) ++ (if b.2.2.2 > 0 then [(fBs w, b.2.2.2)] else [])
  else if c = opRowfn then
    let d := l.slotDesc (rfSlot w)
    (rfOut w, ceilDiv (l.tm * l.chunkOut * elemBits d.fmt) 8) ::
      (if isScaled d.fmt then [(fAs (l.prog.mma2After pf pc), l.tm * ceilDiv l.chunkOut (blockSize d.fmt))] else []) ++
      (if rfBias w || readsVector (rfFn w) then [(rfBiasBr w, vec 1)] else [])
  else if c = opDrain then
    let d := l.slotDesc (drSlot w)
    let width := if gatedFn (drFn w) then l.tn / 2 else l.tn
    let out := if (drFn w = fnThresh ∨ drFn w = fnTopk) ∧ d.spform = 1 then l.tm * l.tn / 8 else outputBytes d l.tm width
    let ln := drFn w = fnLayernorm ∨ (l.isPair ∧ rfFn l.rowfnWord = fnLayernorm)
    (drOut w, out) ::
      (if drFn w = fnQuantRow then [(drBiasBr w, 4 * l.tm)]
       else if drBias w ∨ readsVector (drFn w) then [(drBiasBr w, vec (if ln then 2 else 1))] else [])
  else []

/-- The slots that an operation names. -/
def opSlots (w : Nat) : List Nat :=
  let c := opCode w
  if c = opMatch ∨ c = opMma ∨ c = opMma2 then [fOpa w, fOpb w]
  else if c = opRowfn then [rfSlot w] else if c = opDrain then [drSlot w] else []

/-- R113: the scale and structure fields of an operand that has none are zero. -/
def Launch.emptyFields (l : Launch) (w : Nat) : Bool :=
  let a := l.slotDesc (fOpa w)
  let b := l.slotDesc (fOpb w)
  if opCode w = opMma ∨ opCode w = opMma2 then (isScaled a.fmt || fAs w == 0) && (isScaled b.fmt || fBs w == 0)
  else if opCode w = opMatch then
    (a.spform != 0 || l.predPair || fA w == 0) && (b.spform != 0 || fB w == 0) && (a.spform == 1 || fAs w == 0) &&
      (b.spform == 1 || fBs w == 0)
  else true

/-- The operations of the section of operation `i` that stand before it. -/
def TileProg.before (p : TileProg) (i : Nat) : List Nat :=
  (p.ops.take i).filter (fun v => opPf v == opPf (nth 0 p.ops i))

/-- R111: a product operation. -/
def Launch.productOk (l : Launch) (i w : Nat) : Bool :=
  let a := l.slotDesc (fOpa w)
  let b := l.slotDesc (fOpb w)
  let prev := l.prog.before i
  let second := opCode w == opMma2
  goodPair a.fmt b.fmt && a.spform ≤ 5 && b.spform ≤ 5 &&
    (second || (l.runKb ≤ 1 && l.extK ≤ l.prog.planK) || l.tk % kAlign (fSparse w) a b == 0) &&
    (!fSparse w || prev.any (fun v => opCode v == opMatch)) &&
    (!second || prev.any (fun v => opCode v == opRowfn && rfOut v == fA w))

/-- R154, R155, R166: the row function of an operation. -/
def Launch.fnOk (l : Launch) (w : Nat) : Bool :=
  if opCode w = opRowfn then rfFn w ≤ 0x0A
  else if opCode w = opDrain then
    let f := drFn w
    let d := l.slotDesc (drSlot w)
    f ≤ 0x0B && !(wholeRow f && (l.isPair || l.prog.planN > l.tn)) &&
      (f != fnQuantRow || d.fmt == 0x03 || d.fmt == 0x06 || d.fmt == 0x07)
  else true

/-- R149, R152: an operation of a pair program. -/
def Launch.pairOk (l : Launch) (w : Nat) : Bool :=
  if !l.isPair then true
  else
    let ln := rfFn l.rowfnWord == fnLayernorm
    if opCode w = opMma then !fAccIn w
    else if opCode w = opRowfn then
      !(rfBias w && !hasVector (rfFn w) && !elementFn (rfFn w))
    else if opCode w = opMma2 then !(l.prog.gang == 0 && fSparse w)
    else if opCode w = opDrain then
      !(drBias w && !hasVector (drFn w) && !elementFn (drFn w)) && !(ln && (!drBias w || drFn w != fnNone))
    else true

/-- R111: one operation against the launch. -/
def Launch.opOk (l : Launch) (i : Nat) : Bool :=
  let w := nth 0 l.prog.ops i
  let needs := l.opNeeds (opPf w) (l.prog.before i).length w
  (opSlots w).all (fun k => (l.slot k).values.isSome) &&
    needs.all (fun r => [0, 1].all (fun k => bufNo r.1 k < l.prog.bufs.length &&
      decide (r.2 ≤ 128 * (nth ⟨0, 0, false⟩ l.prog.bufs (bufNo r.1 k)).rows))) &&
    l.emptyFields w && l.fnOk w && l.pairOk w &&
    (!(opCode w == opMma || opCode w == opMma2) || l.productOk i w)

/-- R111, R152: the operations of a launch, and OVF_DIMS of a pair program. -/
def Launch.checkOps (l : Launch) : Chk Unit := do
  eachChk (List.range l.prog.ops.length) (fun i => needField l.prog.addr (l.prog.opOff i) (l.opOk i))
  needField l.prog.addr 7 (!(l.isPair && bitAt l.prog.ovfDims 2))

/-! Parameters (R156). -/

/-- A parameter entry. -/
def parseParam (b : List Byte) : ParamEnt :=
  ⟨BitVec.ofNat 32 (fieldLE b 0 4), bitAt (fieldLE b 4 4) 0, fieldLE b 8 4, fieldLE b 12 4, fieldLE b 16 2, fieldLE b 18 1⟩

/-- The row functions that a program applies with an entry. -/
def paramFns (p : TileProg) (n : Nat) : List Nat :=
  p.ops.filterMap (fun w =>
    if opCode w = opRowfn ∧ rfPset w = n then some (rfFn w)
    else if opCode w = opDrain ∧ drPset w = n then some (drFn w) else none)

/-- R156: a parameter within the range of a function. -/
def paramOk (tn fn : Nat) (e : ParamEnt) : Bool :=
  let neg := e.p0.toNat ≥ 2 ^ 31
  if fn = fnSoftmax then !nonFinite e.p0 && !neg && !isZero e.p0
  else if fn = fnRmsnorm ∨ fn = fnLayernorm then !nonFinite e.p0 && (!neg || isZero e.p0)
  else if fn = fnThresh then !isNan e.p0
  else if fn = fnTopk then 1 ≤ e.k && e.k ≤ tn
  else true

/-- The parameter table of a launch; every entry is zero where its address is zero. -/
def State.loadParams (s : State) (root : Nat) (d : LaunchDesc) (p : TileProg) : Chk (List ParamEnt) := do
  let b ← if d.params = 0 then pure (zeros 512) else s.readVa root d.params 512
  mapChk (List.range 16) (fun i =>
    let eb := (b.drop (32 * i)).take 32
    let e := parseParam eb
    let fns := paramFns p i
    if fieldLE eb 4 4 > 1 then badField d.params (32 * i + 4)
    else if !zeroAt eb 0x13 13 then badField d.params (32 * i + 0x13)
    else if !fns.isEmpty && e.vfmt > 2 then badField d.params (32 * i + 0x12)
    else if !fns.all (fun f => paramOk (tileN p.gang) f e) then
      badField d.params (32 * i + if fns.contains fnTopk then 0x10 else 0)
    else .ok e)

/-! The row-bin table (R93, R94). -/

/-- A bin entry: COST, FIRST, COUNT. -/
structure BinEnt where
  cost  : Nat
  first : Nat
  count : Nat
  res   : Nat
deriving DecidableEq, Repr

/-- R94: a breach of a row-bin table at a bin and a position of the row list. -/
def badBin {α : Type} (item st bin pos off : Nat) : Chk α := .error (.refuse st item bin pos off)

/-- R94: the first stage over the bin array. -/
def checkBins (item gangRows rows : Nat) (bins : List BinEnt) : Chk Unit := do
  eachChk (List.range bins.length) (fun i =>
    let b := nth ⟨0, 0, 0, 0⟩ bins i
    let prev := nth ⟨2 ^ 32, 0, 0, 0⟩ bins (i - 1)
    let start := ((bins.take i).map (·.count)).sum
    if b.res ≠ 0 || b.count = 0 || b.count > gangRows || b.first ≠ start || (i > 0 && b.cost > prev.cost) then
      badBin item stFormat i none32 none64 else .ok ())
  if (bins.map (·.count)).sum ≠ rows then badBin item stFormat none32 none32 4 else pure ()

/-- The bin that holds a position of the row list. -/
def binAt (bins : List BinEnt) (pos : Nat) : Nat :=
  (bins.findIdx? (fun b => b.first ≤ pos && decide (pos < b.first + b.count))).getD none32

/-- R94: the second stage: the row list against the rows of the table and of its operand. -/
def checkRows (item rows stored : Nat) (bins : List BinEnt) (list : List Nat) : Chk Unit :=
  match list.findIdx? (fun r => rows ≤ r || stored ≤ r) with
  | some i => badBin item stIndexRange (binAt bins i) i none64
  | none =>
    match (List.range list.length).find? (fun i => (list.take i).contains (nth 0 list i)) with
    | some i => badBin item stFormat (binAt bins i) i none64
    | none => .ok ()

/-- R93, R94: the row-bin table of a launch. The operand that it accompanies is the A operand of the first MMA. -/
def State.loadBins (s : State) (root : Nat) (d : LaunchDesc) (p : TileProg) (slots : List SlotBind) : Chk (Option BinTab) := do
  if d.bintab = 0 then pure none
  else
    let a := d.bintab
    let h ← s.readVa root a 32
    let rows := fieldLE h 4 4
    let n := fieldLE h 8 4
    needField a 0 (a % 32 == 0 && fieldLE h 0 2 == 1)
    needField a 2 (fieldLE h 2 1 == tileM p.gang)
    needField a 3 (zeroAt h 3 1)
    needField a 0xC (zeroAt h 0xC 4)
    needField a 0x10 (fieldLE h 0x10 8 % 32 == 0)
    needField a 0x18 (fieldLE h 0x18 8 % 32 == 0)
    let bb ← s.readVa root (a + fieldLE h 0x10 8) (16 * n)
    let bins := (chunksOf 16 n bb).map (fun b => (⟨fieldLE b 0 4, fieldLE b 4 4, fieldLE b 8 2, fieldLE b 12 4⟩ : BinEnt))
    checkBins a (tileM p.gang) rows bins
    let rb ← s.readVa root (a + fieldLE h 0x18 8) (4 * rows)
    let list := (chunksOf 4 rows rb).map ofLE
    let opa := ((p.first opMma).bind (fun w => slots[fOpa w]?)).getD ⟨none, none, none, none, 0⟩
    let stored := (opa.struct_.map (fun q => (q.dim 1).extent)).getD rows
    checkRows a rows stored bins list
    pure (some ⟨a + fieldLE h 0x18 8, tileM p.gang, bins.map (fun b => (b.first, b.count)), list⟩)

/-! The predictor record (R167 to R169, R173, R175). -/

/-- A predictor record, with its TOKIDX descriptor. -/
def State.loadPred (s : State) (root : Nat) (d : LaunchDesc) : Chk (Option Pred) := do
  let a := d.predictor
  if a = 0 then pure none
  else
    let b ← s.readVa root a 64
    let rank := fieldLE b 2 2
    needField a 2 (64 ≤ rank && rank ≤ 512 && rank % 64 == 0)
    needField a 4 (fieldLE b 4 1 ≤ 1)
    needField a 5 (zeroAt b 5 3)
    needField a 0xA (zeroAt b 0xA 2)
    needField a 0x20 (zeroAt b 0x20 32)
    let t ← s.loadDesc root (fieldLE b 0x10 8) false ⟨false, false, false⟩
    needField a 0x10 (t.fmt == 0x04 && t.ndim == 1 && t.spform == 0)
    pure (some ⟨a, fieldLE b 0 2, rank, fieldLE b 4 1, fieldLE b 8 2, fieldLE b 0xC 4, t, fieldLE b 0x18 8, d.at 1 1 == 1⟩)

/-- R167: the program fits the role of its step. -/
def Launch.checkRole (l : Launch) : Chk Unit :=
  match l.pred with
  | none => .ok ()
  | some p =>
    if p.isPred then do
      let w := (l.prog.first opDrain).getD 0
      needField p.addr 2 (p.rank == l.prog.planJ)
      needField p.addr 4 (drFn w == (if p.select = 0 then fnThresh else fnTopk) && (l.slotDesc (drSlot w)).spform == 1)
    else needField l.prog.addr 0 (l.isPair && gatedFn (rfFn l.rowfnWord))

/-- R175: the state record of a layer in a task that has not yet named it. -/
def predStart : List Byte := zeros 0x30 ++ leBytes 8 noStep ++ zeros 8

/-- R173: the layer has switched to dense, by its state record; a task's first step of a layer predicts. -/
def State.predDense (s : State) (root x : Nat) (p : Pred) : Chk Bool :=
  if !(s.ctx x).preds.contains p.state then .ok false
  else (s.readVa root (p.state + 0x2C) 1).map (fun b => ofLE b != 0)

/-- R169: the rows of a pair step that are audited, in ascending order. -/
def State.auditRows (s : State) (root extM : Nat) (p : Pred) : Chk (List Nat) :=
  (mapChk (List.range extM) (fun i =>
    (s.readElem root p.tokidx [(i : Int)]).map (fun t => if audited t p.layer p.seed then some i else none))).map
      (fun l => l.filterMap id)

/-! Extents (R121, R128 to R131, R605). -/

/-- R121: the four extents of a step. The counts lie at a task virtual address. -/
def State.loadExts (s : State) (root : Nat) (r : StepReq) : Chk (Nat × Nat × Nat × Nat) :=
  if r.byAddr then
    (s.readVa root r.extAddr 16).map (fun b => (fieldLE b 0 4, fieldLE b 4 4, fieldLE b 8 4, fieldLE b 12 4))
  else .ok (r.extM, r.extN, r.extK, r.extJ)

/-- A launch over its plan. -/
def overPlan {α : Type} (item : Nat) : Chk α := refuse stShape item

/-- R121: no extent exceeds its limit. DESIGN CHOICE (log 86): EXT_J is judged in every program, also where R128 leaves it without
effect. -/
def extsOk (item : Nat) (es : List Nat) : Chk Unit := if es.any (fun e => decide (e > 2097151)) then overPlan item else .ok ()

/-- R119, R121, R128, R130, R131, R153, R605: the extents against the plan. -/
def Launch.checkExts (l : Launch) (item : Nat) : Chk Unit := do
  let q := l.passes
  let dims := l.prog.ovfDims
  let whole := l.prog.ops.any (fun w =>
    (opCode w == opRowfn && wholeRow (rfFn w) && rfFn w != fnSoftmax) || (opCode w == opDrain && wholeRow (drFn w) && drFn w != fnSoftmax))
  extsOk item [l.extM, l.extN, l.extK, l.extJ]
  if (q.m > 1 && !bitAt dims 0) || (q.n > 1 && !bitAt dims 1) || (q.k > 1 && !bitAt dims 2) || (q.j > 1 && !bitAt dims 3) ||
      decide (l.passCount > l.prog.ovfPasses + 1) then overPlan item else pure ()
  if q.k > 1 && l.tk != l.prog.planK then overPlan item else pure ()
  if ((q.n > 1 || q.j > 1) && whole) || (q.j > 1 && rfFn l.rowfnWord != fnSoftmax) then overPlan item else pure ()
  if l.perPass > 2 ^ 24 then overPlan item else pure ()
  if l.usesPart && l.partAddr == 0 then refuse stFormat item else pure ()

/-! A whole tile launch. -/

/-- Everything that a tile step's description names, read and validated. -/
def State.loadTile (s : State) (x : Nat) (r : StepReq) (d : LaunchDesc) : Chk Launch := do
  let root := s.rootOf x
  let p ← s.loadProg root d.program (s.ctx x).split
  s.checkResident x p
  s.checkStaging x p
  let raw ← s.loadStreams root (s.group (s.ctx x).group).handles d
  let slots ← s.loadSlots root d p raw
  s.checkScaleRows x p slots
  let streams ← mapChk (List.range raw.length) (fun k => s.listOf root slots p k (nth StreamEnt.unused raw k))
  eachChk (List.range p.ops.length) (fun i =>
    let w := nth 0 p.ops i
    if opCode w = opLoad ∨ opCode w = opStore then checkMove p d.streams streams slots i else .ok ())
  let ps ← s.loadParams root d p
  let bins ← s.loadBins root d p slots
  let pred ← s.loadPred root d
  let e ← s.loadExts root r
  let l : Launch := { Launch.empty with
    kind := 0, req := r, prog := p, streams := streams, slots := slots, params := ps, bins := bins, partAddr := d.partial_
    staging := d.staging, pred := pred, mcast := d.mcastUnits, extM := e.1, extN := e.2.1, extK := e.2.2.1, extJ := e.2.2.2 }
  l.checkOps
  l.checkRole
  l.checkExts r.launch
  match pred with
  | none => pure l
  | some q =>
    let dense ← s.predDense root x q
    let rows ← if q.isPred || dense then pure [] else s.auditRows root l.extM q
    pure { l with dense := dense, audRows := rows }

end Sys2Proof.Machine
end

