-- ==== Sys2Proof/Machine/Work.lean ====
section
/-!
DEFINITION. Work of a unit for a step of a context: writes that are kept for R474, work that can stop on the way with the
elements it drops out of bounds (R224, R243), and the accesses of a unit as the translation of the issuing core sees them (R233, R236,
R348).
-/
namespace Sys2Proof.Machine

/-! Work that can stop on the way. -/

/-- The state after some work, with what stopped it and the elements dropped out of bounds. -/
structure Done where
  s    : State
  stop : Option Stop
  oob  : Nat
deriving DecidableEq, Repr

/-- A unit of work done on every element of a list in order, until one stops. -/
def Done.each {α : Type} (l : List α) (f : State → α → Done) (s : State) : Done :=
  l.foldl (fun d a =>
    match d.stop with
    | some _ => d
    | none =>
      let e := f d.s a
      { e with oob := d.oob + e.oob }) ⟨s, none, 0⟩

/-- Work that goes on with what a reading gives. -/
def State.given_ {α : Type} (s : State) (c : Chk α) (f : α → Done) : Done :=
  match c with
  | .error e => ⟨s, some e, 0⟩
  | .ok a => f a

/-- A state reached, or what stops on the way to it, as work. -/
def State.upTo (s : State) (c : Chk State) : Done := s.given_ c (fun t => ⟨t, none, 0⟩)

/-! Writes for a context. -/

/-- Bytes that a unit writes for a step of a context at a task virtual address (R474). -/
def State.storeFor (s : State) (x root va : Nat) (bs : List Byte) : Chk State :=
  match s.rangesOf root va bs.length true with
  | .error e => .error e
  | .ok l => .ok ((s.storeAll l bs).putCtx x { s.ctx x with wrote := l ++ (s.ctx x).wrote })

/-- Bytes written for a context. -/
def State.putFor (s : State) (x root va : Nat) (bs : List Byte) : Done := s.upTo (s.storeFor x root va bs)

/-- The columns of a run that lie in the valid region: the first, and how many. -/
def Desc.liveCols (d : Desc) (i : Idx) (n : Nat) : Nat × Nat :=
  let k := d.dim 0
  if (List.range 5).all (fun q =>
      decide (((d.dim (q + 1)).vlo : Int) ≤ nth 0 i (q + 1)) &&
        decide (nth 0 i (q + 1) < ((d.dim (q + 1)).vlo + (d.dim (q + 1)).vlen : Nat)))
  then clipCols (nth 0 i 0) n k.vlo (k.vlo + k.vlen) else (0, 0)

/-- R224, R474: a run of elements written for a context. -/
def State.putElems (s : State) (x root : Nat) (d : Desc) (i : Idx) (vs : List Nat) : Done :=
  match s.writeRun root d i vs with
  | .error e => ⟨s, some e, 0⟩
  | .ok (t, n) =>
    let (a, k) := d.liveCols i vs.length
    let bit := 8 * d.runBase i + a * d.w
    let l := if k = 0 then [] else
      match s.rangesOf root (bit / 8) ((bit % 8 + k * d.w + 7) / 8) true with
      | .ok l => l
      | .error _ => []
    ⟨t.putCtx x { t.ctx x with wrote := l ++ (t.ctx x).wrote }, none, n⟩

/-- The bits `at_ … at_ + n − 1` of an array of one dimension that lie in its valid region: the first, and how many. -/
def Desc.liveBits (d : Desc) (at_ n : Nat) : Nat × Nat :=
  let lo := max at_ ((d.dim 0).vlo * d.w)
  (lo, min (at_ + n) (((d.dim 0).vlo + (d.dim 0).vlen) * d.w) - lo)

/-- R224, R228, R474: bits of an array of one dimension written for a context as one masked operation. -/
def State.putBits (s : State) (x root : Nat) (d : Desc) (at_ n v : Nat) : Done :=
  let (lo, k) := d.liveBits at_ n
  if k = 0 then ⟨s, none, 0⟩
  else
    let bit := 8 * d.base + lo
    s.given_ (naming d.addr d.tag (s.rangesOf root (bit / 8) ((bit % 8 + k + 7) / 8) true)) (fun l =>
      s.given_ (naming d.addr d.tag (s.setBitsVa root bit k (v / 2 ^ (lo - at_) % 2 ^ k))) (fun t =>
        ⟨t.putCtx x { t.ctx x with wrote := l ++ (t.ctx x).wrote }, none, 0⟩))

/-- R243: elements dropped out of bounds, counted at the issuing core. -/
def State.countOob (s : State) (c n : Nat) : State :=
  if n = 0 then s else s.bump (Reg.DESC_OOB_WR_CNT c) Fld.DESC_OOB_WR_CNT_COUNT n

/-- R236, R474: bytes written for a context through the TLB of core `c`. -/
def State.putOn (s : State) (c x root va : Nat) (bs : List Byte) : Done := (s.lookUp c va bs.length).putFor x root va bs

/-! What a unit reaches (R233, R348). -/

/-- The outer index vectors of a descriptor in canonical order. -/
def Desc.rowIdx (d : Desc) : List Idx :=
  (boxOuter ((List.range 5).map (fun i => (d.dim (i + 1)).extent))).map (fun v => v.map Int.ofNat)

/-- An access: task virtual address, bytes, write, and the descriptor it is made through, with its PIECE_TAG; zero for none. -/
structure Reach where
  va    : Nat
  n     : Nat
  write : Bool
  desc  : Nat
  tag   : Nat
deriving DecidableEq, Repr

/-- The rows of a descriptor's extents. -/
def Desc.reachRead (d : Desc) : List Reach :=
  if (d.dim 0).extent = 0 then []
  else d.rowIdx.map (fun v => ⟨d.runBase (0 :: v), ceilDiv ((d.dim 0).extent * d.w) 8, false, d.addr, d.tag⟩)

/-- The rows of a descriptor's valid region. -/
def Desc.reachWrite (d : Desc) : List Reach :=
  let k := d.dim 0
  if k.vlen = 0 then []
  else
    ((boxOuter ((List.range 5).map (fun i => (d.dim (i + 1)).vlen))).map (fun v =>
      v.mapIdx (fun i (e : Nat) => Int.ofNat (e + (d.dim (i + 1)).vlo)))).map (fun v =>
        ⟨d.runBase (0 :: v) + k.vlo * d.w / 8, ceilDiv (k.vlen * d.w) 8, true, d.addr, d.tag⟩)

/-- The part of a run of `n` elements from an index that a descriptor writes. -/
def Desc.reachRun (d : Desc) (i : Idx) (n : Nat) : List Reach :=
  let (a, k) := d.liveCols i n
  if k = 0 then [] else
    let bit := 8 * d.runBase i + a * d.w
    [⟨bit / 8, (bit % 8 + k * d.w + 7) / 8, true, d.addr, d.tag⟩]

/-- The part of the bits of an array of one dimension that is written. -/
def Desc.reachBits (d : Desc) (at_ n : Nat) : List Reach :=
  let (lo, k) := d.liveBits at_ n
  if k = 0 then [] else
    let bit := 8 * d.base + lo
    [⟨bit / 8, (bit % 8 + k + 7) / 8, true, d.addr, d.tag⟩]

/-- The header and entries of a list. -/
def listReach (va : Nat) (h : ListHead) : List Reach := [⟨va, 32 + 32 * h.count, false, 0, 0⟩]

/-- R236, R342: the accesses of a unit looked up in the TLB of the issuing core. -/
def State.lookReach (s : State) (c : Nat) (rs : List Reach) : State := rs.foldl (fun s r => if r.write then s.lookUp c r.va r.n else s.readUp c r.va r.n) s

end Sys2Proof.Machine
end

