-- ==== Sys2Proof/Machine/Weevil.lean ====
section
/-!
DEFINITION. The Weevil pruning unit (R98 to R102): the request with its checks, the choice of the kept positions, the index and
bitmap forms with their padding, the scales, and the row-bin table with the costs of R86 and R87.
-/
namespace Sys2Proof.Machine

/-- A prune request (R98). -/
structure PruneReq where
  addr    : Nat
  src     : Desc
  val     : Desc
  struct_ : Desc
  rowptr  : Option Desc
  scale   : Option Desc
  bintab  : Nat
  form    : Nat
  pattern : Nat
  gang    : Nat
  valAddr : Nat
deriving DecidableEq, Repr

/-- The K extent and the number of rows of a source. -/
def PruneReq.k (q : PruneReq) : Nat := (q.src.dim 0).extent
def PruneReq.rows (q : PruneReq) : Nat := q.src.rowIdx.length

/-- The pattern kept. -/
def PruneReq.shape (q : PruneReq) : NmShape := nmShape q.pattern

/-- Stored values of a row in index form (R75). -/
def PruneReq.slots (q : PruneReq) : Nat := q.shape.n * ceilDiv q.k q.shape.m

/-- The descriptors of a request hold what it writes: the rows of the source, and for each the elements of the form. A shape
that does not is refused with FORMAT (DESIGN CHOICE: log 31). -/
def PruneReq.fits (q : PruneReq) : Bool :=
  let same (d : Desc) : Bool := (List.range 5).all (fun i => (d.dim (i + 1)).extent == (q.src.dim (i + 1)).extent)
  same q.struct_ && q.scale.elim true (fun d => same d && decide (ceilDiv q.k (blockSize q.val.fmt) ≤ (d.dim 0).extent)) &&
    (if q.form = 1 then decide (bitmapWords q.k ≤ (q.struct_.dim 0).extent) &&
        q.rowptr.elim false (fun d => d.w == 32 && decide (q.rows + 1 ≤ (d.dim 0).extent))
      else same q.val && decide (q.slots ≤ (q.val.dim 0).extent) &&
        decide (q.slots * q.shape.ib ≤ (q.struct_.dim 0).extent * q.struct_.w))

/-- R98: a descriptor that a prune request names: whatever the rules for descriptors refuse is refused with FORMAT. DESIGN CHOICE (log
31): R98 and R220 name different statuses. -/
def State.pruneDesc (s : State) (root a : Nat) (bitmap : Bool) (u : DescUse) : Chk Desc :=
  match s.loadDesc root a bitmap u with
  | .error (.refuse _ item row pos d) => .error (.refuse stFormat item row pos d)
  | r => r

/-- R98, R604: a request read and validated. -/
def State.loadPrune (s : State) (root a : Nat) : Chk PruneReq := do
  let b ← s.readVa root a 64
  let f (o : Nat) : Nat := fieldLE b o 8
  let form := fieldLE b 0x30 1
  let pat := fieldLE b 0x31 1
  let gang := fieldLE b 0x32 1
  let src ← s.pruneDesc root (f 0x00) false ⟨false, false, false⟩
  needField a 0x00 (src.fmt ≤ 2 && src.spform == 0)
  let val ← s.pruneDesc root (f 0x08) false ⟨true, false, false⟩
  needField a 0x08 (val.spform == form && val.fmt ≤ 0x0E)
  let st ← s.pruneDesc root (f 0x10) (form == 1) ⟨true, true, false⟩
  needField a 0x10 (st.fmt ≤ 0x0E)
  needField a 0x18 ((form == 1) == (f 0x18 != 0))
  let rp ← if f 0x18 = 0 then pure none else (s.pruneDesc root (f 0x18) false ⟨true, true, false⟩).map some
  needField a 0x20 (isScaled val.fmt == (f 0x20 != 0))
  let sc ← if f 0x20 = 0 then pure none else (s.pruneDesc root (f 0x20) false ⟨true, false, false⟩).map some
  needField a 0x20 (sc.elim true (fun d => d.fmt == scaleFormat val.fmt))
  needField a 0x28 (f 0x28 % 32 == 0)
  needField a 0x30 (1 ≤ form && form ≤ 5)
  needField a 0x31 (2 ≤ pat && pat ≤ 5 && (form == 1 || form == pat))
  needField a 0x32 (f 0x28 == 0 || gang == 16 || gang == 32 || gang == 64)
  needField a 0x33 (zeroAt b 0x33 13)
  let q : PruneReq := ⟨a, src, val, st, rp, sc, f 0x28, form, pat, gang, f 0x08⟩
  needField a 0x10 (q.fits && (f 0x28 == 0 || decide (q.rows ≤ (st.dim 1).extent)))
  pure q

/-! The choice (R99). -/

/-- A key that ranks magnitudes: a NaN above every number. -/
def pruneKey (x : F32) : Nat := if isNan x then 2 ^ 32 else (fabs x).toNat

/-- R99: position `i` of a group is kept: fewer than `n` positions rank before it. -/
def keeps (n : Nat) (xs : List F32) (i : Nat) : Bool :=
  let k := pruneKey (nth 0 xs i)
  decide (((List.range xs.length).filter (fun j =>
    let kj := pruneKey (nth 0 xs j)
    decide (k < kj) || (kj == k && decide (j < i)))).length < n)

/-- R99: the kept positions of a group, in ascending order. -/
def keptOf (n : Nat) (xs : List F32) : List Nat := (List.range xs.length).filter (keeps n xs)

/-- One row pruned: the kept positions of each group, and the row with every other position zero. -/
structure PrunedRow where
  groups : List (List Nat)
  vals   : List F32
deriving DecidableEq, Repr

/-- R99 over a row. -/
def pruneRow (q : NmShape) (xs : List F32) : PrunedRow :=
  let gs := (chunksOf q.m xs.length xs).map (keptOf q.n)
  ⟨gs, xs.mapIdx (fun p x => if (nth [] gs (p / q.m)).contains (p % q.m) then x else f32zero)⟩

/-- R59 to R62, R100: the codes of a pruned row with its scales; what is pruned counts as zero. -/
def PruneReq.quant (q : PruneReq) (r : PrunedRow) : ConvRow :=
  convRow q.val.fmt (BitVec.ofNat 32 q.val.tscale) r.vals.length r.vals.length r.vals

/-! What a row is written as (R70 to R77, R100). -/

/-- R77: the indices of a group: those of the kept positions, then of the spare slots indices that no other slot uses. Which
ones is a free value, drawn from the place of the group (log 31). -/
def groupIndices (q : NmShape) (g : Nat) (kept : List Nat) : List Nat :=
  let free := (List.range q.m).filter (fun i => !kept.contains i)
  let k := Config.spareIndex g % max 1 free.length
  (kept ++ free.drop k ++ free.take k).take q.n

/-- R75 to R77, R100: values and indices of a row in index form. -/
def PruneReq.indexRow (q : PruneReq) (r : PrunedRow) (codes : List Nat) : List Nat × List Nat :=
  let m := q.shape.m
  (r.groups.zipIdx.flatMap (fun g =>
      let vs := g.1.map (fun i => nth 0 codes (g.2 * m + i))
      vs ++ List.replicate (q.shape.n - vs.length) 0),
   r.groups.zipIdx.flatMap (fun g => groupIndices q.shape g.2 g.1))

/-- R100: the stored positions of a row in bitmap form: the kept positions of non-zero source value. -/
def PrunedRow.stored (r : PrunedRow) : List Nat :=
  (List.range r.vals.length).filter (fun p => !isZero (nth 0 r.vals p))

/-- R70: the bitmap words of a row. -/
def bitmapBytes (k : Nat) (bits : List Nat) : List Byte := leBytes (8 * bitmapWords k) ((bits.map (fun p => 2 ^ p)).sum)

/-- The stored values of a row (R93, R101). -/
def PruneReq.stored (q : PruneReq) (r : PrunedRow) : Nat := if q.form = 1 then r.stored.length else q.slots

/-! The row-bin table (R86, R87, R101). -/

/-- T of R86 or R87 for a group of at most 16 rows against a dense B; the rate is that of the format paired with itself. -/
def PruneReq.cost (q : PruneReq) (rows : List PrunedRow) : Nat :=
  let r2 := pairRate2 q.val.fmt q.val.fmt
  if q.form = 1 then
    6 + ((List.range (bitmapWords q.k)).map (fun s =>
      let len := min 64 (q.k - 64 * s)
      let u := ((List.range len).filter (fun i => rows.any (fun r => r.stored.contains (64 * s + i)))).length
      cyclesAt (max u (ceilDiv len 4)) r2)).sum
  else 2 + cyclesAt (ceilDiv q.k q.shape.m * q.shape.n) r2

/-- A bin as R101 forms it. -/
structure PBin where
  rows : List Nat
  cost : Nat
  top  : Nat
deriving DecidableEq, Repr

/-- R101: the bins, sorted by cost. -/
def PruneReq.bins (q : PruneReq) (rs : List PrunedRow) : List PBin :=
  let cnt (p : Nat) : Nat := q.stored (nth ⟨[], []⟩ rs p)
  let order := sortBy (fun a b => cnt a > cnt b || (cnt a == cnt b && a ≤ b)) (List.range rs.length)
  let bins := (chunksOf q.gang rs.length order).map (fun b =>
    (⟨b, ((chunksOf 16 b.length b).map (fun g => q.cost (g.map (nth ⟨[], []⟩ rs)))).foldl max 0,
      min 65535 ((b.map cnt).foldl max 0)⟩ : PBin))
  sortBy (fun a b => a.cost ≥ b.cost) bins

/-- R93, R101: the table: header, bins and row list, one after the other at boundaries of 32 bytes (DESIGN CHOICE: log 31). -/
def binTable (gang rows : Nat) (bins : List PBin) : List (Nat × List Byte) :=
  let n := bins.length
  let at_ := alignUp (32 + 16 * n) 32
  let firsts := (bins.foldl (fun (a : List Nat × Nat) b => (a.1 ++ [a.2], a.2 + b.rows.length)) ([], 0)).1
  [(0, leBytes 2 1 ++ leBytes 1 gang ++ zeros 1 ++ leBytes 4 rows ++ leBytes 4 n ++ zeros 4 ++ leBytes 8 32 ++ leBytes 8 at_),
   (32, (bins.zip firsts).flatMap (fun b =>
     leBytes 4 b.1.cost ++ leBytes 4 b.2 ++ leBytes 2 b.1.rows.length ++ leBytes 2 b.1.top ++ zeros 4)),
   (at_, bins.flatMap (fun b => b.rows.flatMap (leBytes 4)))]

/-! The work. -/

/-- The source as FP32 values, row by row. -/
def State.pruneSource (s : State) (root : Nat) (q : PruneReq) : Chk (List (List F32)) :=
  mapChk q.src.rowIdx (fun v => (s.readRun root q.src (0 :: v) q.k).map (fun cs => cs.map (widen (fmtOf q.src.fmt))))

/-- One write of the Weevil: a run of elements of a descriptor, which its bounds and its valid region clip (R224); bits of an array of one
dimension; or bytes. -/
inductive WeevilWrite where
  | elems (d : Desc) (i : Idx) (vs : List Nat)
  | bits (d : Desc) (at_ n v : Nat)
  | bytes (va : Nat) (bs : List Byte)
deriving DecidableEq, Repr

/-- What a write reaches. -/
def WeevilWrite.reach : WeevilWrite → List Reach
  | .elems d i vs => d.reachRun i vs.length
  | .bits d a n _ => d.reachBits a n
  | .bytes va bs => [⟨va, bs.length, true, 0, 0⟩]

/-- `n` bits cut into elements of `w` bits; the last is filled with zeros. -/
def cutBits (w n v : Nat) : List Nat := (List.range (ceilDiv n w)).map (fun i => v / 2 ^ (w * i) % 2 ^ w)

/-- The writes of an index-form output: the packed indices of a row lie in the elements of the index array. -/
def PruneReq.indexWrites (q : PruneReq) (rs : List (Idx × PrunedRow × ConvRow)) : List WeevilWrite :=
  rs.flatMap (fun r =>
    let (vs, is) := q.indexRow r.2.1 r.2.2.codes
    [.elems q.val (0 :: r.1) vs,
     .elems q.struct_ (0 :: r.1) (cutBits q.struct_.w (is.length * q.shape.ib) (packNum q.shape.ib is))])

/-- R70: the bitmap words of a row, with the zero words up to the next row's start: those of the array as its elements, those beyond
its extent as bytes. -/
def PruneReq.mapWrites (q : PruneReq) (i : Idx) (last : Bool) (bits : List Nat) : List WeevilWrite :=
  let d := q.struct_
  let n := bitmapWords q.k
  let m := if last then n else max n ((d.stepBytes 1).toNat / 8)
  let k := min m (d.dim 0).extent
  [.elems d (0 :: i) (cutBits 64 (64 * k) ((bits.map (fun p => 2 ^ p)).sum)),
   .bytes (d.runBase (0 :: i) + 8 * k) (zeros (8 * (m - k)))]

/-- The writes of a bitmap output: bitmaps with their padding, values packed row by row from 32-byte boundaries with their
padding (R71), and row pointers. -/
def PruneReq.bitmapWrites (q : PruneReq) (rs : List (Idx × PrunedRow × ConvRow)) : List WeevilWrite :=
  let maps := rs.zipIdx.flatMap (fun r => q.mapWrites r.1.1 (r.2 + 1 == rs.length) r.1.2.1.stored)
  let vals := rs.map (fun r => r.2.1.stored.map (nth 0 r.2.2.codes))
  let starts := (vals.foldl (fun (a : List Nat × Nat) v =>
    let z := a.2 + ceilDiv (v.length * q.val.w) 256
    (a.1 ++ [z], z)) ([0], 0)).1
  maps ++ (vals.zip starts).map (fun v =>
      .bits q.val (256 * v.2) (256 * ceilDiv (v.1.length * q.val.w) 256) (packNum q.val.w v.1)) ++
    (q.rowptr.elim [] (fun d => [.elems d [0] starts]))

/-- R72: the values of a bitmap output lie within the value array. -/
def PruneReq.valuesFit (q : PruneReq) (rs : List PrunedRow) : Bool :=
  decide ((rs.map (fun r => ceilDiv (r.stored.length * q.val.w) 256)).sum * 256 ≤ (q.val.dim 0).extent * q.val.w)

/-- R41, R69: the writes of the scales. -/
def PruneReq.scaleWrites (q : PruneReq) (rs : List (Idx × PrunedRow × ConvRow)) : List WeevilWrite :=
  q.scale.elim [] (fun d => rs.map (fun r => .elems d (0 :: r.1) r.2.2.scales))

/-- All that a request writes, with what its conversions count (R63, R64). -/
structure WeevilOut where
  writes : List WeevilWrite
  sat    : Nat
  nonfin : Nat
deriving DecidableEq, Repr

/-- R59 to R64, R98 to R102: all that a request writes. In bitmap form the pattern enters DECL_NM of the value descriptor (R80, R100). -/
def State.pruneWrites (s : State) (root : Nat) (q : PruneReq) : Chk WeevilOut := do
  let xs ← s.pruneSource root q
  let ps := xs.map (pruneRow q.shape)
  let cs := ps.map q.quant
  let rs := q.src.rowIdx.zip (ps.zip cs)
  needField q.addr 0x08 (q.form != 1 || q.valuesFit ps)
  let tab := if q.bintab = 0 then [] else
    (binTable q.gang q.rows (q.bins ps)).map (fun w => WeevilWrite.bytes (q.bintab + w.1) w.2)
  let own := if q.form = 1 then .bytes (q.valAddr + 9) [BitVec.ofNat 8 (1 + 8 * q.pattern)] :: q.bitmapWrites rs else q.indexWrites rs
  pure ⟨own ++ q.scaleWrites rs ++ tab, (cs.map (·.sat)).sum, (cs.map (·.nonfin)).sum⟩

/-- R233, R236: one write of the Weevil, through the TLB of core `c`. -/
def State.putWeevil (s : State) (c x root : Nat) (w : WeevilWrite) : Done :=
  let s := s.lookReach c w.reach
  match w with
  | .elems d i vs => s.putElems x root d i vs
  | .bits d a n v => s.putBits x root d a n v
  | .bytes va bs => s.putFor x root va bs

/-- Several writes in order; the first that cannot be made stops, and those before it stand. -/
def State.putWeevils (s : State) (c x root : Nat) (ws : List WeevilWrite) : Done := Done.each ws (fun s w => s.putWeevil c x root w) s

/-- R236: a request and the descriptors that it names, looked up in the TLB of core `c`. -/
def State.lookPrune (s : State) (c root a : Nat) : State :=
  let s := s.readUp c a 64
  match s.readVa root a 64 with
  | .error _ => s
  | .ok b => [0x00, 0x08, 0x10, 0x18, 0x20].foldl (fun s o =>
      if fieldLE b o 8 = 0 then s else s.readUp c (fieldLE b o 8) 192) s

/-- R98 to R102, R233: a request carried out for a context through the translation of core `c`, which issues it and counts its
conversions (DESIGN CHOICE: log 95). -/
def State.prune (s : State) (c x a : Nat) : Done :=
  match s.coreRoot c with
  | none => ⟨s, some (.xlt 5 a 0 0), 0⟩
  | some root =>
    let s := s.lookPrune c root a
    s.given_ (s.loadPrune root a) (fun q =>
      let s := s.lookReach c q.src.reachRead
      s.given_ (s.pruneWrites root q) (fun o => (s.countConv c o.sat o.nonfin).putWeevils c x root o.writes))

end Sys2Proof.Machine
end

