-- ==== Sys2Proof/Machine/ErgCheck.lean ====
section
/-!
DEFINITION. Erg operation records (R350, R351, R358, R359): their fields, the descriptors and lists they name, what the firmware
refuses at a launch, the memory that an operation reaches (R348), and the page table of decode attention.
-/
namespace Sys2Proof.Machine

/-! Records. -/

/-- R350: a record from its 64 bytes. -/
def parseErg (b : List Byte) : ErgRec :=
  { op := fieldLE b 0 1, stack := fieldLE b 1 1, param0 := fieldLE b 4 4, src0 := fieldLE b 8 8, src1 := fieldLE b 0x10 8
    src2 := fieldLE b 0x18 8, dst0 := fieldLE b 0x20 8, dst1 := fieldLE b 0x28 8, param1 := fieldLE b 0x30 8
    param2 := fieldLE b 0x38 8, len := 0 }

def erGather : Nat := 1
def erScatter : Nat := 2
def erMerge : Nat := 3
def erIntersect : Nat := 4
def erDecompress : Nat := 5
def erTopk : Nat := 6
def erSumCheck : Nat := 7
def erAttn : Nat := 8

/-- R351: the operation reads SRC1, reads SRC2, writes DST1. -/
def ergUses (op : Nat) : Bool × Bool × Bool := (op != erTopk, op == erDecompress || op == erAttn, op == erMerge || op == erIntersect || op == erTopk)

/-- R350, R351: the fields of a record. -/
def checkErg (item : Nat) (b : List Byte) (r : ErgRec) : Chk Unit := do
  let u := ergUses r.op
  needField item 0 (1 ≤ r.op && r.op ≤ 8)
  needField item 1 (if r.op = erAttn then r.stack == 0xFF else r.stack ≤ 11)
  needField item 2 (zeroAt b 2 2)
  needField item 0x10 (u.1 || r.src1 == 0)
  needField item 0x18 (u.2.1 || r.src2 == 0)
  needField item 0x28 (u.2.2 || r.dst1 == 0)

/-! Decode attention (R358, R359). -/

/-- PARAM1 as a layout. -/
def attnShape (w : Nat) : AttnShape := ⟨bitsOf w 7 0, bitsOf w 15 8, bitsOf w 23 16, bitsOf w 31 24⟩

/-- R358: a layout that the operation admits. -/
def attnOk (w : Nat) : Bool :=
  let a := attnShape w
  (a.fmt == 0x01 || a.fmt == 0x06 || a.fmt == 0x08) && (a.dim == 64 || a.dim == 128) && 1 ≤ a.kvHeads && a.kvHeads ≤ 128 &&
    1 ≤ a.group && a.group ≤ 8 && bitsOf w 63 32 == 0

/-- Query heads. -/
def AttnShape.heads (a : AttnShape) : Nat := a.kvHeads * a.group

/-- R359: bytes of the keys, or of the values, of a page. -/
def AttnShape.half (a : AttnShape) : Nat := 64 * a.kvHeads * a.dim * (if a.fmt = 0x01 then 2 else 1)
/-- R359: bytes of their scales. -/
def AttnShape.scales (a : AttnShape) : Nat := if a.fmt = 0x08 then 64 * a.kvHeads * a.dim / 32 else 0
/-- R359: bytes of a page. -/
def AttnShape.page (a : AttnShape) : Nat := 2 * (a.half + a.scales)

/-! What an operation works on. -/

/-- What a descriptor is read as. -/
def ergRead : DescUse := ⟨false, false, false⟩
/-- How the target of a scatter is bound; ALIAS_ORDERED is not admitted (R231). Every other destination of an Erg operation is a read
descriptor, as R220 divides them. -/
def ergWrite : DescUse := ⟨true, false, false⟩

/-- A list of 32-bit words. -/
def Desc.isWords (d : Desc) : Bool := d.fmt == 0x04 && d.ndim == 1 && d.spform == 0

/-- R350, R351, R604: the operation of a record, its descriptors validated under R220 in the order of the record's fields. What a
table of R351 says of a descriptor's form is FORMAT at that field (DEDUCED: log 32). -/
def State.ergJob (s : State) (root item : Nat) (r : ErgRec) : Chk ErgJob := do
  let read (o a : Nat) (ok : Desc → Bool) : Chk Desc := do
    let d ← s.loadDesc root a false ergRead
    needField item o (ok d)
    pure d
  let target (o a : Nat) (ok : Desc → Bool) : Chk Desc := do
    let d ← s.loadDesc root a false ergWrite
    needField item o (ok d)
    pure d
  let dense (d : Desc) : Bool := d.spform == 0
  if r.op = erGather then
    let t ← read 0x08 r.src0 dense
    let h ← s.listHead root r.src1 t
    let p ← read 0x20 r.dst0 (fun d => dense d && d.w == t.w)
    pure (.gather t r.src1 h p)
  else if r.op = erScatter then
    let p ← read 0x08 r.src0 dense
    let t ← target 0x20 r.dst0 (fun d => dense d && d.w == p.w)
    let h ← s.listHead root r.src1 t
    pure (.scatter p r.src1 h t)
  else if r.op = erMerge ∨ r.op = erIntersect then
    let a ← read 0x08 r.src0 Desc.isWords
    let b ← read 0x10 r.src1 Desc.isWords
    let o ← read 0x20 r.dst0 Desc.isWords
    let p ← read 0x28 r.dst1 Desc.isWords
    pure (.keys (r.op == erIntersect) a b o p)
  else if r.op = erDecompress then
    let v ← read 0x08 r.src0 (fun d => d.spform == 1 && d.fmt ≤ 0x0E)
    let m ← s.loadDesc root r.src1 true ⟨false, true, false⟩
    needField item 0x10 (m.fmt ≤ 0x0E)
    let p ← s.loadDesc root r.src2 false ⟨false, true, false⟩
    needField item 0x18 (p.fmt ≤ 0x0E)
    let o ← read 0x20 r.dst0 (fun d => dense d && d.fmt == v.fmt)
    s.checkEnd root v m p
    pure (.decompress v m p o)
  else if r.op = erTopk then
    let d ← read 0x08 r.src0 (fun d => dense d && d.fmt ≤ 7 && decide ((d.dim 0).extent ≤ 2 ^ 24))
    needField item 4 (1 ≤ r.param0 && r.param0 ≤ 4096)
    let v ← read 0x20 r.dst0 (fun e => dense e && e.fmt == d.fmt)
    let c ← read 0x28 r.dst1 (fun e => dense e && e.fmt == 0x04)
    pure (.topk d v c r.param0)
  else if r.op = erSumCheck then
    needField item 4 (r.param0 ≤ 1)
    let d ← read 0x10 r.src1 (fun d => d.fmt == 0x00 && d.ndim == 1 && dense d)
    let v ← read 0x20 r.dst0 (fun d => dense d && d.fmt ≤ 7)
    pure (.sumCheck r.src0 d v r.param0)
  else
    needField item 0x30 (attnOk r.param1)
    let a := attnShape r.param1
    let q ← read 0x08 r.src0 (fun d => d.fmt == 0x01 && dense d && d.ndim == 2 && (d.dim 0).extent == a.dim &&
      (d.dim 1).extent == a.heads)
    let o ← read 0x20 r.dst0 (fun d => dense d && d.fmt ≤ 7 && (d.dim 0).extent == a.dim && (d.dim 1).extent == a.heads)
    pure (.attn q o r.src1 a (BitVec.ofNat 32 r.param0))

/-- R350, R358: one record of a launch, validated, with LEN as the firmware reads it, and its operation. -/
def State.loadErg (s : State) (root item : Nat) : Chk (ErgRec × ErgJob) := do
  let b ← s.readVa root item 64
  let r := parseErg b
  checkErg item b r
  let j ← s.ergJob root item r
  if r.op = erAttn then
    let n ← s.numVa root r.src2 4
    pure ({ r with len := n }, j)
  else pure (r, j)

/-- R350: the records of an Erg step. -/
def State.loadErgs (s : State) (root a n : Nat) : Chk (List (ErgRec × ErgJob)) := mapChk (List.range n) (fun i => s.loadErg root (a + 64 * i))

/-! What an operation reaches (R348). -/

/-- R463: the entries of a contribution list: COUNT, the address of the codes, and address and ROUND of each contribution. -/
structure SumList where
  codes : Nat
  items : List (Nat × Nat)
deriving DecidableEq, Repr

/-- R463: a contribution list. -/
def State.sumList (s : State) (root va : Nat) : Chk SumList := do
  let h ← s.readVa root va 32
  let b ← s.readVa root (va + 32) (16 * fieldLE h 0 4)
  pure ⟨fieldLE h 8 8, (chunksOf 16 (fieldLE h 0 4) b).map (fun e => (fieldLE e 0 8, fieldLE e 8 1))⟩

/-- R348, R463: the accesses to a contribution list at `va` of `n` elements, its contributions, and the codes where one is rounded by them. -/
def SumList.reach (k : SumList) (va n : Nat) : List Reach :=
  ⟨va, 32 + 16 * k.items.length, false, 0, 0⟩ ::
    ((if k.items.any (fun e => e.2 == 2) then [(⟨k.codes, ceilDiv n 32, false, 0, 0⟩ : Reach)] else []) ++
      k.items.map (fun e => (⟨e.1, 4 * n, false, 0, 0⟩ : Reach)))

/-- R348: the accesses of an operation on its engine; those of decode attention are its pages, judged under R359. -/
def State.ergReach (s : State) (root : Nat) (j : ErgJob) : Chk (List Reach) :=
  match j with
  | .gather t l h p => .ok (listReach l h ++ t.reachRead ++ p.reachWrite)
  | .scatter p l h t => .ok (listReach l h ++ p.reachRead ++ t.reachWrite)
  | .keys _ a b o p => .ok (a.reachRead ++ b.reachRead ++ o.reachWrite ++ p.reachWrite)
  | .decompress v m p o => .ok (v.reachRead ++ m.reachRead ++ p.reachRead ++ o.reachWrite)
  | .topk d v c _ => .ok (d.reachRead ++ v.reachWrite ++ c.reachWrite)
  | .sumCheck l d v _ =>
    (s.sumList root l).map (fun k => k.reach l (d.dim 0).extent ++ d.reachRead ++ v.reachRun [0] (64 / v.w))
  | .attn _ _ _ _ _ => .ok []

/-- The address lies in the stack or the SRAM of engine `t`. -/
def ofStack (t a : Nat) : Bool := (inHbm a || inSram a) && stackOf a == t

/-- R348: an access translated and checked for engine `t`; one outside its stack and SRAM stops operation `idx` of the step. -/
def State.checkReach (s : State) (root t idx : Nat) (r : Reach) : Chk Unit := do
  let l ← naming r.desc r.tag (s.rangesOf root r.va r.n r.write)
  if l.all (fun p => ofStack t p.1) then pure ()
  else .error (.refuse stAddrProt r.va t idx (if r.desc = 0 then none64 else r.tag))

/-! The pages of decode attention (R359). -/

/-- The addresses of the pages of a sequence. -/
def State.pageTable (s : State) (root table len : Nat) : Chk (List Nat) :=
  let n := ceilDiv len 64
  (s.readVa root table (8 * n)).map (fun b => (chunksOf 8 n b).map (fun e => ofLE e % 2 ^ 48))

/-- R359: a page lies whole in the stack of its index, from a 4 KiB boundary. -/
def State.checkPage (s : State) (root table i va n : Nat) : Chk Unit := do
  if va % 4096 ≠ 0 then .error (.refuse stFormat table none32 i none64) else pure ()
  let l ← s.rangesOf root va n false
  if l.all (fun p => inHbm p.1 && stackOf p.1 == i % 12) then pure () else .error (.refuse stFormat table none32 i none64)

/-- R348, R359: every page of an operation, translated through `root`. -/
def State.checkPages (s : State) (root table : Nat) (ps : List Nat) (a : AttnShape) : Chk Unit :=
  eachChk (List.range ps.length) (fun i => s.checkPage root table i (nth 0 ps i) a.page)

end Sys2Proof.Machine
end

