-- ==== Sys2Proof/Machine/Erg.lean ====
section
/-!
DEFINITION. The Erg engines and the stacks (R342 to R364): the queues, the operations of R354 to R361, their failures, and the
patrol of a stack.
-/
namespace Sys2Proof.Machine

/-! Gather and scatter (R229 to R231, R354). -/

/-- The places of a block's elements on the packed side: the run of its SLOT. -/
def packedIdx (slot : Nat) : Idx := [0, (slot : Int), 0, 0, 0, 0]

/-- The codes of a block of a tensor, in canonical order. -/
def State.readBox (s : State) (root : Nat) (d : Desc) (o : Idx) (box : List Nat) : Chk (List Nat) :=
  (mapChk (boxRuns o box) (fun r => s.readRun root d (nth 0 o 0 :: r.1) (nth 1 box 0))).map List.flatten

/-- R230: the entries of a gather. -/
def State.gatherRun (s : State) (x root : Nat) (target : Desc) (list : Nat) (h : ListHead) (packed : Desc) : Done :=
  Done.each (List.range h.count) (fun s n =>
    s.given_ (s.listEnt root list n) (fun e =>
      s.given_ (s.readBox root target (e.origin h.block) h.block) (fun cs => s.putElems x root packed (packedIdx e.slot) cs))) s

/-- R231: entry `n` of a scatter list stands above the entry before it. -/
def State.scatterEnt (s : State) (root list n : Nat) : Chk ListEnt := do
  let e ← s.listEnt root list n
  if n = 0 then pure e
  else
    let p ← s.listEnt root list (n - 1)
    if canonLt p.coord e.coord then pure e else .error (.refuse stWriteAlias list n none32 none64)

/-- R230, R231: the entries of a scatter. -/
def State.scatterRun (s : State) (x root : Nat) (packed : Desc) (list : Nat) (h : ListHead) (target : Desc) : Done :=
  Done.each (List.range h.count) (fun s n =>
    s.given_ (s.scatterEnt root list n) (fun e =>
      s.given_ (s.readRun root packed (packedIdx e.slot) (boxSize h.block)) (fun cs =>
        let o := e.origin h.block
        Done.each (boxRuns o h.block) (fun s r =>
          s.putElems x root target (nth 0 o 0 :: r.1) ((cs.drop (r.2 * nth 1 h.block 0)).take (nth 1 h.block 0))) s))) s

/-! Merge and intersection (R354). -/

/-- What two key lists give: each key written with its positions, and where an order breaks: the list and the position. -/
structure KeyOut where
  keys : List (Nat × Int × Int)
  bad  : Option (Nat × Nat)
deriving DecidableEq, Repr

/-- A key in front of what follows. -/
def KeyOut.cons (k : Nat × Int × Int) (o : KeyOut) : KeyOut := { o with keys := k :: o.keys }

/-- The head of a list does not stand above the key before it. -/
def breaks (before : Option Nat) (l : List Nat) : Bool :=
  match before, l with
  | some p, k :: _ => decide (k ≤ p)
  | _, _ => false

/-- R354: the two lists from positions `i` and `j` on, with the keys before them. -/
def zipKeys (both : Bool) : Nat → Nat → Nat → Option Nat → Option Nat → List Nat → List Nat → KeyOut
  | 0, _, _, _, _, _, _ => ⟨[], none⟩
  | fuel + 1, i, j, pa, pb, a, b =>
    if breaks pa a then ⟨[], some (0, i)⟩
    else if breaks pb b then ⟨[], some (1, j)⟩
    else
      match a, b with
      | [], [] => ⟨[], none⟩
      | k :: a', [] =>
        let o := zipKeys both fuel (i + 1) j (some k) pb a' []
        if both then o else o.cons (k, (i : Int), -1)
      | [], k :: b' =>
        let o := zipKeys both fuel i (j + 1) pa (some k) [] b'
        if both then o else o.cons (k, -1, (j : Int))
      | k :: a', m :: b' =>
        if k = m then (zipKeys both fuel (i + 1) (j + 1) (some k) (some m) a' b').cons (k, (i : Int), (j : Int))
        else if k < m then
          let o := zipKeys both fuel (i + 1) j (some k) pb a' (m :: b')
          if both then o else o.cons (k, (i : Int), -1)
        else
          let o := zipKeys both fuel i (j + 1) pa (some m) (k :: a') b'
          if both then o else o.cons (m, -1, (j : Int))

/-- R354: MERGE (every key) and INTERSECT (`both`). The keys follow the count in the valid region; a list that breaks its order
leaves the count unwritten. -/
def State.keysRun (s : State) (x root : Nat) (both : Bool) (a b out pos : Desc) : Done :=
  s.given_ (s.readRun root a [0] (a.dim 0).extent) (fun ka =>
    s.given_ (s.readRun root b [0] (b.dim 0).extent) (fun kb =>
      let r := zipKeys both (ka.length + kb.length + 1) 0 0 none none ka kb
      let d := s.putElems x root out [((out.dim 0).vlo : Int) + 1] (r.keys.map (·.1))
      let e := d.s.putElems x root pos [((pos.dim 0).vlo : Int)] (r.keys.flatMap (fun k => [unsigned 32 k.2.1, unsigned 32 k.2.2]))
      match d.stop, e.stop, r.bad with
      | some z, _, _ => ⟨d.s, some z, d.oob⟩
      | none, some z, _ => ⟨e.s, some z, d.oob + e.oob⟩
      | none, none, some (n, p) => ⟨e.s, some (.refuse stFormat (if n = 0 then a.addr else b.addr) none32 p (if n = 0 then a.tag else b.tag)), d.oob + e.oob⟩
      | none, none, none =>
        let f := e.s.putElems x root out [((out.dim 0).vlo : Int)] [r.keys.length]
        ⟨f.s, f.stop, d.oob + e.oob + f.oob⟩))

/-! Decompression and top-k (R355, R356). -/

/-- The codes of a row of `k` positions: those at the set positions, zero elsewhere. -/
def spread (k : Nat) (bits codes : List Nat) : List Nat :=
  (List.range k).map (fun p => match bits.findIdx? (fun b => b == p) with
    | some i => nth 0 codes i
    | none => 0)

/-- R356: the rows of DECOMPRESS. -/
def State.decompressRun (s : State) (x root : Nat) (v m p out : Desc) : Done :=
  let k := (out.dim 0).extent
  let b : SlotBind := ⟨some v, none, some m, some p, 0⟩
  Done.each (List.range (m.dim 1).extent) (fun s r =>
    s.given_ (packRow (s.bitsVa root) b k 0 k r) (fun q =>
      s.given_ (rowBitsBy (s.bitsVa root) m k r) (fun bits =>
        s.given_ (naming v.addr v.tag (mapChk (List.range bits.length) (fun i => s.bitsVa root (8 * v.base + q.start * 256 + i * v.w) v.w))) (fun cs =>
          s.putElems x root out (0 :: nth [(r : Int)] out.rowIdx r) (spread k bits cs))))) s

/-- R165, R355: a key that ranks the elements of a format. -/
def rankKey (fmt code : Nat) : Int :=
  if fmt = 0x03 ∨ fmt = 0x0D then signed 8 code else if fmt = 0x04 then signed 32 code else topKey (widen (fmtOf fmt) code)

/-- R355: the columns of the `k` largest values of a row, in rank order. -/
def topCols (fmt k : Nat) (codes : List Nat) : List Nat :=
  (sortBy (fun a b => decide (rankKey fmt (nth 0 codes a) ≥ rankKey fmt (nth 0 codes b))) (List.range codes.length)).take k

/-- R57: the code that an element is written with: a NaN has one pattern in each format. -/
def canonCode (fmt code : Nat) : Nat :=
  if fmt ≠ 0x03 ∧ fmt ≠ 0x04 ∧ isNan (widen (fmtOf fmt) code) then (fmtOf fmt).nanCode else code

/-- R355: the rows of TOPK_ROW. -/
def State.topkRun (s : State) (x root : Nat) (d v c : Desc) (k : Nat) : Done :=
  Done.each d.rowIdx (fun s r =>
    s.given_ (s.readRun root d (0 :: r) (d.dim 0).extent) (fun cs =>
      let top := topCols d.fmt k cs
      let a := s.putElems x root v (0 :: r) (top.map (fun i => canonCode d.fmt (nth 0 cs i)) ++ List.replicate (k - top.length) v.fill)
      match a.stop with
      | some _ => a
      | none =>
        let b := a.s.putElems x root c (0 :: r) (top ++ List.replicate (k - top.length) (2 ^ 32 - 1))
        { b with oob := a.oob + b.oob })) s

/-! The check sum (R357, R463). -/

/-- R59: an exact value rounded once to BF16; one that overflows is an infinity. -/
def rnBf16 : FV → Nat
  | .nan => fmtBf16.nanCode
  | .inf neg => fmtBf16.withSign neg fmtBf16.infCode
  | .fin neg m e => fmtBf16.withSign neg (min (fmtBf16.roundMag m 1 e) fmtBf16.infCode)

/-- R458: an exact sum that the agreed exponent `e` cannot carry. -/
def tooLarge (e : Int) : FV → Bool
  | .fin _ m x =>
    let q := scale2 m 1 (x - e)
    decide (q.1 > 448 * q.2)
  | _ => true

/-- R456: an exact sum in E4M3 at the agreed exponent, as a code. -/
def encE4 (e : Int) : FV → Nat
  | .fin neg m x => let r := fmtE4M3.roundMag m 1 (x - e); fmtE4M3.withSign neg (min r fmtE4M3.maxCode)
  | _ => fmtE4M3.nanCode

/-- R456: the FP32 value of an E4M3 element at the agreed exponent. -/
def decE4 (e : Int) (code : Nat) : F32 :=
  enc32 (match fmtE4M3.decode code with
    | .fin neg m x => .fin neg m (x + e)
    | v => v)

/-- One wire block on its way: its values, whether it travels in BF16, and the escalations of this hop. -/
structure WireBlk where
  vals : List F32
  esc  : Bool
deriving DecidableEq, Repr

/-- R456 to R459: exact sums rounded once to the wire form: BF16 (`round` 1), or scaled 8-bit with escalation (2) under scale
code `code`; 0 rounds to FP32. -/
def roundWire (round code : Nat) (b : WireBlk) (sums : List FV) : WireBlk :=
  let e : Int := (code : Int) - 127
  if round = 0 then ⟨sums.map enc32, b.esc⟩
  else if round = 1 ∨ b.esc ∨ code = 0xFF then ⟨sums.map (fun v => widen fmtBf16 (rnBf16 v)), b.esc⟩
  else if sums.any (tooLarge e) then ⟨sums.map (fun v => widen fmtBf16 (rnBf16 v)), true⟩
  else ⟨sums.map (fun v => decE4 e (encE4 e v)), false⟩

/-- R463: the contributions of one wire block added in list order. -/
def sumWire (code : Nat) (items : List (Nat × List F32)) : List F32 :=
  (items.foldl (fun b it => roundWire it.1 code b ((b.vals.zip it.2).map (fun p => fvAdd (dec32 p.1) (dec32 p.2))))
    ⟨List.replicate 32 f32zero, false⟩).vals

/-- R357: an element passes. A NaN passes only against a NaN. -/
def passes (mode : Nat) (sum result : F32) : Bool :=
  if isNan sum || isNan result then isNan sum && isNan result
  else if mode = 0 then sum == result
  else
    match fvAdd (dec32 sum) (fvNeg (dec32 result)), dec32 sum with
    | .fin _ m e, .fin _ n f =>
      let t := min (e + 7) f
      decide (m * 2 ^ (e + 7 - t).toNat ≤ n * 2 ^ (f - t).toNat)
    | .inf _, .inf _ => true
    | _, _ => false

/-- R357: the first failing element. -/
def firstFail (mode : Nat) (sums results : List F32) : Option Nat :=
  (sums.zip results).findIdx? (fun p => !passes mode p.1 p.2)

/-- R357: the verdict word. -/
def verdict (f : Option Nat) : Nat :=
  match f with
  | some i => 1 + i * 2 ^ 32
  | none => (2 ^ 32 - 1) * 2 ^ 32

/-- FP32 words of bytes. -/
def wordsOf (b : List Byte) : List F32 := (chunksOf 4 b.length b).map (fun w => BitVec.ofNat 32 (ofLE w))

/-- R357, R463: the sums of `n` elements of a contribution list. -/
def State.sumOf (s : State) (root n : Nat) (l : SumList) : Chk (List F32) := do
  let codes ← if l.items.any (fun e => e.2 == 2) then s.readVa root l.codes (ceilDiv n 32) else pure []
  let xs ← mapChk l.items (fun e => (s.readVa root e.1 (4 * n)).map (fun b => (e.2, wordsOf b)))
  pure (((List.range (ceilDiv n 32)).flatMap (fun w =>
    sumWire ((nth 0 codes w).toNat) (xs.map (fun e => (e.1, padTo32 ((e.2.drop (32 * w)).take 32)))))).take n)
where
  /-- A short last wire block, filled. -/
  padTo32 (l : List F32) : List F32 := l ++ List.replicate (32 - l.length) f32zero

/-- R357: SUM_CHECK of a task. -/
def State.sumCheckRun (s : State) (x root list : Nat) (d v : Desc) (mode : Nat) : Done :=
  s.given_ (s.sumList root list) (fun l =>
    s.given_ (s.sumOf root (d.dim 0).extent l) (fun sums =>
      s.given_ (s.readRun root d [0] (d.dim 0).extent) (fun rs =>
        s.putElems x root v [0] (cutBits v.w 64 (verdict (firstFail mode sums (rs.map (BitVec.ofNat 32))))))))

/-! Decode attention (R358 to R361). -/

/-- The working area of an engine (R349). DESIGN CHOICE (log 32): the query copy lies at its start, the partials 512 KiB
above. -/
def workArea (t : Nat) : Nat := sramBase t + 0x600000
/-- Where an engine writes the partial of head `h` (R360). -/
def partialAt (t h dim : Nat) : Nat := workArea t + 0x80000 + h * (32 + 4 * dim)

/-- A partial of one head (R360). -/
structure HeadPart where
  m   : F32
  l   : F32
  acc : List F32
deriving DecidableEq, Repr

/-- A partial of nothing. -/
def HeadPart.empty (dim : Nat) : HeadPart := ⟨f32inf true, f32zero, List.replicate dim f32zero⟩

/-- The keys and values of a page as they lie in its bytes: element codes and scale codes. -/
structure PageView where
  shape : AttnShape
  bytes : List Byte
deriving DecidableEq, Repr

/-- R359, R360: element `d` of token `t` of key–value head `g`, of the keys or of the values, exact. -/
def PageView.elem (p : PageView) (value : Bool) (g t d : Nat) : F32 :=
  let a := p.shape
  let base := if value then a.half + a.scales else 0
  let n := (g * 64 + t) * a.dim + d
  if a.fmt = 0x01 then widen fmtBf16 (fieldLE p.bytes (base + 2 * n) 2)
  else if a.fmt = 0x06 then widen fmtE4M3 (fieldLE p.bytes (base + n) 1)
  else enc32 (fvMul (fmtE4M3.decode (fieldLE p.bytes (base + n) 1)) (scaleValue 0x08 (fieldLE p.bytes (base + a.half + n / 32) 1)))

/-- R360: one page of one query head. -/
def attnPage (sigma : F32) (q : List F32) (len i g : Nat) (p : PageView) (st : HeadPart) : HeadPart :=
  let a := p.shape
  let sc := (List.range 64).map (fun t =>
    if 64 * i + t ≥ len then f32inf true
    else fmul sigma (chunkSum ((List.range a.dim).map (fun d => fmul (nth 0 q d) (p.elem false g t d)))))
  let m := sc.foldl fmax st.m
  let none_ := m == f32inf true
  let c := if none_ then 0x3F800000 else fexp (fsub st.m m)
  let ps := sc.map (fun x => if none_ then f32zero else fexp (fsub x m))
  ⟨m, fadd (fmul st.l c) (chunkSum ps), st.acc.mapIdx (fun n v =>
    fadd (fmul v c) (chunkSum (ps.mapIdx (fun t pt => fmul pt (p.elem true g t n)))))⟩

/-- The bytes of a partial. -/
def HeadPart.bytes (h : HeadPart) : List Byte :=
  leBytes 4 h.m.toNat ++ leBytes 4 h.l.toNat ++ zeros 24 ++ h.acc.flatMap (fun v => leBytes 4 v.toNat)

/-- A partial from its bytes. -/
def headPartOf (b : List Byte) : HeadPart := ⟨BitVec.ofNat 32 (fieldLE b 0 4), BitVec.ofNat 32 (fieldLE b 4 4), wordsOf (b.drop 32)⟩

/-- R360: the query copy of an engine: the values of head `h`. -/
def State.queryOf (s : State) (t dim h : Nat) : List F32 :=
  (List.range dim).map (fun d => widen fmtBf16 (s.num (workArea t + 2 * (h * dim + d)) 2))

/-- R360: the partials of engine `t` over its pages. -/
def State.attnRun (s : State) (root t : Nat) (a : AttnShape) (sigma : F32) (table len : Nat) : Done :=
  s.given_ (s.pageTable root table len) (fun pages =>
    let mine := (List.range pages.length).filter (fun i => i % 12 == t)
    s.given_ (mapChk mine (fun i => (s.readVa root (nth 0 pages i) a.page).map (fun b => (i, (⟨a, b⟩ : PageView))))) (fun views =>
      match s.firstUe (workArea t) (2 * a.heads * a.dim) with
      | some z => ⟨s, some (.ue z 0), 0⟩
      | none =>
        let s := s.correct (workArea t) (2 * a.heads * a.dim)
        ⟨(List.range a.heads).foldl (fun u h =>
          let p := views.foldl (fun st v => attnPage sigma (s.queryOf t a.dim h) len v.1 (h / a.group) v.2 st) (HeadPart.empty a.dim)
          u.store (partialAt t h a.dim) p.bytes) s, none, 0⟩))

/-- R361: the partials of one head merged in stack order. -/
def mergeHead (dim : Nat) (ps : List HeadPart) : HeadPart :=
  ps.foldl (fun st p =>
    let m := fmax st.m p.m
    let none_ := m == f32inf true
    let ca := if none_ then 0x3F800000 else fexp (fsub st.m m)
    let cs := if none_ then 0x3F800000 else fexp (fsub p.m m)
    ⟨m, fadd (fmul st.l ca) (fmul p.l cs), (st.acc.zip p.acc).map (fun v => fadd (fmul v.1 ca) (fmul v.2 cs))⟩) (HeadPart.empty dim)

/-- R59, R361: the output row of a head: its codes, each with whether its conversion overflows. -/
def headOut (fmt : Nat) (h : HeadPart) : List (Nat × Bool) := h.acc.map (fun v => narrow fmt (if isZero h.l then f32zero else fdiv v h.l))

/-- R63, R361: the merge of one operation on core `c`, which counts its conversions. -/
def State.mergeRun (s : State) (c x root : Nat) (out : Desc) (a : AttnShape) : Done :=
  Done.each (List.range a.heads) (fun s h =>
    let n := 32 + 4 * a.dim
    s.given_ (mapChk (List.range 12) (fun t => (s.fetch [(partialAt t h a.dim, n)]).map headPartOf)) (fun ps =>
      let o := headOut out.fmt (mergeHead a.dim ps)
      (s.countConv c (o.filter (·.2)).length 0).putElems x root out [0, (h : Int)] (o.map (·.1)))) s

/-! Failures (R342, R348, R349, R363). -/

/-- The engine has failed (R363). -/
def State.ergFailed (s : State) (t : Nat) : Bool := s.fld (Reg.ERG_STATUS t) Fld.ERG_STATUS_STATE == 3

/-- R269, R342, R349: an uncorrectable error that an engine finds is a mid-stream fault of the step. -/
def State.ergUe (s : State) (x t pa tag : Nat) : State :=
  let s := s.noteUe .erg pa
  let kind := if inHbm pa then 0 else 1
  (s.midStream x ⟨islErg t, evStreamFault, stOk, x, (s.ctx x).stepNo, noTile, (s.ctx x).gen,
    leBytes 8 (2 ^ 63 + kind * 2 ^ 60 + pa % 2 ^ 48) ++ leBytes 8 tag⟩).ueBudgets pa

/-- What stops an operation of an engine, or one that runs on cores for it: its reads are then those of the anchor core (R364, R368). An
access through no descriptor names none (R232). -/
def State.ergStop (s : State) (x t : Nat) : Stop → State
  | .refuse st a row pos d =>
    s.fault x st false (programError (if s.ergFailed t then islCore (s.ctx x).anchor else islErg t) st x (s.ctx x).stepNo noTile
      (s.ctx x).gen a row pos d)
  | .xlt kind va d tag => s.xltStop (s.ctx x).anchor x noTile (s.ctx x).gen kind va d tag
  | .ue pa tag =>
    if s.ergFailed t then s.ueStop (s.ctx x).anchor x noTile (s.ctx x).gen 0 .die pa tag else s.ergUe x t pa tag

/-! The queue of an engine (R352, R364). -/

/-- R352, R364: the records of a stack in their order: the engine's queue, or what runs on cores once it has failed. -/
def State.ergLine (s : State) (t : Nat) : List ErgEnt := if s.ergFailed t then (s.stack t).onCores else (s.stack t).queue

/-- The line of a stack replaced. -/
def State.putErgLine (s : State) (t : Nat) (l : List ErgEnt) : State :=
  s.putStack t (if s.ergFailed t then { s.stack t with onCores := l } else { s.stack t with queue := l })

/-- R350, R476: the record of an operation and what it names, as the launch has read them. -/
def State.ergOf (s : State) (x i : Nat) : Option (ErgRec × ErgJob) :=
  match (s.launchOf x).erg[i]?, (s.launchOf x).jobs[i]? with
  | some r, some j => some (r, j)
  | _, _ => none

/-- The operation that runs for a stack: the front of its line, of a step that still runs. -/
def State.ergFront (s : State) (t op : Nat) : Option (ErgEnt × ErgRec × ErgJob) :=
  match s.ergLine t with
  | [] => none
  | e :: _ =>
    match s.ergOf e.ctx e.idx with
    | some (r, j) => if r.op = op && (s.ctx e.ctx).run == .running && (s.ctx e.ctx).gen == e.gen then some (e, r, j) else none
    | none => none

/-- R364, R371: an operation has ended: it leaves the line and is counted, as the engine's own or as run on cores. -/
def State.ergPop (s : State) (t : Nat) : State :=
  let s := s.putErgLine t ((s.ergLine t).drop 1)
  if s.ergFailed t then s.bump (Reg.ERG_CNT t) Fld.ERG_CNT_FALLBACK 1 else s.bump (Reg.ERG_CNT t) Fld.ERG_CNT_DONE 1

/-- The work of an operation. -/
def State.ergWork (s : State) (x root t : Nat) (r : ErgRec) (j : ErgJob) : Done :=
  match j with
  | .gather d l h p => s.gatherRun x root d l h p
  | .scatter p l h d => s.scatterRun x root p l h d
  | .keys both a b o p => s.keysRun x root both a b o p
  | .decompress v m p o => s.decompressRun x root v m p o
  | .topk d v c k => s.topkRun x root d v c k
  | .sumCheck l d v mode => s.sumCheckRun x root l d v mode
  | .attn _ _ table a sigma => s.attnRun root t a sigma table r.len

/-- R235: what stops an operation whose anchor core translates nothing: its first access, or that to `va` where it names none. -/
def offStop (va : Nat) (rs : List Reach) : Stop :=
  match rs with
  | r :: _ => .xlt 5 r.va r.desc r.tag
  | [] => .xlt 5 va 0 0

/-- R233, R235: the root through which core `c` makes accesses, the first of which is to `va` where `rs` names none. -/
def State.rootFor (s : State) (c va : Nat) (rs : List Reach) : Chk Nat :=
  match s.coreRoot c with
  | some root => .ok root
  | none => .error (offStop va rs)

/-- R348: the accesses of an operation translated and checked by its anchor core, then its work. -/
def State.ergRun (s : State) (x t idx : Nat) (r : ErgRec) (j : ErgJob) : Done :=
  s.given_ (s.ergReach (s.rootOf x) j) (fun rs =>
    s.given_ (s.rootFor (s.ctx x).anchor r.src1 rs) (fun root =>
      let s := s.lookReach (s.ctx x).anchor rs
      s.given_ (eachChk rs (s.checkReach root t idx)) (fun _ => s.ergWork x root t r j)))

/-- R325, R348, R352: the operation at the front of an engine's queue runs, where no urgent request stands at its stack's controller. -/
def State.ergGo (s : State) (t op : Nat) : State :=
  match s.ergFront t op with
  | none => s
  | some (e, r, j) =>
    if (s.serving e.ctx).isEmpty || !(s.urgentOf t).isEmpty then s
    else
      let d := s.ergRun e.ctx t e.idx r j
      let u := d.s.countOob (s.ctx e.ctx).anchor d.oob
      match d.stop with
      | some z => u.ergStop e.ctx t z
      | none =>
        let u := u.ergPop t
        let k := u.ctx e.ctx
        if op = erAttn then u.putCtx e.ctx { k with partials := (e.idx, t) :: k.partials }
        else u.putCtx e.ctx { k with ergDone := e.idx :: k.ergDone }

/-- R354: GATHER. -/
def execGather (stack : Nat) (s : State) : Res := .next (if stack < 12 then s.ergGo stack erGather else s)
/-- R354: SCATTER. -/
def execScatter (stack : Nat) (s : State) : Res := .next (if stack < 12 then s.ergGo stack erScatter else s)
/-- R354: MERGE. -/
def execMerge (stack : Nat) (s : State) : Res := .next (if stack < 12 then s.ergGo stack erMerge else s)
/-- R354: INTERSECT. -/
def execIntersect (stack : Nat) (s : State) : Res := .next (if stack < 12 then s.ergGo stack erIntersect else s)
/-- R356: DECOMPRESS. -/
def execDecompress (stack : Nat) (s : State) : Res := .next (if stack < 12 then s.ergGo stack erDecompress else s)
/-- R355: TOPK_ROW. -/
def execTopkRow (stack : Nat) (s : State) : Res := .next (if stack < 12 then s.ergGo stack erTopk else s)
/-- R360: DECODE_ATTN on one engine. -/
def execDecodeAttn (stack : Nat) (s : State) : Res := .next (if stack < 12 then s.ergGo stack erAttn else s)

/-- R361: the first operation of a context whose twelve partials are written. -/
def State.mergeable (s : State) (x : Nat) : Option (Nat × ErgJob) :=
  let k := s.ctx x
  (List.range (s.launchOf x).erg.length).findSome? (fun i =>
    if (List.range 12).all (fun t => k.partials.contains (i, t)) then (s.ergOf x i).map (fun r => (i, r.2)) else none)

/-- R360: where the partials of a decode attention lie. -/
def partialRanges (a : AttnShape) : List (Nat × Nat) :=
  (List.range 12).flatMap (fun t => (List.range a.heads).map (fun h => (partialAt t h a.dim, 32 + 4 * a.dim)))

/-- R233, R361: the merge of a decode attention on core `c`, through its translation. -/
def State.mergeOn (s : State) (c x : Nat) (j : ErgJob) : Done :=
  match j with
  | .attn _ o _ a _ =>
    s.given_ (s.rootFor c o.base o.reachWrite) (fun root =>
      ((s.lookReach c o.reachWrite).correctAll (partialRanges a)).mergeRun c x root o a)
  | _ => ⟨s, none, 0⟩

/-- R322, R361: DECODE_ATTN_MERGE on the anchor core. -/
def execDecodeAttnMerge (ctx : Nat) (s : State) : Res :=
  .next (match s.mergeable ctx with
    | none => s
    | some (i, j) =>
      if (s.ctx ctx).run ≠ .running || (s.serving ctx).isEmpty then s
      else
        let c := (s.ctx ctx).anchor
        let d := s.mergeOn c ctx j
        let u := d.s.countOob c d.oob
        match d.stop with
        | some z => u.stopBy c ctx noTile (u.ctx ctx).gen 0 0 0 z
        | none =>
          let k := u.ctx ctx
          u.putCtx ctx { k with partials := k.partials.filter (fun p => p.1 != i), ergDone := i :: k.ergDone })

/-! Records on their way (R352, R360). -/

/-- R352: a record enters the queue of an engine: one of class 0 before those of other classes, behind the running one. -/
def enqueueErg (q : List ErgEnt) (e : ErgEnt) : List ErgEnt :=
  if e.urgent then
    let a := q.take 1 ++ (q.drop 1).takeWhile (·.urgent)
    a ++ e :: q.drop a.length
  else q ++ [e]

/-- R352: the firmware holds a credit for the engine; what runs on cores needs none. -/
def State.ergCredit (s : State) (t : Nat) : Bool := decide ((s.stack t).queue.length < 16)

/-- A decode attention is on the engines: one of its records waits or runs, or its merge is due. -/
def State.attnBusy (s : State) : Bool :=
  (List.range 12).any (fun t => (s.ergLine t).any (fun e => ((s.launchOf e.ctx).erg[e.idx]?).any (fun r => r.op == erAttn))) ||
    (List.range 16).any (fun x => !(s.ctx x).partials.isEmpty)

/-- R352, R364: a record sent to an engine, or to the cores that work for it. -/
def State.sendErg (s : State) (x idx t : Nat) : State :=
  s.putErgLine t (enqueueErg (s.ergLine t) ⟨x, idx, (s.ctx x).gen, s.urgentCtx x⟩)

/-- R360: the firmware copies the query into the working area of each engine. -/
def State.copyQuery (s : State) (root : Nat) (q : Desc) : Chk State :=
  (mapChk q.rowIdx (fun v => s.readRun root q (0 :: v) (q.dim 0).extent)).map (fun rows =>
    let bs := rows.flatten.flatMap (leBytes 2)
    (List.range 12).foldl (fun s t => s.store (workArea t) bs) s)

/-- R348, R359: the pages of a decode attention, which the firmware reads from its table, translated and judged on core `c`. -/
def State.judgePages (s : State) (c x table len : Nat) (a : AttnShape) : Done :=
  s.given_ (s.pageTable (s.rootOf x) table len) (fun ps =>
    let rs := ps.map (fun p => (⟨p, a.page, false, 0, 0⟩ : Reach))
    if rs.isEmpty then ⟨s, none, 0⟩
    else
      s.given_ (s.rootFor c table rs) (fun root =>
        let s := s.lookReach c rs
        s.given_ (s.checkPages root table ps a) (fun _ => ⟨s, none, 0⟩)))

/-- R342, R348: what stops work of the firmware for a step: a translation of the anchor core, or the firmware's own reading. -/
def State.firmwareStop (s : State) (x : Nat) : Stop → State
  | .ue pa tag => s.firmwareUe x pa tag
  | z => s.stopBy (s.ctx x).anchor x noTile (s.ctx x).gen 0 0 0 z

/-- R358 to R360: a decode attention goes to all twelve engines: its pages are judged, and the query is copied. The firmware
sends one at a time, since the working areas hold one (DESIGN CHOICE: log 32). -/
def State.sendAttn (s : State) (x idx : Nat) (r : ErgRec) (j : ErgJob) : State :=
  let c := (s.ctx x).anchor
  let d : Done := match j with
    | .attn q _ table a _ =>
      let s := s.mend (fun s => s.pageTable (s.rootOf x) table r.len)
      let d := s.judgePages c x table r.len a
      if d.stop.isSome then d else
        let s := d.s.mend (fun s => s.copyQuery (s.rootOf x) q)
        s.upTo (s.copyQuery (s.rootOf x) q)
    | _ => ⟨s, none, 0⟩
  match d.stop with
  | some z => d.s.firmwareStop x z
  | none =>
    let t := (List.range 12).foldl (fun s n => s.sendErg x idx n) d.s
    t.putCtx x { t.ctx x with ergSent := idx + 1 }

/-- R352: ERG_RECORD_SEND. -/
def execErgRecordSend (ctx : Nat) (s : State) : Res :=
  .next (if (s.ctx ctx).run ≠ .running || (s.launchOf ctx).kind ≠ 1 then s
    else
      let i := (s.ctx ctx).ergSent
      match s.ergOf ctx i with
      | none => s
      | some (r, j) =>
        if r.op = erAttn then
          (if s.attnBusy || !(List.range 12).all s.ergCredit then s else s.sendAttn ctx i r j)
        else if s.ergCredit r.stack then
          let t := s.sendErg ctx i r.stack
          t.putCtx ctx { t.ctx ctx with ergSent := i + 1 }
        else s)

/-! Failure of an engine (R363, R364), the patrol and the pseudo-channels (R343, R344). -/

/-- R363, R364: ERG_OP_TIMEOUT: the running operation exceeds the limit; the engine fails and the step aborts. -/
def execErgOpTimeout (stack : Nat) (s : State) : Res :=
  .next (if stack < 12 && !s.ergFailed stack && s.live && !(s.stack stack).queue.isEmpty then s.engineFails stack 1 else s)

/-- R342, R343: HBM_PATROL: one access of the patrol, corrected where it can be, and the on-die counts read. -/
def execHbmPatrol (stack off odecc : Nat) (s : State) : Res :=
  .next (if stack < 12 && decide (off < 0x1000000000) && s.live then
      let s := s.bump (Reg.HBM_ODECC_CNT stack) Fld.HBM_ODECC_CNT_COUNT odecc
      let a := stack * 0x1000000000 + off / 64 * 64
      if s.badAcc.contains (a / 64) then (s.noteUe .patrol a).ueBudget stack else s.correct a 64
    else s)

/-- R344: PCH_NO_RESPONSE. -/
def execPchNoResponse (stack : Nat) (s : State) : Res := .next (if stack < 12 && s.live then s.stackFault stack 1 else s)

end Sys2Proof.Machine
end

