-- ==== Sys2Proof/Machine/SwarmCheck.lean ====
section
/-!
DEFINITION. The Swarm record (R445 to R448, R450): its fields, what the firmware refuses at a launch, the geometry of buckets,
shards and blocks (R447), and the contributions of a member (R453, R454).
-/
namespace Sys2Proof.Machine

/-! The record. -/

/-- R445: the fields of a record's 128 bytes. -/
def checkSwarm (item handles : Nat) (b : List Byte) : Chk Unit := do
  let f (o n : Nat) : Nat := fieldLE b o n
  needField item 0 (f 0 1 == 1)
  needField item 1 (f 1 1 ≤ 2)
  needField item 2 (f 2 1 ≤ 1)
  needField item 3 (f 3 1 < 4)
  needField item 4 (f 4 2 ≤ 1023)
  needField item 6 (2 ≤ f 6 2 && f 6 2 ≤ 256)
  needField item 0x18 (1 ≤ f 0x18 4 && f 0x18 4 ≤ 65536)
  needField item 0x1C (f 0x1C 1 ≤ 7)
  needField item 0x1D (1 ≤ f 0x1D 1)
  needField item 0x1E (f 0x1E 2 ≤ handles && !(bitAt (f 3 1) 1 && f 0x1E 2 == 0))
  needField item 0x28 ((f 4 2 == 0) == (f 0x28 8 == 0))
  needField item 0x30 ((f 2 1 == 0) == (f 0x30 8 == 0))
  needField item 0x50 (f 0x50 2 ≤ 256)
  needField item 0x52 (1 ≤ f 0x52 2 && f 0x52 2 ≤ 64)
  needField item 0x54 (zeroAt b 0x54 4)
  needField item 0x68 (bitAt (f 3 1) 0 == (f 0x68 8 != 0))
  needField item 0x70 (zeroAt b 0x70 16)

/-- R446: the module's own ID stands in RING exactly once, and no ID twice. -/
def ringOk (own : Nat) (ring : List Nat) : Bool := (distinct ring).length == ring.length && ring.contains own

/-- The module that stands in for another one in a ring (R469). -/
def State.standIn (s : State) (id : Nat) : Nat := ((s.takeover.find? (fun t => t.id == id)).map (·.by_)).getD id

/-- R445, R446: a bucket table entry. -/
def State.loadBucket (s : State) (root table off : Nat) (b : List Byte) : Chk Bucket := do
  let d ← s.loadDesc root (fieldLE b 0 8) false ⟨false, false, false⟩
  if d.fmt = 0x00 ∧ d.spform = 0 ∧ d.ndim = 1 then pure ()
    else .error (.refuse stFormat d.addr none32 none32 d.tag)
  needField table (off + 16) (fieldLE b 16 8 % 1024 == 0)
  needField table (off + 24) (zeroAt b 24 8)
  pure ⟨d, fieldLE b 8 8, fieldLE b 16 8⟩

/-! Geometry (R447). -/

/-- Members. -/
def Swarm.r (w : Swarm) : Nat := w.ring.length
/-- The parity of the step. -/
def Swarm.p (w : Swarm) : Nat := w.step % 2
/-- A bucket by its index. -/
def Swarm.bucket (w : Swarm) (b : Nat) : Bucket := nth ⟨Desc.blank, 0, 0⟩ w.buckets b
/-- R447: the shard length of a bucket. -/
def Swarm.shardLen (w : Swarm) (b : Nat) : Nat := ceilDiv (w.bucket b).elements (w.r * 1024) * 1024
/-- R447: the elements that shard `j` holds. -/
def Swarm.shardCount (w : Swarm) (b j : Nat) : Nat := min (w.bucket b).elements ((j + 1) * w.shardLen b) - j * w.shardLen b
/-- The blocks of a shard. -/
def Swarm.blocks (w : Swarm) (b j : Nat) : Nat := ceilDiv (w.shardCount b j) 1024
/-- R447: the global block number. -/
def Swarm.globalBlock (w : Swarm) (b j k : Nat) : Nat := (w.bucket b).offset / 1024 + j * w.shardLen b / 1024 + k
/-- The first element of a block within its bucket. -/
def Swarm.blockBase (w : Swarm) (b j k : Nat) : Nat := j * w.shardLen b + k * 1024
/-- The elements of a block. -/
def Swarm.blockCount (w : Swarm) (b j k : Nat) : Nat := min 1024 (w.shardCount b j - k * 1024)
/-- Every block of a shard of each bucket. -/
def Swarm.shardBlocks (w : Swarm) (j : Nat) : List (Nat × Nat × Nat) :=
  (List.range w.buckets.length).flatMap (fun b => (List.range (w.blocks b j)).map (fun k => (b, j, k)))
/-- R462: the block is sampled. -/
def Swarm.sampled (w : Swarm) (b j k : Nat) : Bool := swarmSampled w.step (w.globalBlock b j k)

/-- The number of the slice's elements: the end of the last bucket (DEDUCED: log 34). -/
def sliceElements (bs : List Bucket) : Nat := (bs.map (fun b => b.offset + b.elements)).foldl max 0

/-- R445: a copy of the agreed scales. -/
def Swarm.scaleCopy (w : Swarm) (p : Nat) : Nat := w.scales + p * ceilDiv w.total 32
/-- R445: a copy of the residual. -/
def Swarm.residCopy (w : Swarm) (p : Nat) : Nat := w.resid + p * 4 * w.total
/-- R456: where the 32 codes of a block lie in a copy. -/
def Swarm.codesAt (w : Swarm) (p b j k : Nat) : Nat := w.scaleCopy p + ((w.bucket b).offset + w.blockBase b j k) / 32
/-- Where a block of an owned shard lies in REDUCED. DESIGN CHOICE (log 34): the owned shards in bucket order, each of its shard
length. -/
def Swarm.reducedAt (w : Swarm) (b k : Nat) : Nat :=
  w.reduced + 4 * (((List.range b).map w.shardLen).sum + k * 1024)

/-- R463: the place of a check slot and of its parts. DESIGN CHOICE (log 34): the slots follow one another. -/
def Swarm.slotSize (w : Swarm) : Nat := w.r * 4096 + 4096 + alignUp (32 + 16 * w.r) 32
def Swarm.slotAt (w : Swarm) (i : Nat) : Nat := w.check + i * w.slotSize

/-! The digest (R446). -/

/-- R446: CRC-64 over the fields of the step, with RING as the record holds it. DESIGN CHOICE (log 34): each field little-endian at its
width of R445. -/
def Swarm.digestOf (w : Swarm) (ring : List Nat) : Nat :=
  crc64 (leBytes 1 w.mode ++ leBytes 1 w.wire ++ leBytes 2 w.thin ++ leBytes 2 w.r ++ ring.flatMap (leBytes 2) ++
    w.buckets.flatMap (fun b => leBytes 8 b.elements ++ leBytes 8 b.offset) ++ leBytes 1 w.headroom ++ leBytes 8 w.step)

/-! The launch. -/

/-- R446: the CHECK region lies in one HBM stack. -/
def State.checkRegion (s : State) (root item : Nat) (w : Swarm) : Chk Unit := do
  let l ← s.rangesOf root w.check (2 * w.slotSize) true
  needField item 0x60 (l.all (fun p => inHbm p.1 && stackOf p.1 == stackOf (nth (0, 0) l 0).1))

/-- R445, R450: the launch description of the optimizer phase. The record's addresses are task virtual addresses. -/
def State.optDesc (s : State) (root a : Nat) : Chk LaunchDesc := (s.readVa root a 128).map (fun b => ⟨a, b⟩)

/-- R445 to R450, R469: a record read and validated, with the optimizer's launch; a partner takes the position of the member for which it
stands in. The optimizer takes the extents of the step's own request (DEDUCED: log 34). -/
def State.loadSwarm (s : State) (x : Nat) (req : StepReq) (a : Nat) : Chk Swarm := do
  let root := s.rootOf x
  let b ← s.readVa root a 128
  let f (o n : Nat) : Nat := fieldLE b o n
  checkSwarm a (s.group (s.ctx x).group).handles b
  let rb ← s.readVa root (f 8 8) (2 * f 6 2)
  let raw := (chunksOf 2 (f 6 2) rb).map ofLE
  let ring := raw.map s.standIn
  needField a 8 (ringOk s.ownId ring)
  let bb ← s.readVa root (f 0x10 8) (32 * f 0x18 4)
  let parts := chunksOf 32 (f 0x18 4) bb
  let buckets ← mapChk (List.range parts.length) (fun i => s.loadBucket root (f 0x10 8) (32 * i) (nth [] parts i))
  let step ← s.numVa root (f 0x20 8) 8
  let gb ← s.readVa root (f 0x58 8) (16 * f 0x52 2)
  let gs := (chunksOf 16 (f 0x52 2) gb).map (fun e => (fieldLE e 0 8, fieldLE e 8 4, fieldLE e 12 4))
  eachChk (List.range gs.length) (fun i =>
    let g := nth (0, 0, 0) gs i
    needField (f 0x58 8) (16 * i + if g.2.2 > 1 then 12 else 8) (g.2.1 % 4096 == 0 && g.2.2 ≤ 1))
  eachChk (List.range (f 0x50 2)) (fun i => (s.loadPrune root (f 0x48 8 + 64 * i)).map (fun _ => ()))
  let w : Swarm := { Swarm.idle with
    live := true, ctx := x, gen := (s.ctx x).gen, step := step
    mode := if f 1 1 = 0 then s.conf.swarmMode else f 1 1 - 1
    wire := f 2 1, norm := bitAt (f 3 1) 0, shState := bitAt (f 3 1) 1, thin := f 4 2, ring := ring
    pos := (ring.findIdx? (fun i => i == s.ownId)).getD 0, headroom := f 0x1C 1, cores := f 0x1D 1, buckets := buckets
    resid := f 0x28 8, scales := f 0x30 8, reduced := f 0x38 8, optAddr := f 0x40 8, prune := f 0x48 8, pruneN := f 0x50 2
    gathers := gs, check := f 0x60 8, normOut := f 0x68 8, shHandle := f 0x1E 2, phase := 1, total := sliceElements buckets }
  let w := { w with digest := w.digestOf raw }
  s.checkRegion root a w
  let d ← s.optDesc root w.optAddr
  d.check
  needField d.addr 0 (d.kind == 0)
  let l ← s.loadTile x req d
  pure { w with opt := some l }

/-! Contributions (R453, R454). -/

/-- R453: −0 is taken as +0. -/
def noNegZero (x : F32) : F32 := if x = 0x80000000 then f32zero else x

/-- R453: the contributions of this member to `n` elements of a bucket from element `e`. -/
def State.contribs (s : State) (root : Nat) (w : Swarm) (b e n : Nat) : Chk (List F32) := do
  let k := w.bucket b
  let g ← s.readRun root k.grad [(e : Int)] n
  let r ← if w.thin = 0 then pure [] else s.readVa root (w.residCopy w.p + 4 * (k.offset + e)) (4 * n)
  pure (g.mapIdx (fun i c => noNegZero (fadd (BitVec.ofNat 32 c) (if w.thin = 0 then f32zero else BitVec.ofNat 32 (fieldLE r (4 * i) 4)))))

/-- R233, R453: what the contributions to `n` elements of a bucket from element `e` read. -/
def Swarm.contribReach (w : Swarm) (b e n : Nat) : List Reach :=
  let k := w.bucket b
  ⟨k.grad.runBase [(e : Int)], 4 * n, false, k.grad.addr, k.grad.tag⟩ ::
    (if w.thin = 0 then [] else [⟨w.residCopy w.p + 4 * (k.offset + e), 4 * n, false, 0, 0⟩])

/-- R453, R454: what the contributions to a shard read. -/
def Swarm.shardReach (w : Swarm) (b j : Nat) : List Reach := w.contribReach b (j * w.shardLen b) (w.shardCount b j)

/-- R453, R454: what the contributions to a block read: with thinning, the whole shard. -/
def Swarm.blockReach (w : Swarm) (b j k : Nat) : List Reach :=
  if w.thin = 0 then w.contribReach b (w.blockBase b j k) (w.blockCount b j k) else w.shardReach b j

/-- R456: what the codes of a block in a copy of the scale table read. -/
def Swarm.codeReach (w : Swarm) (p b j k : Nat) : List Reach := if w.wire = 0 then [] else [⟨w.codesAt p b j k, 32, false, 0, 0⟩]

/-- R454: the elements of a shard that are selected, as flags. -/
def selectTop (k : Nat) (cs : List F32) : List Bool := (List.range cs.length).map (keeps k cs)

/-- R454: how many contributions of a shard are kept. -/
def Swarm.keptCount (w : Swarm) (b : Nat) : Nat := ceilDiv (w.shardLen b * w.thin) 1024

/-- R453, R454: the contributions of a shard with what is selected of them. -/
def State.shardContribs (s : State) (root : Nat) (w : Swarm) (b j : Nat) : Chk (List (F32 × Bool)) :=
  (s.contribs root w b (j * w.shardLen b) (w.shardCount b j)).map (fun cs =>
    cs.zip (if w.thin = 0 then cs.map (fun _ => true) else selectTop (w.keptCount b) cs))

/-- A block's contributions to its 1,024 positions: those beyond the shard count as +0, selected without thinning. -/
def blockOf (thin : Bool) (k : Nat) (cs : List (F32 × Bool)) : List (F32 × Bool) :=
  let l := (cs.drop (k * 1024)).take 1024
  l ++ List.replicate (1024 - l.length) (f32zero, !thin)

/-- R453, R454: one block's contributions; an unselected one counts as +0. -/
def State.blockContribs (s : State) (root : Nat) (w : Swarm) (b j k : Nat) : Chk (List (F32 × Bool)) :=
  (s.shardContribs root w b j).map (fun cs => blockOf (w.thin != 0) k (cs.map (fun c => (if c.2 then c.1 else f32zero, c.2))))

/-- R454: the residual that a shard leaves. -/
def residualOf (cs : List (F32 × Bool)) : List Byte := cs.flatMap (fun c => leBytes 4 (if c.2 then f32zero else c.1).toNat)

end Sys2Proof.Machine
end

