-- ==== Sys2Proof/Machine/Swarm.lean ====
section
/-!
DEFINITION. The Swarm step (R445 to R469): the messages, the hops and accumulators, the sampled check, the norm, the phases from
the contributions to READY, the gather round the ring with its shadow writes, and the commit queries.
-/
namespace Sys2Proof.Machine

/-! Messages (R455). -/

/-- What a Swarm message says beside its data. -/
structure SwMsg where
  type    : Nat
  fmt     : Nat
  thinned : Bool
  bucket  : Nat
  shard   : Nat
  hop     : Nat
  block   : Nat
  mask    : Nat
deriving DecidableEq, Repr

/-- A message that names no block. -/
def SwMsg.plain (type : Nat) : SwMsg := ⟨type, 0, false, 0, 0, 0, 0, 0⟩

/-- R455: the 32-byte header. -/
def Swarm.header (w : Swarm) (m : SwMsg) (len : Nat) : List Byte :=
  leBytes 4 w.step ++ leBytes 2 w.gen ++ leBytes 1 m.type ++ leBytes 1 (m.fmt + (if m.thinned then 4 else 0)) ++
    leBytes 4 m.bucket ++ leBytes 2 m.shard ++ leBytes 2 m.hop ++ leBytes 4 m.block ++ leBytes 4 len ++ leBytes 4 m.mask ++
    leBytes 2 w.pos ++ zeros 2

/-- Data padded with zeros to a multiple of 32 bytes. -/
def pad32 (b : List Byte) : List Byte := padTo (alignUp b.length 32) b

/-- R391: what a transfer of a Swarm step is sent for. The step has no stream table: its anchor core's stream 0 stands for the fault
of a lost flit (DESIGN CHOICE: log 107). -/
def State.swarmOrigin (s : State) (w : Swarm) : Origin := ⟨w.ctx, (s.ctx w.ctx).gen, (s.ctx w.ctx).anchor, 0, noTile, 0⟩

/-- R455: a message to a position of the ring. -/
def State.swarmSend (s : State) (w : Swarm) (dest : Nat) (m : SwMsg) (data : List Byte) : State :=
  let d := pad32 data
  s.sendFor (some (s.swarmOrigin w)) (nth 0 w.ring dest) 4 (laneOf (s.ctx w.ctx).cls 5) (w.header m d.length ++ d)

/-- The other positions of the ring. -/
def Swarm.others (w : Swarm) : List Nat := (List.range w.r).filter (fun q => q != w.pos)

/-- A message to every other member. -/
def State.swarmAll (s : State) (w : Swarm) (m : SwMsg) (data : List Byte) : State := w.others.foldl (fun s q => s.swarmSend w q m data) s

/-- The ring successor and predecessor. -/
def Swarm.next (w : Swarm) : Nat := (w.pos + 1) % max 1 w.r
def Swarm.prev (w : Swarm) : Nat := (w.pos + w.r - 1) % max 1 w.r

/-- R455: a message of the running run, from the member at the position it names. -/
def Swarm.current (w : Swarm) (src : Nat) (h : SwarmHdr) : Bool :=
  w.live && h.step == w.step % 2 ^ 32 && h.gen == w.gen && h.sender < w.r && h.sender != w.pos && nth 0 w.ring h.sender == src

/-- R455: the fields of a header by which a flit that waits in its slot is told: all but FMT, LENGTH and ESC_MASK. -/
def hdrKey (type : Nat) (h : SwarmHdr) : List Byte :=
  leBytes 4 h.step ++ leBytes 2 h.gen ++ leBytes 1 type ++ leBytes 4 h.bucket ++ leBytes 2 h.shard ++ leBytes 2 h.hop ++ leBytes 4 h.block ++
    leBytes 2 h.sender

/-- The same fields in the payload of a message's first flit. -/
def payloadKey (b : List Byte) : List Byte := b.take 7 ++ (b.drop 8).take 12 ++ (b.drop 0x1C).take 2

/-- R382, R466: a Swarm message has been taken or discarded: its flits leave their link slots. -/
def State.dropSwarm (s : State) (src type : Nat) (h : SwarmHdr) : State :=
  s.consumeHead src (fun f => f.kind == 4) (fun f => payloadKey f.payload == hdrKey type h)

/-- R455, R466: a Swarm message arrives. While no run is live it waits in its link slots, and comes again; one of another STEP or GEN, or not
from the member at the position it names, is discarded; else `f` says what the run makes of it. -/
def State.swarmTakes (s : State) (src type : Nat) (h : SwarmHdr) (f : State → State) : State :=
  if !s.swarm.live then s
  else if !s.swarm.current src h then s.dropSwarm src type h
  else f s

/-- The Swarm step replaced. -/
def State.putSwarm (s : State) (w : Swarm) : State := { s with swarm := w }

/-! Blocks on the wire (R456). -/

/-- R456: a wire block travels in BF16. -/
def Swarm.inBf16 (w : Swarm) (code : Nat) (b : WireBlk) : Bool := w.wire == 0 || b.esc || code == 0xFF

/-- The bytes of one element. -/
def wireElem (bf : Bool) (code : Nat) (v : F32) : List Byte :=
  if bf then leBytes 2 (rnBf16 (dec32 v)) else leBytes 1 (encE4 ((code : Int) - 127) (dec32 v))

/-- A block as a message carries it: the bit of each wire block in ESC_MASK, and the data. -/
structure WireMsg where
  mask : Nat
  data : List Byte
deriving DecidableEq, Repr

/-- R456: 32 wire blocks with the positions present. -/
def Swarm.encode (w : Swarm) (codes : List Nat) (bs : List WireBlk) (present : List Bool) : WireMsg :=
  let bf := bs.mapIdx (fun i b => w.inBf16 (nth 0 codes i) b)
  let mask := (bf.mapIdx (fun i v => if v then 2 ^ i else 0)).sum
  let vals := bs.flatMap (·.vals)
  let elem (p : Nat) : List Byte := wireElem (nth false bf (p / 32)) (nth 0 codes (p / 32)) (nth f32zero vals p)
  let data := if w.thin = 0 then (List.range 1024).flatMap elem
    else (List.range 16).flatMap (fun g =>
      let ps := ((List.range 64).map (fun i => 64 * g + i)).filter (nth false present)
      leBytes 8 ((ps.map (fun p => 2 ^ (p % 64))).sum) ++ ps.flatMap elem)
  ⟨mask, pad32 data⟩

/-- The elements at positions `ps` taken from data in order, in the encodings of their wire blocks. -/
def takeElems (bf : Nat → Bool) (codes : List Nat) : List Nat → List Byte → List (Nat × F32) × List Byte
  | [], b => ([], b)
  | p :: ps, b =>
    let n := if bf (p / 32) then 2 else 1
    let c := fieldLE b 0 n
    let v := if bf (p / 32) then widen fmtBf16 c else decE4 (((nth 0 codes (p / 32) : Nat) : Int) - 127) c
    let (l, r) := takeElems bf codes ps (b.drop n)
    ((p, v) :: l, r)

/-- R456: a block's data as its 1,024 values with the positions present. -/
def decodeBlock (fmt : Nat) (thinned : Bool) (mask : Nat) (codes : List Nat) (data : List Byte) : List (F32 × Bool) :=
  let bf (i : Nat) : Bool := fmt == 1 || bitAt mask i
  let l := if !thinned then (takeElems bf codes (List.range 1024) data).1
    else ((List.range 16).foldl (fun (a : List (Nat × F32) × List Byte) g =>
      let m := fieldLE a.2 0 8
      let r := takeElems bf codes (((List.range 64).filter (bitAt m)).map (fun i => 64 * g + i)) (a.2.drop 8)
      (a.1 ++ r.1, r.2)) ([], data)).1
  (List.range 1024).map (fun p => match l.find? (fun e => e.1 == p) with
    | some e => (e.2, true)
    | none => (f32zero, false))

/-! Hops (R458, R459, R461). -/

/-- A block after a hop: its wire blocks, the positions present, the escalations of the hop, and the conversions that overflow (R63). -/
structure HopOut where
  blks    : List WireBlk
  present : List Bool
  escs    : Nat
  sat     : Nat
deriving DecidableEq, Repr

/-- R59, R63: a finite sum that rounds to an infinite BF16. -/
def bfOverflows : FV → Bool
  | .fin _ m e => decide (fmtBf16.roundMag m 1 e ≥ fmtBf16.infCode)
  | _ => false

/-- R458, R459: a hop adds the own contributions to the incoming values and rounds once: to the wire form, or to FP32 at the
owner. `mask` says which wire blocks have already escalated. -/
def Swarm.hop (w : Swarm) (owner : Bool) (codes : List Nat) (mask : Nat) (inc own : List (F32 × Bool)) : HopOut :=
  let round := if owner then 0 else w.wire + 1
  let ps := inc.zip own
  let out := (List.range 32).map (fun i =>
    let before := w.wire == 1 && nth 0 codes i != 0xFF && bitAt mask i
    let sums := ((ps.drop (32 * i)).take 32).map (fun q =>
      if q.1.2 || q.2.2 then fvAdd (dec32 q.1.1) (dec32 q.2.1) else .fin false 0 0)
    let b := roundWire round (nth 0 codes i) ⟨[], before⟩ sums
    let bf := round == 1 || b.esc || nth 0 codes i == 0xFF
    (b, if b.esc && !before then 1 else 0, if !owner && bf then (sums.filter bfOverflows).length else 0))
  ⟨out.map (·.1), ps.map (fun q => q.1.2 || q.2.2), (out.map (·.2.1)).sum, (out.map (·.2.2)).sum⟩

/-- Nothing incoming: hop 1 (R459). -/
def noPartial (thin : Bool) : List (F32 × Bool) := List.replicate 1024 (f32zero, !thin)

/-- The codes of a block from scale table copy `p`; none are read with WIRE 0. -/
def State.blockCodes (s : State) (root : Nat) (w : Swarm) (b j k : Nat) : Chk (List Nat) :=
  if w.wire = 0 then .ok [] else (s.readVa root (w.codesAt w.p b j k) 32).map (fun l => l.map (·.toNat))

/-- R459, R461: hop 1 of a block of this member, to send. -/
def State.firstHop (s : State) (root : Nat) (w : Swarm) (b j k : Nat) : Chk HopOut := do
  let codes ← s.blockCodes root w b j k
  let own ← s.blockContribs root w b j k
  pure (w.hop false codes 0 (noPartial (w.thin != 0)) own)

/-- A partial leaves for a position. -/
def State.sendPartial (s : State) (root : Nat) (w : Swarm) (dest b j k hop : Nat) (o : HopOut) : Chk State := do
  let codes ← s.blockCodes root w b j k
  let m := w.encode codes o.blks o.present
  pure ((s.swarmSend w dest ⟨0, w.wire + 1, w.thin != 0, b, j, hop, k, m.mask⟩ m.data).putSwarm { s.swarm with
    escs := s.swarm.escs + o.escs, hop1 := (b, j, k) :: s.swarm.hop1 })

/-! The reduced values of an owner (R457, R459, R463). -/

/-- R457: the new code of a wire block. -/
def scaleCode (headroom old : Nat) (vals : List F32) : Nat :=
  if vals.any nonFinite then 0xFF
  else
    match dec32 (amaxOf vals) with
    | .fin _ m e =>
      if m = 0 then old else ((min (max (floorLog2Q m 1 + e - 8 + (headroom : Int)) (-127)) 127) + 127).toNat
    | _ => 0xFF

/-- R457: the codes of a block written to copy 1 − p, for its wire blocks that hold elements. -/
def State.writeCodes (s : State) (c root : Nat) (w : Swarm) (b k : Nat) (vals : List F32) : Done :=
  if w.wire = 0 then ⟨s, none, 0⟩
  else
    let s := s.lookReach c (w.codeReach w.p b w.pos k)
    s.given_ (s.blockCodes root w b w.pos k) (fun old =>
      let n := ceilDiv (w.blockCount b w.pos k) 32
      let new := (List.range n).map (fun i => scaleCode w.headroom (nth 0 old i) ((vals.drop (32 * i)).take 32))
      s.putOn c w.ctx root (w.codesAt (1 - w.p) b w.pos k) (new.map (BitVec.ofNat 8)))

/-- Bytes of FP32 values. -/
def f32Bytes (l : List F32) : List Byte := l.flatMap (fun v => leBytes 4 v.toNat)

/-- A slot that holds no block. -/
def CheckSlot.isFree (c : CheckSlot) : Bool := c.issued && c.from_.isEmpty

/-- R463: the slot that holds a block. -/
def Swarm.slotOf (w : Swarm) (b j k : Nat) : Option Nat :=
  w.slots.findIdx? (fun c => !c.isFree && c.bucket == b && c.shard == j && c.block == k)

/-- A check slot changed. -/
def Swarm.modSlot (w : Swarm) (i : Nat) (f : CheckSlot → CheckSlot) : Swarm := { w with slots := mapAt w.slots i f }

/-- R463: the owner's copy of its reduced block enters the slot. -/
def State.slotReduced (s : State) (c root : Nat) (w : Swarm) (i b k : Nat) : Done :=
  let s := s.readUp c (w.reducedAt b k) (4 * w.blockCount b w.pos k)
  s.given_ (s.readVa root (w.reducedAt b k) (4 * w.blockCount b w.pos k)) (fun v =>
    let d := s.putOn c w.ctx root (w.slotAt i + w.r * 4096) (padTo 4096 v)
    { d with s := d.s.putSwarm (d.s.swarm.modSlot i (fun c => { c with from_ := w.r :: c.from_ })) })

/-- R459, R461, R463: a block's final values at its owner. -/
def State.finishBlock (s : State) (c root : Nat) (w : Swarm) (b k : Nat) (vals : List F32) : Done :=
  let d := s.putOn c w.ctx root (w.reducedAt b k) (f32Bytes (vals.take (w.blockCount b w.pos k)))
  match d.stop with
  | some _ => d
  | none =>
    let e := d.s.writeCodes c root w b k vals
    match e.stop with
    | some _ => e
    | none =>
      let u := e.s.putSwarm { e.s.swarm with reducedB := (b, w.pos, k) :: e.s.swarm.reducedB }
      match u.swarm.slotOf b w.pos k with
      | some i => u.slotReduced c root w i b k
      | none => ⟨u, none, 0⟩

/-! What stops a Swarm step. -/

/-- R460: the core that adds a block. -/
def State.adder (s : State) (w : Swarm) (g : Nat) : Nat :=
  let l := s.serving w.ctx
  nth (nth 0 l 0) l (g % max 1 (min w.cores l.length))

/-- Work of core `c` for the Swarm step, with what stopped it. -/
def Done.orStop (d : Done) (c : Nat) : State :=
  let x := d.s.swarm.ctx
  match d.stop with
  | none => d.s
  | some z => d.s.stopBy c x noTile (d.s.ctx x).gen 0 0 0 z

/-- Work of the firmware for the Swarm step, through the translation of the anchor core, with what stopped it (R342). -/
def Done.orEnd (d : Done) : State :=
  match d.stop with
  | none => d.s
  | some z => d.s.firmwareStop d.s.swarm.ctx z

/-- R322, R348: the core whose translation the service's own accesses take: the context's anchor. -/
def State.swarmCore (s : State) : Nat := (s.ctx s.swarm.ctx).anchor

/-! The launch (R446, R449, R453, R454, R459 to R463). -/

/-- R454: the residual of every shard of a bucket, to copy 1 − p. -/
def State.writeResiduals (s : State) (c root : Nat) (w : Swarm) : Done :=
  if w.thin = 0 then ⟨s, none, 0⟩
  else
    Done.each ((List.range w.buckets.length).flatMap (fun b => (List.range w.r).map (fun j => (b, j)))) (fun s bj =>
      let s := s.lookReach c (w.shardReach bj.1 bj.2)
      s.given_ (s.shardContribs root w bj.1 bj.2) (fun cs =>
        s.putOn c w.ctx root (w.residCopy (1 - w.p) + 4 * ((w.bucket bj.1).offset + bj.2 * w.shardLen bj.1)) (residualOf cs))) s

/-- R459 to R461: the blocks whose hop-1 partial this member sends, in ascending bucket, shard and block. -/
def Swarm.firstHops (w : Swarm) : List (Nat × Nat × Nat) :=
  let mine (j : Nat) : Bool := if w.mode = 0 then j == w.prev else j != w.pos
  (List.range w.buckets.length).flatMap (fun b => ((List.range w.r).filter mine).flatMap (fun j =>
    (List.range (w.blocks b j)).map (fun k => (b, j, k))))

/-- R459 to R461: the hop-1 partial of a block, formed on core `c`, which adds it and counts its conversions. -/
def State.sendFirstHop (s : State) (c : Nat) (w : Swarm) (q : Nat × Nat × Nat) : Done :=
  let rs := w.codeReach w.p q.1 q.2.1 q.2.2 ++ w.blockReach q.1 q.2.1 q.2.2
  s.given_ (s.rootFor c 0 rs) (fun root =>
    let s := s.lookReach c rs
    s.given_ (s.firstHop root w q.1 q.2.1 q.2.2) (fun o =>
      s.upTo ((s.countConv c o.sat 0).sendPartial root w (if w.mode = 0 then w.next else q.2.1) q.1 q.2.1 q.2.2 1 o)))

/-- R455: the first flit of a hop-1 partial. -/
def isFirstHop (f : Flit) : Bool :=
  f.kind == 4 && (f.msg == 1 || f.msg == 3) && fieldLE f.payload 6 1 == 0 && fieldLE f.payload 0x0E 2 == 1

/-- R466: the hop-1 partials in flight. The partner's staging tells of its releases by link credits alone, so a partial counts while a port
of this module still holds its first flit (DESIGN CHOICE: log 109). -/
def State.hopsOut (s : State) : Nat :=
  ((List.range 12).map (fun p => (((s.port p).waiting ++ (s.port p).retry).filter (fun f => f.src == s.ownId && isFirstHop f)).length)).sum

/-- R466: hop-1 partials leave while fewer than 256 are in flight. -/
def State.pumpHops : Nat → State → State
  | 0, s => s
  | fuel + 1, s =>
    let w := s.swarm
    match w.hopQ with
    | [] => s
    | q :: rest =>
      if !w.live || decide (s.hopsOut ≥ 256) then s
      else
        let c := s.adder w (w.globalBlock q.1 q.2.1 q.2.2)
        pumpHops fuel (((s.putSwarm { w with hopQ := rest }).sendFirstHop c w q).orStop c)

/-- R463: the check copies of the sampled blocks of other owners. -/
def State.sendChecks (s : State) (c root : Nat) (w : Swarm) : Done :=
  Done.each ((w.others.flatMap w.shardBlocks).filter (fun q => w.sampled q.1 q.2.1 q.2.2)) (fun s q =>
    let s := s.lookReach c (w.blockReach q.1 q.2.1 q.2.2)
    s.given_ (s.blockContribs root w q.1 q.2.1 q.2.2) (fun cs =>
      ⟨s.swarmSend w q.2.1 ⟨1, 0, false, q.1, q.2.1, 0, q.2.2, 0⟩ (f32Bytes (cs.map (·.1))), none, 0⟩)) s

/-- R461: the accumulator of a block, by its bucket, shard and block. -/
def accKey (b j k : Nat) : Nat := (b * 2 ^ 16 + j) * 2 ^ 32 + k

/-- R461: the accumulators of the owner's blocks start at its own contribution, each on the core that adds the block. -/
def State.startAccs (s : State) (w : Swarm) : State :=
  if w.mode = 0 then s
  else
    (w.shardBlocks w.pos).foldl (fun s q =>
      if !s.swarm.live then s
      else
        let c := s.adder w (w.globalBlock q.1 q.2.1 q.2.2)
        let rs := w.blockReach q.1 q.2.1 q.2.2
        (s.given_ (s.rootFor c 0 rs) (fun root =>
          let s := s.lookReach c rs
          s.given_ (s.blockContribs root w q.1 q.2.1 q.2.2) (fun cs =>
            ⟨s.putSwarm { s.swarm with accs := tput [] s.swarm.accs (accKey q.1 q.2.1 q.2.2) (cs.map (·.1)) }, none, 0⟩))).orStop c) s

/-! The sampled check (R463, R464). -/

/-- R463: the contribution list of a slot: entries in hop order. -/
def Swarm.checkList (w : Swarm) (i b k : Nat) : List Byte :=
  leBytes 4 w.r ++ zeros 4 ++ leBytes 8 (w.codesAt w.p b w.pos k) ++ zeros 16 ++
    (List.range w.r).flatMap (fun h =>
      leBytes 8 (w.slotAt i + 4096 * h) ++ leBytes 1 (if w.mode = 0 ∧ h + 1 < w.r then w.wire + 1 else 0) ++ zeros 7)

/-- The stack that holds CHECK. -/
def State.checkStack (s : State) (root : Nat) (w : Swarm) : Nat :=
  match s.xlate root w.check true with
  | .ok pa => stackOf pa
  | .bad _ => 0

/-- R463, R472: a slot that has every copy: its list is written and SUM_CHECK goes to the engine of CHECK's stack and is counted. The
records of SUM_CHECK issued by the service are numbered from 4,096 on, after those of any Erg step. -/
def State.issueCheck (s : State) (c i : Nat) : Done :=
  let w := s.swarm
  match w.slots[i]? with
  | none => ⟨s, none, 0⟩
  | some k =>
    if k.issued || !(List.range (w.r + 1)).all (fun q => k.from_.contains q) then ⟨s, none, 0⟩
    else
      s.given_ (s.rootFor c (w.slotAt i) []) (fun root =>
      let t := s.checkStack root w
      if !s.ergCredit t then ⟨s, none, 0⟩
      else
      let d := s.putOn c w.ctx root (w.slotAt i + w.r * 4096 + 4096) (w.checkList i k.bucket k.block)
      match d.stop with
      | some _ => d
      | none => ⟨((d.s.sendErg w.ctx (4096 + i) t).bump Reg.SWARM_CHECK_CNT Fld.SWARM_CHECK_CNT_CHECKED 1).putSwarm
          (w.modSlot i (fun c => { c with issued := true })), none, 0⟩)

/-- R348: what the check of a slot reads, as the list that the service has written names it. -/
def State.checkNames (s : State) (root : Nat) (w : Swarm) (i : Nat) : Chk (List Reach) :=
  let at_ := w.slotAt i + w.r * 4096
  (s.sumList root (at_ + 4096)).map (fun k => k.reach (at_ + 4096) 1024 ++ [⟨at_, 4096, false, 0, 0⟩])

/-- R463: the elements of the check of a slot: its contributions summed, and the reduced block. -/
def State.checkSums (s : State) (root : Nat) (w : Swarm) (i : Nat) : Chk (List F32 × List F32) := do
  let l ← s.sumList root (w.slotAt i + w.r * 4096 + 4096)
  let sums ← s.sumOf root 1024 l
  let b ← s.readVa root (w.slotAt i + w.r * 4096) 4096
  pure (sums, wordsOf b)

/-- Where the verdict word of a check lies in the working area (R349, R357; log 34). -/
def verdictAt (t i : Nat) : Nat := workArea t + 0x1FFF00 + 8 * i

/-- R233, R348, R463: the reading of a check for stack `t`: every page that it names, translated by the anchor core and judged, then its
sums. -/
def State.readCheck (s : State) (t i : Nat) : Chk (List F32 × List F32) := do
  let w := s.swarm
  let rs ← s.checkNames (s.rootOf w.ctx) w i
  let root ← s.rootFor s.swarmCore w.check rs
  eachChk rs (s.checkReach root t (4096 + i))
  s.checkSums root w i

/-- R464: the CHECK_FAIL event of a mismatch at the owner `id`. -/
def State.checkFail (s : State) (isl b j k e id : Nat) : Ev :=
  ⟨isl, evCheckFail, stCheckMismatch, s.swarm.ctx, (s.ctx s.swarm.ctx).stepNo, noTile, s.swarm.gen,
    leBytes 4 b ++ leBytes 2 j ++ leBytes 4 k ++ leBytes 4 e ++ leBytes 2 id⟩

/-- R464: the owner tells the other members of a mismatch, and its own step aborts (DESIGN CHOICE: log 110). -/
def State.mismatch (s : State) (t : Nat) (c : CheckSlot) (e : Nat) : State :=
  let w := s.swarm
  let s := s.bump Reg.SWARM_CHECK_CNT Fld.SWARM_CHECK_CNT_MISMATCH 1
  let s := s.swarmAll w { SwMsg.plain 7 with bucket := c.bucket, shard := c.shard, block := c.block } (leBytes 1 2 ++ zeros 3 ++ leBytes 4 e)
  s.fault w.ctx stCheckMismatch true (s.checkFail (islErg t) c.bucket c.shard c.block e s.ownId)

/-- R357, R463, R464: SUM_CHECK of a slot: its verdict, and the step's abort at a mismatch. -/
def State.runCheck (s : State) (t i : Nat) (c : CheckSlot) : State :=
  let w := s.swarm
  let s := match s.checkNames (s.rootOf w.ctx) w i with
    | .ok rs => s.lookReach s.swarmCore rs
    | .error _ => s
  match s.readCheck t i with
  | .error z => s.ergStop w.ctx t z
  | .ok (sums, rs) =>
    let n := w.blockCount c.bucket c.shard c.block
    let f := firstFail (if w.mode = 0 then 0 else 1) (sums.take n) (rs.take n)
    let s := (s.store (verdictAt t i) (leBytes 8 (verdict f))).ergPop t
    let s := s.putSwarm { w with
      slots := w.slots.mapIdx (fun n d => if n = i then ⟨0, 0, 0, [], true⟩ else d)
      checked := (c.bucket, c.shard, c.block) :: w.checked }
    f.elim s (s.mismatch t c)

/-! The norm (R465). -/

/-- R465: the sum of squares over the owned shards. -/
def State.sumSquares (s : State) (root : Nat) (w : Swarm) : Chk F32 :=
  (mapChk (List.range w.buckets.length) (fun b => s.readVa root (w.reducedAt b 0) (4 * w.shardCount b w.pos))).map (fun l =>
    (l.flatMap wordsOf).foldl (fun q x => fadd q (fmul x x)) f32zero)

/-- R465: the norm from the sums of all positions. -/
def Swarm.normOf (w : Swarm) : F32 := fsqrt ((List.range w.r).foldl (fun a q => fadd a ((tget none w.norms q).getD f32zero)) f32zero)

/-! The gather (R450, R467). -/

/-- R450: the chunks of a shard: entry, chunk, task virtual address and length. The agreed scales of bucket `b` follow the
list's entries as entry GATHER_COUNT + b (DESIGN CHOICE: log 34). -/
def Swarm.chunksOf_ (w : Swarm) (j : Nat) : List (Nat × Nat × Nat × Nat) :=
  let data := w.gathers.zipIdx.flatMap (fun g =>
    if bitAt g.1.2.2 0 then [] else (List.range (g.1.2.1 / 4096)).map (fun k => (g.2, k, g.1.1 + j * g.1.2.1 + 4096 * k, 4096)))
  let codes := if w.wire = 0 then [] else (List.range w.buckets.length).flatMap (fun b =>
    let n := ceilDiv (w.shardCount b j) 32
    (List.range (ceilDiv n 4096)).map (fun k =>
      (w.gathers.length + b, k, w.codesAt (1 - w.p) b j 0 + 4096 * k, min 4096 (n - 4096 * k))))
  data ++ codes

/-- R467: the bytes of a shadow copy, of the entries without STATE or of those with it. -/
def Swarm.shadowSize (w : Swarm) (state : Bool) : Nat :=
  ((w.gathers.filter (fun g => bitAt g.2.2 0 == state)).map (fun g => if state then g.2.1 else w.r * g.2.1)).sum

/-- R467: where an entry lies in a shadow copy: the entries follow one another in list order (DESIGN CHOICE: log 34). -/
def Swarm.shadowOff (w : Swarm) (n : Nat) : Nat :=
  let st := bitAt (nth (0, 0, 0) w.gathers n).2.2 0
  (((w.gathers.take n).filter (fun g => bitAt g.2.2 0 == st)).map (fun g => if st then g.2.1 else w.r * g.2.1)).sum

/-- The shadow writes of `len` bytes at task address `va` that lie at `off` in the window, one for each 128 bytes. -/
def shadowLines (off va len : Nat) : List (Nat × Nat) := (List.range (len / 128)).map (fun i => (off + 128 * i, va + 128 * i))

/-- R467: the shadow writes of one gather chunk, to copy 1 − p. -/
def Swarm.shadowChunk (w : Swarm) (n j k va : Nat) : List (Nat × Nat) :=
  if w.shHandle = 0 ∨ n ≥ w.gathers.length then []
  else shadowLines ((1 - w.p) * w.shadowSize false + w.shadowOff n + j * (nth (0, 0, 0) w.gathers n).2.1 + 4096 * k) va 4096

/-- R467: the shadow writes of the STATE entries, to copy 1 − p behind both copies of the others. -/
def Swarm.shadowState (w : Swarm) : List (Nat × Nat) :=
  if w.shHandle = 0 ∨ !w.shState then []
  else w.gathers.zipIdx.flatMap (fun g =>
    if bitAt g.1.2.2 0 then
      shadowLines (2 * w.shadowSize false + (1 - w.p) * w.shadowSize true + w.shadowOff g.2) (g.1.1 + (1 - w.p) * g.1.2.1) g.1.2.1
    else [])

/-- The key of the shadow handle. -/
def State.shadowKey (s : State) (w : Swarm) : Nat := s.handleKey w.ctx w.shHandle

/-- R420, R467: the shadow writes that hold a credit leave. -/
def State.pumpShadow : Nat → State → State
  | 0, s => s
  | fuel + 1, s =>
    let w := s.swarm
    let key := s.shadowKey w
    match w.shadowQ with
    | [] => s
    | (off, va) :: rest =>
      if (s.handle key).credits = 0 ∨ (s.handle key).size = 0 then s.askCredits (s.ctx w.ctx).cls key
      else
        let s := s.readUp s.swarmCore va 128
        match s.readBy s.swarmCore va 128 with
        | .error z => s.firmwareStop w.ctx z
        | .ok b =>
          let p : Piece := { op := 0, blk := 0, va := off, sbit := 0, nbits := 1024, dst := 0, val := ofLE b, write := true
                             win := w.shHandle, ant := false, cache := false, desc := 0, tag := 0, miss := false, looked := false
                             more := [], meta_ := false }
          pumpShadow fuel ((s.sendWindowWrite w.ctx key p (s.swarmOrigin w)).putSwarm { w with shadowQ := rest, shadowOut := w.shadowOut + 1 })

/-- Every shadow write that can leave does. -/
def State.pumpShadows (s : State) : State := s.pumpShadow (s.swarm.shadowQ.length)

/-- R450: a chunk of a shard that stands in this member's memory, read through the TLB of core `k`, goes to the successor, unless that is its owner. -/
def State.passChunk (s : State) (k root : Nat) (w : Swarm) (j : Nat) (c : Nat × Nat × Nat × Nat) : Done :=
  let s := s.putSwarm { s.swarm with
    chunks := (c.1, j, c.2.1) :: s.swarm.chunks
    shadowQ := s.swarm.shadowQ ++ w.shadowChunk c.1 j c.2.1 c.2.2.1 }
  if w.next = j then ⟨s, none, 0⟩
  else
    let s := s.readUp k c.2.2.1 c.2.2.2
    s.given_ (s.readVa root c.2.2.1 c.2.2.2) (fun b =>
      ⟨s.swarmSend w w.next ⟨2, 0, false, c.1, j, 0, c.2.1, 0⟩ b, none, 0⟩)

/-- R449, R450, R467: the gather of the own shard begins. -/
def State.startGather (s : State) (k : Nat) : Done :=
  let w := s.swarm
  let s := s.putSwarm { w with phase := 6, shadowQ := w.shadowQ ++ w.shadowState }
  s.given_ (s.rootFor k (nth (0, 0, 0, 0) (w.chunksOf_ w.pos) 0).2.2.1 []) (fun root =>
    let d := Done.each (w.chunksOf_ w.pos) (fun s c => s.passChunk k root w w.pos c) s
    { d with s := d.s.pumpShadows })

/-- R451: every gather byte of every shard has landed, every shadow write is acknowledged, and every sampled block of the own
shard has its verdict (DEDUCED: log 34). -/
def Swarm.gathered (w : Swarm) : Bool :=
  (List.range w.r).all (fun j => (w.chunksOf_ j).all (fun c => w.chunks.contains (c.1, j, c.2.1))) &&
    w.shadowQ.isEmpty && w.shadowOut == 0 &&
    (w.shardBlocks w.pos).all (fun q => !w.sampled q.1 q.2.1 q.2.2 || w.checked.contains q)

/-! The phases (R449). -/

/-- R312: every tile of a tile step has ended, the audits too, and no core holds a grant of it. -/
def State.tilesEnded (s : State) (x : Nat) : Bool :=
  let l := s.launchOf x
  let k := s.ctx x
  (l.unrun || (decide (k.passIdx l + 1 ≥ l.passCount * l.sweeps) && s.passDone x &&
    (List.range l.auditTiles.length).all (fun a => k.done.contains (l.tiles + a)))) &&
    allCores.all (fun c => !(s.core c).grants.any (fun g => (s.core c).ctx == some x && g.gen == k.gen))

/-- R257, R424: no write of the context's run waits for an acknowledgement. -/
def State.writesLanded (s : State) (x : Nat) : Bool :=
  allCores.all (fun c => !(s.core c).wr.any (fun w => w.ctx == x && w.gen == (s.ctx x).gen))

/-- R322: the anchor core of a launch or replay: the lowest-numbered core serving the context. -/
def State.setAnchor (s : State) (x : Nat) : State :=
  match s.serving x with
  | [] => s
  | a :: _ => (s.putCtx x { s.ctx x with anchor := a }).holdAnchor a

/-- R121, R142: the tile counters take the tiles of a launch. -/
def State.setCounters (s : State) (x : Nat) (l : Launch) : State :=
  [0, 1].foldl (fun s d => (s.setFld (Reg.TILECTR_CFG d x) Fld.TILECTR_CFG_TILES l.perPass).setFld (Reg.TILECTR_CFG d x)
    Fld.TILECTR_CFG_ENABLE 1) s

/-- R112, R121: a tile launch takes the context's cores and counters. -/
def State.placeTiles (s : State) (x : Nat) (l : Launch) : State :=
  let s := s.putCtx x { s.ctx x with launch := some l, empty := l.isEmpty || l.unrun }
  let s := s.setCounters x l
  (s.serving x).foldl (fun s c => s.equipStep c x) s

/-- R449, R476: the optimizer phase: its launch, read with the record, takes the context's tile counters. -/
def State.startOptimizer (s : State) : State :=
  let w := s.swarm
  let x := w.ctx
  (s.putSwarm { w with phase := 4 }).placeTiles x { w.opt.getD Launch.empty with swarmAddr := (s.launchOf x).swarmAddr }

/-- R465: NORM_OUT is written once every sum has arrived. -/
def State.writeNorm (s : State) (c : Nat) : Done :=
  s.given_ (s.rootFor c s.swarm.normOut []) (fun root =>
    let d := s.putOn c s.swarm.ctx root s.swarm.normOut (leBytes 4 s.swarm.normOf.toNat)
    match d.stop with
    | some _ => d
    | none => { d with s := d.s.startOptimizer })

/-- R465: the own sum of squares goes to every member. -/
def State.startNorm (s : State) (c : Nat) : Done :=
  let w := s.swarm
  let rs := (List.range w.buckets.length).map (fun b => (⟨w.reducedAt b 0, 4 * w.shardCount b w.pos, false, 0, 0⟩ : Reach))
  s.given_ (s.rootFor c w.reduced rs) (fun root =>
  let s := s.lookReach c rs
  s.given_ (s.sumSquares root w) (fun q =>
    ⟨(s.putSwarm { w with phase := 3, norms := tput none w.norms w.pos (some q) }).swarmAll w (SwMsg.plain 5) (leBytes 4 q.toNat), none, 0⟩))

/-- R451: READY goes to every member. -/
def State.sendReady (s : State) : State :=
  let w := s.swarm
  (s.putSwarm { w with phase := 7, readySent := true, readys := w.pos :: w.readys }).swarmAll w (SwMsg.plain 3) []

/-- R449 to R451: one advance of the phases through the translation of core `c`, where its condition holds; none where it does not. -/
def State.swarmStep (s : State) (c : Nat) : Option Done :=
  let w := s.swarm
  if w.phase = 2 then
    if (w.shardBlocks w.pos).all (fun q => w.reducedB.contains q) then
      some (if w.norm then s.startNorm c else ⟨s.startOptimizer, none, 0⟩)
    else none
  else if w.phase = 3 then
    if (List.range w.r).all (fun q => (tget none w.norms q).isSome) then some (s.writeNorm c) else none
  else if w.phase = 4 then
    if s.tilesEnded w.ctx && s.writesLanded w.ctx then some ⟨s.putSwarm { w with phase := 5 }, none, 0⟩ else none
  else if w.phase = 5 then
    if w.pruned ≥ w.pruneN then some (s.startGather c) else none
  else if w.phase = 6 then
    if w.gathered then some ⟨s.sendReady, none, 0⟩ else none
  else none

/-- R449: the firmware carries the Swarm step on as far as its conditions allow; then complete check slots are issued. -/
def State.swarmRun (c : Nat) : Nat → State → State
  | 0, s => s
  | fuel + 1, s =>
    if !s.swarm.live then s
    else
      match s.swarmStep c with
      | none => (Done.each [0, 1] (fun s i => s.issueCheck c i) s).orEnd
      | some d => if d.stop.isSome then d.orEnd else swarmRun c fuel d.s

/-- The Swarm step carried on after a command; nothing without one. -/
def State.swarmAdvance (s : State) : State :=
  let s := s.pumpHops s.swarm.hopQ.length
  if s.swarm.live then State.swarmRun s.swarmCore 8 s else s

/-- R466: what a port has taken off its hands lets more hop-1 partials leave. -/
def State.swarmOnward (s : State) : State := if s.swarm.live && !s.swarm.hopQ.isEmpty then s.pumpHops s.swarm.hopQ.length else s

/-- R446: the launch is refused with FORMAT because of another digest. -/
def State.digestDiffers (s : State) : State :=
  let w := s.swarm
  s.fault w.ctx stFormat false (programError (islMantis 0) stFormat w.ctx (s.ctx w.ctx).stepNo noTile w.gen
    (s.launchOf w.ctx).swarmAddr none32 none32 none64)

/-- R446: a digest that came before the run began and differs. -/
def State.earlyDiffers (s : State) (w : Swarm) : Bool :=
  s.digests.any (fun d => d.step == w.step % 2 ^ 32 && d.gen == w.gen && d.digest != w.digest)

/-- R446, R449, R453: a Swarm step starts: the digests, the residuals, the first hops and the check copies. -/
def State.startSwarm (s : State) (w : Swarm) : State :=
  let s := (s.serving w.ctx).foldl (fun s c => s.setupStaging c (s.ctx w.ctx).staging) s
  let s := (s.putSwarm w).swarmAll w (SwMsg.plain 4) (leBytes 8 w.digest)
  if s.earlyDiffers w then { s with digests := [] }.digestDiffers
  else
    let c := s.swarmCore
    let s := { s with digests := [] }
    let d := s.given_ (s.rootFor c 0 (w.shardReach 0 0)) (fun root =>
      Done.each [0, 1] (fun s n => if n = 0 then s.writeResiduals c root w else s.sendChecks c root w) s)
    if d.stop.isSome then d.orEnd
    else
      let s := d.s.startAccs w
      if s.swarm.live then (s.putSwarm { s.swarm with phase := 2, hopQ := w.firstHops }).swarmAdvance else s

/-! What arrives. -/

/-- R446: a digest that differs refuses the step, from whatever member and in whatever order of its ring it comes. One that arrives while no
run is live is kept for the run to come. -/
def execSwarmDigest (src : Nat) (hdr : SwarmHdr) (digest : Word) (s : State) : Res :=
  .next (if s.power ≠ .ready then s
    else
      let s := s.dropSwarm src 4 hdr
      let w := s.swarm
      if !w.live then { s with digests := ⟨src, hdr.step, hdr.gen, digest.toNat⟩ :: s.digests }
      else if hdr.step ≠ w.step % 2 ^ 32 ∨ hdr.gen ≠ w.gen then s
      else if digest.toNat = w.digest then s.putSwarm { w with digests := hdr.sender :: w.digests }
      else s.digestDiffers)

/-- A message names a block of the step. -/
def Swarm.hasBlock (w : Swarm) (h : SwarmHdr) : Bool := h.bucket < w.buckets.length && h.shard < w.r && h.block < w.blocks h.bucket h.shard

/-- R459: the hop of this member for a shard. -/
def Swarm.hopNo (w : Swarm) (j : Nat) : Nat := if w.pos = j then w.r else (w.pos + w.r - j) % w.r

/-- R459, R460: a partial of the hop before, added on core `c`. -/
def State.addPartial (s : State) (c : Nat) (h : SwarmHdr) (data : List Byte) : Done :=
  let w := s.swarm
  let rs := w.codeReach w.p h.bucket h.shard h.block ++ w.blockReach h.bucket h.shard h.block
  s.given_ (s.rootFor c 0 rs) (fun root =>
    let s := s.lookReach c rs
    s.given_ (s.blockCodes root w h.bucket h.shard h.block) (fun codes =>
      s.given_ (s.blockContribs root w h.bucket h.shard h.block) (fun own =>
        let o := w.hop (w.pos == h.shard) codes h.escMask (decodeBlock h.fmt h.thinned h.escMask codes data) own
        let s := s.countConv c o.sat 0
        if w.pos = h.shard then s.finishBlock c root w h.bucket h.block (o.blks.flatMap (·.vals))
        else s.upTo (s.sendPartial root w w.next h.bucket h.shard h.block (w.hopNo h.shard) o))))

/-- R460, R461: a block added to its accumulator on core `c`; the last one finishes it. -/
def State.addArrival (s : State) (c : Nat) (h : SwarmHdr) (data : List Byte) : Done :=
  let w := s.swarm
  let rs := w.codeReach w.p h.bucket h.shard h.block
  let g := accKey h.bucket h.shard h.block
  s.given_ (s.rootFor c (w.reducedAt h.bucket h.block) rs) (fun root =>
    let s := s.lookReach c rs
    s.given_ (s.blockCodes root w h.bucket h.shard h.block) (fun codes =>
      let inc := decodeBlock h.fmt h.thinned h.escMask codes data
      let acc := ((tget [] w.accs g).zip inc).map (fun p => if p.2.2 then fadd p.1 p.2.1 else p.1)
      let s := s.putSwarm { w with accs := tput [] w.accs g acc, arrived := (h.bucket, h.shard, h.block, h.sender) :: w.arrived }
      if w.others.all (fun q => s.swarm.arrived.contains (h.bucket, h.shard, h.block, q)) then
        s.finishBlock c root s.swarm h.bucket h.block acc
      else ⟨s, none, 0⟩))

/-- R459, R461: the partial is one that this member still awaits. -/
def Swarm.awaits (w : Swarm) (h : SwarmHdr) : Bool :=
  w.hasBlock h && (if w.mode = 0 then
      h.sender == w.prev && 2 ≤ w.hopNo h.shard && h.hop + 1 == w.hopNo h.shard &&
        !(if w.pos = h.shard then w.reducedB else w.hop1).contains (h.bucket, h.shard, h.block)
    else h.shard == w.pos && !w.arrived.contains (h.bucket, h.shard, h.block, h.sender))

/-! Reduction staging (R290, R299, R300, R460). -/

/-- R290, R466: the staging queue of a core has a credit for each word of an item; while it has not, or a flush is on its way, the
item waits in its link slots. DESIGN CHOICE (log 97): an item takes whole words. -/
def State.stagingFits (s : State) (c n : Nat) : Bool :=
  let k := s.qcfg (qStaging c)
  let x := s.queue (qStaging c)
  k.enable && k.credited && x.backlog.isEmpty && x.opened.isEmpty && !x.draining && x.flushes == 0 && x.depth == 0 && n ≤ x.credits

/-- R300, R460: an item passes through the staging queue of a core: its words are pushed, and read by the vector engine. -/
def State.stage (s : State) (c : Nat) (data : List Byte) : State :=
  let n := ceilDiv data.length 64
  (List.range n).foldl (fun s _ => s.readQueue (qStaging c)) (s.pushItem (qStaging c) (padTo (64 * n) data))

/-- R300: the add that consumed the words has committed: the vector engine releases them. -/
def State.unstage (s : State) (c : Nat) : State :=
  s.setQueue (qStaging c) ({ s.queue (qStaging c) with inbox := [] }.release (s.qcfg (qStaging c)))

/-- R459 to R461: a partial, whose words core `c` has read, is added. -/
def State.addStaged (s : State) (c : Nat) (hdr : SwarmHdr) (data : List Byte) : State :=
  let d := if s.swarm.mode = 0 then s.addPartial c hdr data else s.addArrival c hdr data
  if d.stop.isSome then d.orStop c else d.s.unstage c

/-- R459 to R461, R466: SWARM_PARTIAL. One that the staging queue has no credits for waits in its link slots; one whose words cannot be
read has stopped the step (R279). -/
def execSwarmPartial (src : Nat) (hdr : SwarmHdr) (data : List Byte) (s : State) : Res :=
  .next (s.swarmTakes src 0 hdr (fun s =>
    let w := s.swarm
    let c := s.adder w (w.globalBlock hdr.bucket hdr.shard hdr.block)
    if !w.awaits hdr then s.dropSwarm src 0 hdr
    else if (s.serving w.ctx).isEmpty || !s.stagingFits c (ceilDiv data.length 64) then s
    else
      let t := (s.dropSwarm src 0 hdr).stage c data
      if t.swarm.live then (t.addStaged c hdr data).swarmAdvance else t))

/-- R463: a slot for a block: the one it has, a free one, or one of the two not yet used. -/
def Swarm.takeSlot (w : Swarm) (b j k : Nat) : Option (Nat × Bool) :=
  match w.slotOf b j k with
  | some i => some (i, false)
  | none =>
    match w.slots.findIdx? CheckSlot.isFree with
    | some i => some (i, true)
    | none => if w.slots.length < 2 then some (w.slots.length, true) else none

/-- R463: the own contribution, and the reduced block where it stands, enter a new slot. -/
def State.openSlot (s : State) (c root i b k : Nat) : Done :=
  let w := s.swarm
  let slot : CheckSlot := ⟨b, w.pos, k, [w.pos], false⟩
  let s := s.putSwarm { w with slots := if i < w.slots.length then mapAt w.slots i (fun _ => slot) else w.slots ++ [slot] }
  let s := s.lookReach c (w.blockReach b w.pos k)
  s.given_ (s.blockContribs root w b w.pos k) (fun cs =>
    let d := s.putOn c w.ctx root (w.slotAt i + 4096 * (w.r - 1)) (f32Bytes (cs.map (·.1)))
    match d.stop with
    | some _ => d
    | none => if w.reducedB.contains (b, w.pos, k) then d.s.slotReduced c root w i b k else d)

/-- R463: a copy enters its slot, in hop order. -/
def State.takeCopy (s : State) (i : Nat) (fresh : Bool) (h : SwarmHdr) (data : List Byte) : Done :=
  let w := s.swarm
  let c := s.swarmCore
  let at_ := w.slotAt i + 4096 * ((h.sender + w.r - w.pos) % w.r - 1)
  s.given_ (s.rootFor c at_ []) (fun root =>
    let d := if fresh then s.openSlot c root i h.bucket h.block else ⟨s, none, 0⟩
    match d.stop with
    | some _ => d
    | none =>
      let e := d.s.putOn c w.ctx root at_ (padTo 4096 data)
      { e with s := e.s.putSwarm (e.s.swarm.modSlot i (fun c => { c with from_ := h.sender :: c.from_ })) })

/-- R463: CHECK_COPY; while both slots hold other blocks the copy waits in its link slots. -/
def execCheckCopy (src : Nat) (hdr : SwarmHdr) (data : List Byte) (s : State) : Res :=
  .next (s.swarmTakes src 1 hdr (fun s =>
    let w := s.swarm
    let t := s.dropSwarm src 1 hdr
    if !w.hasBlock hdr || hdr.shard ≠ w.pos || !w.sampled hdr.bucket hdr.shard hdr.block ||
        w.checked.contains (hdr.bucket, hdr.shard, hdr.block) then t
    else
      match w.takeSlot hdr.bucket hdr.shard hdr.block with
      | none => s
      | some (i, fresh) =>
        if !fresh && (nth ⟨0, 0, 0, [], false⟩ w.slots i).from_.contains hdr.sender then t
        else (t.takeCopy i fresh hdr data).orEnd.swarmAdvance))

/-- R357, R463: SUM_CHECK: one of the service, or of an Erg step. -/
def execSumCheck (stack : Nat) (s : State) : Res :=
  .next (if stack ≥ 12 then s
    else
      match s.ergLine stack with
      | e :: _ =>
        if e.idx ≥ 4096 then
          match s.swarm.slots[e.idx - 4096]? with
          | some c => if s.swarm.live && e.ctx == s.swarm.ctx && e.gen == s.swarm.gen then (s.runCheck stack (e.idx - 4096) c).swarmAdvance else s
          | none => s
        else s.ergGo stack erSumCheck
      | [] => s)

/-- R450: SWARM_GATHER: a chunk from the predecessor. -/
def execSwarmGather (src : Nat) (hdr : SwarmHdr) (entry : Nat) (data : List Byte) (s : State) : Res :=
  .next (s.swarmTakes src 2 { hdr with bucket := entry } (fun s =>
    let w := s.swarm
    let s := s.dropSwarm src 2 { hdr with bucket := entry }
    if hdr.sender ≠ w.prev || hdr.shard ≥ w.r || hdr.shard = w.pos || w.chunks.contains (entry, hdr.shard, hdr.block) then s
    else
      match (w.chunksOf_ hdr.shard).find? (fun c => c.1 == entry && c.2.1 == hdr.block) with
      | none => s
      | some q =>
        let c := s.swarmCore
        let d := s.given_ (s.rootFor c q.2.2.1 []) (fun root =>
          let d := s.putOn c w.ctx root q.2.2.1 (padTo q.2.2.2 data)
          match d.stop with
          | some _ => d
          | none => d.s.passChunk c root w hdr.shard q)
        d.orEnd.pumpShadows.swarmAdvance))

/-- R451: READY. -/
def execReady (src : Nat) (hdr : SwarmHdr) (s : State) : Res :=
  .next (s.swarmTakes src 3 hdr (fun s =>
    let w := s.swarm
    let s := s.dropSwarm src 3 hdr
    if w.frozen || w.readys.contains hdr.sender then s else s.putSwarm { w with readys := hdr.sender :: w.readys }))

/-- R465: NORM. -/
def execNorm (src : Nat) (hdr : SwarmHdr) (q : F32) (s : State) : Res :=
  .next (s.swarmTakes src 5 hdr (fun s =>
    let w := s.swarm
    let s := s.dropSwarm src 5 hdr
    if !w.norm || (tget none w.norms hdr.sender).isSome then s
    else (s.putSwarm { w with norms := tput none w.norms hdr.sender (some q) }).swarmAdvance))

/-! The shadow record and the commit (R451, R467, R468). -/

/-- The 64-bit step whose low half is given, not below a version. -/
def stepFrom (version low : Nat) : Nat :=
  let v := version / 2 ^ 32 * 2 ^ 32 + low % 2 ^ 32
  if v < version then v + 2 ^ 32 else v

/-- R468, R486: CURRENT and VERSION of the record kept for member `id`, and the copy from which a takeover of its slice serves. -/
def State.shadowCommit (s : State) (id low : Nat) : State :=
  { s with
    shadowOf := s.shadowOf.map (fun r =>
      if r.1 = id then (r.1, { r.2 with current := 1 - low % 2, version := stepFrom r.2.version low }) else r)
    takeover := s.takeover.map (fun t => if t.id = id ∧ t.by_ = s.ownId then { t with copy := 1 - low % 2 } else t) }

/-- R468: COMMITTED. -/
def execCommitted (src : Nat) (hdr : SwarmHdr) (s : State) : Res := .next ((s.dropSwarm src 6 hdr).shadowCommit src hdr.step)

/-- R451: this member has committed the Swarm step of a number, or holds every READY of it, so that nothing keeps it from its commit. -/
def State.hasCommitted (s : State) (step : Nat) : Bool :=
  let w := s.swarm
  s.swarmDone.any (fun n => n % 2 ^ 32 == step) ||
    (w.live && w.step % 2 ^ 32 == step && (List.range w.r).all (fun q => w.readys.contains q))

/-- R451, R458, R471: the Swarm step commits: its escalations count and the shadow partner learns of it. -/
def State.commitSwarm (s : State) : State :=
  let w := s.swarm
  let s := s.bump Reg.SWARM_ESC_CNT Fld.SWARM_ESC_CNT_COUNT w.escs
  let s := if w.shHandle = 0 then s
    else s.sendMsg (s.handle (s.shadowKey w)).module_ 4 (laneOf (s.ctx w.ctx).cls 5) (w.header (SwMsg.plain 6) 0)
  { s.putSwarm { w with live := false, phase := 0 } with swarmDone := some w.step }

/-- R451: the members that have not gone. -/
def State.survivors (s : State) (w : Swarm) : List Nat := w.others.filter (fun q => (s.member (nth 0 w.ring q)).state == 1)

/-- R475, R477: the abort of a Swarm step under R451, which does not count; its cause is the event that made the withdrawal of a member
known. -/
def State.abortSwarm (s : State) : State :=
  let w := s.swarm
  let gone := (w.ring.filter (fun id => (s.member id).state > 1)).map (fun id => (s.member id).ev)
  s.abortAs w.ctx stOk (gone.foldl max 0) false

/-- R451: the answers of the survivors decide once every one of them is in: none has committed. -/
def State.judgeAnswers (s : State) : State :=
  let w := s.swarm
  if w.asked.any (·.2) then s.putSwarm { w with readys := List.range w.r }
  else if (s.survivors w).all (fun q => w.asked.any (fun a => a.1 == q)) then s.abortSwarm else s

/-- R451: a member of the ring has withdrawn: the READYs freeze, and the others are asked, unless this member already holds
every READY. -/
def State.swarmLoses (s : State) (id : Nat) : State :=
  let w := s.swarm
  if !w.live || !w.ring.contains id || (List.range w.r).all (fun q => w.readys.contains q) then s
  else
    let s := s.putSwarm { w with frozen := true, asked := [] }
    ((s.survivors w).foldl (fun s q => s.swarmSend w q (SwMsg.plain 7) []) s).judgeAnswers

/-- R451, R468: a partner asks the other members of the task group whether they have committed the Swarm step behind the one that its
shadow record of member `id` holds, unless it has itself. It asks with no run of its own (DESIGN CHOICE: log 110). -/
def State.askShadow (s : State) (id : Nat) : State :=
  (s.shadowOf.filter (fun r => r.1 == id)).foldl (fun s r =>
    if s.hasCommitted ((r.2.version + 1) % 2 ^ 32) then s.shadowCommit id (r.2.version + 1)
    else ((s.group r.2.group).peers.filter (fun m => m != id && m != s.ownId && (s.member m).state == 1)).foldl (fun s m =>
      s.sendMsg m 4 (s.keyLane r.2.group 5) ({ s.swarm with step := r.2.version + 1, gen := 0 }.header (SwMsg.plain 7) 0)) s) s

/-- R451, R455: the answer to a question: its STEP and GEN, and one byte, which is one where this member has committed the step
(DESIGN CHOICE: log 34). -/
def State.answerQuery (s : State) (src : Nat) (hdr : SwarmHdr) : State :=
  s.sendMsg src 4 (laneOf (s.ctx s.swarm.ctx).cls 5)
    ({ s.swarm with step := hdr.step, gen := hdr.gen }.header (SwMsg.plain 7) 32 ++ pad32 [if s.hasCommitted hdr.step then 1 else 0])

/-- R451, R468: an answer: a commit makes the shadow copy current, and the running step takes it into account. -/
def State.takeAnswer (s : State) (src : Nat) (hdr : SwarmHdr) (v : Bool) : State :=
  let s := if v then (s.shadowOf.filter (fun r => (s.member r.1).state ≠ 1)).foldl (fun s r =>
    if r.2.version % 2 ^ 32 = hdr.step then s else s.shadowCommit r.1 hdr.step) s else s
  if s.swarm.frozen && s.swarm.current src hdr then
    (s.putSwarm { s.swarm with asked := (hdr.sender, v) :: s.swarm.asked }).judgeAnswers
  else s

/-- R464: the owner of a block has found a mismatch: the step aborts here as well, and is replayed. -/
def State.takeMismatch (s : State) (src : Nat) (hdr : SwarmHdr) (e : Nat) : State :=
  if s.swarm.current src hdr then
    s.fault s.swarm.ctx stCheckMismatch true (s.checkFail (islMantis 0) hdr.bucket hdr.shard hdr.block e src)
  else s

/-- R451, R464, R468: SWARM_COMMIT_QUERY: a question is answered, an answer recorded, a mismatch aborts the step. -/
def execSwarmCommitQuery (src : Nat) (hdr : SwarmHdr) (word : SwarmWord) (s : State) : Res :=
  .next (if s.power ≠ .ready then s
    else
      let s := s.dropSwarm src 7 hdr
      match word with
      | .question => s.answerQuery src hdr
      | .answer v => s.takeAnswer src hdr v
      | .mismatch e => s.takeMismatch src hdr e)

/-! Commands of other chapters that can carry a Swarm step on. -/

/-- R98, R449: PRUNE_REQUEST: a step operation of the context that a core serves, or the next request of a Swarm step's prune
phase. -/
def execPruneRequest (core req : Nat) (s : State) : Res :=
  .next (match (s.core core).ctx with
    | none => s
    | some x =>
      if (s.ctx x).run ≠ .running then s
      else
        let sw := s.swarm.live && s.swarm.ctx == x
        if sw && !(s.swarm.phase == 5 && req == s.swarm.prune + 64 * s.swarm.pruned) then s
        else
          let d := s.prune core x req
          let t := d.s.countOob core d.oob
          match d.stop with
          | none => if sw then (t.putSwarm { t.swarm with pruned := t.swarm.pruned + 1 }).swarmAdvance else t
          | some e => t.stopBy core x noTile (t.ctx x).gen 0 req 0 e)

/-- R122: GRANT_ARRIVAL. -/
def execGrantArrival (core : Nat) (s : State) : Res := .next (s.grantArrives core).swarmAdvance
/-- R312: TILE_END. -/
def execTileEnd (core g : Nat) (s : State) : Res := .next (s.tileEnds core g).swarmAdvance
/-- R139: TILE_WDOG_EXPIRY. -/
def execTileWdogExpiry (core g : Nat) (s : State) : Res := .next (s.wdogExpires core g).swarmAdvance
/-- R257: MEMORY_WRITE_ACK. -/
def execMemoryWriteAck (core : Nat) (s : State) : Res := .next (s.writeAcked core).swarmAdvance

end Sys2Proof.Machine
end

