-- ==== Sys2Proof/Machine/Image.lean ====
section
/-!
DEFINITION. The flash devices (R496, R497), the configuration image (R498 to R505) and the firmware images (R531, R532):
their layout, their conditions and the configuration they spell.
-/
namespace Sys2Proof.Machine

/-! Flash. -/

/-- The byte of a device at an offset; an erased byte reads 0xFF. -/
def State.flashByte (s : State) (dev o : Nat) : Byte := tget 0xFF (if dev = 0 then s.flash0 else s.flash1) o

/-- `n` bytes of a device from an offset. -/
def State.flashBytes (s : State) (dev o n : Nat) : List Byte := (List.range n).map (fun i => s.flashByte dev (o + i))

/-- R496: the partitions: Hamada firmware, Mantis firmware, configuration slot, ledger. -/
def hmdPart : Nat := 0
def mntPart : Nat := 0x01000000
def cfgPart : Nat := 0x05000000
def ledgerPart : Nat := 0x05100000
def reservedPart : Nat := 0x05140000

/-- R498: where the sections begin. -/
def sectionsAt : Nat := 0x0A60

/-- R498: the length field of an image in flash. -/
def State.imageLength (s : State) (dev base : Nat) : Nat := ofLE (s.flashBytes dev (base + 0x10) 4)

/-- R498, R531: the SEQUENCE field of an image in flash. -/
def State.imageSequence (s : State) (dev base : Nat) : Nat := ofLE (s.flashBytes dev (base + 8) 8)

/-- R535: the SHA3-512 digest of bytes 0 to LENGTH − 1 of an image, which its signature covers. -/
def State.imageDigest (s : State) (dev base : Nat) : List Byte :=
  Config.sha3 (s.flashBytes dev base (s.imageLength dev base))

/-- R504, R532: SIGNER_KEY has the owner key digest and SIGNATURE verifies over the digest of the signed bytes. -/
def State.imageSigned (s : State) (dev base : Nat) : Bool :=
  let key := s.flashBytes dev (base + 0x40) 2592
  let sig := s.flashBytes dev (base + s.imageLength dev base) 4627
  Config.sha3 key == Config.ownerDigest && Config.verify key (s.imageDigest dev base) sig

/-- R5, R498: the header fields that every image fixes, the family member and the contract version as the parameter block has them. -/
def headerGood (h : List Byte) (magic : Nat) : Bool :=
  fieldLE h 0 4 == magic && fieldLE h 4 2 == 1 && fieldLE h 6 1 == plaloth9.member && fieldLE h 7 1 == plaloth9.contract &&
    fieldLE h 0x10 4 % 8 == 0 && zeroAt h 0x16 2 && zeroAt h 0x20 32 &&
    (fieldLE h 0x18 8 == 0 || fieldLE h 0x18 8 == Config.serial.toNat)

/-- R499: a section: its TYPE, whether it is CRITICAL, and its body. -/
structure Section_ where
  type     : Nat
  critical : Bool
  body     : List Byte
deriving DecidableEq, Repr

/-- R499: `n` sections that fill the bytes exactly; none where a head or a pad byte breaks the layout. -/
def parseSections : Nat → List Byte → Option (List Section_)
  | 0, bs => if bs.isEmpty then some [] else none
  | n + 1, bs =>
    let len := fieldLE bs 4 4
    let whole := 8 + alignUp len 8
    if bs.length < 8 ∨ bs.length < whole ∨ fieldLE bs 2 2 > 1 ∨ !zeroAt bs (8 + len) (whole - 8 - len) then none
    else (parseSections n (bs.drop whole)).map (fun l => ⟨fieldLE bs 0 2, fieldLE bs 2 1 == 1, (bs.drop 8).take len⟩ :: l)

/-- R500, R501: a field that takes its default for all ones and is refused outside its range otherwise. -/
def cfgField (bs : List Byte) (o n lo hi : Nat) (dflt : Option Nat) : Option Nat :=
  let v := fieldLE bs o n
  match dflt with
  | some d => if v = 2 ^ (8 * n) - 1 then some d else if lo ≤ v ∧ v ≤ hi then some v else none
  | none => if lo ≤ v ∧ v ≤ hi then some v else none

/-- R502: the number of instances of a register that an image may set; 0 for another REG_ID. -/
def regInstances (id : Nat) : Nat :=
  if id = 1 then 288 else if id = 2 ∨ id = 3 ∨ id = 4 ∨ id = 5 then 12 else if id = 6 then 1 else 0

/-- R502: the entries of a REGISTERS section: REG_ID, UNIT, VALUE. -/
def parseRegs (bs : List Byte) : Option (List (Nat × Nat × Nat)) :=
  let n := bs.length / 16
  if bs.length % 16 ≠ 0 ∨ n < 1 ∨ n > 256 then none
  else
    let es := (List.range n).map (fun i => (fieldLE bs (16 * i) 2, fieldLE bs (16 * i + 2) 2, fieldLE bs (16 * i + 8) 8))
    if (List.range n).all (fun i => zeroAt bs (16 * i + 4) 4) &&
       es.all (fun e => regInstances e.1 > 0 && (e.2.1 == 0xFFFF || e.2.1 < regInstances e.1)) then some es else none

/-- R503: the digests of a CONTROL_NODES section. -/
def parseNodes (bs : List Byte) : Option (List (List Byte)) :=
  let n := fieldLE bs 0 4
  if 1 ≤ n ∧ n ≤ 16 ∧ bs.length = 8 + 64 * n ∧ zeroAt bs 4 4 then
    some ((List.range n).map (fun i => (bs.drop (8 + 64 * i)).take 64))
  else none

/-- R501: the four fields of QUEUES, within the ranges of R299. -/
def parseQueues (bs : List Byte) : Option (Nat × Nat × Nat × Nat) :=
  if bs.length ≠ 16 then none
  else do
    let a ← cfgField bs 0 4 16384 1048576 (some 131072)
    let b ← cfgField bs 4 4 1024 262144 (some 16384)
    let c ← cfgField bs 8 4 4096 1048576 (some 65536)
    let d ← cfgField bs 12 4 0 4194304 (some 262144)
    pure (a, b, c, d)

/-- R500: the fields of MODULE; the queues, registers and nodes are filled in by the caller. -/
def parseModule (bs : List Byte) : Option ModCfg :=
  if bs.length ≠ 64 ∨ !zeroAt bs 0x1A 38 then none
  else do
    let moduleId ← cfgField bs 0 2 0 16383 none
    let profile ← cfgField bs 2 1 0 1 (some 0)
    let swarmMode ← cfgField bs 3 1 0 1 (some 0)
    let lossWindow ← cfgField bs 4 4 4096 1048576 (some 65536)
    let maxTileNs ← cfgField bs 8 2 1000 16000 (some 6000)
    let sliceUs ← cfgField bs 0xA 2 100 10000 (some 1000)
    let powerCap ← cfgField bs 0xC 2 600 2100 (some 2100)
    let minCores ← cfgField bs 0xE 1 1 144 (some 72)
    let replayLimit ← cfgField bs 0xF 1 1 16 (some 4)
    let spadBudget ← cfgField bs 0x10 1 1 64 (some 4)
    let spadWindow ← cfgField bs 0x11 1 32 44 (some 40)
    let hbmBudget ← cfgField bs 0x12 1 1 64 (some 8)
    let hbmWindow ← cfgField bs 0x13 1 32 44 (some 40)
    let ergShare ← cfgField bs 0x14 1 0 16 (some 8)
    let ergBudget ← cfgField bs 0x15 1 1 16 (some 2)
    let laneLimit ← cfgField bs 0x16 1 1 254 (some 16)
    let testCores ← cfgField bs 0x17 1 1 8 (some 1)
    let portMask ← cfgField bs 0x18 2 0 0x0FFF (some 0x0FFF)
    pure { moduleId, profile, swarmMode, lossWindow, maxTileNs, sliceUs, powerCap, minCores, replayLimit, spadBudget,
           spadWindow, hbmBudget, hbmWindow, ergShare, ergBudget, laneLimit, testCores, portMask, wadiWords := 131072,
           seifWords := 16384, eventWords := 65536, traceWords := 262144, regs := [], nodes := [], sequence := 0, digest := [] }

/-- The body of the section of a type. -/
def sectionOf (l : List Section_) (t : Nat) : Option (List Byte) := (l.find? (fun x => x.type == t)).map (·.body)

/-- R499 to R503: the configuration that the sections spell; none where one of them breaks its conditions. -/
def parseConfig (l : List Section_) : Option ModCfg :=
  if (distinct (l.map (·.type))).length ≠ l.length ∨ l.any (fun x => (x.type < 1 || x.type > 4) && x.critical) then none
  else do
    let m ← (sectionOf l 1).bind parseModule
    let nodes ← (sectionOf l 4).bind parseNodes
    let q ← match sectionOf l 2 with
      | none => some (131072, 16384, 65536, 262144)
      | some b => parseQueues b
    let regs ← match sectionOf l 3 with
      | none => some []
      | some b => parseRegs b
    pure { m with wadiWords := q.1, seifWords := q.2.1, eventWords := q.2.2.1, traceWords := q.2.2.2, regs := regs, nodes := nodes }

/-- What the verification of an image finds: the status it records and, where it is valid, the value. -/
inductive Verdict (α : Type) where
  | valid (x : α)
  | invalid (status : Nat)
deriving DecidableEq, Repr

/-- R504: the configuration image of a slot. -/
def State.verifyConfig (s : State) (dev : Nat) : Verdict ModCfg :=
  let h := s.flashBytes dev cfgPart 0x40
  let len := fieldLE h 0x10 4
  if !s.imageSigned dev cfgPart then .invalid 0x0701
  else if !headerGood h 0x43394C50 ∨ len + 4627 > 0x100000 ∨ len < sectionsAt ∨ fieldLE h 0x14 2 < 1 ∨ fieldLE h 0x14 2 > 64 then
    .invalid 0x0201
  else
    match (parseSections (fieldLE h 0x14 2) (s.flashBytes dev (cfgPart + sectionsAt) (len - sectionsAt))).bind parseConfig with
    | none => .invalid 0x0201
    | some c => .valid { c with sequence := fieldLE h 8 8, digest := s.imageDigest dev cfgPart }

/-- The kinds of firmware (R531): 0 Hamada, 1 Mantis. -/
def fwBase (kind : Nat) : Nat := if kind = 0 then hmdPart else mntPart
def fwMagic (kind : Nat) : Nat := if kind = 0 then 0x48394C50 else 0x4D394C50
def fwLimit (kind : Nat) : Nat := if kind = 0 then 384 * 1024 else 1024 * 1024
/-- R533: the fused minimum of a kind. -/
def State.svnMin (s : State) (kind : Nat) : Nat := if kind = 0 then s.hmd.svnHmd else s.hmd.svnMnt

/-- R531, R532: the firmware image of a kind in a device: its digest where it is valid. -/
def State.verifyFirmware (s : State) (kind dev : Nat) : Verdict (List Byte) :=
  let base := fwBase kind
  let h := s.flashBytes dev base 0x40
  let len := fieldLE h 0x10 4
  let seq := fieldLE h 8 8
  if !s.imageSigned dev base ∨ seq < s.svnMin kind then .invalid 0x0701
  else if !headerGood h (fwMagic kind) ∨ len < sectionsAt ∨ seq > 64 ∨ fieldLE h 0x14 2 ≠ 1 then .invalid 0x0201
  else
    match parseSections 1 (s.flashBytes dev (base + sectionsAt) (len - sectionsAt)) with
    | some [x] => if x.type = 0x10 ∧ x.body.length ≤ fwLimit kind then .valid (s.imageDigest dev base) else .invalid 0x0201
    | _ => .invalid 0x0201

/-- R505: the header of a slot can be read: its MAGIC and version are those of a configuration image. -/
def State.slotReadable (s : State) (dev : Nat) : Bool :=
  ofLE (s.flashBytes dev cfgPart 4) == 0x43394C50 && ofLE (s.flashBytes dev (cfgPart + 4) 2) == 1

/-- R505: the slot of S05's primary method: the higher SEQUENCE, and slot A where they are equal or a header cannot be read. -/
def State.primarySlot (s : State) : Nat :=
  if s.slotReadable 0 && s.slotReadable 1 && s.imageSequence 1 cfgPart > s.imageSequence 0 cfgPart then 1 else 0

end Sys2Proof.Machine
end

