-- ==== Sys2Proof/Machine/Wire.lean ====
section
/-!
DEFINITION. What the Wadi port receives (R536 to R539, R551 to R556): the judgement of a frame that arrives, the session, the credits of the three paths, repeated requests, and the flash that its management messages write (R565).
-/
namespace Sys2Proof.Machine

/-! Frames received. -/

/-- R538: a frame that fails the tag or counter check; the sixteenth ends the session. -/
def State.authFailure (s : State) : State :=
  let s := s.bump Reg.WADI_DROP_CNT Fld.WADI_DROP_CNT_AUTH 1
  let s := s.bumpSat Reg.HMD_SESSION Fld.HMD_SESSION_AUTH_FAIL 1
  let s := s.withHmd (fun h => { h with authFails := h.authFails + 1 })
  if s.hmd.authFails ≥ 16 then s.endSess else s

/-- The credited paths of R554. -/
inductive Path where
  | request | bulk | mgmt
deriving DecidableEq, Repr

/-- The credits that the node holds for a path. -/
def Wadi.held (w : Wadi) : Path → Nat
  | .request => w.nodeReq
  | .bulk => w.nodeBulk
  | .mgmt => w.nodeMgmt

/-- Credits of a path spent. -/
def Wadi.spend (w : Wadi) (p : Path) (n : Nat) : Wadi :=
  match p with
  | .request => { w with nodeReq := w.nodeReq - n }
  | .bulk => { w with nodeBulk := w.nodeBulk - n }
  | .mgmt => { w with nodeMgmt := w.nodeMgmt - n }

/-- R553, R554: a protected frame of a path that costs `n` credits: discarded and counted, or accepted and handed to `k`. -/
def State.receive (s : State) (h : FrameHdr) (p : Path) (n : Nat) (k : State → State) : State :=
  if !s.linkUp then s
  else if !s.hmd.sessOpen then s.bump Reg.WADI_DROP_CNT Fld.WADI_DROP_CNT_NO_SESSION 1
  else if h.counter ≥ counterLimit ∧ h.tagOk then s.endSess
  else if !h.tagOk ∨ s.hmd.lastRx.elim false (fun l => h.counter ≤ l) then s.authFailure
  else
    let s := s.withHmd (fun x => { x with lastRx := some h.counter })
    if s.wadi.held p < n then s.bump Reg.WADI_DROP_CNT Fld.WADI_DROP_CNT_CREDIT 1
    else k ((s.bump Reg.WADI_RX_CNT Fld.WADI_RX_CNT_FRAMES 1).withWadi (fun w => w.spend p n))

/-- A repeated REQ_ID of R556 counted. -/
def State.countDuplicate (s : State) : State := s.bump Reg.WADI_DROP_CNT Fld.WADI_DROP_CNT_DUPLICATE 1

/-- R556: a management, attestation or bulk request: a repeated one is answered from the reply kept for it, and its credit is
owed at once. -/
def State.request (s : State) (h : FrameHdr) (bulk : Bool) (k : State → State) : State :=
  s.receive h (if bulk then .bulk else .mgmt) 1 (fun s =>
    let kept := if bulk then s.wadi.bulkKept else s.wadi.mgmtKept
    match kept.find? (fun x => x.1 == h.reqId) with
    | some (_, f) =>
      let s := s.countDuplicate
      let s := match f with
        | some f => s.sendFrame f.cls f.type f.flags f.reqId f.body
        | none => s
      s.withWadi (fun w => if bulk then { w with retBulk := w.retBulk + 1 } else { w with retMgmt := w.retMgmt + 1 })
    | none =>
      k (s.withWadi (fun w =>
        if bulk then { w with bulkKept := keepReply w.bulkKept h.reqId none }
        else { w with mgmtKept := keepReply w.mgmtKept h.reqId none })))

/-- A management request. -/
def State.manage (s : State) (h : FrameHdr) (k : State → State) : State := s.request h false k

/-- R519, R564: a management request that the Mantis firmware serves; the hold state refuses it. -/
def State.manageMantis (s : State) (h : FrameHdr) (type : Nat) (k : State → State) : State :=
  s.manage h (fun s => if s.power = .hold then s.mgmtReply type h.reqId stStartHold 0 0 [] else k s)

/-! The request queue (R300, R554, R556). -/

/-- A submission enters the request queue and is read there by the firmware, which holds it with every word that it reads
on the way (a flush marker among them); RECEIPT answers it (R556). -/
def State.putRequest (s : State) (h : FrameHdr) (kind : Nat) (item : List Byte) (place : List Nat) (lent units : Bool) : State :=
  let q := s.queue qWadi
  let c := s.qcfg qWadi
  let p := q.pushItem c item
  let q' := { p.q with held := p.q.words.length, seen := p.q.wseq, inbox := [] }
  let s := s.setQueue qWadi q'
  let s := s.withWadi (fun w => { w with
    seen := (h.reqId :: w.seen).take 4096
    reqs := w.reqs ++ [⟨h.reqId, p.q.words.length - q.held, kind, item, place, lent, units, false⟩] })
  s.sendFrame clSubmit 4 4 h.reqId []

/-- R557: ADMIT. -/
def State.sendAdmit (s : State) (reqId tag status contexts : Nat) : State :=
  s.sendFrame clSubmit 5 4 reqId (leBytes 8 tag ++ leBytes 2 status ++ zeros 2 ++ leBytes 2 contexts ++ zeros 2)

/-- A submission frame of one word: a repeated one gets a second RECEIPT (R556); the hold state answers START_HOLD (R519). -/
def State.submission (s : State) (h : FrameHdr) (tag : Nat) (k : State → State) : State :=
  s.receive h .request 1 (fun s =>
    if s.wadi.seen.contains h.reqId then
      ((s.countDuplicate).withWadi (fun w => { w with retReq := w.retReq + 1 })).sendFrame clSubmit 4 4 h.reqId []
    else if s.power = .hold then
      (s.withWadi (fun w => { w with retReq := w.retReq + 1, seen := (h.reqId :: w.seen).take 4096 })).sendAdmit h.reqId tag stStartHold 0
    else k s)

/-! The session opens (R536, R537, R554). -/

/-- R554: the credits of a new session, and its first frame, CREDIT_GRANT, which carries them. -/
def State.grantCredits (s : State) : State :=
  let r := 16 + s.conf.wadiWords - 1 - s.heldWords
  let b := 32 - s.wadi.bulkWr.length
  let s := s.withWadi (fun w => { w with
    nodeReq := r, nodeBulk := b, nodeMgmt := 8, retReq := 0, retBulk := 0, retMgmt := 0
    seen := [], bulkKept := [], mgmtKept := [], erasedNow := [] })
  s.sendFrame clMgmt 0x0A 0 0 (leBytes 4 r ++ leBytes 1 b ++ leBytes 1 8 ++ zeros 2)

/-- R537, R538, R549: the session of a handshake opens. -/
def State.openSess (s : State) (h : Handshake) (t2 : List Byte) : State :=
  let k := Config.sha3 (h.ss ++ t2)
  let s := s.withHmd (fun x => { x with
    hs := none, sessOpen := true, keyNode := k.take 32, keyMod := (k.drop 32).take 32, lastRx := none, nextTx := 0
    authFails := 0 })
  let s := s.setFld Reg.HMD_SESSION Fld.HMD_SESSION_NODE h.node
  let s := s.setFld Reg.HMD_SESSION Fld.HMD_SESSION_AUTH_FAIL 0
  let s := s.bump Reg.HMD_SESSION Fld.HMD_SESSION_SESSIONS 1
  s.showSession.grantCredits

/-! Flash written by management messages (R496, R565). -/

/-- Sectors of 64 KiB that bytes of a device touch. -/
def sectorsOf (off n : Nat) : List Nat := (List.range ((off + n - 1) / 0x10000 + 1 - off / 0x10000)).map (fun i => off / 0x10000 + i)

/-- R565: bytes of a device that no FLASH_WRITE may reach: the ledger, the images in use and the configuration slot in use. -/
def State.flashGuarded (s : State) (dev off n : Nat) : Bool :=
  let hits (base size : Nat) : Bool := off < base + size && base < off + n
  let img (f : Fld) : Nat := s.fld Reg.START_STATUS f
  hits ledgerPart 0x40000 ||
    (dev == img Fld.START_STATUS_HMD_IMAGE && hits hmdPart 0x1000000) ||
    (dev == img Fld.START_STATUS_MNT_IMAGE && hits mntPart 0x4000000) ||
    (dev == img Fld.START_STATUS_CFG_SLOT && hits cfgPart 0x100000)

/-- R565: a FLASH_WRITE that the Hamada carries out: it does not start inside a sector that this session's writes have not
erased, and reaches nothing guarded. -/
def State.flashAllowed (s : State) (dev off n : Nat) : Bool :=
  dev < 2 && 0 < n && n ≤ 8192 && off + n ≤ 0x20000000 && !s.flashGuarded dev off n &&
    (off % 0x10000 == 0 || s.wadi.erasedNow.contains (dev, off / 0x10000))

/-- R512: the cells of a flash device after data is programmed: a write that starts a sector erases it, and programming
clears bits only. -/
def programmed (m : List Host.Cell) (off : Nat) (data : List Byte) : List Host.Cell :=
  (data.mapIdx (fun i b => (off + i, b))).foldl (fun (m : List Host.Cell) (p : Nat × Byte) => tput 0xFF m p.1 (tget 0xFF m p.1 &&& p.2))
    (if off % 0x10000 = 0 then m.filter (fun c => !(off ≤ c.1 && c.1 < off + 0x10000)) else m)

/-- R565: the first byte of a sector erases that sector; programming clears bits of what is there. -/
def State.programFlash (s : State) (dev off : Nat) (data : List Byte) : State :=
  let s := if dev = 0 then { s with flash0 := programmed s.flash0 off data } else { s with flash1 := programmed s.flash1 off data }
  if off % 0x10000 = 0 then s.withWadi (fun w => { w with erasedNow := (dev, off / 0x10000) :: w.erasedNow }) else s

/-- A FLASH_WRITE carried out or refused, with its reply. -/
def State.doFlash (s : State) (reqId dev off : Nat) (data : List Byte) : State :=
  if s.flashAllowed dev off data.length then (s.programFlash dev off data).mgmtReply 0x12 reqId stOk 0 0 []
  else s.mgmtReply 0x12 reqId stFormat 0 0 []

/-- R565: the FLASH_WRITEs held during a start, once it has reached S24 or the hold state. -/
def State.settleFlash (s : State) : State :=
  if s.wadi.flashHeld.isEmpty ∨ !(s.ready || s.power == .hold) then s
  else
    let held := s.wadi.flashHeld
    held.foldl (fun s f => s.doFlash f.1 f.2.1 f.2.2.1 f.2.2.2) (s.withWadi (fun w => { w with flashHeld := [] }))

end Sys2Proof.Machine
end

