-- ==== Sys2Proof/Machine/Windows.lean ====
section
/-!
DEFINITION. Remote windows (R415 to R428) at their owner, and handles at their senders: opening, the judgement of requests,
credits, writes, reads and their answers, finish notices and the close.
-/
namespace Sys2Proof.Machine

/-! Opening (R415 to R417). -/

/-- A window as it is to be opened, with the module physical addresses that bound it. -/
structure WinSpec where
  base       : Nat
  limit      : Nat
  unitLog2   : Nat
  rights     : Nat
  peerMode   : Nat
  peerLo     : Nat
  peerHi     : Nat
  pool       : Nat
  perPeerMax : Nat
deriving DecidableEq, Repr

/-- Module physical ranges that follow one another. -/
def contiguous : List (Nat × Nat) → Bool
  | [] => true
  | [_] => true
  | a :: b :: l => a.1 + a.2 == b.1 && contiguous (b :: l)

/-- R416: the physical run of a task virtual range, where it is one run of HBM with READ and WRITE rights. -/
def State.physicalRun (s : State) (root va n : Nat) : Option Nat :=
  if va + n > 2 ^ 48 then none
  else
    match s.rangesOf root va n false, s.rangesOf root va n true with
    | .ok r, .ok w =>
      match w with
      | [] => none
      | (pa, _) :: _ => if r == w && contiguous w && w.all (fun p => inHbm p.1 && inHbm (p.1 + p.2 - 1)) then some pa else none
    | _, _ => none

/-- R206: the range covers whole working rows of one core. -/
def State.workingRange (s : State) (base limit : Nat) : Bool :=
  let c := (base - spadBase 0) / 0x80000
  let lo := (base - spadBase c) / 128
  let hi := (limit - spadBase c) / 128
  inSpad base && limit ≤ spadBase c + 0x80000 && s.workRows c lo hi

/-- R416: the refusal of an opening, in the order of the rule; none where it is good. Values that a field does not admit are
refused with FORMAT (DEDUCED: log 38). -/
def State.winRefusal (s : State) (w : WinSpec) : Option Nat :=
  let u := 2 ^ w.unitLog2
  if w.base % u ≠ 0 ∨ w.limit % u ≠ 0 ∨ w.limit < w.base + u then some stFormat
  else if w.unitLog2 < 7 ∨ w.unitLog2 > 16 ∨ (inSpad w.base ∧ w.unitLog2 ≠ 7) then some stFormat
  else if inHbm w.base then
    if w.limit > hbmSize then some stAddrProt
    else if bitAt w.rights 2 ∧ (w.rights % 4 ≠ 0 ∨ w.peerMode ≠ 0) then some stFormat
    else if w.peerMode > 2 ∨ w.pool = 0 ∨ w.pool ≥ 2 ^ 24 ∨ w.rights ≥ 8 then some stFormat
    else none
  else if !s.workingRange w.base w.limit then some stAddrProt
  else if bitAt w.rights 2 ∧ (w.rights % 4 ≠ 0 ∨ w.peerMode ≠ 0) then some stFormat
  else if w.peerMode > 2 ∨ w.pool = 0 ∨ w.pool ≥ 2 ^ 24 ∨ w.rights ≥ 8 then some stFormat
  else none

/-- R416, R417: an entry that may be opened. -/
def State.winUsable (s : State) (e : Nat) : Bool := s.winState e == wsClosed && !(s.win e).hold

/-- R415, R416: an entry becomes OPEN with FREE equal to POOL. -/
def State.setOpen (s : State) (e : Nat) (w : WinSpec) (group : Option Nat) : State :=
  let gen := if s.winGen e = 0 then 1 else s.winGen e
  let s := s.setFld (Reg.WIN_BASE e) Fld.WIN_BASE_ADDR (w.base / 128)
  let s := s.setFld (Reg.WIN_LIMIT e) Fld.WIN_BASE_ADDR (w.limit / 128)
  let s := s.setFld (Reg.WIN_CREDIT e) Fld.WIN_CREDIT_POOL w.pool
  let s := s.setFld (Reg.WIN_CREDIT e) Fld.WIN_CREDIT_FREE w.pool
  let s := s.setFld (Reg.WIN_CREDIT e) Fld.WIN_CREDIT_PER_PEER_MAX w.perPeerMax
  let s := s.setFld (Reg.WIN_CTL e) Fld.WIN_CTL_GEN gen
  let s := s.setFld (Reg.WIN_CTL e) Fld.WIN_CTL_STATE wsOpen
  let s := s.setFld (Reg.WIN_CTL e) Fld.WIN_CTL_CREDIT_UNIT_LOG2 w.unitLog2
  let s := s.setFld (Reg.WIN_CTL e) Fld.WIN_CTL_MCAST (bitsOf w.rights 2 2)
  let s := s.setFld (Reg.WIN_CTL e) Fld.WIN_CTL_WRITE (bitsOf w.rights 1 1)
  let s := s.setFld (Reg.WIN_CTL e) Fld.WIN_CTL_READ (bitsOf w.rights 0 0)
  let s := s.setFld (Reg.WIN_CTL e) Fld.WIN_CTL_PEER_MODE w.peerMode
  let s := s.setFld (Reg.WIN_CTL e) Fld.WIN_CTL_PEER_LO w.peerLo
  let s := s.setFld (Reg.WIN_CTL e) Fld.WIN_CTL_PEER_HI w.peerHi
  let s := s.putWin e { Win.idle with group := group, peers := (group.map (fun g => (s.group g).peers)).getD [] }
  match group with
  | none => s
  | some g => s.putGroup g { s.group g with windows := (s.group g).windows ++ [e] }

/-- R415, R416: a window opened for a task group on a task virtual range: the entry taken, or the refusal. -/
def State.openWindow (s : State) (root : Nat) (group : Option Nat) (r : WinReq) : Except Nat (State × Nat) :=
  match s.physicalRun root r.vaddr r.size with
  | none => .error stAddrProt
  | some pa =>
    let w : WinSpec := ⟨pa, pa + r.size, r.unitLog2, r.rights, r.peerMode, r.peerLo, r.peerHi, r.pool, r.perPeerMax⟩
    match s.winRefusal w, lowest 4096 s.winUsable with
    | some st, _ => .error st
    | none, none => .error stCapacity
    | none, some e => .ok (s.setOpen e w group, e)

/-- The table entries that the firmware reads to translate a range hold an uncorrectable error (R342, R564). -/
def State.walkUe (s : State) (root va n : Nat) : Bool :=
  (List.range (n / 0x200000 + 2)).any (fun i => (s.walkReads root (va + i * 0x200000)).any (fun a => (s.firstUe a 8).isSome))

/-- R416, R564: WINDOW_OPEN: the task group of the core named in the request owns the window. -/
def execWindowOpen (hdr : FrameHdr) (core : Nat) (req : WinReq) (s : State) : Res :=
  .next (s.manageMantis hdr 0x05 (fun s =>
    let group := (s.core core).ctx.map (fun x => (s.ctx x).group)
    match group with
    | none => s.mgmtReply 0x05 hdr.reqId stAddrProt 0 0 []
    | some g =>
      let root := (s.group g).root
      if s.walkUe root req.vaddr (min req.size 0x10000000000) then s.mgmtReply 0x05 hdr.reqId stMemUncorrectable 0 0 []
      else
        match s.openWindow root group req with
        | .error st => s.mgmtReply 0x05 hdr.reqId st 0 0 []
        | .ok (s, e) => s.mgmtReply 0x05 hdr.reqId stOk 0 0 (leBytes 2 e ++ leBytes 2 (s.winGen e))))

/-- R426, R564: WINDOW_CLOSE: the reply follows once the close completes. A request that names another generation, or an entry
that is not open, is refused with WINDOW_CLOSED (DEDUCED: log 38). -/
def execWindowClose (hdr : FrameHdr) (entry gen : Nat) (s : State) : Res :=
  .next (s.manageMantis hdr 0x06 (fun s =>
    if entry ≥ 4096 ∨ s.winState entry = wsClosed ∨ s.winGen entry ≠ gen then s.mgmtReply 0x06 hdr.reqId stWindowClosed 0 0 []
    else (s.putWin entry { s.win entry with reply := (s.win entry).reply ++ [hdr.reqId] }).startClose entry))

/-- The window that the registers of an entry describe. -/
def State.winSpec (s : State) (e : Nat) : WinSpec :=
  let f (x : Fld) : Nat := s.fld (Reg.WIN_CTL e) x
  ⟨s.fld (Reg.WIN_BASE e) Fld.WIN_BASE_ADDR * 128, s.fld (Reg.WIN_LIMIT e) Fld.WIN_BASE_ADDR * 128, f Fld.WIN_CTL_CREDIT_UNIT_LOG2,
    f Fld.WIN_CTL_READ + 2 * f Fld.WIN_CTL_WRITE + 4 * f Fld.WIN_CTL_MCAST, f Fld.WIN_CTL_PEER_MODE, f Fld.WIN_CTL_PEER_LO,
    f Fld.WIN_CTL_PEER_HI, s.winPool e, s.fld (Reg.WIN_CREDIT e) Fld.WIN_CREDIT_PER_PEER_MAX⟩

/-- R416, R437: CMD 1 opens the entry as its registers describe it; an opening that R416 refuses leaves it CLOSED. No task group
owns it (DEDUCED: log 38). -/
def State.openByCmd (s : State) (e : Nat) : State :=
  let w := s.winSpec e
  if !s.winUsable e || (s.winRefusal w).isSome || !(inHbm w.base || inSpad w.base) then s else s.setOpen e w none

/-- R437: a write of WIN_CTL, at address `a`: its fields, then its command. -/
def State.winCtl (s : State) (e a size v : Nat) : State :=
  let s := s.plainWrite a size v
  let cmd := bitsOf (placed a v &&& accessMask a size) 45 44
  if cmd = 1 then s.openByCmd e else if cmd = 2 then s.startClose e else s

/-- R437: WIN_OPEN_CMD: WIN_CTL written with CMD 1. -/
def execWinOpenCmd (entry : Nat) (value : Word) (s : State) : Res :=
  .next (if entry < 4096 && s.ready && bitsOf value.toNat 45 44 == 1 then s.winCtl entry (Reg.WIN_CTL entry) 8 value.toNat else s)

/-- R426, R437: WIN_CLOSE_CMD: WIN_CTL written with CMD 2. -/
def execWinCloseCmd (entry : Nat) (s : State) : Res :=
  .next (if entry < 4096 && s.ready then s.startClose entry else s)

/-- R417, R427: WIN_CLOSE_TIMEOUT: a close completes anyway, or the hold of an entry ends. -/
def execWinCloseTimeout (entry : Nat) (s : State) : Res :=
  .next (if entry ≥ 4096 then s
    else if s.winState entry = wsClosing then s.endClose entry
    else if s.winState entry = wsClosed && (s.win entry).hold then s.putWin entry { s.win entry with hold := false }
    else s)

/-! The judgement of requests (R419, R422). -/

/-- R415: the sender is in the peer set. -/
def State.isPeer (s : State) (e src : Nat) : Bool :=
  let lo := s.fld (Reg.WIN_CTL e) Fld.WIN_CTL_PEER_LO
  let mode := s.fld (Reg.WIN_CTL e) Fld.WIN_CTL_PEER_MODE
  if mode = 0 then src == lo
  else if mode = 1 then lo ≤ src && src ≤ s.fld (Reg.WIN_CTL e) Fld.WIN_CTL_PEER_HI
  else (s.win e).peers.contains src

/-- The size and the credit unit of a window. -/
def State.winSize (s : State) (e : Nat) : Nat :=
  (s.fld (Reg.WIN_LIMIT e) Fld.WIN_BASE_ADDR - s.fld (Reg.WIN_BASE e) Fld.WIN_BASE_ADDR) * 128
def State.winUnit (s : State) (e : Nat) : Nat := 2 ^ s.fld (Reg.WIN_CTL e) Fld.WIN_CTL_CREDIT_UNIT_LOG2

/-- R421: the header table, the bounds of the window and of a credit unit. -/
def State.headerOk (s : State) (h : WinHdr) (write : Bool) : Bool :=
  let u := s.winUnit h.entry
  h.resOk && h.offset % 32 == 0 && h.length % 32 == 0 && 32 ≤ h.length && h.length ≤ u && (write || h.length ≤ 4096) &&
    h.offset + h.length ≤ s.winSize h.entry && h.offset / u == (h.offset + h.length - 1) / u

/-- R422: the judgement of a write or read: the refusal, if any. An ENTRY beyond the table breaks the header. -/
def State.judge (s : State) (src : Nat) (h : WinHdr) (write : Bool) : Option Nat :=
  let right (f : Fld) : Bool := s.fld (Reg.WIN_CTL h.entry) f == 1
  if h.entry ≥ 4096 then some stAddrProt
  else if s.winState h.entry = wsClosed ∨ s.winGen h.entry ≠ h.gen then some stWindowClosed
  else if !s.isPeer h.entry src then some stAddrProt
  else if !right (if h.mcast then Fld.WIN_CTL_MCAST else if write then Fld.WIN_CTL_WRITE else Fld.WIN_CTL_READ) then some stAddrProt
  else if !s.headerOk h write then some stAddrProt
  else none

/-- R439: a refusal counted. -/
def State.countRefusal (s : State) (status : Nat) : State :=
  s.bump Reg.WIN_REFUSE_CNT (if status = stWindowClosed then Fld.WIN_REFUSE_CNT_CLOSED else Fld.WIN_REFUSE_CNT_PROT) 1

/-- R419, R422: the judgement of a credit request. A window with no right at all grants none; the sender of a multicast group,
whose descriptor gives no generation, names generation 0 (log 38). -/
def State.judgeCredit (s : State) (src e gen : Nat) : Option Nat :=
  let right (f : Fld) : Bool := s.fld (Reg.WIN_CTL e) f == 1
  if e ≥ 4096 then some stAddrProt
  else if s.winState e ≠ wsOpen ∨ (s.winGen e ≠ gen ∧ !(gen == 0 && right Fld.WIN_CTL_MCAST)) then some stWindowClosed
  else if !s.isPeer e src then some stAddrProt
  else if !(right Fld.WIN_CTL_WRITE || right Fld.WIN_CTL_READ || right Fld.WIN_CTL_MCAST) then some stAddrProt
  else none

/-- R419: CREDIT_REQUEST: answered in order of arrival; one that finds no credit free waits. -/
def execCreditRequest (src entry gen count : Nat) (s : State) : Res :=
  .next (if !s.ready then s
    else
      match s.judgeCredit src entry gen with
      | some st => s.refuseCredit src entry gen st
      | none =>
        let w := s.win entry
        (s.putWin entry { w with waiting := w.waiting ++ [(src, count)] }).serveWaiting (w.waiting.length + 1) entry)

/-! Writes and reads at the owner (R421 to R424). -/

/-- R421: an acknowledgement of a write: a single flit of KIND 0 with LEN 16. -/
def isAck (f : Flit) : Bool := f.kind == 0 && f.msg == 3 && f.payload.length == 16

/-- R382, R421: the flits of a window write, or of a unit of a multicast stream, leave their slots. -/
def State.takeWrite (s : State) (src : Nat) (mcast : Bool) : State :=
  s.consume src (fun f => if mcast then f.kind == 5 else f.kind == 0 && !isAck f)

/-- The bytes of a response before its data: ENTRY, GEN, STATUS, TASKREF, SEQ and LENGTH (DESIGN CHOICE: log 20). -/
def winAnswer (h : WinHdr) (status : Nat) : List Byte :=
  leBytes 2 h.entry ++ leBytes 2 h.gen ++ leBytes 2 status ++ leBytes 2 h.taskref ++ leBytes 4 h.seq ++ leBytes 4 h.length

/-- R431: a unit of a multicast window lands: it counts in COMMITTED the first time that it does. -/
def Win.landUnit (w : Win) (seq len : Nat) : Win :=
  let q := w.nextUnit + (seq + 2 ^ 32 - w.nextUnit % 2 ^ 32) % 2 ^ 32
  if q ≥ w.nextUnit + 2 ^ 31 ∨ w.early.contains q then w
  else
    let (n, l) := advanceAcked (w.early.length + 1) w.nextUnit (q :: w.early)
    { w with committed := w.committed + len, nextUnit := n, early := l }

/-- R228, R245: the bytes that a write changes, with their offset from the write's own: all of its data, or those that hold the
bits of `part`, merged with what stands there. -/
def State.windowPart (s : State) (a : Nat) (data : List Byte) : Option (Nat × Nat) → Nat × List Byte
  | none => (0, data)
  | some (lo, n) =>
    let n := min n (8 * data.length - lo)
    if n = 0 then (0, []) else (lo / 8, s.mergeBits a lo n (ofLE data / 2 ^ lo % 2 ^ n))

/-- R421, R423, R431: a write lands and is acknowledged on virtual lane 2. -/
def State.landWindow (s : State) (src : Nat) (h : WinHdr) (data : List Byte) (part : Option (Nat × Nat)) : State :=
  let a := s.fld (Reg.WIN_BASE h.entry) Fld.WIN_BASE_ADDR * 128 + h.offset
  let (o, bs) := s.windowPart a data part
  let s := s.storeOut (a + o) bs
  let s := if h.mcast then s.putWin h.entry ((s.win h.entry).landUnit h.seq h.length) else s
  s.sendMsg src 0 2 (winAnswer h stOk)

/-- R245, R421 to R423, R431: WINDOW_WRITE. -/
def execWindowWrite (src : Nat) (hdr : WinHdr) (data : WinData) (s : State) : Res :=
  .next (if !s.ready then s
    else
      let s := s.takeWrite src hdr.mcast
      match s.judge src hdr true with
      | some st => (s.countRefusal st).sendMsg src 0 2 (winAnswer hdr st)
      | none => s.landWindow src hdr (padTo hdr.length data.bytes) data.part)

/-- R202, R342: what a served read finds: an uncorrectable error in HBM, or bad parity in a scratchpad, which ends it without
data. -/
def State.readWindow (s : State) (src : Nat) (h : WinHdr) : State :=
  let a := s.fld (Reg.WIN_BASE h.entry) Fld.WIN_BASE_ADDR * 128 + h.offset
  let fail := winAnswer h stMemUncorrectable
  match s.firstUe a h.length with
  | some ue => ((s.noteUe .die ue).ueBudgets ue).sendMsg src 2 2 fail
  | none =>
    let c := (a - spadBase 0) / 0x80000
    if inSpad a && s.hasBad a h.length then
      let x := (s.core c).ctx.getD 0xFF
      (s.parityStop c x noTile (s.ctx x).gen .stream [(a, h.length)]).sendMsg src 2 2 fail
    else (s.correct a h.length).sendMsg src 2 2 (winAnswer h stOk ++ s.bytes a h.length)

/-- R421, R422: WINDOW_READ_REQUEST. -/
def execWindowReadRequest (src : Nat) (hdr : WinHdr) (s : State) : Res :=
  .next (if !s.ready then s
    else
      let s := s.consume src (fun f => f.kind == 1)
      match s.judge src hdr false with
      | some st => (s.countRefusal st).sendMsg src 2 2 (winAnswer hdr st)
      | none => s.readWindow src hdr)

/-- R424: FINISH_NOTICE: the bytes of a committed step count in COMMITTED, where its generation is current. -/
def execFinishNotice (entry gen bytes : Nat) (s : State) : Res :=
  .next (if s.ready && entry < 4096 && gen != 0 && s.winGen entry == gen then
      s.putWin entry { s.win entry with committed := (s.win entry).committed + bytes }
    else s)

/-! Handles at the sender. -/

/-- The task group of a handle's key, and the WINDOW number that names the handle. -/
def keyGroup (key : Nat) : Nat := key / 4096
def keyWin (key : Nat) : Nat := key % 4096 + 1

/-- The running step of a context uses a handle. -/
def State.usesHandle (s : State) (x key : Nat) : Bool :=
  let l := s.launchOf x
  (s.ctx x).run == .running && (s.ctx x).group == keyGroup key &&
    (l.streams.any (fun e => e.kind != 0 && e.window == keyWin key) ||
      (s.swarm.live && s.swarm.ctx == x && s.swarm.shHandle == keyWin key))

/-- R422: the steps that use a handle abort with a status, which ends their tasks. -/
def State.faultHandle (s : State) (key status : Nat) : State :=
  (List.range 16).foldl (fun s x =>
    if s.usesHandle x key then
      s.fault x status false (programError (islMantis 0) status x (s.ctx x).stepNo noTile (s.ctx x).gen (keyWin key - 1)
        none32 none32 none64)
    else s) s

/-- R418: the descriptors of the streams that use a handle lie below the window's size, or their step aborts. -/
def State.checkBounds (s : State) (key size : Nat) : State :=
  (List.range 16).foldl (fun s x =>
    if s.usesHandle x key then
      match (s.launchOf x).outsideWindow (keyWin key) size with
      | none => s
      | some d => s.fault x stAddrProt false (programError (islMantis 0) stAddrProt x (s.ctx x).stepNo noTile (s.ctx x).gen
          d.addr none32 none32 d.tag)
    else s) s

/-- The cores of a task group send what waited for credits, and so does a Swarm step. -/
def State.pumpGroup (s : State) (gi : Nat) : State :=
  let cs := allCores.filter (fun c => (s.core c).ctx.any (fun x => (s.ctx x).group == gi))
  (cs.foldl (fun s c => s.pumpCore c) s).pumpShadows.swarmAdvance

/-- R418, R419: a grant for a handle: its first one tells the window's size. Credits for a task group that has ended go back. -/
def State.takeGrant (s : State) (key gen size count : Nat) : State :=
  let h := s.handle key
  if h.mcast || !h.asked then s
  else if !h.live then
    (s.putHandle key (if h.inUse = 0 then .none else { h with asked := false })).sendMsg h.module_ 3 (s.keyLane (keyGroup key) 4)
      (msgReturn h.entry gen count)
  else
    let s := s.putHandle key { h with gen := gen, size := size, credits := h.credits + count, asked := false }
    (if h.size = 0 then s.checkBounds key size else s).pumpGroup (keyGroup key)

/-- R419, R422: a refused request: the steps that use the handle end with the status. -/
def State.takeRefusal (s : State) (key status : Nat) : State :=
  let h := s.handle key
  if h.mcast || !h.asked then s
  else if !h.live then s.putHandle key (if h.inUse = 0 then .none else { h with asked := false })
  else (s.putHandle key { h with asked := false }).faultHandle key status

/-- Every task of a group ends with a status. -/
def State.endTasks (s : State) (gi status ev : Nat) : State :=
  (List.range 16).foldl (fun s x =>
    if (s.ctx x).live && (s.ctx x).group == gi then (if (s.ctx x).run == .running then s.stopStep x else s).endTask x status ev
    else s) s

/-- R429, R431: the slots of a receiver's window are granted; a window of another unit ends the group's tasks with FORMAT. Slots for a
group that has ended, or for a window that closes, go back (R420, R426). -/
def State.takeSlots (s : State) (g i gen size count : Nat) : State :=
  let m := s.mcast g
  if i ≥ m.rcvs.length then s
  else if (m.rcvs[i]?).any (·.closing) then
    m.rcvs[i]?.elim s (fun r => s.sendMsg r.id 3 (s.keyLane m.group 4) (msgReturn r.entry gen count))
  else if count * s.mcastUnit g ≠ size then s.endTasks m.group stFormat 0
  else s.putMcast g { m with rcvs := mapAt m.rcvs i (fun r => { r with gen := gen, size := size, credits := r.credits + count }) }

/-- R434: a module whose receiver a multicast sender has removed ends the tasks of the window's group with LAG_DETACHED. -/
def State.lagEnded (s : State) (e gen : Nat) : State :=
  if e < 4096 && s.winGen e == gen && s.winState e != wsClosed && s.fld (Reg.WIN_CTL e) Fld.WIN_CTL_MCAST == 1 then
    match (s.win e).group with
    | none => s
    | some g => s.endTasks g stLagDetached 0
  else s

/-- R418, R419, R422, R429, R434: WINDOW_CREDIT_GRANT. -/
def execWindowCreditGrant (mcast : Bool) (handle rcv gen size count status : Nat) (s : State) : Res :=
  .next (if !s.ready then s
    else if !mcast then (if status = stOk then s.takeGrant handle gen size count else s.takeRefusal handle status)
    else if status = stLagDetached then s.lagEnded handle gen
    else if status = stOk then s.takeSlots handle rcv gen size count
    else if ((s.mcast handle).rcvs[rcv]?).any (fun r => !r.closing) then s.endTasks (s.mcast handle).group status 0
    else s)

/-- R420, R426: a write of a handle is acknowledged: its credit comes back, or goes back to the owner that closes. -/
def State.ackHandle (s : State) (key : Nat) : State :=
  let h := s.handle key
  let n := h.inUse - 1
  if h.inUse = 0 then s
  else if !h.live || h.closing then
    (s.putHandle key (if !h.live && n = 0 && !h.asked then .none else { h with inUse := n })).sendMsg h.module_ 3
      (s.keyLane (keyGroup key) 4) (msgReturn h.entry h.gen 1)
  else s.putHandle key { h with inUse := n, credits := h.credits + 1 }

/-- The oldest unacknowledged write of a core through a handle. -/
def State.firstWrite (s : State) (c key : Nat) : Option (Nat × WrTracker) :=
  ((s.core c).wr.zipIdx.find? (fun w => w.1.piece.win == keyWin key && (s.ctx w.1.ctx).group == keyGroup key)).map (fun w => (w.2, w.1))

/-- R420, R422: the acknowledgement of a write of a core's streams. -/
def State.ackWrite (s : State) (key c status : Nat) : State :=
  let s1 := s.ackHandle key
  match s.firstWrite c key with
  | none => s1.pumpGroup (keyGroup key)
  | some (i, w) =>
    let s2 := s1.putCore c { s1.core c with wr := dropAt (s1.core c).wr i }
    let s3 := if status = stOk ∨ (s.ctx w.ctx).gen ≠ w.gen then s2
      else s2.fault w.ctx status false (programError (islCore c) status w.ctx (s2.ctx w.ctx).stepNo w.tile w.gen w.piece.desc
        none32 none32 w.piece.tag)
    s3.pumpGroup (keyGroup key)

/-- R420, R451, R467: the acknowledgement of a shadow write of a Swarm step: those of a run that has been aborted come first. -/
def State.ackShadow (s : State) (key status : Nat) : State :=
  let s := s.ackHandle key
  let w := s.swarm
  let s := if s.shadowKey w != key then s
    else if w.stale > 0 then s.putSwarm { w with stale := w.stale - 1 }
    else s.putSwarm { w with shadowOut := w.shadowOut - 1 }
  (if status = stOk then s else s.faultHandle key status).pumpGroup (keyGroup key)

/-- The handles of a task group that name a multicast group. -/
def State.mcastKeys (s : State) (g : Nat) : List Nat :=
  (s.handles.map (·.1)).filter (fun k => (s.handle k).mcast && (s.handle k).module_ == g)

/-- R422, R426, R431: a unit of a multicast group is acknowledged, or refused, which removes the receiver. -/
def State.ackUnit (s : State) (g i status q : Nat) : State :=
  let m := s.mcast g
  match m.rcvs[i]? with
  | none => s
  | some r =>
    if q ≥ m.pushed then s
    else
      let s := if r.closing && r.awaits q then s.sendMsg r.id 3 (s.keyLane m.group 4) (msgReturn r.entry r.gen 1) else s
      if status ≠ stOk then
        let s := s.putMcast g { m with rcvs := mapAt m.rcvs i (fun r => r.refuse q) }
        (if r.removed then s else (s.mcastKeys g).foldl (fun s k => s.faultHandle k status) s).runMcast g
      else (s.putMcast g { m with rcvs := mapAt m.rcvs i (fun r => r.ack q) }).runMcast g

/-- R420, R422, R426, R431, R433, R451: WRITE_ACKNOWLEDGEMENT. -/
def execWriteAcknowledgement (mcast : Bool) (handle core status unit : Nat) (s : State) : Res :=
  .next (if !s.ready then s
    else if mcast then (((s.mcast handle).rcvs[core]?).elim s (fun r => s.consume r.id isAck)).ackUnit handle core status unit
    else
      let s := s.consume (s.handle handle).module_ isAck
      if core = 288 then s.ackShadow handle status else s.ackWrite handle core status)

/-- R421: the data of a read response at its tracker. -/
def State.landRemote (s : State) (c : Nat) (t : Tracker) (data : List Byte) : State :=
  let p := t.piece
  let (lo, n) := unitsOf p.sbit p.nbits
  let v := ofLE (padTo n data) / 2 ^ (p.sbit - 8 * lo) % 2 ^ p.nbits
  (((s.dropTracker c t.id).landRead c p v).antCapture c p).pumpCore c

/-- R267, R342, R421, R422: WINDOW_READ_RESPONSE. -/
def execWindowReadResponse (src core tracker epoch : Nat) (reply : WinReply) (s : State) : Res :=
  .next (let s := s.consume src (fun f => f.kind == 2)
    match (s.core core).tracker tracker epoch with
    | none => (s.dropLate core tracker epoch).pumpCore core
    | some t =>
      match (s.core core).opOf t.piece.op with
      | none => s.dropTracker core t.id
      | some o =>
        if t.piece.win = 0 then s
        else if reply.status = stOk then s.landRemote core t reply.data
        else if reply.status = stMemUncorrectable then s.streamStop core o.ctx o.tile o.gen 0 o.stream t.piece.va t.piece.tag
        else s.errorStop core o.ctx o.tile o.gen reply.status t.piece.desc none32 none32 t.piece.tag)

/-- R426: CLOSING_NOTICE: every credit for the window that is not bound to a write goes back at once. -/
def execClosingNotice (src entry gen : Nat) (s : State) : Res :=
  .next (if !s.ready then s
    else
      let keys := (s.handles.map (·.1)).filter (fun k =>
        let h := s.handle k
        !h.mcast && h.module_ == src && h.entry == entry && h.gen == gen)
      let s := keys.foldl (fun s k => s.giveBack k (s.handle k).live) s
      (s.mcasts.map (·.1)).foldl (fun s g => s.closeReceivers g (fun r => r.id == src && r.entry == entry)) s)

/-- R426, R431: slot credits come back from the receiver of a window; one that closes gets back those of the units that had landed
before it closed, whose credits the sender has not returned. -/
def State.returnSlot (s : State) (src entry gen count : Nat) : State :=
  (s.mcasts.map (·.1)).foldl (fun s g =>
    let m := s.mcast g
    let hit (r : McastRcv) : Bool := r.id == src && r.entry == entry && r.gen == gen
    let s := (m.rcvs.filter (fun r => hit r && r.closing && min count r.owed > 0)).foldl (fun s r =>
      s.sendMsg r.id 3 (s.keyLane m.group 4) (msgReturn r.entry r.gen (min count r.owed))) s
    s.putMcast g { m with rcvs := m.rcvs.map (fun r =>
      if !hit r then r else if r.closing then { r with owed := r.owed - count } else { r with credits := r.credits + count }) }) s

/-- R417, R419, R426: CREDIT_RETURN: credits that a sender gives back are free again; with `slot`, those of R431. -/
def execCreditReturn (src entry gen count : Nat) (slot : Bool) (s : State) : Res :=
  .next (if !s.ready then s
    else if slot then s.returnSlot src entry gen count
    else if entry ≥ 4096 || s.winState entry == wsClosed || s.winGen entry != gen then s
    else
      let w := s.win entry
      let n := min count (tget 0 w.held src)
      (s.putWin entry { w with held := tput 0 w.held src (tget 0 w.held src - n) }).addFree entry n)

end Sys2Proof.Machine
end

