-- ==== Sys2Proof/Machine/Members.lean ====
section
/-!
DEFINITION. Membership (R399, R401, R402) and partner takeover (R428, R434, R451, R468, R469, R486 to R488): announcements, what the
loss of a module does to windows, handles, multicast groups and steps, and the notices of a partner that takes its slice.
-/
namespace Sys2Proof.Machine

/-! The loss of a module. -/

/-- R402: the status with which a task that needs the module ends. -/
def State.goneStatus (s : State) (id : Nat) : Option Nat :=
  if (s.member id).state = 2 then some stLinkLost else if (s.member id).state = 3 then some stWithdrawn else none

/-- R428: the credits that a module holds for every entry return to FREE, and its requests wait no longer. -/
def State.dropSender (s : State) (id : Nat) : State :=
  (s.wins.map (·.1)).foldl (fun s e =>
    let w := s.win e
    let n := tget 0 w.held id
    let s := s.putWin e { w with held := tput 0 w.held id 0, waiting := w.waiting.filter (fun r => r.1 != id) }
    if n = 0 then s else s.addFree e n) s

/-- R428: the handles to a module are void: nothing through them is awaited. -/
def State.voidHandles (s : State) (id : Nat) : State :=
  let keys := (s.handles.map (·.1)).filter (fun k => !(s.handle k).mcast && (s.handle k).module_ == id)
  let gone (w : WrTracker) : Bool := w.piece.win != 0 && keys.contains (s.handleKey w.ctx w.piece.win)
  let s := (allCores.filter (fun c => (s.core c).wr.any gone)).foldl (fun s c =>
    s.putCore c { s.core c with wr := (s.core c).wr.filter (fun w => !gone w) }) s
  keys.foldl (fun s k =>
    let h := s.handle k
    s.putHandle k (if h.live then { h with size := 0, credits := 0, inUse := 0, asked := false, closing := false } else .none)) s

/-- R434: a receiver that has left the membership table is removed from its groups. -/
def State.dropReceiver (s : State) (id : Nat) : State :=
  (s.mcasts.map (·.1)).foldl (fun s g =>
    let m := s.mcast g
    if m.rcvs.any (fun r => r.id == id && !r.removed) then
      (s.putMcast g { m with rcvs := m.rcvs.map (fun r =>
        if r.id == id then { r with removed := true, detached := false } else r) }).runMcast g
    else s) s

/-- The running step of a context reaches a module through a handle. -/
def State.usesModule (s : State) (x id : Nat) : Bool :=
  (s.handles.map (·.1)).any (fun k => !(s.handle k).mcast && (s.handle k).module_ == id && s.usesHandle x k)

/-- R477: running steps of some contexts abort because of another module's loss; such an abort does not count. -/
def State.abortFor (s : State) (p : Nat → Bool) (ev : Nat) : State :=
  ((List.range 16).filter (fun x => (s.ctx x).run == .running && p x)).foldl (fun s x => s.abortAs x stOk ev false) s

/-! The takeover by this module (R486 to R488). -/

/-- R487: the prefill replay steps of a takeover: one for each live sequence of the group, in ascending sequence tag, over all its
committed tokens. -/
def State.prefills (s : State) (gi : Nat) : List SeqHist :=
  sortBy (fun a b => a.seq ≤ b.seq) (s.history.filter (fun h => h.group == gi))

/-- R486, R487: the caches of a group that this module has taken a slice of are being rebuilt. -/
def State.rebuilding (s : State) (gi : Nat) : Bool := s.takeover.any (fun t => t.by_ == s.ownId && t.group == gi && !t.done)

/-- R20, R486: the slices that this module runs for each layer of a group, in their order, with the shadow copy that holds the
weights of one taken over. -/
def State.slices (s : State) (gi : Nat) : List (Nat × Option Nat) :=
  (s.ownId, none) :: (s.takeover.filter (fun t => t.by_ == s.ownId && t.group == gi)).map (fun t => (t.id, some t.copy))

/-- R486: a window of the withdrawn slice opened for its task group: the entry that it stands for, the new one, and its generation. One that
is refused is left out. -/
def State.openSlice (gi : Nat) (a : State × List (Nat × Nat × Nat)) (q : Nat × WinReq) : State × List (Nat × Nat × Nat) :=
  match a.1.openWindow (a.1.group gi).root (some gi) q.2 with
  | .error _ => a
  | .ok (t, e) => (t, a.2 ++ [(q.1, e, t.winGen e)])

/-- R486, R491: this module, as shadow partner of a module that has gone, aborts the group's steps, opens the windows of the withdrawn slice
and tells every other member. The layout of those windows is free (log 39). -/
def State.beginTakeover (s : State) (id gi copy ev : Nat) : State :=
  let g := s.group gi
  let s := s.abortFor (fun x => (s.ctx x).group == gi) ev
  let s := s.raise (Ev.plain (islMantis 0) evTakeoverStart (leBytes 2 id ++ leBytes 8 g.tag))
  let (s, es) := (Config.sliceWindows id g.tag).foldl (State.openSlice gi) (s, [])
  let s := { s with takeover := s.takeover ++ [⟨id, s.ownId, gi, false, copy, s.prefills gi, es.map (·.1)⟩] }
  (g.peers.filter (fun m => m != id && m != s.ownId)).foldl (fun s m => s.sendMsg m 3 0 (msgTakeover id es)) s

/-- R488: this module serves a slice that it has taken over from a module other than `id`. -/
def State.serving_ (s : State) (id : Nat) : Bool := s.takeover.any (fun t => t.by_ == s.ownId && t.id != id)

/-- R486, R488: the groups for which this module keeps the shadow of a module that has gone. -/
def State.takeOver (s : State) (id ev status : Nat) : State :=
  (s.shadowOf.filter (fun r => r.1 == id)).foldl (fun s r =>
    if s.serving_ id then s.endTasks r.2.group status ev else s.beginTakeover id r.2.group r.2.current ev) s

/-- R401, R402, R428, R434, R451, R486: a module has departed or withdrawn; `ev` is the event of the change. -/
def State.memberGone (s : State) (id ev : Nat) : State :=
  let status := (s.goneStatus id).getD stLinkLost
  let users := (List.range 16).filter (fun x => s.usesModule x id)
  let s := s.dropSender id
  let s := s.voidHandles id
  let s := s.dropReceiver id
  let s := s.abortFor (fun x => users.contains x) ev
  let s := s.swarmLoses id
  let s := if s.swarm.live && s.swarm.frozen && s.swarm.ring.contains id then s else s.askShadow id
  s.takeOver id ev status

/-! Announcements (R399, R401). -/

/-- R399: an announcement changes the membership table and is flooded, or is discarded. The module's own entry stays. -/
def State.announced (s : State) (k : Ann) (from_ : Option Nat) (id inc no : Nat) : State :=
  if id = s.ownId ∨ !(s.member id).changes k inc then s
  else
    let ev := s.evSeq
    let s := s.setMember id k.state inc no
    let s := s.flood from_ (annBytes k id inc no)
    if k = .join then s else s.memberGone id ev

/-- An announcement that arrives on a port. -/
def State.announcement (s : State) (k : Ann) (port id inc no : Nat) : State :=
  if port < 12 && s.portUp port && id < 16384 then s.announced k (some port) id inc no else s

/-- R399: JOIN. -/
def execJoin (port id inc ann : Nat) (s : State) : Res := .next (s.announcement .join port id inc ann)
/-- R399, R402, R451, R485, R486: WITHDRAW. -/
def execWithdraw (port id inc ann : Nat) (s : State) : Res := .next (s.announcement .withdraw port id inc ann)
/-- R399, R402, R451, R486: DEPARTED. -/
def execDeparted (port id inc ann : Nat) (s : State) : Res := .next (s.announcement .departed port id inc ann)

/-! What a launch needs (R402). -/

/-- R402: a module reached through a window of a launch that has gone, with the status. -/
def State.needsGone (s : State) (x : Nat) (l : Launch) : Option Nat :=
  (l.streams.filter (fun e => e.kind != 0 && e.window != 0)).findSome? (fun e =>
    let h := s.handle (s.handleKey x e.window)
    if h.mcast then none else s.goneStatus h.module_)

/-- R333: a partner from which a task group borrows has gone, and no takeover names the entry lent: the status, and the event of the
loss. -/
def State.lenderGone (s : State) (gi : Nat) : Option (Nat × Nat) :=
  (s.group gi).borrow.findSome? (fun b =>
    if s.takeover.any (fun t => t.id == b.1 && t.named.contains b.2.1) then none
    else (s.goneStatus b.1).map (fun st => (st, (s.member b.1).ev)))

/-- R469: a member of a Swarm step's ring that has gone: the status, and the event of the loss. -/
def State.ringGone (s : State) (w : Swarm) : Option (Nat × Nat) :=
  w.ring.findSome? (fun id => (s.goneStatus id).map (fun st => (st, (s.member id).ev)))

/-! Notices. -/

/-- A handle to a module that has gone, bound to the partner's entry (R419, R486). -/
def Handle.rebind (h : Handle) (src entry gen : Nat) : Handle :=
  { h with module_ := src, entry := entry, gen := gen, size := 0, credits := 0, inUse := 0, asked := false, closing := false }

/-- A task group has the module among its members. -/
def State.groupMember (s : State) (gi id : Nat) : Bool :=
  (s.group gi).peers.contains id || (s.swarm.ring.contains id && (s.ctx s.swarm.ctx).group == gi && (s.ctx s.swarm.ctx).live)

/-- The members of every task group, with a module in another's place. -/
def State.swapPeers (s : State) (swap : Nat → Nat) : State :=
  (s.groups.map (·.1)).foldl (fun s g => s.putGroup g { s.group g with peers := (s.group g).peers.map swap }) s

/-- R333: a task group that borrows from a module whose partner's notice names no entry for the one lent ends. -/
def State.endBorrowers (s : State) (id : Nat) : State :=
  ((s.groups.map (·.1)).filter (fun g => (s.group g).live && (s.group g).borrow.any (fun b => b.1 == id))).foldl (fun s g =>
    match s.lenderGone g with
    | some (st, ev) => s.endTasks g st ev
    | none => s) s

/-- R333, R402, R469, R475, R486: TAKEOVER_NOTICE: running steps of the affected groups abort, handles to the withdrawn module are bound to
the partner's entries, and the partner stands in its place in the ring and among the group's members. -/
def execTakeoverNotice (src id : Nat) (entries : List (Nat × Nat × Nat)) (s : State) : Res :=
  .next (if !s.ready || src == id || id == s.ownId then s
    else
      let hit := (List.range 16).filter (fun x => s.usesModule x id || s.groupMember (s.ctx x).group id)
      let s := s.abortFor (fun x => hit.contains x) (s.member id).ev
      let s := s.voidHandles id
      let s := (s.handles.map (·.1)).foldl (fun s k =>
        let h := s.handle k
        match entries.find? (fun e => e.1 == h.entry) with
        | some e => if !h.mcast && h.live && h.module_ == id then s.putHandle k (h.rebind src e.2.1 e.2.2) else s
        | none => s) s
      let swap (m : Nat) : Nat := if m = id then src else m
      let s := s.swapPeers swap
      let s : State := { s with
        swarm := { s.swarm with ring := s.swarm.ring.map swap }
        takeover := ⟨id, src, 0, true, 0, [], entries.map (·.1)⟩ :: s.takeover.filter (fun (t : Takeover) => t.id != id) }
      s.endBorrowers id)

/-- R487: bytes that a prefill replay step writes into the key–value caches of a task group. -/
def State.writeCache (s : State) (q : Nat × Nat × List Byte) : State :=
  match s.writeVa (s.group q.1).root q.2.1 q.2.2 with
  | .ok t => t
  | .error _ => s

/-- R20, R487, R491: TAKEOVER_DONE: the prefill replay steps have run, each in its turn, and the caches are rebuilt: the command names
the bytes that they write, for the manual gives no record of the steps' programs and pages (log 100). They
push no token items, and what they write into this module's own caches is what stood there (R13). -/
def execTakeoverDone (rebuilt : Rebuilt) (s : State) : Res :=
  .next (
    let id := rebuilt.id
    let mine (t : Takeover) : Bool := t.id == id && t.by_ == s.ownId && !t.done
    if s.takeover.any mine then
      let s := (rebuilt.cache.filter (fun q => s.takeover.any (fun t => mine t && t.group == q.1))).foldl State.writeCache s
      let n := ((s.takeover.filter mine).map (fun t => t.replay.length)).sum
      let s : State := { s with takeover := s.takeover.map (fun t => if mine t then { t with done := true, replay := [] } else t) }
      s.raise (Ev.plain (islMantis 0) evTakeoverDone (leBytes 2 id ++ leBytes 4 n))
    else s)

end Sys2Proof.Machine
end

