-- ==== Sys2Proof/Machine/Launch.lean ====
section
/-!
DEFINITION. The life of a step (R121, R125, R142, R197, R227, R424, R445, R473 to R479, R559, R603): its launch with the
firmware's refusals, its replay, and its commit with the ordered writes, the audit windows of R172 to R175, the items and the
notices that follow.
-/
namespace Sys2Proof.Machine

/-! What a launch reads. -/

/-- R557: the description at its module physical address. -/
def State.launchDesc (s : State) (r : StepReq) : Chk LaunchDesc := (s.fetch [(r.launch, 128)]).map (fun b => ⟨r.launch, b⟩)

/-- R424: the count that a launch awaits has been reached. -/
def State.waitMet (s : State) (d : LaunchDesc) : Bool :=
  d.waitEntry == 0 || decide (d.waitBytes ≤ (s.win (d.waitEntry - 1)).committed)

/-- R121: the extents of a step that runs no tiles, read and judged. -/
def State.withExts (s : State) (x : Nat) (r : StepReq) (l : Launch) : Chk Launch := do
  let e ← s.loadExts (s.rootOf x) r
  extsOk r.launch [e.1, e.2.1, e.2.2.1, e.2.2.2]
  pure { l with extM := e.1, extN := e.2.1, extK := e.2.2.1, extJ := e.2.2.2 }

/-- R559: what a description names, read and validated: the launch, and the Swarm step of kind 2. -/
def State.loadStep (s : State) (x : Nat) (r : StepReq) (d : LaunchDesc) : Chk (Launch × Option Swarm) := do
  let base : Launch := { Launch.empty with kind := d.kind, req := r, mcast := d.mcastUnits, waitEnt := d.waitEntry }
  if d.kind = 0 then
    let l ← s.loadTile x r d
    pure ({ l with waitEnt := d.waitEntry }, none)
  else if d.kind = 1 then
    let es ← s.loadErgs (s.rootOf x) d.program (d.at 2 2)
    let base ← s.withExts x r base
    pure ({ base with erg := es.map (·.1), jobs := es.map (·.2) }, none)
  else
    let w ← s.loadSwarm x r d.program
    let base ← s.withExts x r base
    pure ({ base with swarmAddr := d.program }, some w)

/-! What stops a launch. -/

/-- A step of the context that the firmware has taken up, so that it can fail (R342), with the launch that it replays; none for a first
launch, which is made again from the start. -/
def State.takeUp (s : State) (x : Nat) (l : Option Launch) : State := s.putCtx x { s.ctx x with
  run := .running, launch := l, launchNo := (s.ctx x).launchNo + 1 }

/-- R22, R128, R603: a refused launch ends the task; R342: an uncorrectable error is a mid-stream fault of the step, which is
launched again from the start. -/
def State.launchStop (s : State) (x : Nat) (l : Option Launch) : Stop → State
  | .refuse st a row pos d =>
    let ev := s.evSeq
    (s.raise (programError (islMantis 0) st x (s.ctx x).stepNo noTile (s.ctx x).gen a row pos d)).endTask x st ev
  | .xlt kind va desc tag =>
    let ev := s.evSeq
    (s.raise ⟨islMantis 0, evAddrFault, stAddrProt, x, (s.ctx x).stepNo, noTile, (s.ctx x).gen,
      leBytes 6 va ++ leBytes 2 kind ++ leBytes 8 desc ++ leBytes 8 tag⟩).endTask x stAddrProt ev
  | .ue pa tag => (s.takeUp x l).firmwareUe x pa tag

/-! The start of a run. -/

/-- R197: one resident region loaded from its backing copy, where it is defined and not loaded. -/
def State.loadRegion (s : State) (c n : Nat) : Chk State := do
  let r := s.reg (Reg.SPAD_RES c n)
  if !bitAt r 40 || bitAt r 41 then pure s
  else
    let size := 128 * bitsOf r 24 12
    let b ← s.fetch [(s.fld (Reg.SPAD_RES_SRC c n) Fld.SPAD_RESn_SRC_SRC * 128, size)]
    pure ((s.store (spadBase c + 128 * bitsOf r 11 0) b).setFld (Reg.SPAD_RES c n) Fld.SPAD_RESn_LOADED 1)

/-- R197: the resident regions of a context's task group loaded. -/
def State.loadRegions (s : State) (x : Nat) : Chk State :=
  (s.group (s.ctx x).group).residents.foldl (fun (acc : Chk State) r =>
    match acc with
    | .error e => .error e
    | .ok t => t.loadRegion r.core r.region) (.ok s)

/-- R226, R227: the write descriptors of a launch that write in order. -/
def Launch.ordered (l : Launch) : List Desc := (l.slots.filterMap (·.values) ++ l.slots.filterMap (·.struct_)).filter (·.alias_)

/-- R227: where the mark bits of an ordered descriptor begin in the staging region. -/
def Launch.marks (l : Launch) (d : Desc) : Nat := 8 * l.staging + d.validCount * d.w

/-- R227: the mark bits are cleared. -/
def State.clearMarks (s : State) (root : Nat) (l : Launch) : Chk State :=
  l.ordered.foldl (fun (acc : Chk State) d =>
    match acc with
    | .error e => .error e
    | .ok t => if d.validCount = 0 then .ok t else t.setBitsVa root (l.marks d) d.validCount 0) (.ok s)

/-- R175: the state record of a layer is initialised when a task first names it. DESIGN CHOICE (log 87): that is at the launch of the
first step of the task which names it. -/
def State.startPred (s : State) (root x : Nat) (l : Launch) : Chk State :=
  match l.pred with
  | none => .ok s
  | some p =>
    if (s.ctx x).preds.contains p.state then .ok s
    else (s.writeVa root p.state predStart).map (fun t => t.putCtx x { t.ctx x with preds := p.state :: (t.ctx x).preds })

/-- R418: a stream of a launch that leaves its window, whose size an earlier grant has told. -/
def State.windowBreach (s : State) (x : Nat) (l : Launch) : Option Desc :=
  (l.streams.filter (fun e => e.kind != 0 && e.window != 0)).findSome? (fun e =>
    let h := s.handle (s.handleKey x e.window)
    if h.live && !h.mcast && h.size != 0 then l.outsideWindow e.window h.size else none)

/-- What a run does to memory before its first grant (R175, R197, R227). -/
def State.prepareRun (s : State) (x : Nat) (l : Launch) : Chk State := do
  let root := s.rootOf x
  let s ← s.loadRegions x
  let s ← s.clearMarks root l
  s.startPred root x l

/-- R418: a stream through a window of known size that leaves it aborts its step with ADDR_PROT. -/
def State.judgeWindows (s : State) (x : Nat) (l : Launch) : State :=
  match s.windowBreach x l with
  | none => s
  | some d => s.fault x stAddrProt false (programError (islMantis 0) stAddrProt x (s.ctx x).stepNo noTile (s.ctx x).gen
      d.addr none32 none32 d.tag)

/-- R324: what of a launch was validated at an earlier one: its program, streams, descriptors, parameters and bins, and the records of an
Erg step. -/
def Launch.essence (l : Launch) : Launch := { Launch.empty with
  prog := l.prog, streams := l.streams, slots := l.slots, params := l.params, bins := l.bins, erg := l.erg, jobs := l.jobs, swarmAddr := l.swarmAddr }

/-- R324: the step of a class-0 context is dispatched at once: its request stood in an urgent slot with every extent immediate, and what it
names has been validated before and has not changed since. -/
def State.urgentStep (s : State) (x : Nat) (l : Launch) : Bool :=
  (s.ctx x).cls == 0 && l.req.urgent && !l.req.byAddr && (s.ctx x).known.contains l.essence

/-- R324: what a class-0 context has had validated. -/
def Ctx.learn (c : Ctx) (l : Launch) : Ctx :=
  if c.cls = 0 ∧ l.essence ∉ c.known then { c with known := l.essence :: c.known } else c

/-- R5, R121, R135, R322: a run of a step begins: the parameter block, the anchor, the counters, the cores, and the work of its
kind. -/
def State.beginRun (s : State) (x : Nat) (l : Launch) (w : Option Swarm) : State :=
  let urg := s.urgentStep x l
  let s := s.putCtx x { (s.ctx x).learn l with
    run := .running, launch := some l, launchNo := (s.ctx x).launchNo + 1, empty := false, params := s.params }
  let s := s.setAnchor x
  if l.kind = 0 then
    let s := (s.placeTiles x l).judgeWindows x l
    if urg then s.dispatch x else s
  else
    let s := (s.serving x).foldl (fun s c => s.equipStep c x) s
    let s := if urg then s.dispatch x else s
    match w with
    | none => s
    | some w => s.startSwarm { w with gen := (s.ctx x).gen }

/-- R491: STEP_REPLAY with the new generation and the launch number. -/
def State.sayReplay (s : State) (x : Nat) : State :=
  let c := s.ctx x
  s.raise ⟨islMantis 0, evStepReplay, stOk, x, c.stepNo, noTile, c.gen, leBytes 2 c.gen ++ leBytes 4 (c.launchNo + 1)⟩

/-! What a run needs of other modules (R402, R469). -/

/-- The ring of a Swarm step lacks a member: with SHADOW_HANDLE and SHADOW_STATE its partner takes the position and the step waits
for it; else the task group ends (R469). -/
def State.ringLost (s : State) (x status ev : Nat) (w : Swarm) : State :=
  if w.shHandle ≠ 0 ∧ w.shState then s else s.endTasks (s.ctx x).group status ev

/-- R402, R469, R479: a run begins unless a module that it needs has gone; R333: the loss of a lending partner ends the task group. -/
def State.withPeers (s : State) (x : Nat) (l : Launch) (w : Option Swarm) (k : State) : State :=
  match s.lenderGone (s.ctx x).group with
  | some (st, ev) => s.endTasks (s.ctx x).group st ev
  | none =>
  match s.needsGone x l, w with
  | some st, _ => s.launchStop x none (.refuse st l.req.launch none32 none32 none64)
  | none, none => k
  | none, some w =>
    match s.ringGone w with
    | some (st, ev) => s.ringLost x st ev w
    | none => k

/-- R402, R415: the modules that can write to a window: one, a range, or the other members of its task group. -/
def State.winSenders (s : State) (e : Nat) : List Nat :=
  let lo := s.fld (Reg.WIN_CTL e) Fld.WIN_CTL_PEER_LO
  if s.fld (Reg.WIN_CTL e) Fld.WIN_CTL_PEER_MODE = 0 then [lo]
  else if s.fld (Reg.WIN_CTL e) Fld.WIN_CTL_PEER_MODE = 1 then
    (List.range (s.fld (Reg.WIN_CTL e) Fld.WIN_CTL_PEER_HI + 1 - lo)).map (fun i => lo + i)
  else (s.win e).peers.filter (fun m => m != s.ownId)

/-- R402, R424: a launch awaits bytes of a window to which no module is left that could write, and for none of them a partner: the task
ends. -/
def State.waitLost (s : State) (x : Nat) (d : LaunchDesc) : State :=
  let l := if d.waitEntry = 0 then [] else s.winSenders (d.waitEntry - 1)
  match l.getLast? with
  | none => s
  | some m =>
    if l.all (fun m => (s.goneStatus m).isSome && s.standIn m == m) then
      s.endTask x ((s.goneStatus m).getD stLinkLost) (s.member m).ev
    else s

/-! STEP_LAUNCH. -/

/-- R135: the first run of a step that has been read and found good. -/
def State.firstRun (s : State) (x : Nat) (r : StepReq) (l : Launch) (w : Option Swarm) (again : Bool) : State :=
  let s := s.mend (fun s => s.prepareRun x l)
  match s.prepareRun x l with
  | .error z => s.launchStop x none z
  | .ok s =>
    let c := if again then s.ctx x else (s.ctx x).nextGen.clearRun
    let s := (s.putCtx x { c with queue := c.queue.drop 1 }).doneReqs [r.reqId]
    (if again then s.sayReplay x else s).beginRun x l w

/-- R445, R476: a Swarm step runs, or has been aborted and is still to be replayed. -/
def State.swarmBusy (s : State) : Bool :=
  s.swarm.live || (List.range 16).any (fun x => (s.ctx x).live && (s.ctx x).run == .aborted && (s.launchOf x).swarmAddr != 0)

/-- The first launch of a step: its generation is the next (R135), unless an abort of its launch has advanced it. -/
def State.launchStep (s : State) (x : Nat) (r : StepReq) (again : Bool) : State :=
  let s := s.mend (fun s => s.launchDesc r)
  match s.launchDesc r with
  | .error z => s.launchStop x none z
  | .ok d =>
    match d.check with
    | .error z => s.launchStop x none z
    | .ok _ =>
      if r.bad then s.launchStop x none (.refuse stFormat r.launch none32 none32 none64)
      else if !s.waitMet d then s.waitLost x d
      else if d.kind == 2 && s.swarmBusy then s
      else
        let s := s.mend (fun s => s.loadStep x r d)
        match s.loadStep x r d with
        | .error z => s.launchStop x none z
        | .ok (l, w) => s.withPeers x l w (s.firstRun x r l w again)

/-- R121, R424, R473: STEP_LAUNCH: the next step of a resident task whose earlier steps have committed. -/
def execStepLaunch (ctx : Nat) (s : State) : Res :=
  .next (let c := s.ctx ctx
    if !s.ready || s.wadi.testing || !c.live || c.run ≠ .idle || (s.group c.group).ending || s.rebuilding c.group then s
    else
      match c.queue with
      | [] => s
      | r :: _ => s.launchStep ctx r false)

/-! STEP_REPLAY. -/

/-- R449, R467, R476: a Swarm step begins again with its record as first read; acknowledgements of the shadow writes of the run before
are still to come. -/
def Swarm.again (w : Swarm) : Swarm :=
  { Swarm.idle with
    live := true, ctx := w.ctx, gen := w.gen, step := w.step, mode := w.mode, wire := w.wire, norm := w.norm
    shState := w.shState, thin := w.thin, ring := w.ring, pos := w.pos, headroom := w.headroom, cores := w.cores
    buckets := w.buckets, resid := w.resid, scales := w.scales, reduced := w.reduced, optAddr := w.optAddr
    prune := w.prune, pruneN := w.pruneN, gathers := w.gathers, check := w.check, normOut := w.normOut
    shHandle := w.shHandle, digest := w.digest, phase := 1, total := w.total, opt := w.opt, stale := w.stale + w.shadowOut }

/-- R476: a step that has been launched runs again on what its first launch read. -/
def State.replayStep (s : State) (x : Nat) (l : Launch) : State :=
  let l := if l.swarmAddr ≠ 0 then { l with kind := 2 } else l
  let w := if l.swarmAddr ≠ 0 then some s.swarm.again else none
  s.withPeers x l w (let s := s.mend (fun s => s.prepareRun x l)
    match s.prepareRun x l with
    | .error z => s.launchStop x (some l) z
    | .ok s => (s.sayReplay x).beginRun x l w)

/-- R342, R476, R486: STEP_REPLAY. A launch that failed on an uncorrectable error is made again from the start; the steps that a
takeover aborted wait until the caches are rebuilt. -/
def execStepReplay (ctx : Nat) (s : State) : Res :=
  .next (let c := s.ctx ctx
    if !s.ready || !c.live || c.run ≠ .aborted || s.rebuilding c.group then s
    else
      match c.launch, c.queue with
      | some l, _ => s.replayStep ctx l
      | none, r :: _ => s.launchStep ctx r true
      | none, [] => s)

/-! The ordered writes (R227). -/

/-- R219, R227: the index of a canonical place of the valid region. -/
def Desc.atPlace (d : Desc) (p : Nat) : Idx :=
  ((List.range 6).foldl (fun (a : Idx × Nat) i =>
    let k := d.dim i
    (a.1 ++ [((k.vlo + a.2 % max 1 k.vlen : Nat) : Int)], a.2 / max 1 k.vlen)) ([], p)).1

/-- R227, R474: one place: a marked element goes to its address, through the TLB of core `c`, for a step of context `x`. -/
def State.orderOne (s : State) (c x root : Nat) (l : Launch) (d : Desc) (p : Nat) : Done :=
  let s := s.readUp c ((l.marks d + p) / 8) 1
  s.given_ (naming d.addr d.tag (s.bitsVa root (l.marks d + p) 1)) (fun m =>
    if m = 0 then ⟨s, none, 0⟩
    else
      let to_ := d.bitOf (d.atPlace p)
      let s := (s.readUp c (l.staging + p * d.w / 8) (d.w / 8)).lookUp c (to_ / 8) (d.w / 8)
      s.given_ (naming d.addr d.tag (s.bitsVa root (8 * l.staging + p * d.w) d.w)) (fun v =>
        s.given_ (naming d.addr d.tag (s.rangesOf root (to_ / 8) ((to_ % 8 + d.w + 7) / 8) true)) (fun w =>
          s.given_ (naming d.addr d.tag (s.setBitsVa root to_ d.w v)) (fun t =>
            ⟨t.putCtx x { t.ctx x with wrote := w ++ (t.ctx x).wrote }, none, 0⟩))))

/-- R227, R322: the ordered pass of the stream engine of core `c` over every ordered descriptor of a launch. -/
def State.orderedPass (s : State) (c x : Nat) (l : Launch) : Done :=
  let places := l.ordered.flatMap (fun d => (List.range d.validCount).map (fun p => (d, p)))
  match s.coreRoot c with
  | some root => Done.each places (fun s q => s.orderOne c x root l q.1 q.2) s
  | none => ⟨s, places.head?.map (fun q => .xlt 5 ((l.marks q.1 + q.2) / 8) q.1.addr q.1.tag), 0⟩

/-! The audit windows (R172 to R175). -/

/-- The state record of a layer as the firmware works on it, with the windows that a step has completed. -/
structure PredState where
  audited : Nat
  missed  : Nat
  total   : Nat
  full    : List (Nat × Nat × Nat)
deriving DecidableEq, Repr

/-- R172: one audited token enters the open window. -/
def PredState.add (p : PredState) (missed total : Nat) : PredState :=
  let m := (p.missed + missed) % 2 ^ 96
  let t := (p.total + total) % 2 ^ 96
  let n := p.audited + 1
  if n % 4096 = 0 then ⟨n, 0, 0, p.full ++ [(p.audited / 4096, m, t)]⟩ else ⟨n, m, t, p.full⟩

/-- R172: a window exceeds the limit. -/
def overLimit (limit missed total : Nat) : Bool := decide (missed * 65536 > limit * total)

/-- R175: the record written back. -/
def PredState.bytes (p : PredState) (dense : Bool) (switch : Nat) : List Byte :=
  leBytes 8 p.audited ++ leBytes 16 p.missed ++ leBytes 16 p.total ++ leBytes 4 (p.audited / 4096) ++
    leBytes 1 (if dense then 1 else 0) ++ zeros 3 ++ leBytes 8 switch ++ zeros 8

/-- R172 to R175: the masses of a committed pair step, in row order, and the switch to dense at the first window over the
limit. -/
def State.commitMasses (s : State) (root x : Nat) (l : Launch) : Chk State :=
  match l.pred with
  | none => .ok s
  | some q =>
    if q.isPred || l.dense then .ok s
    else do
      let b ← s.readVa root q.state 64
      let ms := sortBy (fun a b => a.1 ≤ b.1) (s.ctx x).masses
      let p := ms.foldl (fun (p : PredState) m => p.add m.2.1 m.2.2) ⟨fieldLE b 0 8, fieldLE b 8 16, fieldLE b 0x18 16, []⟩
      let overCnt := p.full.find? (fun w => overLimit q.limit w.2.1 w.2.2)
      let t ← s.writeVa root q.state (p.bytes overCnt.isSome (if overCnt.isSome then (s.ctx x).stepNo + 1 else noStep))
      pure (match overCnt with
        | none => t
        | some w => t.raise ⟨islMantis 0, evDenseSwitch, stOk, x, (s.ctx x).stepNo, noTile, (s.ctx x).gen,
            leBytes 2 q.layer ++ leBytes 4 w.1 ++ leBytes 8 w.2.1 ++ leBytes 8 w.2.2⟩)

/-- R478: a cause found after the commit record has been written is recorded by its event only. -/
def State.noteStop (s : State) (x : Nat) : Stop → State
  | .refuse st a row pos d => s.raise (programError (islMantis 0) st x (s.ctx x).stepNo noTile (s.ctx x).gen a row pos d)
  | .xlt kind va d tag => s.raise ⟨islMantis 0, evAddrFault, stAddrProt, x, (s.ctx x).stepNo, noTile, (s.ctx x).gen,
      leBytes 6 va ++ leBytes 2 kind ++ leBytes 8 d ++ leBytes 8 tag⟩
  | .ue pa _ => (s.noteUe .mantis pa).ueBudgets pa

/-- R172, R473: the audit masses of a step that has committed are added; what the firmware meets then does not affect the step. -/
def State.addMasses (s : State) (x : Nat) (l : Launch) : State :=
  let root := s.rootOf x
  let s := s.mend (fun s => s.commitMasses root x l)
  match s.commitMasses root x l with
  | .error z => s.noteStop x z
  | .ok t => t

/-! STEP_COMMIT. -/

/-- R312, R352, R451, R473: the step has reached its end. -/
def State.stepEnded (s : State) (x : Nat) (l : Launch) : Bool :=
  if l.swarmAddr ≠ 0 then s.swarm.live && s.swarm.ctx == x && (List.range s.swarm.r).all (fun q => s.swarm.readys.contains q)
  else if l.kind = 1 then (List.range l.erg.length).all (fun i => (s.ctx x).ergDone.contains i)
  else s.tilesEnded x

/-- R322, R424, R473, R568: the step may commit: its writes are acknowledged, the completion queue has room, and its anchor core serves it. -/
def State.mayCommit (s : State) (x : Nat) (l : Launch) : Bool :=
  s.stepEnded x l && s.writesLanded x && s.hasRoom (qCompletion x) && (s.serving x).contains (s.ctx x).anchor

/-- R424: the bytes that a step wrote through each handle. -/
def remoteSums (l : List (Nat × Nat)) : List (Nat × Nat) :=
  (distinct (l.map (·.1))).map (fun k => (k, ((l.filter (fun r => r.1 == k)).map (·.2)).sum))

/-- R424: the finish notices of a step. -/
def State.sendFinish (s : State) (x : Nat) (remote : List (Nat × Nat)) : State :=
  (remoteSums remote).foldl (fun s r =>
    let h := s.handle r.1
    s.sendMsg h.module_ 3 (laneOf (s.ctx x).cls 4) (msgFinish h.entry h.gen r.2)) s

/-- R430, R432, R434: the units that the step staged enter their groups in unit order, as the lag limit allows. -/
def State.enterUnits (s : State) (x : Nat) : State :=
  (s.group (s.ctx x).group).mcasts.foldl (fun s g =>
    let m := s.mcast g
    let mine := sortBy (fun a b => a.1 ≤ b.1) (m.staged.filter (fun u => u.1 / 2 ^ 32 == x))
    (s.putMcast g { m with
      staged := m.staged.filter (fun u => u.1 / 2 ^ 32 != x), waiting := m.waiting ++ mine.map (·.2) }).runMcast g) s

/-- R431: the window whose units a step consumes: the one that its launch awaited, where it is a multicast window, or the first
multicast window of its task group (DEDUCED: log 36). -/
def State.mcastWindow (s : State) (x : Nat) (l : Launch) : Option Nat :=
  let isM (e : Nat) : Bool := s.fld (Reg.WIN_CTL e) Fld.WIN_CTL_MCAST == 1 && s.fld (Reg.WIN_CTL e) Fld.WIN_CTL_STATE != 0
  if l.waitEnt ≠ 0 ∧ isM (l.waitEnt - 1) then some (l.waitEnt - 1)
  else
    ((s.group (s.ctx x).group).windows.filter isM).head?

/-- R431: the slot credits of the units consumed go back to the sender. -/
def State.returnSlots (s : State) (x : Nat) (l : Launch) : State :=
  if l.mcast = 0 then s
  else
    match s.mcastWindow x l with
    | none => s
    | some e =>
      s.sendMsg (s.fld (Reg.WIN_CTL e) Fld.WIN_CTL_PEER_LO) 3 (laneOf (s.ctx x).cls 4)
        (msgReturn e (s.fld (Reg.WIN_CTL e) Fld.WIN_CTL_GEN) l.mcast)

/-- R487: this module keeps the token history of a task group: the group has a shadow, in its partner or in this module. -/
def State.shadowed (s : State) (gi : Nat) : Bool := (s.group gi).shadow.isSome || s.shadowOf.any (fun r => r.2.group == gi)

/-- R487: one committed token item enters its sequence's history, behind the prompt where the sequence is new (log 100). -/
def keepToken (gi k : Nat) (h : List SeqHist) (t : List Byte) : List SeqHist :=
  let q := Config.tokenSeq t
  let here (e : SeqHist) : Bool := e.group == gi && e.seq == q
  if h.any here then h.map (fun e => if here e then { e with tokens := e.tokens ++ [t] } else e)
  else h ++ [⟨gi, q, Config.prompt k q ++ [t]⟩]

/-- R487: the committed token items of a step enter the histories of a shadowed task group. -/
def State.keepTokens (s : State) (x : Nat) (tokens : List (List Byte)) : State :=
  let gi := (s.ctx x).group
  if s.shadowed gi then { s with history := tokens.foldl (keepToken gi s.free) s.history, free := s.free + 1 } else s

/-- R300, R479: the token items and the completion item of a commit. -/
def State.pushItems (s : State) (x : Nat) (tokens : List (List Byte)) : State :=
  let c := s.ctx x
  let s := tokens.foldl (fun s t => s.pushItem (qToken x) t) s
  s.pushItem (qCompletion x) (completionItem c.stepNo stOk (itemFlags c.empty false false (decide (c.launchNo > 1))) x
    c.failures c.task c.cause)

/-- R473, R477: the context after a commit, ready for the next step. -/
def Ctx.afterCommit (c : Ctx) : Ctx :=
  { c.clearRun with
    run := .idle, launch := none, launchNo := 0, failures := 0, cause := 0, causeSt := 0, wrote := [], empty := false
    stepNo := c.stepNo + 1, pass := c.pass, sweep := c.sweep, cur := c.cur, base := c.base, done := c.done }

/-- R426, R557: the tasks of a group that ends, whose step has committed or that had none, end with status OK. -/
def State.endIfEnding (s : State) (x : Nat) : State :=
  if (s.ctx x).live && (s.group (s.ctx x).group).ending && (s.ctx x).run == .idle then s.endTask x stOk 0 else s

/-- R473: the commit record is written, and what follows it: the items, the finish notices, the audit masses and COMMITTED. -/
def State.commitStep (s : State) (x : Nat) (l : Launch) (tokens : List (List Byte)) : State :=
  let c := s.ctx x
  let s := s.putTask { s.taskRec c.task with last := c.stepNo, gen := c.gen, status := stOk }
  let s := (s.pushItems x tokens).keepTokens x tokens
  let s := s.sendFinish x c.remote
  let s := s.enterUnits x
  let s := (s.returnSlots x l).addMasses x l
  let s := if l.swarmAddr ≠ 0 then s.commitSwarm else s
  ((s.putCtx x (s.ctx x).afterCommit).endIfEnding x).nextTests

/-- What the commit does before the record: the ordered writes on the anchor core. -/
def State.preCommit (s : State) (x : Nat) (l : Launch) : Done := s.orderedPass (s.ctx x).anchor x l

/-- R172, R227, R300, R424, R473, R479: STEP_COMMIT. -/
def execStepCommit (ctx : Nat) (tokens : List (List Byte)) (s : State) : Res :=
  .next (let c := s.ctx ctx
    match c.launch with
    | none => s
    | some l =>
      if c.run ≠ .running || !s.mayCommit ctx l then s
      else
        let d := s.preCommit ctx l
        match d.stop with
        | some z => d.s.stopBy c.anchor ctx noTile c.gen 0 0 0 z
        | none => d.s.commitStep ctx l tokens)

end Sys2Proof.Machine
end

