-- ==== Sys2Proof/Machine/Start.lean ====
section
/-!
DEFINITION. The start sequence (R506 to R520): the units of each step, their methods, what a unit that passes does, what one
that fails costs, and the advance from step to step.
-/
namespace Sys2Proof.Machine

/-- STEP of START_STATUS (R521). -/
def State.stepNo (s : State) : Nat := s.fld Reg.START_STATUS Fld.START_STATUS_STEP

/-- A whole step, as a unit (R510). -/
def wholeStep : Nat := 0xFFFF
/-- The unit of core `c` under the isolated method of S15; its records name the core ID. -/
def isoCore (c : Nat) : Nat := 0x8000 + c
/-- The unit as a record names it (R510). -/
def recUnit (u : Nat) : Nat := if 0x8000 ≤ u ∧ u < 0x8000 + 288 then u - 0x8000 else u

/-- R506: the ports of S18. -/
def State.cabledPorts (s : State) : List Nat := (List.range 12).filter (fun p => bitAt s.conf.portMask p)

/-- R506: the units that a step runs. -/
def State.stepUnits (s : State) (n : Nat) : List Nat :=
  if n = 9 then List.range 16
  else if n = 11 ∨ n = 12 ∨ n = 13 then List.range 12
  else if n = 14 then [0, 1]
  else if n = 15 then
    [0, 1].flatMap (fun d =>
      if bitAt s.start.s15iso d then (allCores.filter (fun c => dieOf c == d && !s.fenced c)).map isoCore else [d])
  else if n = 18 then s.cabledPorts
  else [wholeStep]

/-- The method with which a unit starts (R506, R514, R515). -/
def State.firstMethod (s : State) (n u : Nat) : Nat :=
  if n = 5 then (if s.start.s05other then 1 else 0)
  else if n = 10 then s.start.kept.bridge
  else if n = 11 then (if bitAt s.start.kept.conservative u then 1 else 0)
  else if n = 15 then (if u < 2 then 0 else 1)
  else if n = 18 then bitsOf s.start.kept.ports (2 * u + 1) (2 * u) % 2
  else if n = 21 then s.start.kept.wadi
  else 0

/-- The state with a change of its start record. -/
def State.withStart (s : State) (f : StartSt → StartSt) : State := { s with start := f s.start }

/-- The state with a change of what later starts keep. -/
def State.withKept (s : State) (f : Kept → Kept) : State := s.withStart (fun t => { t with kept := f t.kept })

/-- R513: when fewer than 16 erased slots lie ahead during a start, a summary is written and the next sector erased. -/
def State.makeRoom (s : State) : State :=
  if s.power == .starting && s.start.devs > 0 && !s.erasedAhead 16 && s.fld Reg.LEDGER_STATUS Fld.LEDGER_STATUS_ERASE_BUSY == 0 then
    let s := s.writeSummary s.start.kept
    match s.nextSector with
    | none => s
    | some sec => (s.beginErase sec).endErase
  else s

/-- A record of the start sequence. -/
def State.logStart (s : State) (type step unit method outcome : Nat) (detail : List Byte) : State :=
  s.makeRoom.writeRec type step (recUnit unit) method outcome detail

/-! What the steps do. -/

/-- R315, R509, R530: a core fenced by its test during a start, which lasts. -/
def State.fenceAtStart (s : State) (c : Nat) : State :=
  (s.setFence c).withKept (fun k => { k with fenced := k.fenced ||| 2 ^ c })

/-- Too few cores for R509, before FLT_CFG is written; in the Assured profile also fewer than three in the module (R481), which a start
meets as it meets the others (DEDUCED: log 111). -/
def State.dieShort (s : State) : Bool :=
  let n0 := (s.unfenced 0).length
  let n1 := (s.unfenced 1).length
  n0 < s.conf.minCores || n1 < s.conf.minCores || (s.assured && n0 + n1 < 3)

/-- R180, R506: the scratchpads of the cores of a unit of S15 initialised. -/
def State.initSpads (s : State) (cs : List Nat) : State := cs.foldl (fun s c => s.wipe (spadBase c) 0x80000) s

/-- R299, R506: the queues of the configuration image set up by the firmware at S17, their regions in HBM where the firmware
puts them. -/
def State.placeQueue (s : State) (q width : Nat) (credited wordClose autoRel : Bool) (words timeout : Nat) : State :=
  s.setupQueue q width credited wordClose autoRel 2 words timeout
    (Config.queueRegion q % ((hbmSize - 72 * words) / 64) * 64)

/-- The queues of S17. -/
def State.startQueues (s : State) : State :=
  let c := s.conf
  let s := s.placeQueue qWadi 2 true true false c.wadiWords 0
  let s := s.placeQueue qEvent 2 false true true c.eventWords 0
  let s := s.placeQueue qTrace 2 false true true c.traceWords 0
  (List.range 96).foldl (fun s i => s.placeQueue (qSeif (i / 8) (i % 8)) 2 true false true c.seifWords 12) s

/-- R502: the address of a register that an image sets, for one instance. -/
def imageReg (id u : Nat) : Nat :=
  if id = 1 then Reg.STRM_RESP_TIMEOUT u else if id = 2 then Reg.SEIF_CTL u else if id = 3 then Reg.SEIF_HB u
  else if id = 4 then Reg.SEIF_VL_CREDITS u else if id = 5 then Reg.ERG_OP_TIMEOUT u else Reg.WIN_CLOSE_TIMEOUT

/-- R502: one entry of the REGISTERS section applied under the register's own rules. -/
def State.imageEntry (s : State) (e : Nat × Nat × Nat) : State :=
  let us := if e.2.1 = 0xFFFF then List.range (regInstances e.1) else [e.2.1]
  us.foldl (fun s u => s.plainWrite (imageReg e.1 u) 8 e.2.2) s

/-- R138, R366, R494, R502: the registers of S17: those derived from MODULE, then the image's entries in order; every RWL
field locks. -/
def State.startRegs (s : State) : State :=
  let c := s.conf
  let s := allCores.foldl (fun s k => s.putReg (Reg.TILE_WDOG_LIMIT k) (2 * c.maxTileNs)) s
  let s := (List.range 12).foldl (fun s t => s.putReg (Reg.HBM_ARB t) c.ergShare) s
  let s := s.putReg Reg.FLT_CFG (c.minCores * 256 + c.replayLimit)
  let s := c.regs.foldl State.imageEntry s
  s.withStart (fun t => { t with locked := true })

/-- R543: HMD_CFG written at S05. -/
def hmdCfg (c : ModCfg) : Nat := plaloth9.contract * 2 ^ 48 + plaloth9.member * 2 ^ 40 + 0xB0 * 2 ^ 32 + c.moduleId * 2 ^ 16 + c.swarmMode * 2 + c.profile

/-- R399, R505, R506: the configuration of a slot taken into use; it names the module, whose own entry is present. -/
def State.useConfig (s : State) (slot : Nat) (c : ModCfg) : State :=
  let s := { s with cfg := some c }
  let s := s.putReg Reg.HMD_CFG (hmdCfg c)
  let s := s.setFld Reg.START_STATUS Fld.START_STATUS_CFG_SLOT slot
  let s := s.setFld Reg.HMD_PWR_CAP Fld.HMD_PWR_CAP_CAP_CFG c.powerCap
  let s := s.putMember c.moduleId ⟨1, s.hmd.incarnation, 0, 0⟩
  (s.setCap c.powerCap).withKept (fun k => { k with cfgDigest := c.digest.take 8 })

/-- The image of a firmware kind that a method tries (R497). -/
def triedImage (active method : Nat) : Nat := if method = 0 then active else 1 - active
/-- The slot that a method of S05 tries (R505). -/
def State.triedSlot (s : State) (method : Nat) : Nat := if method = 0 then s.primarySlot else 1 - s.primarySlot

/-- What a method finds of the images it verifies: the status recorded when it fails, none when it passes. -/
def State.verifyStep (s : State) (n method : Nat) : Option Nat :=
  let st {α : Type} (v : Verdict α) : Option Nat := match v with
    | .valid _ => none
    | .invalid x => some x
  if n = 3 then st (s.verifyFirmware 0 (triedImage s.start.kept.hmdActive method))
  else if n = 5 then st (s.verifyConfig (s.triedSlot method))
  else if n = 6 then st (s.verifyFirmware 1 (triedImage s.start.kept.mntActive method))
  else none

/-- R506: what beginning a unit does. -/
def State.beginWork (s : State) (n u : Nat) : State :=
  if n = 11 then s.setFld (Reg.HBM_STATUS u) Fld.HBM_STATUS_STATE 1
  else if n = 13 then s.setFld (Reg.ERG_STATUS u) Fld.ERG_STATUS_STATE 1
  else if n = 18 then s.setPortState u psTraining
  else if n = 19 then
    let s := ((List.range 12).filter s.portUp).foldl State.sendHello s
    if s.portsUp > 0 then s.joinSelf else s
  else if n = 20 then
    let s := s.withKept (fun k => { k with lastReady := s.fld Reg.START_STATUS Fld.START_STATUS_START_COUNT })
    let s := s.writeSummary s.start.kept
    if s.erasedAhead 1024 then s
    else
      match s.nextSector with
      | none => s
      | some sec => s.beginErase sec
  else if n = 21 then s.setFld Reg.WADI_LINK Fld.WADI_LINK_STATE 1
  else s

/-- R506: what a unit that passes leaves, by step. `mask` holds the failing cores of a die under the parallel method of S15, or
the lanes of a port that trained. -/
def State.passWork (s : State) (n u method mask : Nat) : State :=
  if n = 3 then
    let img := triedImage s.start.kept.hmdActive method
    (s.setFld Reg.START_STATUS Fld.START_STATUS_HMD_IMAGE img).withStart (fun t => { t with hmdOk := true })
  else if n = 4 then s.withStart (fun t => { t with identity := true })
  else if n = 5 then
    match s.verifyConfig (s.triedSlot method) with
    | .valid c => s.useConfig (s.triedSlot method) c
    | .invalid _ => s
  else if n = 6 then
    let img := triedImage s.start.kept.mntActive method
    (s.setFld Reg.START_STATUS Fld.START_STATUS_MNT_IMAGE img).withStart
      (fun t => { t with mntOk := true, mntDigest := s.imageDigest img mntPart })
  else if n = 8 then
    (s.setFld Reg.HMD_CLK Fld.HMD_CLK_DIE0_MHZ clockTop).setFld Reg.HMD_CLK Fld.HMD_CLK_DIE1_MHZ clockTop
  else if n = 11 then
    (s.setFld (Reg.HBM_STATUS u) Fld.HBM_STATUS_STATE 2).setFld (Reg.HBM_STATUS u) Fld.HBM_STATUS_CONSERVATIVE method
  else if n = 12 then s.wipe (u * 0x1000000000) 0x1000000000
  else if n = 13 then s.setFld (Reg.ERG_STATUS u) Fld.ERG_STATUS_STATE 2
  else if n = 15 then
    if u < 2 then
      let cs := allCores.filter (fun c => dieOf c == u && !s.fenced c)
      (cs.filter (fun c => bitAt mask (c % 144))).foldl State.fenceAtStart (s.initSpads cs)
    else s.initSpads [recUnit u]
  else if n = 16 then
    (allCores.filter (fun c => bitAt s.start.kept.fenced c)).foldl State.setFence { s with params := some plaloth9 }
  else if n = 17 then s.startQueues.startRegs
  else if n = 18 then s.trainUp u mask false
  else if n = 20 then s.endErase
  else if n = 21 then (s.setFld Reg.WADI_LINK Fld.WADI_LINK_STATE 2).setFld Reg.WADI_LINK Fld.WADI_LINK_EXT_EQ method
  else if n = 23 then { s with power := .ready }
  else if n = 24 then s.setFld Reg.START_STATUS Fld.START_STATUS_READY 1
  else s

/-- R506, R515: an alternate that passed after a failure is kept where the table says so. -/
def State.keepWork (s : State) (n u method : Nat) : State :=
  if method > 0 then s.withKept (fun k => k.keepAlternate n u) else s

/-! Advance. -/

/-- R515: the units of a step that the ledger excludes, with what that costs: one ENDED record of outcome 2 each. -/
def State.exclude (s : State) (n u : Nat) : State :=
  let s := s.logStart ltEnded n u 0 2 []
  let s := s.withStart (fun t => { t with finished := u :: t.finished })
  if n = 9 then s.fenceMantis u
  else if n = 13 then s.failErg u 0
  else if n = 15 then s.setFence (recUnit u)
  else s

/-- The units of a step that are excluded when it begins. -/
def State.excluded (s : State) (n : Nat) : List Nat :=
  if n = 9 then (List.range 16).filter (fun m => bitAt s.start.kept.mantisExcl m)
  else if n = 13 then (List.range 12).filter (fun t => bitAt s.start.kept.ergExcl t)
  else if n = 15 then (allCores.filter (fun c => bitAt s.start.kept.fenced c)).map isoCore
  else if n = 18 then s.cabledPorts.filter (fun p => bitsOf s.start.kept.ports (2 * p + 1) (2 * p) == 2)
  else []

/-- R509: a die has no unfenced Mantis core. -/
def State.noMantis (s : State) : Bool := (s.liveMantis 0).isEmpty || (s.liveMantis 1).isEmpty

/-- A step becomes the running one: STEP and METHOD show it, and its excluded units are recorded. -/
def State.openStep (s : State) (n : Nat) : State :=
  let s := s.setFld Reg.START_STATUS Fld.START_STATUS_STEP n
  let s := s.setFld Reg.START_STATUS Fld.START_STATUS_METHOD 0
  let s := s.withStart (fun t => { t with running := [], finished := [] })
  let s := (s.excluded n).foldl (fun s u => s.exclude n u) s
  if n = 9 ∧ s.noMantis then s.enterHold 1 9 0x1FF
  else if n = 15 ∧ s.dieShort then s.enterHold 1 15 0x1FF
  else s

/-- Every unit of the running step has ended. -/
def State.stepOver (s : State) (n : Nat) : Bool := (s.stepUnits n).all (fun u => s.start.finished.contains u)

/-- The sequence goes on to step `n`, past steps that have no unit to run. -/
def State.enterStep : Nat → State → Nat → State
  | 0, s, _ => s
  | fuel + 1, s, n =>
    if n > 24 then s
    else
      let s := s.openStep n
      if s.power ≠ .starting then s
      else if s.stepOver n then enterStep fuel s (n + 1) else s

/-- The running step is over (R506, R519, R520): a restart takes effect, or the next step begins. In the hold state only S21
and S22 run. -/
def State.nextStep (s : State) : State :=
  let n := s.stepNo
  if s.start.restart then s.restartNow
  else if s.power = .hold then (if n = 21 then s.openStep 22 else s)
  else if n ≥ 24 then s
  else if n = 23 then s.openStep 24
  else s.enterStep 25 (n + 1)

/-- A unit has ended; when it was the last, its step is over. -/
def State.endUnit (s : State) (n u : Nat) : State :=
  let s := s.withStart (fun t => { t with
    running := t.running.filter (fun r => r.1 != u)
    finished := u :: t.finished })
  if s.stepOver n then s.nextStep else s

/-- R507: BEGUN is written, except in S01 and S02, and the unit runs by a method. -/
def State.beginUnit (s : State) (n u method : Nat) : State :=
  let s := if n ≤ 2 then s else s.logStart ltBegun n u method 0 []
  let s := s.setFld Reg.START_STATUS Fld.START_STATUS_METHOD method
  let s := s.withStart (fun t => { t with running := t.running.filter (fun r => r.1 != u) ++ [(u, method)] })
  s.beginWork n u

/-- R509: the consequence of a unit whose methods are exhausted. -/
def State.exhaust (s : State) (n u : Nat) : State :=
  if n = 9 then
    let s := s.fenceMantis u
    if s.noMantis then s.enterHold 1 9 u else s.endUnit n u
  else if n = 13 then (s.failErg u 0).endUnit n u
  else if n = 15 then
    let s := s.fenceAtStart (recUnit u)
    if s.dieShort then s.enterHold 1 15 (recUnit u) else s.endUnit n u
  else if n = 18 then (s.setPortState u psDown).endUnit n u
  else if stepOptional n ∨ stepAlways n then s.endUnit n u
  else if n = 2 then ({ s with start := { s.start with devs := 0 } }).enterHold 3 2 0x1FF
  else s.enterHold 1 n u

/-- R508: a unit fails by the method it runs: its ENDED record, and its next method at once, or the consequence of R509. A die
whose parallel test fails goes over to the isolated method, core by core. -/
def State.failUnit (s : State) (n u method : Nat) (status : List Byte) : State :=
  let s := if n ≤ 2 then s else s.logStart ltEnded n u method 1 status
  if method + 1 < numMethods n then
    if n = 15 then
      let s := s.withStart (fun t => { t with
        running := t.running.filter (fun r => r.1 != u)
        s15iso := t.s15iso ||| 2 ^ u })
      if s.stepOver n then s.nextStep else s
    else s.beginUnit n u (method + 1)
  else s.exhaust n u

/-- R512 to R517: S02 has read the ledger. -/
def State.takeLedger (s : State) (devs method rnd : Nat) : State :=
  let r := s.recover devs
  let count := r.count % 2 ^ 24
  let torn := ((s.ledger0 ++ s.ledger1).filter (fun x => x.2 == Slot.torn)).length
  let s := s.withStart (fun t => { t with
    kept := r.kept, s05other := r.s05other, s15iso := r.s15iso, devs := devs, summaryAt := r.summaryAt })
  let s := { s with hmd := { s.hmd with incarnation := count * 2 ^ 40 + rnd % 2 ^ 40 } }
  let s := s.setFld Reg.START_STATUS Fld.START_STATUS_START_COUNT count
  let s := s.setFld Reg.LEDGER_STATUS Fld.LEDGER_STATUS_LOOP (min r.loop 255)
  let s := s.setFld Reg.LEDGER_STATUS Fld.LEDGER_STATUS_HEAD_SEQ r.headSeq
  let s := s.setFld Reg.LEDGER_STATUS Fld.LEDGER_STATUS_HEAD_SLOT r.headSlot
  let s := s.setFld Reg.LEDGER_STATUS Fld.LEDGER_STATUS_TORN (min torn 255)
  let s := match ((s.records devs).filter (fun p => p.2.type == ltErase)).getLast? with
    | none => s
    | some (_, e) =>
      let sec := fieldLE e.detail 0 1
      if (s.records devs).any (fun p => p.1 / 1024 == sec && p.2.seq > e.seq) then s else s.eraseSector sec
  let s := s.logStart ltEnded 1 wholeStep 0 0 []
  let s := s.logStart ltEnded 2 wholeStep method 0 []
  if r.loop ≥ 8 then s.enterHold 2 2 0x1FF
  else
    match r.holdStep with
    | some (n, u) => s.enterHold 1 n u
    | none => s.endUnit 2 wholeStep

/-- The devices that a method of S02 reads (R506): both, device 1 alone, device 0 alone. -/
def s02Devices (method : Nat) : Nat := if method = 0 then 3 else if method = 1 then 2 else 1

/-- R507: a unit's method has passed: what it leaves, its ENDED record, and the advance. -/
def State.passUnit (s : State) (n u method mask : Nat) : State :=
  let s := (s.passWork n u method mask).keepWork n u method
  let detail := leBytes 2 stOk ++ (if n = 15 ∧ u < 2 then leBytes 18 mask else [])
  let s := s.logStart ltEnded n u method 0 detail
  if n = 15 ∧ s.dieShort then s.enterHold 1 15 u else s.endUnit n u

/-- A status that the manual does not give: two free bytes. -/
def freeStatus (free : Nat) : List Byte := [Config.freeByte free, Config.freeByte (free + 1)]

/-- R507, R508: the method that a unit runs ends. -/
def State.closeUnit (s : State) (n u method : Nat) (pass : Bool) (mask rnd : Nat) : State :=
  if n = 22 ∧ s.hmd.sessOpen = false then s
  else if n = 1 then s.endUnit 1 u
  else if n = 2 then (if pass then s.takeLedger (s02Devices method) method rnd else s.failUnit 2 u method [])
  else
    match s.verifyStep n method with
    | some st => s.failUnit n u method (leBytes 2 st)
    | none =>
      if stepAlways n ∨ (pass ∧ (n = 18 → (laneChoice mask).isSome ∧ (method = 0 → mask % 256 = 0xFF))) then
        s.passUnit n u method mask
      else { s with free := s.free + 2 }.failUnit n u method (freeStatus s.free)

/-- R506: under the isolated method of S15 the cores run one at a time, in ascending core ID. -/
def State.mayBegin (s : State) (n u : Nat) : Bool :=
  if n = 15 && u ≥ 2 then
    !s.start.running.any (fun r => r.1 ≥ 2) &&
      (s.stepUnits 15).all (fun v => v < 2 || v ≥ u || s.start.finished.contains v)
  else true

/-- The start sequence runs: the start itself, S24 once the power state is Ready, or S21 and S22 in the hold state. -/
def State.sequencing (s : State) : Bool :=
  s.power == .starting || (s.power == .ready && s.stepNo == 24) ||
    (s.power == .hold && !s.hmd.withdrawn && (s.stepNo == 21 || s.stepNo == 22))

/-- R507: START_STEP: a unit of the running step begins, or the method that it runs ends with its outcome. -/
def execStartStep (unit : Nat) (pass : Bool) (mask rnd : Nat) (s : State) : Res :=
  let n := s.stepNo
  .next (if s.sequencing ∧ (s.stepUnits n).contains unit ∧ s.start.finished.contains unit = false then
      match s.start.running.find? (fun r => r.1 == unit) with
      | some (_, m) => (s.closeUnit n unit m pass mask rnd).settleFlash
      | none => if s.mayBegin n unit then s.beginUnit n unit (s.firstMethod n unit) else s
    else s)

/-- R506: the steps that have a limit. -/
def hasLimit (n : Nat) : Bool := n != 1 && n != 22 && n != 24

/-- R508: START_STEP_LIMIT: a running unit reaches its limit and fails. The status that its ENDED record holds is not in the
manual. -/
def execStartStepLimit (unit : Nat) (s : State) : Res :=
  let n := s.stepNo
  .next (if s.sequencing ∧ hasLimit n then
      match s.start.running.find? (fun r => r.1 == unit) with
      | some (_, m) => ({ s with free := s.free + 2 }.failUnit n unit m (freeStatus s.free)).settleFlash
      | none => s
    else s)

end Sys2Proof.Machine
end

