-- ==== Sys2Proof/Machine/Admit.lean ====
section
/-!
DEFINITION. Submissions (R556 to R560) and the admission of task groups (R190, R196, R234, R299, R318, R319, R331, R415, R418, R429,
R467, R558, R603): the descriptor read and checked, what an admission needs, the group created, and the steps and ends of groups
handed on to their tasks.
-/
namespace Sys2Proof.Machine

/-! The task group descriptor (R558). -/

/-- A task entry (part 1). -/
structure TaskEnt where
  tag       : Nat
  cls       : Nat
  weight    : Nat
  maxCores  : Nat
  urgCores  : Nat
  split     : Nat
  compWords : Nat
  tokWords  : Nat
  stagWords : Nat
deriving DecidableEq, Repr

/-- A multicast group of the descriptor (part 7). -/
structure McastEnt where
  unitLog2 : Nat
  lag      : Nat
  retain   : Nat
  detach   : Nat
  rcvs     : List (Nat × Nat)
deriving DecidableEq, Repr

/-- A descriptor as read. A handle is its multicast flag, module or group, entry and generation. -/
structure GroupDesc where
  addr      : Nat
  tag       : Nat
  footprint : Nat
  tasks     : List TaskEnt
  maps      : List (Nat × Nat)
  residents : List Resident
  borrow    : List (Nat × Nat × Nat × Nat)
  handles   : List (Bool × Nat × Nat × Nat)
  windows   : List WinReq
  mcasts    : List McastEnt
  shadow    : Option (Nat × Nat × Nat)
deriving DecidableEq, Repr

/-- Refused with CAPACITY_EXCEEDED at a byte offset of an item. -/
def needCapacity (item off : Nat) (ok : Bool) : Chk Unit := if ok then .ok () else .error (.refuse stCapacity item none32 none32 off)

/-- Refused with FORMAT as an entry of the descriptor. -/
def needEntry (item row : Nat) (ok : Bool) : Chk Unit := if ok then .ok () else .error (.refuse stFormat item row none32 none64)

/-- The entries of a part, of `size` bytes each, with their addresses. -/
def State.partEntries (s : State) (parts : List (Nat × Nat × Nat)) (kind size : Nat) : Chk (List (Nat × List Byte)) :=
  match parts.find? (fun p => p.1 == kind) with
  | none => .ok []
  | some (_, n, a) => mapChk (List.range n) (fun i => (s.fetch [(a + size * i, size)]).map (fun b => (a + size * i, b)))

/-- R190, R299, R318: a task entry. -/
def parseTask (a : Nat) (b : List Byte) : Chk TaskEnt := do
  let f (o n : Nat) : Nat := fieldLE b o n
  let words (o lo hi : Nat) : Chk Unit := needCapacity a o (lo ≤ f o 4 && f o 4 ≤ hi)
  needField a 8 (f 8 1 ≤ 3)
  needField a 9 (1 ≤ f 9 1)
  needField a 10 (1 ≤ f 10 2 && f 10 2 ≤ 288)
  needField a 12 (f 8 1 != 0 || (1 ≤ f 12 1 && f 12 1 ≤ 64))
  needField a 13 (f 13 1 ≤ 7)
  needField a 14 (zeroAt b 14 2)
  needField a 28 (zeroAt b 28 36)
  words 16 256 65536
  words 20 256 65536
  words 24 256 2048
  pure ⟨f 0 8, f 8 1, f 9 1, f 10 2, f 12 1, f 13 1, f 16 4, f 20 4, f 24 4⟩

/-- R234: an entry of the translation map. -/
def parseMap (a : Nat) (b : List Byte) : Chk (Nat × Nat) := do
  let e := fieldLE b 8 8
  needField a 8 (bitsOf e 63 48 == 0 && bitsOf e 20 3 == 0)
  pure (fieldLE b 0 8, e)

/-- R196: a resident region. -/
def parseResident (a : Nat) (b : List Byte) : Chk Resident := do
  let f (o n : Nat) : Nat := fieldLE b o n
  needField a 0 (f 0 2 < 288)
  needField a 2 (f 2 1 < 2)
  needField a 3 (zeroAt b 3 1)
  needField a 4 (f 4 2 < 4096)
  needField a 6 (1 ≤ f 6 2 && f 4 2 + f 6 2 ≤ 4096)
  needField a 8 (f 8 8 % 128 == 0 && f 8 8 + 128 * f 6 2 ≤ hbmSize)
  pure ⟨f 0 2, f 2 1, f 4 2, f 6 2, f 8 8⟩

/-- R331: a borrow entry. -/
def parseBorrow (a : Nat) (b : List Byte) : Chk (Nat × Nat × Nat × Nat) := do
  needField a 0 (fieldLE b 0 2 < 16384)
  needField a 2 (fieldLE b 2 2 < 4096)
  needField a 6 (zeroAt b 6 2)
  pure (fieldLE b 0 2, fieldLE b 2 2, fieldLE b 4 2, fieldLE b 8 8)

/-- R418: a handle; the number of a multicast group is its place in part 7 (DEDUCED: log 40). -/
def parseHandle (mcasts a : Nat) (b : List Byte) : Chk (Bool × Nat × Nat × Nat) := do
  let flags := fieldLE b 6 2
  let m := flags == 1
  needField a 6 (flags ≤ 1)
  needField a 0 (fieldLE b 0 2 < (if m then mcasts else 16384))
  needField a 2 (fieldLE b 2 2 < 4096)
  pure (m, fieldLE b 0 2, fieldLE b 2 2, fieldLE b 4 2)

/-- R415, R416: a window opening. -/
def parseWindow (a : Nat) (b : List Byte) : Chk WinReq := do
  let f (o n : Nat) : Nat := fieldLE b o n
  needField a 17 (f 17 1 < 8)
  needField a 19 (zeroAt b 19 1)
  needField a 20 (f 20 2 < 16384)
  needField a 22 (f 22 2 < 16384)
  needField a 30 (zeroAt b 30 2)
  pure ⟨f 0 8, f 8 8, f 16 1, f 17 1, f 18 1, f 20 2, f 22 2, f 24 4, f 28 2⟩

/-- R429: the multicast groups of part 7, whose length depends on their receivers. -/
def State.parseMcasts (s : State) : Nat → Nat → Chk (List McastEnt)
  | 0, _ => .ok []
  | n + 1, a => do
    let b ← s.fetch [(a, 16)]
    let f (o n : Nat) : Nat := fieldLE b o n
    needField a 0 (12 ≤ f 0 1 && f 0 1 ≤ 16)
    needField a 1 (1 ≤ f 1 1 && f 1 1 ≤ 64)
    needField a 2 (zeroAt b 2 2)
    needField a 4 (1 ≤ f 4 2)
    needField a 6 (f 4 2 + 1 ≤ f 6 2)
    needField a 8 (1 ≤ f 8 2)
    needField a 10 (zeroAt b 10 6)
    let r ← s.fetch [(a + 16, 4 * f 1 1)]
    let rcvs := (List.range (f 1 1)).map (fun i => (fieldLE r (4 * i) 2, fieldLE r (4 * i + 2) 2))
    needField a 16 (rcvs.all (fun x => x.1 < 16384 && x.2 < 4096))
    let rest ← s.parseMcasts n (a + 16 + 4 * f 1 1)
    pure (⟨f 0 1, f 4 2, f 6 2, f 8 2, rcvs⟩ :: rest)

/-- R467: the shadow entry. -/
def parseShadow (a : Nat) (b : List Byte) : Chk (Nat × Nat × Nat) := do
  needField a 0 (fieldLE b 0 2 < 16384)
  needField a 2 (fieldLE b 2 2 ≤ 4096)
  needField a 4 (zeroAt b 4 4)
  pure (fieldLE b 0 2, fieldLE b 2 2, fieldLE b 8 8)

/-- The records of the parts: kind, count and address. -/
def State.groupParts (s : State) (pa n : Nat) : Chk (List (Nat × Nat × Nat)) := do
  let l ← mapChk (List.range n) (fun i => do
    let b ← s.fetch [(pa + 32 + 16 * i, 16)]
    needField pa (32 + 16 * i) (1 ≤ fieldLE b 0 2 && fieldLE b 0 2 ≤ 8)
    needField pa (34 + 16 * i) (zeroAt b 2 2)
    pure (fieldLE b 0 2, fieldLE b 4 4, fieldLE b 8 8))
  let kinds := l.map (·.1)
  needEntry pa none32 (distinct kinds == kinds && kinds.contains 1)
  pure l

/-- R603: a breach in an entry of a part, as a breach of the descriptor at the entry's byte offset from it. -/
def Stop.within (pa : Nat) : Stop → Stop
  | .refuse st item row pos off =>
    .refuse st pa row pos (if off = none64 then none64 else (item + off + 2 ^ 64 - pa) % 2 ^ 64)
  | e => e

/-- R558: a descriptor read at its module physical address; the first breach decides. -/
def State.readParts (s : State) (pa len tag : Nat) : Chk GroupDesc := do
  let h ← s.fetch [(pa, 32)]
  let n := fieldLE h 2 2
  needField pa 0 (fieldLE h 0 2 == 1)
  needField pa 2 (1 ≤ n && n ≤ 8)
  needField pa 4 (zeroAt h 4 4)
  needField pa 8 (fieldLE h 8 8 == tag)
  needField pa 24 (zeroAt h 24 8)
  needEntry pa none32 (32 + 16 * n ≤ len)
  let ps ← s.groupParts pa n
  let count (k : Nat) : Nat := ((ps.find? (fun p => p.1 == k)).map (·.2.1)).getD 0
  needEntry pa none32 (1 ≤ count 1 && count 1 ≤ 16 && count 5 ≤ 4096 && count 8 ≤ 1)
  let entries {α : Type} (k size : Nat) (f : Nat → List Byte → Chk α) : Chk (List α) := do
    let l ← s.partEntries ps k size
    mapChk l (fun e => f e.1 e.2)
  let tasks ← entries 1 64 parseTask
  let maps ← entries 2 16 parseMap
  let residents ← entries 3 16 parseResident
  let borrow ← entries 4 16 parseBorrow
  let handles ← entries 5 8 (parseHandle (count 7))
  let windows ← entries 6 32 parseWindow
  let mcasts ← match ps.find? (fun p => p.1 == 7) with
    | none => Except.ok []
    | some (_, n, a) => s.parseMcasts n a
  let shadow ← entries 8 16 parseShadow
  pure ⟨pa, tag, fieldLE h 16 8, tasks, maps, residents, borrow, handles, windows, mcasts, shadow.head?⟩

/-- R558, R603: a descriptor read, or its first breach. -/
def State.readGroup (s : State) (pa len tag : Nat) : Chk GroupDesc := (s.readParts pa len tag).mapError (Stop.within pa)

/-! What an admission is refused for. -/

/-- R558: the tags of a new group name no admitted group and no task of one, nor one task twice (DEDUCED: log 40). -/
def State.tagsFree (s : State) (d : GroupDesc) : Bool :=
  let tags := d.tasks.map (·.tag)
  !s.groups.any (fun g => g.2.live && g.2.tag == d.tag) && distinct tags == tags &&
    !(List.range 16).any (fun x => (s.ctx x).live && tags.contains (s.ctx x).task)

/-- Two runs of rows overlap. -/
def rowsOverlap (a b : Resident) : Bool := a.base < b.base + b.rows && b.base < a.base + a.rows

/-- A resident region as the registers of a core show it. -/
def State.regionAt (s : State) (c n : Nat) : Option Resident :=
  let r := s.reg (Reg.SPAD_RES c n)
  if bitAt r 40 then some ⟨c, n, bitsOf r 11 0, bitsOf r 24 12, 0⟩ else none

/-- R196: the largest split of the tasks that cores may come to serve: those of the new group and those of admitted groups. -/
def State.maxSplit (s : State) (d : GroupDesc) : Nat :=
  maxOf (d.tasks.map (·.split) ++ ((List.range 16).filter (fun x => (s.ctx x).live)).map (fun x => (s.ctx x).split))

/-- R196: the splits of a new group reach no resident region of another. -/
def State.splitsFit (s : State) (d : GroupDesc) : Bool :=
  let split := maxOf (d.tasks.map (·.split))
  allCores.all (fun c => [0, 1].all (fun n => (s.regionAt c n).all (fun r => r.base + r.rows ≤ 4096 - 512 * split)))

/-- R196: a resident region overlaps neither the other region of its core nor a cache row of the split of any task. -/
def State.residentFits (s : State) (d : GroupDesc) (r : Resident) : Bool :=
  let split := s.maxSplit d
  let mine := d.residents.find? (fun q => q.core == r.core && q.region == 1 - r.region)
  let other := match mine with
    | some q => some q
    | none => s.regionAt r.core (1 - r.region)
  r.base + r.rows ≤ 4096 - 512 * split && !other.any (rowsOverlap r)

/-- R331: the bytes of HBM that no admitted group's footprint takes. -/
def State.hbmFree (s : State) : Nat := hbmSize - ((s.groups.filter (fun g => g.2.live)).map (fun g => g.2.footprint)).sum

/-- R196, R318, R331, R558: what refuses a group before anything of it is created. -/
def State.checkGroup (s : State) (d : GroupDesc) (lent : Bool) : Chk Unit := do
  needEntry d.addr none32 (s.tagsFree d)
  needEntry d.addr none32 (distinct (d.residents.map (fun r => (r.core, r.region))) == d.residents.map (fun r => (r.core, r.region)))
  needCapacity d.addr none64 (d.residents.all (s.residentFits d) && s.splitsFit d)
  needCapacity d.addr 16 (d.footprint ≤ s.hbmFree)
  needCapacity d.addr none64 (d.borrow.isEmpty || (lent && (d.borrow.map (·.2.2.2)).sum ≤ d.footprint / 8))

/-! What an admission waits for (R319, R540). -/

/-- A context number that a new task may take: its completion queue and its token stream have been sent on. -/
def State.ctxFree (s : State) (x : Nat) : Bool :=
  let empty (q : Nat) : Bool :=
    let k := s.queue q
    k.words.isEmpty && k.opened.isEmpty && k.backlog.isEmpty && k.inbox.isEmpty
  !(s.ctx x).live && empty (qCompletion x) && empty (qToken x)

/-- A place in the model's table of groups that nothing of an earlier group holds. -/
def State.groupFree (s : State) (gi : Nat) : Bool :=
  let g := s.group gi
  !g.live && (g.owner == 0 || s.hmd.scrub.isEmpty) && g.windows.all (fun e => s.winState e == wsClosed || (s.win e).group != some gi) &&
    !s.handles.any (fun h => h.1 / 4096 == gi)

/-- Two runs of bytes overlap. -/
def rangesMeet (a b : Nat × Nat) : Bool := a.1 < b.1 + b.2 && b.1 < a.1 + a.2

/-- The pages of a translation map. -/
def pagesOf (maps : List (Nat × Nat)) : List (Nat × Nat) := maps.map (fun m => (bitsOf m.2 47 21 * 0x200000, 0x200000))

/-- The level-1 entries that a translation map uses (R234). -/
def level1Of (maps : List (Nat × Nat)) : List Nat := distinct (maps.map (fun m => bitsOf m.1 47 34))

/-- R239: the tables of an admitted group. -/
def State.tablesOf (s : State) (g : Group) : List (Nat × Nat) :=
  (g.root, 0x20000) :: (level1Of g.maps).map (fun i => (bitsOf (s.num (g.root + 8 * i) 8) 47 16 * 0x10000, 0x10000))

/-- R234, R239, R540: the places given for a group's tables are aligned HBM that no task's tables map, that holds no other tables
and no other byte of them, and that is not being scrubbed; and the group's own pages hold no tables. -/
def State.placeGood (s : State) (d : GroupDesc) (place : List Nat) : Bool :=
  let live := (s.groups.map (·.2)).filter (·.live)
  let mine := place.mapIdx (fun i a => (a, if i = 0 then 0x20000 else 0x10000))
  let tables := live.flatMap s.tablesOf
  let taken := pagesOf d.maps ++ live.flatMap (fun g => pagesOf g.maps) ++ tables ++ s.hmd.scrub
  place.length == (level1Of d.maps).length + 1 &&
    mine.all (fun r => r.1 % r.2 == 0 && r.1 + r.2 ≤ hbmSize && !taken.any (rangesMeet r)) &&
    (List.range mine.length).all (fun i => (mine.drop (i + 1)).all (fun r => !rangesMeet (nth (0, 0) mine i) r)) &&
    (pagesOf d.maps).all (fun p => !tables.any (rangesMeet p))

/-- R319, R540: a submission is held while contexts, bytes or places are missing. -/
def State.holds (s : State) (d : GroupDesc) (place : List Nat) : Bool :=
  let scrub := (s.hmd.scrub.map (·.2)).sum
  ((List.range 16).filter s.ctxFree).length < d.tasks.length || d.footprint + scrub > s.hbmFree ||
    (pagesOf d.maps).any (fun p => s.hmd.scrub.any (rangesMeet p)) || !s.placeGood d place ||
    (lowest 256 s.groupFree).isNone

/-! The group created. -/

/-- R234: the tables of a translation map written at their places. -/
def State.writeTables (s : State) (maps : List (Nat × Nat)) (place : List Nat) : State :=
  let root := nth 0 place 0
  let is := level1Of maps
  let l2 (i : Nat) : Nat := nth 0 place (is.idxOf i + 1)
  let s := s.wipe root 0x20000
  let s := (place.drop 1).foldl (fun s a => s.wipe a 0x10000) s
  let s := is.foldl (fun s i => s.store (root + 8 * i) (leBytes 8 (l2 i + 1))) s
  maps.foldl (fun s m => s.store (l2 (bitsOf m.1 47 34) + 8 * bitsOf m.1 33 21) (leBytes 8 m.2)) s

/-- R196: an owner number from 1 to 65,535 that no group of the model's table has. -/
def State.nextOwner (s : State) : Nat :=
  let n (i : Nat) : Nat := (s.owners + i) % 65535 + 1
  n ((lowest 300 (fun i => !s.groups.any (fun g => g.2.owner == n i))).getD 0)

/-- The module IDs that a descriptor names, and the module itself: the modules of the task group (R415). -/
def State.descPeers (s : State) (d : GroupDesc) : List Nat :=
  distinct (s.ownId :: (d.handles.filter (fun h => !h.1)).map (·.2.1) ++ d.mcasts.flatMap (fun m => m.rcvs.map (·.1)) ++
    d.borrow.map (·.1) ++ (d.shadow.map (·.1)).toList)

/-- R196, R200: a resident region given to a group; a region of another group is zeroed first. -/
def State.giveRegion (s : State) (owner : Nat) (r : Resident) : State :=
  let s := if (s.regionAt r.core r.region).isSome then
      (s.groups.map (·.1)).foldl (fun s g =>
        let k := s.group g
        s.putGroup g { k with residents := k.residents.filter (fun q => !(q.core == r.core && q.region == r.region)) })
        (s.dropRegion r.core r.region)
    else s
  let a := Reg.SPAD_RES r.core r.region
  let s := s.setFld a Fld.SPAD_RESn_BASE_ROW r.base
  let s := s.setFld a Fld.SPAD_RESn_ROWS r.rows
  let s := s.setFld a Fld.SPAD_RESn_VALID 1
  let s := s.setFld a Fld.SPAD_RESn_LOADED 0
  let s := s.setFld a Fld.SPAD_RESn_OWNER owner
  s.setFld (Reg.SPAD_RES_SRC r.core r.region) Fld.SPAD_RESn_SRC_SRC (r.src / 128)

/-- R299, R318, R334: a task resident in a context, with its queues. Entries of the context that a core's TLB holds are
invalid (R237). -/
def State.giveContext (s : State) (gi x : Nat) (t : TaskEnt) : State :=
  let old := s.ctx x
  let s := s.putCtx x { Ctx.idle with
    live := true, group := gi, task := t.tag, cls := t.cls, weight := t.weight, maxCores := t.maxCores, urgCores := t.urgCores
    split := t.split, gen := old.gen, slots := old.slots, staging := t.stagWords }
  let s := [0, 1].foldl (fun s d => (s.setFld (Reg.TILECTR_CFG d x) Fld.TILECTR_CFG_ENABLE 1).setFld (Reg.TILECTR_CFG d x)
    Fld.TILECTR_CFG_CLASS t.cls) s
  let s := s.placeQueue (qCompletion x) 2 true true true t.compWords 10
  let s := s.placeQueue (qToken x) 0 true false true t.tokWords 10
  let s := (allCores.filter (fun c => (s.core c).tlb.any (fun f => f.ctx == x))).foldl (fun s c =>
    s.putCore c { s.core c with tlb := (s.core c).tlb.filter (fun f => f.ctx != x) }) s
  s.putTask ⟨t.tag, noStep, 0, 0, false⟩

/-- R429, R431: a multicast group created, and the slots of each receiver's window asked for. -/
def State.createMcast (s : State) (gi g : Nat) (m : McastEnt) : State :=
  let a := Reg.MCAST_CFG g
  let s := s.setFld a Fld.MCAST_CFG_ENABLE 1
  let s := s.setFld a Fld.MCAST_CFG_RECEIVERS m.rcvs.length
  let s := s.setFld a Fld.MCAST_CFG_UNIT_LOG2 m.unitLog2
  let s := s.setFld a Fld.MCAST_CFG_RETAIN m.retain
  let s := s.setFld a Fld.MCAST_CFG_LAG_LIMIT m.lag
  let s := s.setFld a Fld.MCAST_CFG_DETACH_US m.detach
  let s := s.putMcast g { Mcast.idle with
    group := gi, rcvs := m.rcvs.map (fun r => (⟨r.1, r.2, 0, 0, 0, 0, [], 0, false, 0, false, false⟩ : McastRcv)) }
  m.rcvs.foldl (fun s r => s.sendMsg r.1 3 (s.keyLane gi 4) (msgCreditRequest r.2 0 (2 ^ 24 - 1))) s

/-- The multicast groups that stand free (R429): none whose last task group's units are still on their way. -/
def State.mcastsFree (s : State) : List Nat :=
  (List.range 64).filter (fun g => s.fld (Reg.MCAST_CFG g) Fld.MCAST_CFG_ENABLE == 0 &&
    (s.mcast g).rcvs.all (fun r => r.removed || r.flying == 0))

/-- R467: the shadow of a descriptor: with HANDLE zero this module keeps the record for the module named, with CURRENT and
VERSION as the record holds them, in a layout that the manual does not give; otherwise the module named is this one's partner
(DEDUCED: log 40). -/
def State.giveShadow (s : State) (gi : Nat) : Option (Nat × Nat × Nat) → State
  | none => s
  | some (id, h, rec_) =>
    if h = 0 then
      let r : Shadow := ⟨id, 0, gi, rec_, if Config.freeBit s.free then 1 else 0, Config.random s.free 64⟩
      { s with shadowOf := s.shadowOf ++ [(id, r)], free := s.free + 1 }
    else s.putGroup gi { s.group gi with shadow := some ⟨id, h, gi, rec_, 0, 0⟩ }

/-- R416: the windows of the descriptor opened in order; the first refusal refuses the group. -/
def State.openAll (s : State) (root gi : Nat) : List WinReq → Except Nat State
  | [] => .ok s
  | r :: l =>
    match s.openWindow root (some gi) r with
    | .error st => .error st
    | .ok (t, _) => t.openAll root gi l

/-- R429, R558: a group created: its tables, windows, handles, multicast groups, resident regions, shadow and contexts; with the mask
of its contexts. A multicast receiver whose window has another unit refuses it with FORMAT. -/
def State.createGroup (s : State) (d : GroupDesc) (place : List Nat) (units : Bool) (gi : Nat) : Except Nat (State × Nat) :=
  let owner := s.nextOwner
  let root := nth 0 place 0
  let ctxs := ((List.range 16).filter s.ctxFree).take d.tasks.length
  let free := s.mcastsFree
  if free.length < d.mcasts.length then .error stCapacity
  else if !units && !d.mcasts.isEmpty then .error stFormat
  else
    let ms := free.take d.mcasts.length
    let s := s.writeTables d.maps place
    let s := { s with owners := owner }.putGroup gi { Group.none with
      live := true, tag := d.tag, owner := owner, footprint := d.footprint, maps := d.maps, root := root, residents := d.residents
      peers := s.descPeers d, borrow := d.borrow, handles := d.handles.length, mcasts := ms }
    match s.openAll root gi d.windows with
    | .error st => .error st
    | .ok s =>
      let s := (d.handles.mapIdx (fun i h => (i, h))).foldl (fun s p =>
        let h := p.2
        s.putHandle (gi * 4096 + p.1) { Handle.none with
          live := true, mcast := h.1, module_ := if h.1 then nth 0 ms h.2.1 else h.2.1, entry := h.2.2.1, gen := h.2.2.2 }) s
      let s := d.residents.foldl (fun s r => s.giveRegion owner r) s
      let s := s.giveShadow gi d.shadow
      let s := (ctxs.zip d.tasks).foldl (fun s p => s.giveContext gi p.1 p.2) s
      let s := (ms.zip d.mcasts).foldl (fun s p => s.createMcast gi p.1 p.2) s
      .ok (s, (ctxs.map (fun x => 2 ^ x)).sum)

/-! Admission (R319, R557, R603). -/

/-- R603: a refused group: its PROGRAM_ERROR event, ADMIT with the status, and its request released. -/
def State.refuseGroup (s : State) (r : Req) (status item row pos detail : Nat) : State :=
  let s := s.raise (programError (islMantis 0) status 0xFF noStep noTile 0 item row pos detail)
  (s.sendAdmit r.reqId (fieldLE r.item 16 8) status 0).doneReqs [r.reqId]

/-- R416: the entries and generations of the windows that a group's descriptor opened, reported to the control node in their order: the
body of a reply to WINDOW_OPEN for each, under the number of the submission, which spends no management credit (DESIGN CHOICE: log
106). -/
def State.sayWindows (s : State) (reqId gi : Nat) : State :=
  (s.group gi).windows.foldl (fun s e =>
    s.sendFrame clMgmt 0x05 4 reqId (mgmtHead stOk 0 0 ++ (leBytes 2 e ++ leBytes 2 (s.winGen e)))) s

/-- The descriptor of a submission, read and judged. -/
def Req.judged (r : Req) (s : State) : Chk GroupDesc :=
  match s.readGroup (fieldLE r.item 0 8) (fieldLE r.item 8 4) (fieldLE r.item 16 8) with
  | .error z => .error z
  | .ok d => (s.checkGroup d r.lent).map (fun _ => d)

/-- A submission admitted or refused; none while it is held. -/
def State.admitOne (s : State) (r : Req) : Option State :=
  let pa := fieldLE r.item 0 8
  let tag := fieldLE r.item 16 8
  let s := s.mend r.judged
  match r.judged s with
  | .error (.refuse st item row pos det) => some (s.refuseGroup r st item row pos det)
  | .error (.xlt _ _ _ _) => some (s.refuseGroup r stAddrProt pa none32 none32 none64)
  | .error (.ue a _) =>
    some (((s.noteUe .mantis a).refuseGroup r stMemUncorrectable pa none32 none32 none64).ueBudgets a)
  | .ok d =>
    if s.holds d r.place then none
    else
      match lowest 256 s.groupFree with
      | none => none
      | some gi =>
        match s.createGroup d r.place r.units gi with
        | .error st => some (s.refuseGroup r st pa none32 none32 none64)
        | .ok (t, mask) => some (((t.sendAdmit r.reqId tag stOk mask).sayWindows r.reqId gi).doneReqs [r.reqId])

/-- R319: held submissions in order, up to the first that must still wait. -/
def State.admitList : List Req → State → State
  | [], s => s
  | r :: l, s =>
    match s.admitOne r with
    | none => s
    | some t => State.admitList l t

/-- R319: the group of a submission has a class-0 task. -/
def State.urgentGroup (s : State) (r : Req) : Bool :=
  match s.readGroup (fieldLE r.item 0 8) (fieldLE r.item 8 4) (fieldLE r.item 16 8) with
  | .ok d => d.tasks.any (fun t => t.cls == 0)
  | .error _ => false

/-- R319: class-0 submissions before any other, each kind in order of arrival. -/
def State.admitAll (s : State) : State :=
  let l := s.wadi.reqs.filter (fun r => r.kind == 1 && !r.done)
  State.admitList (l.filter s.urgentGroup ++ l.filter (fun r => !s.urgentGroup r)) s

/-! Steps and ends of groups in the request queue (R557, R560). -/

/-- R557: a STEP word. -/
def parseStep (reqId : Nat) (urgent : Bool) (b : List Byte) : StepReq :=
  let f (o n : Nat) : Nat := fieldLE b o n
  let byAddr := f 0 1 == 1
  let good := f 0 1 ≤ 1 && zeroAt b 1 7 && zeroAt b 0x30 16 && (if byAddr then zeroAt b 0x18 16 else zeroAt b 0x28 8)
  ⟨reqId, urgent, !good, byAddr, f 8 8, f 0x10 8, f 0x18 4, f 0x1C 4, f 0x20 4, f 0x24 4, f 0x28 8⟩

/-- The resident context of a task. -/
def State.ctxOf (s : State) (task : Nat) : Option Nat := lowest 16 (fun x => (s.ctx x).live && (s.ctx x).task == task)

/-- A request already stands in a context's queue of steps. -/
def State.queuedStep (s : State) (reqId : Nat) : Bool := (List.range 16).any (fun x => (s.ctx x).queue.any (fun q => q.reqId == reqId))

/-- R560: a copy whose task is not of class 0 is discarded. -/
def State.discardCopy (s : State) (r : StepReq) (x : Nat) : State :=
  if r.urgent && (s.ctx x).cls != 0 then s.withWadi (fun w => w.dropUrgent [r.reqId]) else s

/-- R557: END_GROUP: tasks whose step does not run end at once, the others after their running steps commit. -/
def State.endGroupOf (s : State) (gi : Nat) : State :=
  let s := s.putGroup gi { s.group gi with ending := true }
  ((List.range 16).foldl (fun s x =>
    if (s.ctx x).live && (s.ctx x).group == gi && (s.ctx x).run == .idle then s.endTask x stOk 0 else s) s).tryEndGroup gi

/-- A STEP or END_GROUP of the request queue handed on, or released where nothing it names is or will be there: it waits behind a
submission that stands ahead of it (DESIGN CHOICE: log 40). -/
def State.scanOne (s : State) (waits : Bool) (r : Req) : State :=
  if r.kind = 2 then
    let q := parseStep r.reqId ((s.wadi.urgent.map (·.2) ++ s.wadi.urgWait).any (fun u => u.reqId == r.reqId)) r.item
    if s.queuedStep r.reqId then s
    else
      match s.ctxOf q.task with
      | some x => (s.putCtx x { s.ctx x with queue := (s.ctx x).queue ++ [q] }).discardCopy q x
      | none => if waits then s else s.doneReqs [r.reqId]
  else
    match s.groups.find? (fun g => g.2.live && g.2.tag == fieldLE r.item 0 8) with
    | some (gi, _) => (s.endGroupOf gi).doneReqs [r.reqId]
    | none => if waits then s else s.doneReqs [r.reqId]

/-- The requests that are not done, in order; `waits` once a submission has been passed. -/
def State.scanList : Bool → List Req → State → State
  | _, [], s => s
  | waits, r :: l, s => if r.kind = 1 then State.scanList true l s else State.scanList waits l (s.scanOne waits r)

/-- The request queue worked off as far as it goes: submissions while the module is ready and not under its whole test (R330),
then steps and ends. -/
def State.workRequests (s : State) : State :=
  let s := if s.ready && !s.wadi.testing then s.admitAll else s
  State.scanList false (s.wadi.reqs.filter (fun r => !r.done)) s

/-! The commands. -/

/-- R300, R319, R556, R557: SUBMIT_GROUP. -/
def execSubmitGroup (hdr : FrameHdr) (desc len tag : Nat) (place : List Nat) (peers : PeerWins) (s : State) : Res :=
  .next (s.submission hdr tag (fun s =>
    (s.putRequest hdr 1 (leBytes 8 desc ++ leBytes 4 len ++ zeros 4 ++ leBytes 8 tag ++ zeros 8) place peers.lent peers.units).workRequests))

/-- R319: HELD_ADMISSION. -/
def execHeldAdmission (s : State) : Res := .next s.workRequests

/-- R556, R557, R560: STEP: an urgent frame is copied to an urgent slot as well. -/
def execStepWord (hdr : FrameHdr) (word : List Byte) (s : State) : Res :=
  .next (s.submission hdr (fieldLE word 8 8) (fun s =>
    let s := s.putRequest hdr 2 (padTo 64 word) [] false false
    let s := if hdr.urgent then
        s.withWadi (fun w => Wadi.fillUrgent 4 { w with urgWait := w.urgWait ++ [parseStep hdr.reqId true (padTo 64 word)] })
      else s
    s.workRequests))

/-- R556, R557: END_GROUP. -/
def execEndGroup (hdr : FrameHdr) (tag : Nat) (s : State) : Res :=
  .next (s.submission hdr tag (fun s => (s.putRequest hdr 3 (leBytes 8 tag ++ zeros 24) [] false false).workRequests))

end Sys2Proof.Machine
end

