-- ==== Sys2Proof/Machine/Bulk.lean ====
section
/-!
DEFINITION. Bulk transfer (R342, R540, R561, R562) and what the firmware sends of its queues (R479, R490, R567, R568).
-/
namespace Sys2Proof.Machine

/-! Bulk frames. -/

/-- R561: bytes of HBM, or of the lower 6 MiB of one Erg SRAM. -/
def bulkRange (a n : Nat) : Bool := (inHbm a && a + n ≤ hbmSize) || (inTaskSram a && inTaskSram (a + n - 1))

/-- R561: the refusal of a bulk head. An alignment or a length that the rule does not admit is refused with FORMAT, and the hold
state, whose HBM is lost, refuses with START_HOLD (DEDUCED: log 42). -/
def State.bulkRefusal (s : State) (a n : Nat) : Option Nat :=
  if s.power = .hold then some stStartHold
  else if a % 32 ≠ 0 ∨ n % 32 ≠ 0 ∨ n < 32 ∨ n > 8192 then some stFormat
  else if !bulkRange a n then some stAddrProt
  else none

/-- R561: the head of a bulk frame. -/
def bulkHead (a n : Nat) : List Byte := leBytes 8 a ++ leBytes 4 n ++ zeros 4

/-- R561: BULK_ACK. -/
def State.bulkAck (s : State) (reqId a n status : Nat) : State := s.reply clBulk 4 reqId (bulkHead a n ++ leBytes 2 status)

/-- R540, R561: the bytes of a write lie under a scrub. -/
def State.underScrub (s : State) (a n : Nat) : Bool := s.hmd.scrub.any (rangesMeet (a, n))

/-- R561: BULK_WRITE: the bytes land, unless a scrub must end first. -/
def execBulkWrite (hdr : FrameHdr) (addr : Nat) (data : List Byte) (s : State) : Res :=
  .next (s.request hdr true (fun s =>
    match s.bulkRefusal addr data.length with
    | some st => s.bulkAck hdr.reqId addr data.length st
    | none =>
      let waits := s.underScrub addr data.length
      let s := s.withWadi (fun w => { w with bulkWr := w.bulkWr ++ [⟨hdr.reqId, addr, data, !waits⟩] })
      if waits then s else s.store addr data))

/-- R562: BULK_ACK: a write all of whose bytes have landed is acknowledged. -/
def execBulkAck (reqId : Nat) (s : State) : Res :=
  .next (match s.wadi.bulkWr.find? (fun b => b.reqId == reqId && b.landed) with
    | none => s
    | some b =>
      (s.withWadi (fun w => { w with bulkWr := w.bulkWr.filter (fun x => x != b) })).bulkAck reqId b.addr b.data.length stOk)

/-- R342, R561: BULK_READ: BULK_DATA, or BULK_ACK with the status of an uncorrectable error. -/
def execBulkRead (hdr : FrameHdr) (addr len : Nat) (s : State) : Res :=
  .next (s.request hdr true (fun s =>
    match s.bulkRefusal addr len with
    | some st => s.bulkAck hdr.reqId addr len st
    | none =>
      match s.firstUe addr len with
      | some a =>
        ((s.noteUe .bulk a).bulkAck hdr.reqId addr len stMemUncorrectable).ueBudgets a
      | none => (s.correct addr len).reply clBulk 3 hdr.reqId (bulkHead addr len ++ s.bytes addr len)))

/-! Event-class frames. -/

/-- R567: EVENTS. -/
def execEvents (count : Nat) (s : State) : Res := .next (s.sendItems qEvent 1 0xFF count id)

/-- R567: COMPLETIONS. -/
def execCompletions (ctx count : Nat) (s : State) : Res := .next (if ctx < 16 then s.sendItems (qCompletion ctx) 2 ctx count id else s)

/-- R567: TOKENS: each item behind its length. -/
def execTokens (ctx count : Nat) (s : State) : Res :=
  .next (if ctx < 16 then s.sendItems (qToken ctx) 3 ctx count (fun t => leBytes 2 t.length ++ zeros 2 ++ t) else s)

end Sys2Proof.Machine
end

