-- ==== Sys2Proof/Machine/Hamada.lean ====
section
/-!
DEFINITION. Failures that the Hamada answers (R315, R481 to R484) and the end of a scrub (R540, R541).
-/
namespace Sys2Proof.Machine

/-- R484, R529: LOCKSTEP_MISMATCH: cause 3 a mismatch of the two cores, 4 a failure of oscillator or SRAM; both trip the
module. -/
def execLockstepMismatch (cause cyc : Nat) (s : State) : Res :=
  .next (if s.power ≠ .off ∧ (cause = 3 ∨ cause = 4) then s.trip cause 0 cyc else s)

/-- R482: MANTIS_HEARTBEAT: the watch on the core starts again. -/
def execMantisHeartbeat (m : Nat) (s : State) : Res :=
  .next (if s.live ∧ m < 16 ∧ s.mantisFenced m = false then
      { s with hmd := { s.hmd with heard := m :: s.hmd.heard.filter (fun k => k != m) } }
    else s)

/-- R482: the Mantis core that takes over: the next higher-numbered unfenced one of the same die, wrapping round. -/
def State.heir (s : State) (m : Nat) : Option Nat :=
  (lowest 8 (fun i => !s.mantisFenced (m / 8 * 8 + (m + 1 + i) % 8))).map (fun i => m / 8 * 8 + (m + 1 + i) % 8)

/-- R482: the steps that the failed core managed abort, uncounted. Which contexts it managed is a free value: the firmware
shares its duties among the cores as it will. -/
def State.dropManaged (s : State) (ev : Nat) : State :=
  let f := s.free
  let s := (List.range 16).foldl (fun s x => if Config.freeBit (f + x) then s.abortAs x stOk ev false else s) s
  { s with free := s.free + 16 }

/-- R481, R482: a Mantis core is fenced, and its duties pass to another of its die; without one the module withdraws. -/
def State.loseMantis (s : State) (m : Nat) : State :=
  let s := s.fenceMantis m
  let s := { s with hmd := { s.hmd with heard := s.hmd.heard.filter (fun k => k != m) } }
  match s.heir m with
  | none => s.withdraw 4 0
  | some r =>
    let ev := s.evSeq
    (s.raise (Ev.plain islHamada evMantisFailover (leBytes 2 m ++ leBytes 2 r))).dropManaged ev

/-- R481, R482: MANTIS_FAILOVER. -/
def execMantisFailover (m : Nat) (s : State) : Res :=
  .next (if s.live ∧ m < 16 ∧ s.mantisFenced m = false then s.loseMantis m else s)

/-- R483: BRIDGE_FAILURE. -/
def execBridgeFailure (retries : Nat) (trainFail : Bool) (s : State) : Res :=
  .next (if s.live ∧ (retries ≥ 8 ∨ trainFail) then s.withdraw 1 0 else s)

/-- R561, R562: the bulk writes that waited for a scrub land. -/
def State.landBulk (s : State) : State :=
  let s' := (s.wadi.bulkWr.filter (fun b => !b.landed)).foldl (fun s b => s.store b.addr b.data) s
  { s' with wadi := { s'.wadi with bulkWr := s'.wadi.bulkWr.map (fun b => { b with landed := true }) } }

/-- R540: SCRUB_DONE: every byte of the scrub is zero with good check symbols, and available again. -/
def execScrubDone (s : State) : Res :=
  .next (if s.hmd.scrub.isEmpty then s
    else
      let s' := s.hmd.scrub.foldl (fun s r => s.wipe r.1 r.2) s
      { s' with hmd := { s'.hmd with scrub := [] } }.landBulk)

end Sys2Proof.Machine
end

