-- ==== Sys2Proof/Machine/Manage.lean ====
section
/-!
DEFINITION. The other management requests of R564: commits, routes and the shadow record, served by the Mantis firmware; power cap,
ledger, flash, clear, restart, security versions, active images and attestation, served by the Hamada.
-/
namespace Sys2Proof.Machine

/-! Served by the Mantis firmware. -/

/-- R564, R567: COMMIT_QUERY: the last committed step, its status and FINAL. A task never admitted is refused with FORMAT (DESIGN
CHOICE: log 42). -/
def execCommitQuery (hdr : FrameHdr) (task : Nat) (s : State) : Res :=
  .next (s.manageMantis hdr 0x03 (fun s =>
    match s.tasks.find? (fun t => t.tag == task) with
    | none => s.mgmtReply 0x03 hdr.reqId stFormat 0 0 []
    | some t =>
      s.mgmtReply 0x03 hdr.reqId stOk 0 0 (leBytes 8 t.last ++ leBytes 2 t.status ++ leBytes 2 (if t.final then 1 else 0))))

/-- R392: a route entry names no port above 11 and sets no reserved bit. -/
def routeGood (e : BitVec 32) : Bool :=
  routePrimary e ≤ 11 && routeAlternate e ≤ 11 && bitsOf e.toNat 30 28 == 0 && bitsOf e.toNat 18 0 == 0

/-- R392: ROUTES. -/
def execRoutes (hdr : FrameHdr) (first : Nat) (entries : List (BitVec 32)) (s : State) : Res :=
  .next (s.manageMantis hdr 0x04 (fun s =>
    if entries.isEmpty || entries.length > 2048 || first + entries.length > 16384 || !entries.all routeGood then
      s.mgmtReply 0x04 hdr.reqId stFormat 0 0 []
    else
      let s := { s with routes := (entries.mapIdx (fun i e => (first + i, e))).foldl (fun t (p : Nat × BitVec 32) => tput 0 t p.1 p.2) s.routes }
      s.mgmtReply 0x04 hdr.reqId stOk 0 0 []))

/-- R563: SHADOW_SWITCH: the record that this module keeps for a task group takes the copy and the version. -/
def execShadowSwitch (hdr : FrameHdr) (tag copy version : Nat) (s : State) : Res :=
  .next (s.manageMantis hdr 0x07 (fun s =>
    let mine (r : Nat × Shadow) : Bool := (s.group r.2.group).live && (s.group r.2.group).tag == tag
    if copy > 1 || !s.shadowOf.any mine then s.mgmtReply 0x07 hdr.reqId stFormat 0 0 []
    else
      ({ s with shadowOf := s.shadowOf.map (fun (r : Nat × Shadow) =>
          if mine r then (r.1, { r.2 with current := copy, version := version }) else r) }).mgmtReply 0x07 hdr.reqId stOk 0 0 []))

/-! Served by the Hamada. -/

/-- R525: POWER_CAP. -/
def execPowerCap (hdr : FrameHdr) (watts : Nat) (s : State) : Res :=
  .next (s.manage hdr (fun s =>
    if 600 ≤ watts && watts ≤ s.conf.powerCap then (s.setCap watts).mgmtReply 0x10 hdr.reqId stOk 0 0 []
    else s.mgmtReply 0x10 hdr.reqId stFormat 0 0 []))

/-- R512, R564: one slot as LEDGER_READ returns it: the record that counts, or what the first device in use holds. -/
def State.ledgerSlot (s : State) (i : Nat) : List Byte :=
  match s.validRec s.start.devs i with
  | some r => r.encode
  | none => (s.slotOf (if bitAt s.start.devs 0 then 0 else 1) i).encode (s.free + 64 * i)

/-- R512, R564: LEDGER_READ. -/
def execLedgerRead (hdr : FrameHdr) (first count : Nat) (s : State) : Res :=
  .next (s.manage hdr (fun s =>
    if count < 1 || count > 128 || first + count > 4096 then s.mgmtReply 0x11 hdr.reqId stFormat 0 0 []
    else
      let data := (List.range count).flatMap (fun i => s.ledgerSlot (first + i))
      { s with free := s.free + 64 * 4096 }.mgmtReply 0x11 hdr.reqId stOk 0 0 data))

/-- R565: FLASH_WRITE: held during a start until S24 or the hold state. -/
def execFlashWrite (hdr : FrameHdr) (dev off : Nat) (data : List Byte) (s : State) : Res :=
  .next (s.manage hdr (fun s =>
    if s.power = .starting then s.withWadi (fun w => { w with flashHeld := w.flashHeld ++ [(hdr.reqId, dev, off, data)] })
    else s.doFlash hdr.reqId dev off data))

/-- R516: CLEAR: a CLEAR record of the step and the unit. -/
def execClear (hdr : FrameHdr) (step unit : Nat) (s : State) : Res :=
  .next (s.manage hdr (fun s =>
    if step > 24 || unit > 0xFFFF then s.mgmtReply 0x13 hdr.reqId stFormat 0 0 []
    else
      (s.makeRoom.writeRec ltClear 0 0xFFFF 0 0 (leBytes 1 step ++ zeros 1 ++ leBytes 2 unit)).mgmtReply 0x13 hdr.reqId stOk 0 0 []))

/-- R520, R564: RESTART: the reply leaves first; a start that is running goes on to the end of its step. -/
def execRestart (hdr : FrameHdr) (s : State) : Res :=
  .next (s.manage hdr (fun s =>
    let s := s.mgmtReply 0x14 hdr.reqId stOk 0 0 []
    if s.power = .starting then s.withStart (fun t => { t with restart := true }) else s.restartNow))

/-- The device that holds the image of a kind in use (R521). -/
def State.imageDev (s : State) (kind : Nat) : Nat :=
  s.fld Reg.START_STATUS (if kind = 0 then Fld.START_STATUS_HMD_IMAGE else Fld.START_STATUS_MNT_IMAGE)

/-- R533: SVN_RAISE: only once the module has reached S24 in this start; the fuses count 64 steps. -/
def execSvnRaise (hdr : FrameHdr) (kind : Nat) (s : State) : Res :=
  .next (s.manage hdr (fun s =>
    if kind > 1 || !s.live then s.mgmtReply 0x15 hdr.reqId stFormat 0 0 []
    else
      let n := max (s.svnMin kind) (min 64 (s.imageSequence (s.imageDev kind) (fwBase kind)))
      (s.withHmd (fun h => if kind = 0 then { h with svnHmd := n } else { h with svnMnt := n })).mgmtReply 0x15 hdr.reqId stOk 0 0 []))

/-- R497, R514: SET_ACTIVE: the next summary names the image, and is written at once. -/
def execSetActive (hdr : FrameHdr) (kind image : Nat) (s : State) : Res :=
  .next (s.manage hdr (fun s =>
    if kind > 1 || image > 1 then s.mgmtReply 0x16 hdr.reqId stFormat 0 0 []
    else
      let s := s.withKept (fun k => if kind = 0 then { k with hmdActive := image } else { k with mntActive := image })
      (s.makeRoom.writeSummary s.start.kept).mgmtReply 0x16 hdr.reqId stOk 0 0 []))

/-! Attestation (R535, R566). -/

/-- Bit `i` of a mask for each `i` below `n` that meets a condition. -/
def bitMask (n : Nat) (p : Nat → Bool) : Nat := ((List.range n).map (fun i => if p i then 2 ^ i else 0)).sum

/-- R514: the two parts of the newest summary. -/
def State.newestSummary (s : State) : List Byte :=
  let part (u : Nat) : List Byte :=
    (((s.records s.start.devs).map (·.2)).filter (fun r => r.type == ltSummary && r.unit == u)).getLast?.elim [] (·.detail)
  padTo 44 (part 0) ++ padTo 44 (part 1)

/-- R535: STATE. Before the module is Ready the manual names no value, so it is a free one. -/
def State.attestState (s : State) : List Byte :=
  match s.power with
  | .hold => leBytes 1 (if s.hmd.withdrawn then 3 else 0)
  | .ready => leBytes 1 1
  | .aest => leBytes 1 2
  | _ => [Config.freeByte s.free]

/-- R535: the report up to its signature. -/
def State.report (s : State) (nonce : List Byte) : List Byte :=
  let c := s.cfg
  leBytes 4 0x41394C50 ++ leBytes 2 1 ++ leBytes 1 9 ++ leBytes 1 s.conf.profile ++ leBytes 8 (s.reg Reg.HMD_SERIAL) ++
    padTo 64 nonce ++
    padTo 64 (if s.start.hmdOk then s.imageDigest (s.imageDev 0) (fwBase 0) else []) ++ padTo 64 s.start.mntDigest ++
    padTo 64 (c.elim [] (·.digest)) ++ leBytes 8 (c.elim 0 (·.sequence)) ++ leBytes 8 s.hmd.incarnation ++
    leBytes 2 s.conf.moduleId ++ leBytes 1 0xB0 ++ s.attestState ++ leBytes 1 s.hmd.svnHmd ++ leBytes 1 s.hmd.svnMnt ++
    leBytes 2 s.hmd.capRun ++ s.newestSummary ++ leBytes 36 (bitMask 288 s.fenced) ++ leBytes 2 s.hmd.mantisFence ++
    leBytes 2 (bitMask 12 (fun t => s.fld (Reg.ERG_STATUS t) Fld.ERG_STATUS_STATE == 3)) ++
    (List.range 12).flatMap (fun p => leBytes 1 (s.fld (Reg.SEIF_WIDTH p) Fld.SEIF_WIDTH_WIDTH)) ++
    leBytes 2 (bitMask 12 (fun t => s.fld (Reg.HBM_STATUS t) Fld.HBM_STATUS_CONSERVATIVE == 1)) ++ zeros 10 ++
    padTo 2592 Config.identityKey

/-- R535, R566: ATTESTATION_REQUEST. -/
def execAttestationRequest (hdr : FrameHdr) (nonce : List Byte) (s : State) : Res :=
  .next (s.manage hdr (fun s =>
    let b := s.report nonce
    { s with free := s.free + 1 }.reply clAttest 2 hdr.reqId (b ++ padTo 4627 (Config.sign (Config.sha3 b)))))

end Sys2Proof.Machine
end

