-- ==== Sys2Proof/Machine/Session.lean ====
section
/-!
DEFINITION. The handshake and the session (R536 to R539), frames that are discarded (R553), the state of the optical link
(R569), the sideband and boundary scan (R574 to R577).
-/
namespace Sys2Proof.Machine

/-- R519, R551: class-0 frames are answered once the link is up and S22 has begun. -/
def State.mayGreet (s : State) : Bool := s.linkUp && s.stepNo ≥ 22 || s.linkUp && s.power == .hold

/-- R536: the position of a node's key among the digests of R503. -/
def State.nodeOf (s : State) (key : List Byte) : Option Nat :=
  let l := (s.cfg.map (·.nodes)).getD []
  lowest l.length (fun i => nth [] l i == Config.sha3 key)

/-- A class-0 frame accepted. -/
def State.countFrame (s : State) : State := s.bump Reg.WADI_RX_CNT Fld.WADI_RX_CNT_FRAMES 1

/-- R536: HELLO_M: the handshake is held and the module's answer sent. -/
def State.answerHello (s : State) (node : Nat) (nonce nodeKey kemKey nm : List Byte) (kemRnd : Nat) : State :=
  let (ct, ss) := Config.encapsulate kemKey kemRnd
  let t := Config.sha3 (nonce ++ nodeKey ++ kemKey ++ nm ++ Config.identityKey ++ ct)
  let sig := Config.sign t
  let s := (s.withHmd (fun h => { h with hs := some ⟨node, nodeKey, t, sig, ss⟩ })).showSession
  s.sendFrame clSession 2 0 0 (nm ++ Config.identityKey ++ ct ++ sig)

/-- R536, R539: HELLO_C. A second handshake is refused; the manual gives no status for that refusal. -/
def execHelloC (nonce nodeKey kemKey nm : List Byte) (kemRnd : Nat) (s : State) : Res :=
  .next (if s.mayGreet ∧ s.start.identity then
      let s := s.countFrame
      if s.hmd.hs.isSome then { s with free := s.free + 2 }.sendRefuse (freeStatus s.free)
      else
        match s.nodeOf nodeKey with
        | none => s.sendRefuse (leBytes 2 stSigInvalid)
        | some i => s.answerHello i nonce nodeKey kemKey nm kemRnd
    else s)

/-- R536: FINISH_C. -/
def execFinishC (sig : List Byte) (s : State) : Res :=
  .next (if s.mayGreet then
      match s.hmd.hs with
      | none => s
      | some h =>
        let s := s.countFrame
        let t2 := Config.sha3 (h.t ++ h.sigM)
        if Config.verify h.nodeKey t2 sig then s.endSess.openSess h t2
        else ((s.withHmd (fun x => { x with hs := none })).showSession).sendRefuse (leBytes 2 stSigInvalid)
    else s)

/-- R538: END: the node's end request, a frame of class 0. -/
def execEndSession (_hdr : FrameHdr) (s : State) : Res :=
  .next (if s.linkUp ∧ s.hmd.sessOpen then s.countFrame.endSess else s)

/-- R551, R553, R554: FRAME_DISCARD: counted by its cause. -/
def execFrameDiscard (cause : DiscardCause) (s : State) : Res :=
  .next (if !s.linkUp then s
    else
      match cause with
      | .bad => s.bump Reg.WADI_RX_CNT Fld.WADI_RX_CNT_BAD 1
      | .fec => (s.bump Reg.WADI_FEC_CNT Fld.WADI_FEC_CNT_UNCORRECTED 1).bump Reg.WADI_RX_CNT Fld.WADI_RX_CNT_BAD 1
      | .noSession => if s.hmd.sessOpen then s else s.bump Reg.WADI_DROP_CNT Fld.WADI_DROP_CNT_NO_SESSION 1
      | .auth => if s.hmd.sessOpen then s.authFailure else s
      | .credit => if s.hmd.sessOpen then s.bump Reg.WADI_DROP_CNT Fld.WADI_DROP_CNT_CREDIT 1 else s)

/-- R569: WADI_LOS: light lost or regained, and the state of a link that S21 has trained. -/
def execWadiLos (los up : Bool) (s : State) : Res :=
  .next (if s.power = .off then s
    else
      let s := s.setFld Reg.WADI_LINK Fld.WADI_LINK_LOS (if los then 1 else 0)
      if s.stepNo ≥ 22 then s.setFld Reg.WADI_LINK Fld.WADI_LINK_STATE (if up && !los then 2 else 0) else s)

/-! The sideband (R574, R575). -/

/-- HMD_SCRUB (R550). -/
def State.scrubWord (s : State) : Nat :=
  if s.hmd.scrub.isEmpty then 0 else 2 ^ 63 + (s.hmd.scrub.map (·.2)).sum % 2 ^ 48

/-- The register that a command byte names. -/
def State.sideband (s : State) (cmd : Nat) : Option Nat :=
  if cmd = 0x00 then some (s.reg Reg.HMD_SERIAL)
  else if cmd = 0x01 then some (s.reg Reg.HMD_CFG)
  else if cmd = 0x08 then some (s.reg Reg.START_STATUS)
  else if cmd = 0x09 then some (s.reg Reg.LEDGER_STATUS)
  else if cmd = 0x10 then some (s.reg Reg.HMD_PWR_CAP)
  else if cmd = 0x11 then some (s.reg Reg.HMD_PWR_STAT)
  else if cmd = 0x12 then some (s.reg Reg.HMD_THERM)
  else if cmd = 0x13 then some (s.reg Reg.HMD_CLK)
  else if cmd = 0x14 then some (s.reg Reg.HMD_TRIP_LOG)
  else if cmd = 0x20 then some (s.reg Reg.HMD_SESSION)
  else if cmd = 0x21 then some s.scrubWord
  else if 0x30 ≤ cmd ∧ cmd ≤ 0x37 then
    some (if s.start.identity then fieldLE (Config.sha3 Config.identityKey) (8 * (cmd - 0x30)) 8 else 0)
  else if cmd = 0x40 then some (s.reg Reg.WADI_LINK)
  else none

/-- R574, R593: the 7-bit address of the sideband. -/
def State.i2cAddr (s : State) : Nat := 0x5A + s.start.straps

/-- The packet error code over the whole read transaction. -/
def State.pecOf (s : State) (cmd v : Nat) : Nat :=
  crc8 (leBytes 1 (2 * s.i2cAddr) ++ leBytes 1 cmd ++ leBytes 1 (2 * s.i2cAddr + 1) ++ leBytes 8 v)

/-- R574, R575: SIDEBAND_READ: the value of the cycle of the ACK; an unknown command byte is not acknowledged. -/
def execSidebandRead (cmd : Nat) (s : State) : Res :=
  .next (if s.power = .off then s
    else
      match s.sideband cmd with
      | some v => s.emit (.i2c true v (s.pecOf cmd v))
      | none => s.emit (.i2c false 0 0))

/-! Boundary scan (R576, R577). The instruction of a die's test port: 0 BYPASS, 1 IDCODE, 2 SAMPLE/PRELOAD, 3 EXTEST. -/

/-- The instruction in force at a die's test port. -/
def State.scanIr (s : State) (die : Nat) : Nat := nth 0 s.scan die

/-- An instruction taken by a die's test port. -/
def State.setScan (s : State) (die ir : Nat) : State :=
  { s with scan := [if die = 0 then ir else s.scanIr 0, if die = 1 then ir else s.scanIr 1] }

/-- The values preloaded into a die's boundary register. -/
def State.setPins (s : State) (die v : Nat) : State :=
  { s with scanPins := [if die = 0 then v else nth 0 s.scanPins 0, if die = 1 then v else nth 0 s.scanPins 1] }

/-- R576: the IDCODE of a die. -/
def idcodeOf (die : Nat) : Nat := if die = 0 then 0xB9A01C4D else 0xB9A02C4D

/-- R577: BYPASS. -/
def execBypass (die : Nat) (s : State) : Res :=
  .next (if s.power ≠ .off ∧ die < 2 then s.setScan die 0 else s)

/-- R576, R577: IDCODE. -/
def execIdcode (die : Nat) (s : State) : Res :=
  .next (if s.power ≠ .off ∧ die < 2 then (s.setScan die 1).emit (.scan die (idcodeOf die)) else s)

/-- R577: SAMPLE/PRELOAD. -/
def execSamplePreload (die pins : Nat) (s : State) : Res :=
  .next (if s.power ≠ .off ∧ die < 2 then (s.setScan die 2).setPins die pins else s)

/-- R577: EXTEST drives the pins in the hold state and acts as BYPASS in any other. -/
def execExtest (die : Nat) (s : State) : Res :=
  .next (if s.power ≠ .off ∧ die < 2 then s.setScan die (if s.power = .hold then 3 else 0) else s)

/-- R577: TRST# resets both test ports, and every pin returns to its functional drive. -/
def execTrst (s : State) : Res := .next { s with scan := [], scanPins := [] }

end Sys2Proof.Machine
end

