-- ==== Sys2Proof/Machine/RegIo.lean ====
section
/-!
DEFINITION. The registers as software reads and writes them (R7 to R11): the fields that show the state of a unit are computed from
that unit, and a write has the effects that its register's rule gives it.
-/
namespace Sys2Proof.Machine

/-! Fields computed from the units. -/

/-- R303: SPQ_STATUS. -/
def Queue.statusWord (q : Queue) : Nat :=
  (if q.draining then 2 ^ 63 else 0) + (if q.mark.isSome then 2 ^ 62 else 0) + (if q.cfgErr then 2 ^ 61 else 0) +
    q.held % 2 ^ 25 * 2 ^ 32 + q.depth % 2 ^ 25

/-- R334: TILECTR_CFG of context `x`. -/
def State.ctrCfg (s : State) (x w : Nat) : Nat :=
  let k := s.ctx x
  withBits (withBits (withBits (withBits w 60 60 (x % 2)) 59 56 k.pass) 55 40 k.gen) 39 39 k.sweep

/-- R310, R335: TILECTR_GRANT of context `x` on die `d`; in the Capacity profile both dies show the home die's values. -/
def State.ctrGrant (s : State) (d x : Nat) : Nat :=
  nth 0 (s.ctx x).cur (if s.assured then d else 0) % 2 ^ 25 * 2 ^ 25 +
    ((s.ctx x).done.filter (fun t => (s.ctx x).base ≤ t && t < (s.ctx x).base + (s.launchOf x).perPass)).length % 2 ^ 25

/-- R142: SEQ_EXT_J of core `c`. -/
def State.seqExtJ (s : State) (c w : Nat) : Nat :=
  match (s.core c).ctx with
  | none => w
  | some x => withBits (withBits w 36 36 (s.ctx x).sweep) 35 32 (s.ctx x).pass

/-- R258, R272: STRM_STATUS of core `c`; a walk holds a tracker of its class. A cancellation that waits for an epoch value is in progress. -/
def Core.strmStatus (k : Core) : Nat :=
  (if k.busy > 0 then 2 ^ 40 else 0) + k.epoch % 256 * 2 ^ 32 + k.wr.length % 512 * 2 ^ 23 + k.trackers true % 128 * 2 ^ 16 +
    k.trackers false % 2048 * 2 ^ 5 + k.ops.length % 32

/-- R370: ERG_STATUS of stack `t`. -/
def State.ergStatus (s : State) (t w : Nat) : Nat :=
  let n := (s.stack t).queue.length
  withBits (withBits w 12 8 n) 3 3 (if n = 0 then 0 else 1)

/-- R442, R443: MCAST_POS and MCAST_DETACHED. -/
def Mcast.posWord (m : Mcast) : Nat := m.pushed % 2 ^ 32 * 2 ^ 32 + m.released % 2 ^ 32
def Mcast.detachedWord (m : Mcast) : Nat := (m.rcvs.mapIdx (fun i r => if r.detached then 2 ^ i else 0)).sum

/-- R470: SWARM_STATUS. -/
def Swarm.statusWord (w : Swarm) : Nat :=
  w.step % 2 ^ 32 * 2 ^ 32 + w.phase % 8 * 2 ^ 29 + w.mode % 2 * 2 ^ 28 + w.wire % 2 * 2 ^ 27 + w.ring.length % 512 * 2 ^ 16 + w.pos % 256 * 2 ^ 8

/-- R573: WADI_URGENT. -/
def Wadi.urgentWord (w : Wadi) : Nat := (w.urgent.map (fun u => 2 ^ u.1)).sum

/-- The 64 bits of the register at an aligned address; a reserved address reads zero (R7). -/
def State.view (s : State) (a : Nat) : Nat :=
  if (fieldsAt a).isEmpty then 0
  else
  match regAt a with
  | .spq q 0x10 => (s.queue q).statusWord
  | .spq q 0x20 => if (s.qcfg q).credited then (s.queue q).credits % 2 ^ 25 else 0
  | .ctr _ x 0x00 => s.ctrCfg x (s.reg a)
  | .ctr d x 0x08 => s.ctrGrant d x
  | .ctr d x 0x10 => withBits (s.reg a) 58 48 ((s.ctx x).reissue.filter (fun e => e.die == d)).length
  | .core c 0xD08 => s.seqExtJ c (s.reg a)
  | .core c 0x1100 => (s.core c).strmStatus
  | .stack t 0x100 => s.ergStatus t (s.reg a)
  | .mcast g 0x08 => (s.mcast g).posWord
  | .mcast g 0x10 => (s.mcast g).detachedWord
  | .mantis 0x5000 => s.swarm.statusWord
  | .wadi 0x0020 => s.wadi.urgentWord
  | .hamada 0x0300 => s.scrubWord
  | _ => s.reg a

/-- R8: a read of `size` bytes; one of another size or alignment returns zero. -/
def State.readReg (s : State) (a size : Nat) : Nat :=
  if size = 8 ∧ a % 8 = 0 then s.view a
  else if size = 4 ∧ a % 8 = 0 then s.view a % 2 ^ 32
  else if size = 4 ∧ a % 8 = 4 then s.view (a - 4) / 2 ^ 32
  else 0

/-! Writes. -/

/-- R8, R197: a write of a register of a resident region: an access that R8 discards changes nothing. -/
def State.writeRes (s : State) (c i a size v : Nat) : State :=
  if accessMask a size = 0 then s else (s.plainWrite a size v).setFld (Reg.SPAD_RES c i) Fld.SPAD_RESn_LOADED 0

/-- R7 to R11, R190, R193, R197, R207 to R209, R240, R301, R304, R437: a write of `size` bytes with what it sets off. The split of a core
with an open window stays (R207). DEDUCED (log 90): a region whose place or backing address is written no longer holds its last load,
which is how a task group's reload is asked for (R198). -/
def State.writeReg (s : State) (a size v : Nat) : State :=
  let bits := placed a v &&& accessMask a size
  match regAt (a - a % 8) with
  | .spq q 0x00 => s.writeSpqCfg q a size v
  | .spq q 0x18 => s.spqCtl q bits
  | .core c 0xF00 => if accessMask a size = 0 ∨ s.spadWindow c then s else ((s.plainWrite a size v).flushCache c).pumpCore c
  | .core c 0xF08 => if bitAt bits 0 then (s.flushCache c).pumpCore c else s
  | .core c 0xF10 => s.writeRes c 0 a size v
  | .core c 0xF18 => s.writeRes c 1 a size v
  | .core c 0xF20 => s.writeRes c 0 a size v
  | .core c 0xF28 => s.writeRes c 1 a size v
  | .core c 0x1008 => s.invalidateXlt c bits
  | .win e 0x10 => s.winCtl e a size v
  | _ => s.plainWrite a size v

/-! The Mantis path to registers and memory (R6, R7). -/

/-- All bytes of an access lie in memory: HBM, an Erg SRAM or a scratchpad aperture (R6). -/
def inMemory (a size : Nat) : Bool := isMemory a && isMemory (a + size - 1)

/-- R7, R8, R203: 8 bytes as the Mantis path reads them: a register, bytes of memory, or zero at a reserved address. -/
def State.mantisRead (s : State) (a : Nat) : Nat := if inMemory a 8 then s.num a 8 else s.readReg a 8

/-- R203, R204: an aperture read that meets bad parity is counted and logged, with no event and no abort. -/
def State.noteAperture (s : State) (a : Nat) : State :=
  let c := (a - spadBase 0) / 0x80000
  let s := if inSpad a then s.noteAcc c ⟨.aperture, false, [(a, 8)], none⟩ else s
  if !inSpad a || (s.badWords c a 8).isEmpty then s else (s.noteParities c .mantis a 8).parityBudget c (s.badWords c a 8).length

/-- R342, R564: the uncorrectable access that a read of these addresses meets first. -/
def State.mantisUe (s : State) (addrs : List Nat) : Option Nat :=
  addrs.findSome? (fun a => if inMemory a 8 && !inSpad a then s.firstUe a 8 else none)

/-- R197: bytes written through the aperture: a resident region that holds any of them no longer holds its last load. -/
def State.unloadAt (s : State) (a n : Nat) : State :=
  let c := spadCore a
  if !inSpad a then s
  else [0, 1].foldl (fun s i =>
    let r := s.reg (Reg.SPAD_RES c i)
    let b := spadBase c + 128 * bitsOf r 11 0
    if bitAt r 40 && b < a + n && a < b + 128 * bitsOf r 24 12 then s.setFld (Reg.SPAD_RES c i) Fld.SPAD_RESn_LOADED 0 else s) s

/-- R7, R8, R197, R205: a write on the Mantis path. -/
def State.mantisWrite (s : State) (a size v : Nat) : State :=
  if inMemory a size then (if inSpad a then s.land .aperture none a (leBytes size v) else s.store a (leBytes size v)).unloadAt a size else s.writeReg a size v

/-- The register blocks are powered: neither Off nor the hold state. -/
def State.powered (s : State) : Bool := s.power != .off && s.power != .hold

/-- R8 to R11: REGISTER_WRITE. -/
def execRegisterWrite (addr size : Nat) (value : Word) (s : State) : Res :=
  .next (if s.powered then s.mantisWrite addr size value.toNat else s)

/-- R190, R193, R208: SPAD_SPLIT_WRITE. -/
def execSpadSplitWrite (core : Nat) (value : Word) (s : State) : Res :=
  .next (if s.powered && core < 288 then s.writeReg (Reg.SPAD_SPLIT core) 8 value.toNat else s)

/-- R342, R564: REG_READ, which the Hamada serves in the hold state. -/
def execRegRead (hdr : FrameHdr) (addrs : List Nat) (s : State) : Res :=
  .next (s.manage hdr (fun s =>
    if addrs.isEmpty || addrs.length > 128 then s.mgmtReply 0x01 hdr.reqId stFormat 0 0 []
    else
      match s.mantisUe addrs with
      | some a =>
        ((s.noteUe .mantis a).mgmtReply 0x01 hdr.reqId stMemUncorrectable 0 0 []).ueBudgets a
      | none =>
        let s := s.correctAll ((addrs.filter (fun a => inMemory a 8 && !inSpad a)).map (fun a => (a, 8)))
        addrs.foldl State.noteAperture (s.mgmtReply 0x01 hdr.reqId stOk 0 0 (addrs.flatMap (fun a => leBytes 8 (s.mantisRead a))))))

/-- R564: REG_WRITE. -/
def execRegWrite (hdr : FrameHdr) (pairs : List (Nat × Word)) (s : State) : Res :=
  .next (s.manageMantis hdr 0x02 (fun s =>
    if pairs.isEmpty || pairs.length > 64 then s.mgmtReply 0x02 hdr.reqId stFormat 0 0 []
    else (pairs.foldl (fun s p => s.mantisWrite p.1 8 p.2.toNat) s).mgmtReply 0x02 hdr.reqId stOk 0 0 []))

end Sys2Proof.Machine
end

