-- ==== Sys2Proof/Machine/Seif.lean ====
section
/-!
DEFINITION. The Seif ports (R374 to R396, R398, R400, R403, R406): flits received, acknowledged and forwarded, link-level retry,
retrains and narrower widths, ports that go down and come back, the partners' HELLO and heartbeats, and the low mode.
-/
namespace Sys2Proof.Machine

/-! Lanes. -/

/-- The lanes of a port that are healthy on this side. -/
def State.ownLanes (s : State) (p : Nat) : Nat :=
  let h := s.fld (Reg.SEIF_WIDTH p) Fld.SEIF_WIDTH_HEALTHY
  h - (h &&& (s.port p).unhealthy)

/-- A module's own first port is up: its JOIN goes out (R399). -/
def State.firstUp (s : State) : State := if s.portsUp = 1 then s.joinSelf else s

/-! A port that goes down (R391, R400, R402). -/

/-- R430: a running step writes the multicast group that has a module among its receivers. -/
def State.feeds (s : State) (x id : Nat) : Option Nat :=
  ((s.handles.map (·.1)).find? (fun k =>
    (s.handle k).mcast && s.usesHandle x k && (s.mcast (s.handle k).module_).rcvs.any (fun r => r.id == id))).bind (fun k =>
      (s.launchOf x).streams.findIdx? (fun e => e.kind != 0 && e.window == keyWin k))

/-- R269, R391: a flit of this module is lost beyond retry: a mid-stream fault of its stream, where its step still runs. A multicast
unit, whose step has committed, faults the steps that write its group now, on the stream that does (DESIGN CHOICE: log 107). -/
def State.loseFlit (s : State) (f : Flit) : State :=
  match f.own with
  | some o =>
    if (s.ctx o.ctx).run = .running ∧ (s.ctx o.ctx).gen = o.gen then s.streamStop o.core o.ctx o.tile o.gen 4 o.stream 0 o.tag else s
  | none =>
    if f.kind ≠ 5 then s
    else
      (List.range 16).foldl (fun s x =>
        match if (s.ctx x).run == .running then s.feeds x f.dst else none with
        | none => s
        | some i => s.streamStop (s.ctx x).anchor x noTile (s.ctx x).gen 4 i 0 0) s

/-- R400: the last up port to a partner is lost: this module issues DEPARTED for it. -/
def State.lostPartner (s : State) (id inc : Nat) : State :=
  if (List.range 12).any (fun p => s.portUp p && s.fld (Reg.SEIF_PEER p) Fld.SEIF_PEER_MODULE == id) then s
  else
    let s := { s with annNo := s.annNo + 1 }
    s.announced .departed none id inc s.annNo

/-- R391: a port goes down: its buffers are lost, its traffic that had not left looks for another way. -/
def State.portDown (s : State) (p : Nat) : State :=
  let x := s.port p
  let id := s.fld (Reg.SEIF_PEER p) Fld.SEIF_PEER_MODULE
  let s := s.setLanes p psDown (s.ownLanes p) 0 0
  let s := s.putPort p { Port.idle with unhealthy := x.unhealthy, peerInc := x.peerInc, wakes := x.wakes, codes := x.codes, bad := x.bad }
  let s := x.waiting.foldl State.sendFlit s
  let s := (x.retry.filter (fun f => f.src == s.ownId)).foldl State.loseFlit s
  s.lostPartner id x.peerInc

/-! Retry (R384 to R387). -/

/-- R388: this side's mask goes to the partner; the partner's is awaited. -/
def State.sendMask (s : State) (p : Nat) : State :=
  (s.putPort p { s.port p with peerMask := none }).sendControl p (leBytes 1 3 ++ leBytes 1 (s.ownLanes p))

/-- R387, R388: a retrain starts; replay continues once the port is up. -/
def State.startRetrain (s : State) (p : Nat) : State :=
  let x := s.port p
  let s := s.putPort p { x with after := x.after.or (x.retry.head?.map (·.seq)), replays := 0, nakFor := none }
  ((s.setPortState p psRetrain).bump (Reg.SEIF_RETRY_CNT p) Fld.SEIF_RETRY_CNT_RETRAINS 1).sendMask p

/-- The flits of a retry buffer from a sequence number on. -/
def fromSeq (l : List Flit) (seq : Nat) : List Flit :=
  let first := (l.head?.map (·.seq)).getD 0
  l.filter (fun f => (f.seq + 4096 - first) % 4096 ≥ (seq + 4096 - first) % 4096)

/-- R386: flits leave again as they left first. -/
def State.sendAgain (s : State) (p : Nat) (l : List Flit) : State := l.foldl (fun s f => s.emit (.flit p (flitBytes f))) s

/-- R386, R413: a replay from a sequence number, counted. -/
def State.replayFrom (s : State) (p seq : Nat) : State :=
  let l := fromSeq (s.port p).retry seq
  if l.isEmpty then s else (s.bump (Reg.SEIF_RETRY_CNT p) Fld.SEIF_RETRY_CNT_REPLAYS 1).sendAgain p l

/-- R386, R387: a replay from a sequence number; where the allowed number has passed in a row without progress the port retrains. -/
def State.replay (s : State) (p seq : Nat) : State :=
  let x := s.port p
  if (fromSeq x.retry seq).isEmpty then s
  else if x.replays ≥ s.fld (Reg.SEIF_CTL p) Fld.SEIF_CTL_SEIF_RETRY_LIMIT then
    (s.putPort p { x with after := some seq }).startRetrain p
  else ((s.putPort p { x with replays := x.replays + 1 }).replayFrom p seq).pump p

/-- R386, R387: NAK: one that meets a retrain is served after it. -/
def execNak (port seq : Nat) (s : State) : Res :=
  .next (if port ≥ 12 then s
    else if s.portUp port then s.replay port (seq % 4096)
    else if s.portState port = psRetrain then s.putPort port { s.port port with after := some (seq % 4096) }
    else s)

/-- R385, R386: SEIF_RETRY_TIMEOUT: the sender replays what is unacknowledged; the receiver may send another NAK. -/
def execSeifRetryTimeout (port : Nat) (s : State) : Res :=
  .next (if port ≥ 12 || !s.portUp port then s
    else
      let s := s.putPort port { s.port port with nakFor := none }
      match (s.port port).retry.head? with
      | none => s
      | some f => s.replay port f.seq)

/-- R384: flits at or below ACK leave the retry buffer; progress ends the count of replays. -/
def Port.acked (x : Port) (ack : Nat) : Port :=
  match x.retry with
  | [] => x
  | f :: _ =>
    let n := (ack + 4096 + 1 - f.seq) % 4096
    if n = 0 ∨ n > x.retry.length then x else { x with retry := x.retry.drop n, replays := 0 }

/-- R385: a NAK names the expected sequence number, once until the retry timeout. -/
def State.sendNak (s : State) (p : Nat) : State :=
  let x := s.port p
  if x.nakFor = some x.expSeq then s
  else
    let (f, y) := x.stamp (s.portLow p) { idleFlit s.ownId with type := 2 }
    (s.putPort p { y with nakFor := some x.expSeq }).emit (.flit p (flitBytes { f with ack := x.expSeq }))

/-! Flits received (R379 to R385, R394). -/

/-- R379: a received flit is discarded and counted; a data flit, or one whose SEQ cannot be known, is a gap. -/
def State.discardFlit (s : State) (p : Nat) (f : Flit) (okCode : Bool) : State :=
  let s := s.bump (Reg.SEIF_ERR_CNT p) Fld.SEIF_ERR_CNT_DISCARDED 1
  if f.type = 1 ∨ !okCode ∨ !f.crcOk then s.sendNak p else s

/-- R380: the port answers with an acknowledgement and the credits it owes. -/
def State.answer (s : State) (p : Nat) : State := ((s.sendRaw p (idleFlit s.ownId)).returnCredits p).pump p

/-- R382, R394: an accepted data flit: one for this module waits in its slot until its payload is taken, and a flit for another module
for its way. -/
def State.deliver (s : State) (p : Nat) (f : Flit) : State :=
  let x := s.port p
  let keep (f : Flit) : State := s.putPort p { x with slots := x.slots ++ [f] }
  if f.dst = s.ownId then keep f
  else if f.hops = 0 then (s.bump (Reg.SEIF_FWD_DROP p) Fld.SEIF_FWD_DROP_HOPS 1).freeSlot p f.vl
  else
    match s.route f.dst with
    | .noRoute => (s.bump (Reg.SEIF_FWD_DROP p) Fld.SEIF_FWD_DROP_NO_ROUTE 1).freeSlot p f.vl
    | _ => keep { f with hops := f.hops - 1 }

/-- R378, R384: the acknowledgement of a flit that arrived intact. -/
def State.readAck (s : State) (p : Nat) (f : Flit) : State :=
  if f.ackValid && f.type != 2 then s.putPort p ((s.port p).acked f.ack) else s

/-- R380: the credits that a flit returns. DEDUCED (log 107): those of a sequenced flit count when it is accepted, for a replay keeps
its bytes (R386). -/
def State.takeCredits (s : State) (p : Nat) (f : Flit) : State :=
  let x := s.port p
  s.putPort p { x with credits := mapAt x.credits f.creditVl (fun n => n + f.credits) }

/-- R385: a data flit against the expected sequence number: accepted, a duplicate, or a gap. -/
def State.takeData (s : State) (p : Nat) (f : Flit) : State :=
  let x := s.port p
  let d := (f.seq + 4096 - x.expSeq) % 4096
  if d = 0 then
    (((s.takeCredits p f).putPort p { (s.takeCredits p f).port p with expSeq := (x.expSeq + 1) % 4096, nakFor := none }).deliver p f).answer p
  else if d < 2048 then s.sendNak p
  else s.answer p

/-- R379, R380, R382, R384, R385, R394: a flit received, whose codewords were all correctable or not. -/
def State.takeFlit (s : State) (p : Nat) (f : Flit) (okCode : Bool) : State :=
  if !okCode || !f.crcOk || !f.resOk || f.type > 3 || f.kind > 7 then s.discardFlit p f okCode
  else
    let s := s.readAck p f
    if f.type = 1 then s.takeData p f else (s.takeCredits p f).pump p

/-- R376: a lane's codewords with one more, and the uncorrectable ones within its latest 2^20. -/
def Port.noteCode (x : Port) (c : Code) : Port :=
  let n := nth 0 x.codes c.lane + c.gap + 1
  let old := nth [] x.bad c.lane
  { x with
    codes := (List.range 8).map (fun l => if l = c.lane then n else nth 0 x.codes l)
    bad := (List.range 8).map (fun l =>
      if l = c.lane then (if codeLost c then n :: old else old).filter (fun i => n < i + 2 ^ 20) else nth [] x.bad l) }

/-- The place of the oldest flit of a lane in a receive buffer that `p` names. -/
def Port.slotOf (x : Port) (vl : Nat) (p : Flit → Bool) : Option Nat := x.slots.findIdx? (fun f => f.vl == vl && p f)

/-- A flit leaves its slot. -/
def State.takeSlot (s : State) (p i vl : Nat) : State :=
  let x := s.port p
  (s.putPort p { x with slots := dropAt x.slots i }).freeSlot p vl

/-- R394, R395, R404: FLIT_FORWARD: the flit leaves through a port that holds a credit of its lane; one whose way has gone is
dropped. A module in Aestivation forwards on lane 0 only. -/
def execFlitForward (port vl : Nat) (s : State) : Res :=
  .next (let x := s.port port
    match x.slotOf vl (fun f => f.dst != s.ownId) with
    | none => s
    | some i =>
      if !s.portUp port || (s.power == .aest && vl != 0) then s
      else
        let f := nth (mkFlit 0 0 0 0 0 0 []) x.slots i
        match s.route f.dst with
        | .wait _ => s
        | .noRoute => (((s.takeSlot port i vl).bump (Reg.SEIF_FWD_DROP port) Fld.SEIF_FWD_DROP_NO_ROUTE 1).returnCredits port)
        | .port q =>
          if nth 0 (s.port q).credits vl = 0 ∨ (s.port q).retry.length ≥ 512 ∨ (s.portState q = psLow ∧ vl ≠ 0) then s
          else
            let s := s.takeSlot port i vl
            ((s.putPort q { s.port q with waiting := f :: (s.port q).waiting }).pump q).returnCredits port)

/-- The kinds of flit whose sink is a Seif message queue: messages, membership and wake. -/
def queuedKind (k : Nat) : Bool := k == 3 || k == 6 || k == 7

/-- The pushes of a flit's payload, in units of the queue's width; `ends` marks the last unit of the message. -/
def queueUnits (width : Nat) (payload : List Byte) (ends : Bool) : List (List Byte × Bool) :=
  let us := chunksOf width payload.length payload
  us.zipIdx.map (fun u => (u.1, ends && u.2 + 1 == us.length))

/-- R290: a queue holds the credits for every word that some units open. -/
def Queue.fits (q : Queue) (c : QCfg) (us : List (List Byte × Bool)) : Bool :=
  (us.foldl (fun q u => (q.push c u.1 u.2).q) q).backlog.isEmpty

/-- R382: MESSAGE_QUEUE_COMMIT: a message flit goes to the queue of its lane while the queue has the credits. -/
def execMessageQueueCommit (port vl : Nat) (s : State) : Res :=
  .next (let x := s.port port
    match x.slotOf vl (fun f => f.dst == s.ownId && queuedKind f.kind) with
    | none => s
    | some i =>
      let q := qSeif port vl
      let f := nth (mkFlit 0 0 0 0 0 0 []) x.slots i
      let us := queueUnits (s.qcfg q).width f.payload (f.msg == 2 || f.msg == 3)
      if port ≥ 12 || vl ≥ 8 || !s.portUp port || !s.qOn q || !(s.queue q).fits (s.qcfg q) us then s
      else
        let s := us.foldl (fun s u => s.pushed q ((s.queue q).push (s.qcfg q) u.1 u.2)) s
        (s.takeSlot port i vl).returnCredits port)

/-! Retrains (R376, R388 to R390). -/

/-- R403: a port in the low mode on one lane, or down where no lane is healthy. -/
def State.enterLow (s : State) (p : Nat) : State :=
  let m := s.ownLanes p
  match keptLane m with
  | none => s.portDown p
  | some k => s.setLanes p psLow m (2 ^ k) 1

/-- R376, R388, R390, R406: a lane found unhealthy: an active one retrains the port, and any one a retrain that runs; in the low mode
the port moves to another lane. -/
def State.laneUnhealthy (s : State) (port lane : Nat) : State :=
  let x := s.port port
  let st := s.portState port
  let active := bitAt (s.fld (Reg.SEIF_WIDTH port) Fld.SEIF_WIDTH_ACTIVE) lane
  let s := s.putPort port { x with unhealthy := x.unhealthy ||| 2 ^ lane }
  if st = psRetrain then s.sendMask port
  else if !active then s
  else if st = psUp ∨ st = psConflict then s.startRetrain port
  else if st = psLow then s.enterLow port
  else s

/-- R376, R388, R390, R406: LANE_UNHEALTHY: a lane has lost signal or codeword lock. -/
def execLaneUnhealthy (port lane : Nat) (s : State) : Res :=
  .next (if port ≥ 12 || lane ≥ 8 then s else s.laneUnhealthy port lane)

/-- R375, R376, R412: a codeword received: a corrected one is counted, and with more uncorrectable ones than the limit among its latest
2^20 codewords a lane is unhealthy. -/
def State.takeCode (s : State) (p : Nat) (c : Code) : State :=
  let s := if codeFixed c then s.bump (Reg.SEIF_ERR_CNT p) Fld.SEIF_ERR_CNT_CORRECTED 1 else s
  let s := s.putPort p ((s.port p).noteCode c)
  if codeLost c && decide ((nth [] (s.port p).bad c.lane).length > s.conf.laneLimit) && !bitAt (s.port p).unhealthy c.lane then
    s.laneUnhealthy p c.lane
  else s

/-- R375 to R382, R384, R385, R394: FLIT_RECEIVE. -/
def execFlitReceive (port : Nat) (bytes : List Byte) (codes : List Code) (s : State) : Res :=
  .next (if port ≥ 12 || !s.portUp port then s
    else (codes.foldl (fun s c => s.takeCode port c) (s.takeFlit port (readFlit bytes) (codes.all (fun c => !codeLost c)))).swarmOnward)

/-- R388, R391: the masks of a retrain exchanged: the widest lane set that is healthy on both sides, or no port. -/
def State.exchange (s : State) (p peerMask : Nat) : State :=
  let m := s.ownLanes p &&& peerMask
  match laneChoice m with
  | none => s.portDown p
  | some (act, w) => (s.putPort p { s.port p with peerMask := some peerMask }).setLanes p psRetrain m act w

/-- R388, R390, R398: PORT_RETRAIN: a retrain of either partner, and of a port in CONFLICT. -/
def execPortRetrain (port peerMask : Nat) (s : State) : Res :=
  .next (if port ≥ 12 then s
    else if s.portState port = psUp ∨ s.portState port = psConflict then (s.startRetrain port).exchange port peerMask
    else if s.portState port = psRetrain then s.exchange port peerMask
    else s)

/-- R403: the low mode governs a port: this module or its partner is in Aestivation. -/
def State.mustBeLow (s : State) (p : Nat) : Bool := s.power == .aest || (s.port p).peerLow

/-- R387, R389, R403: RETRAIN_DONE: once the masks are exchanged the port is up at its new width; the replay that waited runs, and the
partners greet. -/
def execRetrainDone (port : Nat) (s : State) : Res :=
  .next (if port ≥ 12 || s.portState port ≠ psRetrain || (s.port port).peerMask.isNone then s
    else
      let x := s.port port
      let s := (s.putPort port { x with fails := 0, after := none, peerMask := none }).setPortState port psUp
      let s := if s.mustBeLow port then s.enterLow port else s
      let s := match x.after with
        | none => s
        | some q => s.replayFrom port q
      ((s.sendHello port).returnCredits port).pump port)

/-- R389, R391: RETRAIN_TIMEOUT: the third in a row takes the port down; the others retrain again. -/
def execRetrainTimeout (port : Nat) (s : State) : Res :=
  .next (if port ≥ 12 || s.portState port ≠ psRetrain then s
    else
      let x := s.port port
      if x.fails + 1 ≥ 3 then s.portDown port
      else (s.putPort port { x with fails := x.fails + 1 }).startRetrain port)

/-- R391: PORT_TRAIN_RETRY: a down port is trained again on the lanes that pass. -/
def execPortTrainRetry (port lanes : Nat) (s : State) : Res :=
  .next (if port ≥ 12 || !s.live || s.portState port ≠ psDown || !bitAt s.conf.portMask port then s
    else
      let bad := (s.port port).unhealthy
      let m := lanes % 256 - (lanes % 256 &&& bad)
      if m = 0 then s
      else
        ((s.trainUp port m (s.power == .aest)).sendHello port).firstUp)

/-! The partner (R398, R400, R403). -/

/-- R398: HELLO: a conflict of module IDs, or the partner recorded in SEIF_PEER (R411). -/
def execHello (port id peerPort inc : Nat) (s : State) : Res :=
  .next (if port ≥ 12 || !s.portUp port then s
    else
      let m := s.member id
      if id = s.ownId ∨ (m.state = 1 ∧ m.inc ≠ inc) then
        (s.setPortState port psConflict).raise (Ev.plain (islPort port) evPortConflict (leBytes 1 port ++ leBytes 2 id ++ leBytes 8 inc))
      else
        let s := s.putReg (Reg.SEIF_PEER port) (inc % 2 ^ 16 * 2 ^ 48 + peerPort % 16 * 2 ^ 18 + id % 2 ^ 14)
        s.putPort port { s.port port with peerInc := inc })

/-- R378, R400: HEARTBEAT. -/
def execHeartbeat (port : Nat) (s : State) : Res :=
  .next (if port < 12 && s.portUp port then s.sendControl port (leBytes 1 2) else s)

/-- R391, R400: HEARTBEAT_MISS. -/
def execHeartbeatMiss (port : Nat) (s : State) : Res :=
  .next (if port < 12 && s.portUp port then s.portDown port else s)

/-- R405: traffic of another lane than 0 waits for a port: this module's own, or flits to be forwarded. -/
def State.waitsFor (s : State) (p : Nat) : Bool :=
  (s.port p).waiting.any (fun f => f.vl != 0) ||
    (List.range 12).any (fun q => (s.port q).slots.any (fun f => f.vl != 0 && f.dst != s.ownId && s.route f.dst == .port p))

/-- R405: WAKE_FLIT_SEND: traffic of another lane than 0 waits for a partner in Aestivation. -/
def execWakeFlitSend (port : Nat) (s : State) : Res :=
  .next (let x := s.port port
    if port < 12 && s.portState port == psLow && x.peerLow && s.power == .ready && s.waitsFor port then
      let f := mkFlit (s.fld (Reg.SEIF_PEER port) Fld.SEIF_PEER_MODULE) s.ownId 3 7 0 1 []
      (s.putPort port { x with waiting := f :: x.waiting }).pump port
    else s)

/-- R403, R405: PARTNER_LOW_MODE: the port follows its partner into the low mode; a partner that leaves it wakes the port in the
stages of R405. -/
def execPartnerLowMode (port : Nat) (low : Bool) (s : State) : Res :=
  .next (if port ≥ 12 || !s.portUp port then s
    else
      let x := s.port port
      if low then (s.putPort port { x with peerLow := true, wakeStage := 0 }).enterLow port
      else s.putPort port { x with peerLow := false, wakeStage := if s.power = .aest then 0 else 1 })

/-! Aestivation (R403 to R406, R585, R586). -/

/-- R585: what the core rails had held is gone: scratchpads are zeroed, LOADED of each resident region is clear, caches and
translations are empty. -/
def State.rampCores (s : State) : State :=
  let s := s.initSpads allCores
  let s := allCores.foldl (fun s c => [0, 1].foldl (fun s n => s.setFld (Reg.SPAD_RES c n) Fld.SPAD_RESn_LOADED 0) s) s
  allCores.foldl (fun s c =>
    let k := s.core c
    s.putCore c { k with progs := [], tlb := [], walks := [], cache := [], plru := [], misses := [], tokens := 0 }) s

/-- R405, R585: the module wakes: Ready again, its ports in the stages of R405 unless the partner sleeps. -/
def State.wakeUp (s : State) : State :=
  let s := { s with power := .ready }.rampCores
  ((List.range 12).filter (fun p => s.portState p == psLow && !(s.port p).peerLow)).foldl (fun s p =>
    s.putPort p { s.port p with wakeStage := 1 }) s

/-- R404: every sequenced flit of every port is acknowledged, every receive slot empty, and no port retrains. -/
def State.portsQuiet (s : State) : Bool :=
  (List.range 12).all (fun p => s.portIsDown p || (s.portState p != psRetrain && (s.port p).retry.isEmpty && (s.port p).slots.isEmpty))

/-- R404, R406, R583: the module enters Aestivation: credits return, the ports switch, and the core rails go off; a wake that came while
it entered runs now. -/
def State.enterAest (s : State) : State :=
  let ps := (List.range 12).filter s.portUp
  let s := ps.foldl (fun s p => s.returnCredits p) s
  let s := ps.foldl (fun s p => s.enterLow p) s
  let wake := s.wadi.aestWake
  let s := { s with power := .aest, wadi := { s.wadi with aestEnter := false, aestWake := false } }
  if wake then s.wakeUp else s

/-- R404, R586: a requested entry takes place once no context holds a launched step and the ports are quiet. -/
def State.tryAest (s : State) : State :=
  if s.wadi.aestEnter && s.ready && !s.launched && s.portsQuiet then s.enterAest else s

/-- R404, R586: AESTIVATION_ENTRY. -/
def execAestivationEntry (s : State) : Res := .next s.tryAest

/-- R406, R586: an entry is under way: it waits for the ports alone. -/
def State.entering (s : State) : Bool := s.power != .aest && s.wadi.aestEnter && !s.launched

/-- R405, R406: a wake that is accepted: the module wakes, or will once the entry under way has completed. -/
def State.wake (s : State) : State :=
  if s.power = .aest then s.wakeUp else if s.entering then { s with wadi := { s.wadi with aestWake := true } } else s

/-- R405, R406: WAKE: a partner's wake flit; without AEST_WAKE_BY_PEER it is only counted. -/
def execWake (port : Nat) (s : State) : Res :=
  .next (if port ≥ 12 || !s.portUp port then s
    else
      let s := s.putPort port { s.port port with wakes := (s.port port).wakes + 1 }
      if s.fld (Reg.SEIF_CTL port) Fld.SEIF_CTL_AEST_WAKE_BY_PEER = 1 then s.wake else s)

/-- R405: WAKE_STAGE: first the kept lane carries every virtual lane again, then the port retrains to its widest width under R388. -/
def execWakeStage (port : Nat) (s : State) : Res :=
  .next (if port ≥ 12 || s.power == .aest then s
    else
      let x := s.port port
      if x.wakeStage = 1 ∧ s.portState port = psLow then
        (((s.putPort port { x with wakeStage := 2 }).setPortState port psUp).returnCredits port).pump port
      else if x.wakeStage = 2 ∧ s.portState port = psUp then (s.putPort port { x with wakeStage := 0 }).startRetrain port
      else s)

/-- R404, R564, R586: AESTIVATE, enter: carried out at once, or deferred while a step is launched. -/
def execAestivateEnter (hdr : FrameHdr) (s : State) : Res :=
  .next (s.manageMantis hdr 0x09 (fun s =>
    if s.power = .aest then s.mgmtReply 0x09 hdr.reqId stOk 0 0 []
    else
      let s := { s with wadi := { s.wadi with aestEnter := true } }
      (s.mgmtReply 0x09 hdr.reqId stOk (if s.launched then flDeferred else 0) 0 []).tryAest))

/-- R405, R406, R564, R586: AESTIVATE, wake: it cancels a deferred entry; one under way completes first. -/
def execAestivateWake (hdr : FrameHdr) (s : State) : Res :=
  .next (s.manageMantis hdr 0x09 (fun s =>
    let s := if s.entering then s else { s with wadi := { s.wadi with aestEnter := false } }
    s.wake.mgmtReply 0x09 hdr.reqId stOk 0 0 []))

end Sys2Proof.Machine
end

