-- ==== Sys2Proof/Machine/Selftest.lean ====
section
/-!
DEFINITION. Tests during work (R328, R330, R491): the self-test of one core, by management message or by the Hamada's schedule, and the
test of the whole module.
-/
namespace Sys2Proof.Machine

/-! One core. -/

/-- R328: a self-test of a core is asked for. A core already fenced is not tested: its request is answered with a failure (DESIGN
CHOICE: log 41). -/
def State.askTest (s : State) (c : Nat) (reply : List Nat) : State :=
  let k := s.core c
  let s := s.putCore c { k with testReq := k.testReq ++ reply, test := if k.test = 0 then 3 else k.test }
  if s.fenced c then (s.answerTests c false 0).putCore c { s.core c with testReq := [], test := 0 } else s.nextTests

/-- R328, R330, R564: SELF_TEST. -/
def execSelfTest (hdr : FrameHdr) (unit : Nat) (s : State) : Res :=
  .next (s.manageMantis hdr 0x08 (fun s =>
    if unit = 0xFFFF then
      (s.withWadi (fun w => { w with modTest := true })).mgmtReply 0x08 hdr.reqId stOk flDeferred 0 []
    else if unit ≥ 288 then s.mgmtReply 0x08 hdr.reqId stFormat 0 0 []
    else s.askTest unit [hdr.reqId]))

/-- R328: HAMADA_SCHEDULED_TEST. -/
def execHamadaScheduledTest (core : Nat) (s : State) : Res :=
  .next (if s.ready && core < 288 && !s.fenced core then s.askTest core [] else s)

/-- R491: TEST_RESULT. -/
def testResult (unit : Nat) (pass whole : Bool) : Ev :=
  Ev.plain islHamada evTestResult (leBytes 2 unit ++ leBytes 1 (Config.testCode pass) ++ leBytes 1 (if whole then 1 else 0))

/-- R328: CORE_TEST_DONE: a core that passes is free again; one that fails is fenced. -/
def execCoreTestDone (core : Nat) (pass : Bool) (s : State) : Res :=
  .next (if !s.live || core ≥ 288 || (s.core core).test != 2 then s
    else
      let ev := s.evSeq
      let s := (s.raise (testResult core pass false)).answerTests core pass ev
      let s := s.putCore core { s.core core with test := 0, testReq := [] }
      (if pass then s else s.fenceCore core 0).nextTests.settle)

/-! The whole module. -/

/-- R330: MODULE_TEST: a requested test begins once the module is quiescent. -/
def execModuleTest (s : State) : Res :=
  .next (if s.ready && s.wadi.modTest && !s.launched && s.wadi.reqs.isEmpty then
      s.withWadi (fun w => { w with modTest := false, testing := true })
    else s)

/-- R330: a unit that failed the whole-module test is fenced: a core, Mantis core 0x200 + m, or the Erg engine of stack 0x300 + t
(DESIGN CHOICE: log 41). -/
def State.fenceUnit (s : State) (u : Nat) : State :=
  if u < 288 then s.fenceCore u 0
  else if 0x200 ≤ u ∧ u < 0x210 then (if s.mantisFenced (u - 0x200) then s else s.loseMantis (u - 0x200))
  else if 0x300 ≤ u ∧ u < 0x30C then (if s.fld (Reg.ERG_STATUS (u - 0x300)) Fld.ERG_STATUS_STATE = 3 then s else s.engineFails (u - 0x300) 0)
  else s

/-- R330: MODULE_TEST_END: the result, with an event for each unit that failed, their fences, and the submissions that waited. -/
def execModuleTestEnd (failed : List Nat) (s : State) : Res :=
  .next (if !s.wadi.testing then s
    else
      let s := s.withWadi (fun w => { w with testing := false })
      let s := s.raise (testResult 0xFFFF failed.isEmpty true)
      (failed.foldl (fun s u => (s.raise (testResult u false true)).fenceUnit u) s).settle.workRequests)

end Sys2Proof.Machine
end

