-- ==== Sys2Proof/Machine/Dispatch.lean ====
section
/-!
DEFINITION. The dispatch of a command to its meaning, one arm per row of the table of operations and events.
-/
namespace Sys2Proof.Machine

/-- The effect of a command on everything but the queue of commands. -/
def exec (i : Instr) (s : State) : Host.Outcome State Fault Refusal :=
  match i with
  | .powerOn vin mated straps => Sys2Proof.Machine.execPowerOn vin mated straps s
  | .inputOff vin => Sys2Proof.Machine.execInputOff vin s
  | .currentFault held peak => Sys2Proof.Machine.execCurrentFault held peak s
  | .hotSwapRetry vin mated straps => Sys2Proof.Machine.execHotSwapRetry vin mated straps s
  | .presentOpen => Sys2Proof.Machine.execPresentOpen s
  | .startStep unit pass mask rnd => Sys2Proof.Machine.execStartStep unit pass mask rnd s
  | .startStepLimit unit => Sys2Proof.Machine.execStartStepLimit unit s
  | .powerSample vin iin pavg windowEnd t0 t1 stackTemps cyc rail => Sys2Proof.Machine.execPowerSample vin iin pavg windowEnd t0 t1 stackTemps cyc rail s
  | .clockStep die thermal => Sys2Proof.Machine.execClockStep die thermal s
  | .clockChange die => Sys2Proof.Machine.execClockChange die s
  | .corePark die => Sys2Proof.Machine.execCorePark die s
  | .coreUnpark die => Sys2Proof.Machine.execCoreUnpark die s
  | .lockstepMismatch cause cyc => Sys2Proof.Machine.execLockstepMismatch cause cyc s
  | .mantisHeartbeat m => Sys2Proof.Machine.execMantisHeartbeat m s
  | .mantisFailover m => Sys2Proof.Machine.execMantisFailover m s
  | .bridgeFailure retries trainFail => Sys2Proof.Machine.execBridgeFailure retries trainFail s
  | .coreFence core reason => Sys2Proof.Machine.execCoreFence core reason s
  | .scrubDone => Sys2Proof.Machine.execScrubDone s
  | .helloC nonce nodeKey kemKey nm kemRnd => Sys2Proof.Machine.execHelloC nonce nodeKey kemKey nm kemRnd s
  | .finishC sig => Sys2Proof.Machine.execFinishC sig s
  | .endSession hdr => Sys2Proof.Machine.execEndSession hdr s
  | .submitGroup hdr desc len tag place peers => Sys2Proof.Machine.execSubmitGroup hdr desc len tag place peers s
  | .heldAdmission => Sys2Proof.Machine.execHeldAdmission s
  | .stepWord hdr word => Sys2Proof.Machine.execStepWord hdr word s
  | .endGroup hdr tag => Sys2Proof.Machine.execEndGroup hdr tag s
  | .bulkWrite hdr addr data => Sys2Proof.Machine.execBulkWrite hdr addr data s
  | .bulkAck reqId => Sys2Proof.Machine.execBulkAck reqId s
  | .bulkRead hdr addr len => Sys2Proof.Machine.execBulkRead hdr addr len s
  | .regRead hdr addrs => Sys2Proof.Machine.execRegRead hdr addrs s
  | .regWrite hdr pairs => Sys2Proof.Machine.execRegWrite hdr pairs s
  | .commitQuery hdr task => Sys2Proof.Machine.execCommitQuery hdr task s
  | .routes hdr first entries => Sys2Proof.Machine.execRoutes hdr first entries s
  | .windowOpen hdr core req => Sys2Proof.Machine.execWindowOpen hdr core req s
  | .windowClose hdr entry gen => Sys2Proof.Machine.execWindowClose hdr entry gen s
  | .shadowSwitch hdr tag copy version => Sys2Proof.Machine.execShadowSwitch hdr tag copy version s
  | .selfTest hdr unit => Sys2Proof.Machine.execSelfTest hdr unit s
  | .coreTestDone core pass => Sys2Proof.Machine.execCoreTestDone core pass s
  | .moduleTest => Sys2Proof.Machine.execModuleTest s
  | .aestivateEnter hdr => Sys2Proof.Machine.execAestivateEnter hdr s
  | .aestivationEntry => Sys2Proof.Machine.execAestivationEntry s
  | .aestivateWake hdr => Sys2Proof.Machine.execAestivateWake hdr s
  | .wakeStage port => Sys2Proof.Machine.execWakeStage port s
  | .powerCap hdr watts => Sys2Proof.Machine.execPowerCap hdr watts s
  | .ledgerRead hdr first count => Sys2Proof.Machine.execLedgerRead hdr first count s
  | .flashWrite hdr dev off data => Sys2Proof.Machine.execFlashWrite hdr dev off data s
  | .clear hdr step unit => Sys2Proof.Machine.execClear hdr step unit s
  | .restart hdr => Sys2Proof.Machine.execRestart hdr s
  | .svnRaise hdr kind => Sys2Proof.Machine.execSvnRaise hdr kind s
  | .setActive hdr kind image => Sys2Proof.Machine.execSetActive hdr kind image s
  | .attestationRequest hdr nonce => Sys2Proof.Machine.execAttestationRequest hdr nonce s
  | .events count => Sys2Proof.Machine.execEvents count s
  | .completions ctx count => Sys2Proof.Machine.execCompletions ctx count s
  | .tokens ctx count => Sys2Proof.Machine.execTokens ctx count s
  | .sidebandRead cmd => Sys2Proof.Machine.execSidebandRead cmd s
  | .bypass die => Sys2Proof.Machine.execBypass die s
  | .idcode die => Sys2Proof.Machine.execIdcode die s
  | .samplePreload die pins => Sys2Proof.Machine.execSamplePreload die pins s
  | .extest die => Sys2Proof.Machine.execExtest die s
  | .trst => Sys2Proof.Machine.execTrst s
  | .sliceBoundary => Sys2Proof.Machine.execSliceBoundary s
  | .coreMove core => Sys2Proof.Machine.execCoreMove core s
  | .stepLaunch ctx => Sys2Proof.Machine.execStepLaunch ctx s
  | .stepReplay ctx => Sys2Proof.Machine.execStepReplay ctx s
  | .stepCommit ctx tokens => Sys2Proof.Machine.execStepCommit ctx tokens s
  | .grantRequest core => Sys2Proof.Machine.execGrantRequest core s
  | .grantArrival core => Sys2Proof.Machine.execGrantArrival core s
  | .tileStart core g => Sys2Proof.Machine.execTileStart core g s
  | .tileEnd core g => Sys2Proof.Machine.execTileEnd core g s
  | .tileWdogExpiry core g => Sys2Proof.Machine.execTileWdogExpiry core g s
  | .nop core g pf => Sys2Proof.Machine.execNop core g pf s
  | .load core g pf => Sys2Proof.Machine.execLoad core g pf s
  | .loadComplete core => Sys2Proof.Machine.execLoadComplete core s
  | .matchOp core g pf => Sys2Proof.Machine.execMatchOp core g pf s
  | .mma core g pf => Sys2Proof.Machine.execMma core g pf s
  | .rowfn core g pf => Sys2Proof.Machine.execRowfn core g pf s
  | .mma2 core g pf => Sys2Proof.Machine.execMma2 core g pf s
  | .drain core g pf => Sys2Proof.Machine.execDrain core g pf s
  | .ksplitCombine core => Sys2Proof.Machine.execKsplitCombine core s
  | .store core g pf => Sys2Proof.Machine.execStore core g pf s
  | .storeComplete core => Sys2Proof.Machine.execStoreComplete core s
  | .tokwait core g pf => Sys2Proof.Machine.execTokwait core g pf s
  | .tokwaitPass core g pf => Sys2Proof.Machine.execTokwaitPass core g pf s
  | .tokpost core g pf => Sys2Proof.Machine.execTokpost core g pf s
  | .tokpostEffect core g pf => Sys2Proof.Machine.execTokpostEffect core g pf s
  | .fence core g pf => Sys2Proof.Machine.execFence core g pf s
  | .fencePass core g pf => Sys2Proof.Machine.execFencePass core g pf s
  | .pruneRequest core req => Sys2Proof.Machine.execPruneRequest core req s
  | .streamEnd core => Sys2Proof.Machine.execStreamEnd core s
  | .seti core => Sys2Proof.Machine.execSeti core s
  | .addi core => Sys2Proof.Machine.execAddi core s
  | .muli core => Sys2Proof.Machine.execMuli core s
  | .andi core => Sys2Proof.Machine.execAndi core s
  | .shri core => Sys2Proof.Machine.execShri core s
  | .add core => Sys2Proof.Machine.execAdd core s
  | .sub core => Sys2Proof.Machine.execSub core s
  | .mul core => Sys2Proof.Machine.execMul core s
  | .ldc core => Sys2Proof.Machine.execLdc core s
  | .ldp core => Sys2Proof.Machine.execLdp core s
  | .loopOp core => Sys2Proof.Machine.execLoopOp core s
  | .endl core => Sys2Proof.Machine.execEndl core s
  | .jge core => Sys2Proof.Machine.execJge core s
  | .emit core => Sys2Proof.Machine.execEmit core s
  | .antRowArrival core row bad => Sys2Proof.Machine.execAntRowArrival core row bad s
  | .streamReadResponse core tracker epoch err => Sys2Proof.Machine.execStreamReadResponse core tracker epoch err s
  | .strmRespTimeout core tracker => Sys2Proof.Machine.execStrmRespTimeout core tracker s
  | .streamCancel core => Sys2Proof.Machine.execStreamCancel core s
  | .cacheFill core line => Sys2Proof.Machine.execCacheFill core line s
  | .xltInvalidate core value => Sys2Proof.Machine.execXltInvalidate core value s
  | .invalidate core => Sys2Proof.Machine.execInvalidate core s
  | .spadSplitWrite core value => Sys2Proof.Machine.execSpadSplitWrite core value s
  | .spqEnable q value => Sys2Proof.Machine.execSpqEnable q value s
  | .flush q => Sys2Proof.Machine.execFlush q s
  | .flushEffect q => Sys2Proof.Machine.execFlushEffect q s
  | .release q => Sys2Proof.Machine.execRelease q s
  | .rewind q => Sys2Proof.Machine.execRewind q s
  | .mark q => Sys2Proof.Machine.execMark q s
  | .clearMark q => Sys2Proof.Machine.execClearMark q s
  | .spqPush q data last => Sys2Proof.Machine.execSpqPush q data last s
  | .spqRead q => Sys2Proof.Machine.execSpqRead q s
  | .spqTimeout q => Sys2Proof.Machine.execSpqTimeout q s
  | .spqCloseArrival q => Sys2Proof.Machine.execSpqCloseArrival q s
  | .spqCreditReturn q => Sys2Proof.Machine.execSpqCreditReturn q s
  | .winOpenCmd entry value => Sys2Proof.Machine.execWinOpenCmd entry value s
  | .winCloseCmd entry => Sys2Proof.Machine.execWinCloseCmd entry s
  | .registerWrite addr size value => Sys2Proof.Machine.execRegisterWrite addr size value s
  | .ergRecordSend ctx => Sys2Proof.Machine.execErgRecordSend ctx s
  | .gather stack => Sys2Proof.Machine.execGather stack s
  | .scatter stack => Sys2Proof.Machine.execScatter stack s
  | .merge stack => Sys2Proof.Machine.execMerge stack s
  | .intersect stack => Sys2Proof.Machine.execIntersect stack s
  | .decompress stack => Sys2Proof.Machine.execDecompress stack s
  | .topkRow stack => Sys2Proof.Machine.execTopkRow stack s
  | .sumCheck stack => Sys2Proof.Machine.execSumCheck stack s
  | .decodeAttn stack => Sys2Proof.Machine.execDecodeAttn stack s
  | .decodeAttnMerge ctx => Sys2Proof.Machine.execDecodeAttnMerge ctx s
  | .ergOpTimeout stack => Sys2Proof.Machine.execErgOpTimeout stack s
  | .hbmPatrol stack off odecc => Sys2Proof.Machine.execHbmPatrol stack off odecc s
  | .pchNoResponse stack => Sys2Proof.Machine.execPchNoResponse stack s
  | .flitReceive port bytes codes => Sys2Proof.Machine.execFlitReceive port bytes codes s
  | .flitForward port vl => Sys2Proof.Machine.execFlitForward port vl s
  | .messageQueueCommit port vl => Sys2Proof.Machine.execMessageQueueCommit port vl s
  | .nak port seq => Sys2Proof.Machine.execNak port seq s
  | .seifRetryTimeout port => Sys2Proof.Machine.execSeifRetryTimeout port s
  | .laneUnhealthy port lane => Sys2Proof.Machine.execLaneUnhealthy port lane s
  | .portRetrain port peerMask => Sys2Proof.Machine.execPortRetrain port peerMask s
  | .retrainDone port => Sys2Proof.Machine.execRetrainDone port s
  | .retrainTimeout port => Sys2Proof.Machine.execRetrainTimeout port s
  | .portTrainRetry port lanes => Sys2Proof.Machine.execPortTrainRetry port lanes s
  | .hello port id peerPort inc => Sys2Proof.Machine.execHello port id peerPort inc s
  | .join port id inc ann => Sys2Proof.Machine.execJoin port id inc ann s
  | .withdraw port id inc ann => Sys2Proof.Machine.execWithdraw port id inc ann s
  | .departed port id inc ann => Sys2Proof.Machine.execDeparted port id inc ann s
  | .heartbeat port => Sys2Proof.Machine.execHeartbeat port s
  | .heartbeatMiss port => Sys2Proof.Machine.execHeartbeatMiss port s
  | .wake port => Sys2Proof.Machine.execWake port s
  | .wakeFlitSend port => Sys2Proof.Machine.execWakeFlitSend port s
  | .creditRequest src entry gen count => Sys2Proof.Machine.execCreditRequest src entry gen count s
  | .windowCreditGrant mcast handle rcv gen size count status => Sys2Proof.Machine.execWindowCreditGrant mcast handle rcv gen size count status s
  | .windowWrite src hdr data => Sys2Proof.Machine.execWindowWrite src hdr data s
  | .windowReadRequest src hdr => Sys2Proof.Machine.execWindowReadRequest src hdr s
  | .windowReadResponse src core tracker epoch reply => Sys2Proof.Machine.execWindowReadResponse src core tracker epoch reply s
  | .writeAcknowledgement mcast handle core status unit => Sys2Proof.Machine.execWriteAcknowledgement mcast handle core status unit s
  | .finishNotice entry gen bytes => Sys2Proof.Machine.execFinishNotice entry gen bytes s
  | .closingNotice src entry gen => Sys2Proof.Machine.execClosingNotice src entry gen s
  | .creditReturn src entry gen count slot => Sys2Proof.Machine.execCreditReturn src entry gen count slot s
  | .winCloseTimeout entry => Sys2Proof.Machine.execWinCloseTimeout entry s
  | .multicastUnitSend group rcv => Sys2Proof.Machine.execMulticastUnitSend group rcv s
  | .multicastDetach late => Sys2Proof.Machine.execMulticastDetach late s
  | .swarmDigest src hdr digest => Sys2Proof.Machine.execSwarmDigest src hdr digest s
  | .swarmPartial src hdr data => Sys2Proof.Machine.execSwarmPartial src hdr data s
  | .checkCopy src hdr data => Sys2Proof.Machine.execCheckCopy src hdr data s
  | .swarmGather src hdr entry data => Sys2Proof.Machine.execSwarmGather src hdr entry data s
  | .ready src hdr => Sys2Proof.Machine.execReady src hdr s
  | .norm src hdr q => Sys2Proof.Machine.execNorm src hdr q s
  | .committed src hdr => Sys2Proof.Machine.execCommitted src hdr s
  | .swarmCommitQuery src hdr word => Sys2Proof.Machine.execSwarmCommitQuery src hdr word s
  | .takeoverNotice src id entries => Sys2Proof.Machine.execTakeoverNotice src id entries s
  | .takeoverDone rebuilt => Sys2Proof.Machine.execTakeoverDone rebuilt s
  | .memoryWriteAck core => Sys2Proof.Machine.execMemoryWriteAck core s
  | .tableWalk core => Sys2Proof.Machine.execTableWalk core s
  | .moduleTestEnd failed => Sys2Proof.Machine.execModuleTestEnd failed s
  | .hamadaScheduledTest core => Sys2Proof.Machine.execHamadaScheduledTest core s
  | .frameDiscard cause => Sys2Proof.Machine.execFrameDiscard cause s
  | .wadiLos los up => Sys2Proof.Machine.execWadiLos los up s
  | .partnerLowMode port low => Sys2Proof.Machine.execPartnerLowMode port low s

end Sys2Proof.Machine
end

