-- ==== Sys2Proof/Safety.lean ====
section
/-!
DEFINITION. What counts as a sound state and a safe run: the memory, the flash and every table of the state in their one canonical form, so that equal contents are equal data, and a run that neither faults nor refuses; and the words in which statements speak of a command.
-/
namespace Sys2Proof.Machine

/-- The memory is canonical and lists nothing outside HBM, the scratchpads and the Erg SRAMs (R6). -/
def memOk (m : List Host.Cell) : Bool := Memory.wf m && m.all (fun c => isMemory c.1)

/-- The register file is canonical: addresses rise, and no entry equals its register's reset value. -/
def regsOk (m : Table Word) : Bool := tsorted m && m.all (fun p => p.2 != resetWord p.1)

/-- The invariant of the machine: memory, flash and every table canonical. -/
def State.sound (s : State) : Bool :=
  memOk s.mem && regsOk s.regs && Table.wf 0xFF s.flash0 && Table.wf 0xFF s.flash1 && Table.wf .erased s.ledger0 &&
    Table.wf .erased s.ledger1 && Table.wf .idle s.queues && Table.wf .idle s.ports && Table.wf 0 s.routes &&
    Table.wf .absent s.members && Table.wf .idle s.wins && Table.wf .none s.handles && Table.wf .idle s.mcasts &&
    Table.wf .none s.groups && Table.wf .idle s.ctxs && Table.wf .idle s.cores &&
    Table.wf [] s.spadAcc && Table.wf [] s.ant && Table.wf .idle s.stackTab

/-- A run of `n` steps from a state: the state it ends in, none where a step faults or refuses. -/
def runSteps : Nat → State → Option State
  | 0, s => some s
  | n + 1, s =>
    match step s with
    | .next t => runSteps n t
    | .fault _ => none
    | .refused _ => none

/-- A state is safe when no run from it faults or is refused. -/
def Safe (s : State) : Prop := ∀ n, (runSteps n s).isSome

/-- A command answers a next state that has a property. -/
def Gives (c : Instr) (s : State) (P : State → Prop) : Prop := ∃ t : State, exec c s = .next t ∧ P t

/-- A field of a register reads as a value, cut to the width of the field. -/
def Shows (t : State) (a : Nat) (f : Fld) (x : Nat) : Prop := t.fld a f = x % 2 ^ (f.hi + 1 - f.lo)

/-- Nothing differs but registers. -/
def OnlyRegs (s t : State) : Prop := { t with regs := s.regs } = s

/-- The compute rails are off and the module is withdrawn (R485, R519). -/
def WithdrawnTo (t : State) : Prop :=
  t.power = .hold ∧ t.hmd.withdrawn = true ∧ Shows t Reg.START_STATUS Fld.START_STATUS_HOLD 1 ∧ t.mem = [] ∧ t.queues = [] ∧
    t.ports = [] ∧ t.wins = [] ∧ t.handles = [] ∧ t.mcasts = [] ∧ t.groups = [] ∧ t.ctxs = [] ∧ t.cores = [] ∧ t.stackTab = []

/-- `t` differs from `s` at most in registers, memory, queues, the accesses noted at the scratchpads and free values used: what an event
can touch (R489). -/
def OnlyRaised (s t : State) : Prop :=
  t = { s with
    regs := t.regs, mem := t.mem, badBytes := t.badBytes, badAcc := t.badAcc, softAcc := t.softAcc, queues := t.queues
    spadAcc := t.spadAcc, free := t.free }

/-- `t` differs from `s` at most in registers, output, the Wadi port and the session: what a frame that leaves can touch. -/
def OnlySent (s t : State) : Prop := t = { s with regs := t.regs, out := t.out, wadi := t.wadi, hmd := t.hmd }

/-- `s` with the parts of `t` that a request and its reply touch: registers, output, the credits and kept replies of the Wadi port
and the session's keys and counters. -/
def State.ReplyParts (s t : State) : State :=
  { s with
    regs := t.regs
    out := t.out
    wadi := { s.wadi with
      nodeReq := t.wadi.nodeReq, nodeBulk := t.wadi.nodeBulk, nodeMgmt := t.wadi.nodeMgmt
      retReq := t.wadi.retReq, retBulk := t.wadi.retBulk, retMgmt := t.wadi.retMgmt
      bulkKept := t.wadi.bulkKept, mgmtKept := t.wadi.mgmtKept }
    hmd := { s.hmd with
      sessOpen := t.hmd.sessOpen, keyNode := t.hmd.keyNode, keyMod := t.hmd.keyMod, lastRx := t.hmd.lastRx
      nextTx := t.hmd.nextTx, authFails := t.hmd.authFails } }

/-- Nothing differs but what a request and its reply touch; of the registers, the frames accepted and the session. -/
def OnlyReplied (s t : State) : Prop :=
  t = s.ReplyParts t ∧ ∀ a, a ≠ Reg.WADI_RX_CNT → a ≠ Reg.HMD_SESSION → t.reg a = s.reg a

/-- The bytes of the spill region that a word's slot covers (R278). -/
def InSlot (c : QCfg) (w : QWord) (a : Nat) : Prop :=
  ∃ i, w.slot = some i ∧ ((c.base + 64 * i ≤ a ∧ a < c.base + 64 * i + 64) ∨
    (c.base + 64 * c.region + 8 * i ≤ a ∧ a < c.base + 64 * c.region + 8 * i + 8))

/-- The counters of corrected reads (R342, R349) and of meetings at a scratchpad (R214). -/
def ReadsAndMeetings (a : Nat) : Prop :=
  (∃ k, k < 12 ∧ (a = Reg.HBM_ECC_CNT k ∨ a = Reg.ERG_SRAM_ECC k)) ∨ ∃ c, c < 288 ∧ a = Reg.SPAD_ROW_COLLIDE c

/-- Nothing differs but queue `q`, the bytes of the slots of its words, and the registers listed; and what moving words to and from
the region touches: corrected reads with their counters, and accesses noted at a scratchpad with what they meet. -/
def OnlyQueue (s t : State) (q : Nat) (cnt : List Nat) : Prop :=
  (∀ k, k ≠ q → t.queue k = s.queue k) ∧ (∀ a, a ∉ cnt → ¬ ReadsAndMeetings a → t.reg a = s.reg a) ∧
    (∀ a, (∀ w ∈ (t.queue q).words, ¬ InSlot (s.qcfg q) w a) → t.byte a = s.byte a) ∧
    { t with
      regs := s.regs, queues := s.queues, mem := s.mem, badBytes := s.badBytes, badAcc := s.badAcc, softAcc := s.softAcc
      spadAcc := s.spadAcc, free := s.free } = s

/-- One record written at slot `i` of each ledger device in use (R510, R511, R522). -/
def Recorded (s t : State) (i : Nat) (r : LedgerRec) : Prop :=
  (∀ d, d < 2 → bitAt s.start.devs d = true → t.slotOf d i = .full r) ∧
    (∀ d j, d < 2 → j ≠ i ∨ bitAt s.start.devs d = false → t.slotOf d j = s.slotOf d j) ∧
    Shows t Reg.LEDGER_STATUS Fld.LEDGER_STATUS_HEAD_SEQ r.seq ∧ Shows t Reg.LEDGER_STATUS Fld.LEDGER_STATUS_HEAD_SLOT i

/-- Nothing differs but core `c`. -/
def OnlyCore (s t : State) (c : Nat) : Prop := (∀ k, k ≠ c → t.core k = s.core k) ∧ { t with cores := s.cores } = s

/-- Nothing differs but context `x`. -/
def OnlyCtx (s t : State) (x : Nat) : Prop := (∀ k, k ≠ x → t.ctx k = s.ctx k) ∧ { t with ctxs := s.ctxs } = s

/-- The run of core `c` goes on at `pc` with the address registers and counters given, one instruction further; nothing else changes. -/
def RunGoes (s : State) (c : Nat) (f : Fetch) (pc : Nat) (a : Nat → BitVec 64) (n : Nat → BitVec 32) (t : State) : Prop :=
  ∃ r : ProgRun, t.core c = { s.core c with prog := some r } ∧ OnlyCore s t c ∧ r.op = f.r.op ∧ r.pc = pc ∧ r.insts = f.r.insts + 1 ∧
    r.emits = f.r.emits ∧ (∀ i < 16, r.ar i = a i) ∧ (∀ i < 8, nth 0 r.n i = n i)

/-- The run stands at an instruction of opcode `op` that is neither its last nor over the limit of R255. -/
def StandsAt (s : State) (c op : Nat) (f : Fetch) : Prop :=
  s.instAt c = some f ∧ spCode f.w = op ∧ f.r.insts < 16384 ∧ f.r.pc + 1 < f.e.code.length ∧ f.r.a.length = 16 ∧ f.r.n.length = 8

/-- R538, R553: what makes the Wadi port take a protected frame: the link is up and the session open, the tag verifies, and the
counter is larger than any before it and below the limit. -/
def Admissible (s : State) (h : FrameHdr) : Prop :=
  s.linkUp = true ∧ s.hmd.sessOpen = true ∧ h.tagOk = true ∧ h.counter < counterLimit ∧ ∀ l ∈ s.hmd.lastRx, l < h.counter

/-- R554, R556: a management or attestation request that is carried out: it came with a credit, and no reply is kept for its number. -/
def Accepts (s : State) (h : FrameHdr) : Prop :=
  Admissible s h ∧ 0 < s.wadi.nodeMgmt ∧ ∀ x ∈ s.wadi.mgmtKept, x.1 ≠ h.reqId

/-- R554, R556: a bulk request that is carried out. -/
def AcceptsBulk (s : State) (h : FrameHdr) : Prop :=
  Admissible s h ∧ 0 < s.wadi.nodeBulk ∧ ∀ x ∈ s.wadi.bulkKept, x.1 ≠ h.reqId

/-- A frame taken: its counter noted and the frame counted. -/
def State.taken (s : State) (h : FrameHdr) : State :=
  (s.withHmd (fun x => { x with lastRx := some h.counter })).bump Reg.WADI_RX_CNT Fld.WADI_RX_CNT_FRAMES 1

/-- The state in which an accepted management request is carried out: the frame taken, its credit spent, its number noted. -/
def State.accepted (s : State) (h : FrameHdr) : State :=
  (s.taken h).withWadi (fun w => { w.spend .mgmt 1 with mgmtKept := keepReply w.mgmtKept h.reqId none })

/-- The same for a bulk request. -/
def State.acceptedBulk (s : State) (h : FrameHdr) : State :=
  (s.taken h).withWadi (fun w => { w.spend .bulk 1 with bulkKept := keepReply w.bulkKept h.reqId none })

/-- One frame of class `cls` and type `type` leaves the module with the next counter, for request `req`, with body `body`. -/
def Replied (s t : State) (cls type req : Nat) (body : List Byte) : Prop :=
  ∃ f : OutFrame, t.out = s.out ++ [.frame f] ∧ f.cls = cls ∧ f.type = type ∧ f.reqId = req ∧ f.counter = s.hmd.nextTx ∧ f.body = body

/-- The operation `n` of a section can issue; the tile does not turn to another run position with it (R114, R148). -/
def IssuesAt (s : State) (c gi : Nat) (pf : Bool) (op : Nat) (n : Next) : Prop :=
  s.nextOp c gi pf = some n ∧ opCode n.w = op ∧ ((s.launchOf n.x).isPair = false ∨ (n.g.sect pf).pc + 1 < ((s.launchOf n.x).prog.section pf).length)

/-- The grant at `gi` changed by `f`, nothing else on the core. -/
def withGrant (x : Core) (gi : Nat) (f : Grant → Grant) : Core := { x with grants := mapAt x.grants gi f }

/-- A grant whose section has issued an operation, the section changed by `f` beside. -/
def stepSect (pf : Bool) (op : Nat) (f : Sect → Sect) (g : Grant) : Grant :=
  (if pf || op == opTokwait then g else { g with issued := true, wdog := true }).modSect pf
    (fun k => { f k with pc := k.pc + 1, seq := k.seq + 1 })

/-- Nothing differs but port `p`, what leaves the module, and the registers listed. -/
def OnlyPort (s t : State) (p : Nat) (rs : List Nat) : Prop :=
  (∀ k, k ≠ p → t.port k = s.port k) ∧ (∀ a, a ∉ rs → t.reg a = s.reg a) ∧ { t with ports := s.ports, regs := s.regs, out := s.out } = s

/-- Nothing differs but the ports and what leaves the module: what a message that leaves its slots, or one that is sent, touches. -/
def OnlyPorts (s t : State) : Prop := { t with ports := s.ports, out := s.out } = s

/-- Port `p` is the lowest that holds a single-flit message of module `src` which `k` picks; `a` and `b` stand before and after it in the
port's slots. -/
def HoldsAt (s : State) (src : Nat) (k : Flit → Bool) (p : Nat) (a b : List Flit) : Prop :=
  let hit (g : Flit) : Prop := g.dst = s.ownId ∧ g.src = src ∧ k g = true
  p < 12 ∧ (∃ f, (s.port p).slots = a ++ f :: b ∧ hit f ∧ f.msg = 3) ∧ (∀ g ∈ a, ¬ hit g) ∧
    ∀ q, q < p → ∀ g ∈ (s.port q).slots, ¬ hit g

/-- A flit, with the codewords it came in, that R379 does not discard. -/
def WellFlit (f : Flit) (codes : List Code) : Prop :=
  (∀ c ∈ codes, codeLost c = false) ∧ f.crcOk = true ∧ f.resOk = true ∧ f.type ≤ 3 ∧ f.kind ≤ 7

/-- The sequence numbers of a retry buffer follow one another (R384). -/
def Port.inOrder (x : Port) (first : Nat) : Prop := x.retry.length ≤ 512 ∧ ∀ i f, x.retry[i]? = some f → f.seq = (first + i) % 4096

/-- Nothing differs but port `p`, what leaves the module, the registers listed, and what an event touches: the event queue with its
bytes of memory and its accesses to it, the next event number, and free values used. -/
def OnlyPortEvents (s t : State) (p : Nat) (rs : List Nat) : Prop :=
  (∀ k, k ≠ p → t.port k = s.port k) ∧
    (∀ a, a ∉ Reg.FLT_EVT_SEQ :: Reg.SPQ_DROP_CNT qEvent :: rs → ¬ ReadsAndMeetings a → t.reg a = s.reg a) ∧
    (∀ q, q ≠ qEvent → t.queue q = s.queue q) ∧
    { t with
      ports := s.ports, regs := s.regs, out := s.out, mem := s.mem, badBytes := s.badBytes, badAcc := s.badAcc, softAcc := s.softAcc
      queues := s.queues, spadAcc := s.spadAcc, free := s.free } = s

/-- The flits of a list left on port `p`, in order, as they left first (R386). -/
def Resent (s t : State) (p : Nat) (l : List Flit) : Prop :=
  ∃ rest : List Out, t.out = s.out ++ l.map (fun f => .flit p (flitBytes f)) ++ rest

/-- A flit without the acknowledgement and the credits that a port adds as it leaves first, and without what is not sent (R378). -/
def bareFlit (f : Flit) : Flit := { f with ack := 0, ackValid := false, credits := 0, creditVl := 0 }

/-- R184, R186, R187: an agent writes `bs` at `a` into a scratchpad. Each byte holds what is written; where a write that comes first in
the order of R184 is under way over the byte, the two may meet and the byte may stay. Every other byte stays. -/
def Landed (s t : State) (u : SpadUnit) (a : Nat) (bs : List Byte) : Prop :=
  (∀ i, i < bs.length → t.byte (a + i) = nth 0 bs i ∨ (t.byte (a + i) = s.byte (a + i) ∧
    ∃ x ∈ s.accesses (spadCore a), x.write = true ∧ x.unit.rank < u.rank ∧ x.covers (a + i) = true)) ∧
    ∀ b, b < a ∨ a + bs.length ≤ b → t.byte b = s.byte b

/-- Nothing differs but memory with its check bits and what accesses to the scratchpad of core `c` touch: those noted there, the counts
of meetings (R214), and free values. -/
def OnlyAccessed (s t : State) (c : Nat) : Prop :=
  (∀ k, k ≠ c → t.accesses k = s.accesses k) ∧ (∀ a, a ≠ Reg.SPAD_ROW_COLLIDE c → t.reg a = s.reg a) ∧
    { t with
      regs := s.regs, mem := s.mem, badBytes := s.badBytes, badAcc := s.badAcc, softAcc := s.softAcc, spadAcc := s.spadAcc
      free := s.free } = s

end Sys2Proof.Machine
end

