-- ==== Sys2Proof/Certificates/Slice0/Obligations.lean ====
section
/-!
DEFINITION. The statements for the provers: what each family of commands does and leaves alone, from the rules of the manual, and the
invariant that every step keeps.
-/
open Sys2Proof Sys2Proof.Machine

/-- A step runs the command at the front of the queue: exec on the state whose queue is what stands behind it. The queue is the
model's own (log 1). -/
def Obligations.StepTakesFront : Prop :=
  ∀ (c : Instr) (rest : List Instr) (s : State), step { s with pending := c :: rest } = exec c { s with pending := rest }

/-- With no command waiting the block idles; the model's choice (log 1). -/
def Obligations.StepIdles : Prop := ∀ s : State, s.pending = [] → step s = .next s

/-- Every step of a sound state answers a sound state: memory stays canonical and lists nothing outside HBM, the scratchpads and
the Erg SRAMs (R6, R7), and so with the registers, the flash, the ledger and every table of units. -/
def Obligations.StepKeepsSound : Prop := ∀ s t : State, s.sound = true → step s = .next t → t.sound = true

/-- The state after reset meets the invariant. -/
def Obligations.ResetSound : Prop := State.reset.sound = true

/-- No command stops the block: each answers a next state, whose queue is the same, whose output begins with what had left the
module before, and which uses no free value again. -/
def Obligations.EveryCommandAnswers : Prop :=
  ∀ (c : Instr) (s : State), ∃ t : State, exec c s = .next t ∧ t.pending = s.pending ∧ s.out <+: t.out ∧ s.free ≤ t.free

/-- What a loss of power leaves (R580, R583): flash, and outside a start the ledger; every volatile part is gone. -/
def Sys2Proof.Machine.OffFrom (s t : State) (retry : Bool) : Prop :=
  t.power = .off ∧ t.retry = retry ∧ t.flash0 = s.flash0 ∧ t.flash1 = s.flash1 ∧ t.out = s.out ∧ t.pending = s.pending ∧
    (s.power ≠ .starting → t.ledger0 = s.ledger0 ∧ t.ledger1 = s.ledger1) ∧ t.regs = [] ∧ t.mem = [] ∧ t.badBytes = [] ∧
    t.badAcc = [] ∧ t.softAcc = [] ∧ t.cfg = none ∧ t.wadi = Wadi.idle ∧ t.hmd.sessOpen = false ∧ t.queues = [] ∧ t.ports = [] ∧ t.routes = [] ∧
    t.members = [] ∧ t.wins = [] ∧ t.handles = [] ∧ t.mcasts = [] ∧ t.groups = [] ∧ t.tasks = [] ∧ t.ctxs = [] ∧ t.cores = [] ∧
    t.spadAcc = [] ∧ t.ant = [] ∧ t.stackTab = [] ∧ t.swarm = Swarm.idle ∧ t.swarmDone = none ∧ t.digests = [] ∧ t.takeover = [] ∧
    t.shadowOf = [] ∧ t.history = [] ∧ t.params = none

/-- The start that a switch-on begins (R506, R579, R593): nothing else changes. -/
def Sys2Proof.Machine.StartsFrom (s t : State) (straps : Nat) : Prop :=
  t.power = .starting ∧ t.retry = false ∧ t.start = { StartSt.idle with straps := straps % 4 } ∧
    Shows t Reg.START_STATUS Fld.START_STATUS_STEP 1 ∧ (∀ a, a ≠ Reg.START_STATUS → t.reg a = s.reg a) ∧
    { t with power := s.power, retry := s.retry, start := s.start, regs := s.regs, scan := s.scan, scanPins := s.scanPins } = s

/-- The input switches on and off by R579 to R581. -/
def Obligations.InputPowerSwitches : Prop :=
  ∀ s : State,
    (∀ vin straps, s.power = .off → s.retry = false → 44000 < vin → vin < 59000 →
      Gives (.powerOn vin true straps) s (fun t => StartsFrom s t straps)) ∧
    (∀ vin straps, s.power = .off → s.retry = true → 44000 < vin → vin < 59000 →
      Gives (.hotSwapRetry vin true straps) s (fun t => StartsFrom s t straps)) ∧
    (∀ vin mated straps, s.power = .off → s.retry = true → (mated = false ∨ vin ≤ 44000 ∨ 59000 ≤ vin) →
      Gives (.hotSwapRetry vin mated straps) s (fun t => t = { s with retry := false })) ∧
    (∀ vin, s.power ≠ .off → (vin < 40000 ∨ 59000 < vin) → Gives (.inputOff vin) s (fun t => OffFrom s t false)) ∧
    (∀ held peak, s.power ≠ .off → (held = true ∨ 90000 < peak) →
      Gives (.currentFault held peak) s (fun t => OffFrom s t true)) ∧
    (s.power ≠ .off → Gives .presentOpen s (fun t => OffFrom s t false))

/-- POWER_SAMPLE: the readings, the fall to the floor and the trip of a hot junction. -/
def Obligations.PowerSamples : Prop :=
  ∀ (s : State) (vin iin pavg : Nat) (t0 t1 stackTemps : List Nat) (cyc : Nat),
    (s.power = .ready → 4500 ≤ vin → vin ≤ 5700 → (∀ x ∈ t0, x < 100) → (∀ x ∈ t1, x < 100) → (∀ x ∈ stackTemps, x ≤ 100) →
      Gives (.powerSample vin iin pavg false t0 t1 stackTemps cyc none) s (fun t =>
        Shows t Reg.HMD_PWR_STAT Fld.HMD_PWR_STAT_VIN vin ∧ Shows t Reg.HMD_PWR_STAT Fld.HMD_PWR_STAT_IIN iin ∧
        Shows t Reg.HMD_PWR_STAT Fld.HMD_PWR_STAT_PIN pavg ∧ Shows t Reg.HMD_THERM Fld.HMD_THERM_DIE0_MAX (maxOf t0) ∧
        Shows t Reg.HMD_THERM Fld.HMD_THERM_DIE1_MAX (maxOf t1) ∧ Shows t Reg.HMD_THERM Fld.HMD_THERM_STACK_MAX (maxOf stackTemps) ∧
        t.hmd = { s.hmd with
          vinBad := 0, hot := []
          pwrTarget := if vin * iin * 100 > s.hmd.capRun * 115 * 10000 then floorOf s.hmd.capRun else s.hmd.pwrTarget } ∧
        (∀ k < 12, Shows t (Reg.HBM_STATUS k) Fld.HBM_STATUS_TEMP (nth 0 stackTemps k)) ∧
        (∀ a, a ≠ Reg.HMD_PWR_STAT → a ≠ Reg.HMD_THERM → (∀ k < 12, a ≠ Reg.HBM_STATUS k) → t.reg a = s.reg a) ∧
        { t with regs := s.regs, hmd := s.hmd } = s)) ∧
    (∀ rail windowEnd i, s.power = .ready ∨ s.power = .aest → s.fld Reg.HMD_TRIP_LOG Fld.HMD_TRIP_LOG_VALID = 0 →
      i ∈ s.hmd.hot → i < 16 → 115 ≤ nth 0 t0 i →
      Gives (.powerSample vin iin pavg windowEnd t0 t1 stackTemps cyc rail) s WithdrawnTo)

/-- CLOCK_STEP, CLOCK_CHANGE, CORE_PARK and CORE_UNPARK (R527, R528). -/
def Obligations.ClocksAndParking : Prop :=
  ∀ s : State, s.power = .ready →
    (∀ die, die < 2 → s.avgPower > s.hmd.capRun →
      Gives (.clockStep die false) s (fun t => t = { s with hmd := { s.hmd with
        pwrTarget := clampTo (floorOf s.hmd.capRun) 2250 (s.hmd.pwrTarget - 25) } })) ∧
    (∀ die, die < 2 → s.avgPower + 20 < s.hmd.capRun → s.hmd.parked = [] →
      Gives (.clockStep die false) s (fun t => t = { s with hmd := { s.hmd with
        pwrTarget := clampTo (floorOf s.hmd.capRun) 2250 (s.hmd.pwrTarget + 25) } })) ∧
    (s.dieMax 0 ≤ 97 → (∀ c ∈ s.hmd.parked, dieOf c ≠ 0) →
      Gives (.clockStep 0 true) s (fun t => { t with regs := s.regs } = { s with hmd := { s.hmd with
          thTarget0 := clampTo (floorOf s.hmd.capRun) 2250 (s.hmd.thTarget0 + 25) } } ∧
        Shows t Reg.HMD_THERM Fld.HMD_THERM_THROTTLE0 (if t.hmd.thTarget0 < 2250 then 1 else 0))) ∧
    (s.dieMax 1 ≤ 97 → (∀ c ∈ s.hmd.parked, dieOf c ≠ 1) →
      Gives (.clockStep 1 true) s (fun t => { t with regs := s.regs } = { s with hmd := { s.hmd with
          thTarget1 := clampTo (floorOf s.hmd.capRun) 2250 (s.hmd.thTarget1 + 25) } } ∧
        Shows t Reg.HMD_THERM Fld.HMD_THERM_THROTTLE1 (if t.hmd.thTarget1 < 2250 then 1 else 0))) ∧
    Gives (.clockChange 0) s (fun t => { t with regs := s.regs } = s ∧ (∀ a, a ≠ Reg.HMD_CLK → t.reg a = s.reg a) ∧
      Shows t Reg.HMD_CLK Fld.HMD_CLK_DIE0_MHZ (max (floorOf s.hmd.capRun) (min s.hmd.pwrTarget s.hmd.thTarget0))) ∧
    Gives (.clockChange 1) s (fun t => { t with regs := s.regs } = s ∧ (∀ a, a ≠ Reg.HMD_CLK → t.reg a = s.reg a) ∧
      Shows t Reg.HMD_CLK Fld.HMD_CLK_DIE1_MHZ (max (floorOf s.hmd.capRun) (min s.hmd.pwrTarget s.hmd.thTarget1))) ∧
    (∀ die c, die < 2 → s.belowFloor die = true → (s.unparked die).length > 64 →
      (s.unparked die).reverse.find? (fun n => !s.isAnchor n) = some c →
      Gives (.corePark die) s (fun t => t.hmd = { s.hmd with parked := s.hmd.parked ++ [c] } ∧
        (∀ n, t.core n = if n = c ∧ (s.core c).ctx.isSome then { s.core c with moving := true, moveTo := none } else s.core n) ∧
        { t with hmd := s.hmd, regs := s.regs, cores := s.cores } = s)) ∧
    (∀ die c, die < 2 → s.wouldRise die = true →
      (List.range 288).find? (fun n => dieOf n == die && s.hmd.parked.contains n) = some c →
      Gives (.coreUnpark die) s (fun t => t.hmd = { s.hmd with parked := s.hmd.parked.filter (fun n => n != c) } ∧
        (∀ n, t.core n = if n = c ∧ (s.core c).moveTo = none ∧ (s.core c).test = 0 then { s.core c with moving := false }
          else s.core n) ∧
        { t with hmd := s.hmd, regs := s.regs, cores := s.cores } = s))

/-- LOCKSTEP_MISMATCH, BRIDGE_FAILURE, MANTIS_FAILOVER, MANTIS_HEARTBEAT and SCRUB_DONE. -/
def Obligations.ModuleFailures : Prop :=
  ∀ s : State,
    (∀ cause cyc, s.power ≠ .off → s.power ≠ .hold → s.fld Reg.HMD_TRIP_LOG Fld.HMD_TRIP_LOG_VALID = 0 → (cause = 3 ∨ cause = 4) →
      Gives (.lockstepMismatch cause cyc) s WithdrawnTo) ∧
    (∀ retries trainFail, s.live = true → (8 ≤ retries ∨ trainFail = true) →
      Gives (.bridgeFailure retries trainFail) s WithdrawnTo) ∧
    (∀ m, s.live = true → m < 16 → s.mantisFenced m = false →
      (∀ k, k / 8 = m / 8 → k ≠ m → s.mantisFenced k = true) → Gives (.mantisFailover m) s WithdrawnTo) ∧
    (∀ m k, s.live = true → m < 16 → s.mantisFenced m = false → k / 8 = m / 8 → k ≠ m → s.mantisFenced k = false →
      (∀ x, x < 16 → (s.ctx x).run ≠ .running) →
      Gives (.mantisFailover m) s (fun t => t.mantisFenced m = true ∧ (∀ n, n ≠ m → t.mantisFenced n = s.mantisFenced n) ∧
        ¬ m ∈ t.hmd.heard ∧ t.power = s.power ∧ t.ctxs = s.ctxs ∧ t.cores = s.cores ∧ t.groups = s.groups ∧ t.wadi = s.wadi ∧
        t.ports = s.ports ∧ t.wins = s.wins)) ∧
    (∀ m, s.live = true → m < 16 → s.mantisFenced m = false →
      Gives (.mantisHeartbeat m) s (fun t => m ∈ t.hmd.heard ∧ { t with hmd := s.hmd } = s)) ∧
    (s.hmd.scrub ≠ [] → s.wadi.bulkWr = [] →
      Gives .scrubDone s (fun t => t.hmd.scrub = [] ∧
        (∀ r ∈ s.hmd.scrub, ∀ a, r.1 ≤ a → a < r.1 + r.2 → t.byte a = 0) ∧
        (∀ a, (∀ r ∈ s.hmd.scrub, a < r.1 ∨ r.1 + r.2 ≤ a) → t.byte a = s.byte a) ∧
        { t with hmd := s.hmd, mem := s.mem, badBytes := s.badBytes, badAcc := s.badAcc, softAcc := s.softAcc } = s))

/-- HELLO_C, FINISH_C, END, FRAME_DISCARD and WADI_LOS. -/
def Obligations.SessionFrames : Prop :=
  ∀ s : State,
    (∀ nonce nodeKey kemKey nm rnd i, s.mayGreet = true → s.start.identity = true → s.hmd.hs = none → s.nodeOf nodeKey = some i →
      Gives (.helloC nonce nodeKey kemKey nm rnd) s (fun t =>
        (∃ f : OutFrame, t.out = s.out ++ [.frame f] ∧ f.cls = 0 ∧ f.type = 2 ∧
          f.body = nm ++ Config.identityKey ++ (Config.encapsulate kemKey rnd).1 ++
            Config.sign (Config.sha3 (nonce ++ nodeKey ++ kemKey ++ nm ++ Config.identityKey ++ (Config.encapsulate kemKey rnd).1))) ∧
        t.hmd.hs.map (fun h => (h.node, h.nodeKey, h.ss)) = some (i, nodeKey, (Config.encapsulate kemKey rnd).2) ∧
        t.hmd.sessOpen = s.hmd.sessOpen ∧ OnlySent s t)) ∧
    (∀ nonce nodeKey kemKey nm rnd, s.mayGreet = true → s.start.identity = true → s.hmd.hs = none → s.nodeOf nodeKey = none →
      Gives (.helloC nonce nodeKey kemKey nm rnd) s (fun t =>
        (∃ f : OutFrame, t.out = s.out ++ [.frame f] ∧ f.cls = 0 ∧ f.type = 5 ∧ f.body = leBytes 2 0x0701) ∧
        t.hmd = s.hmd ∧ OnlySent s t)) ∧
    (∀ sig h, s.mayGreet = true → s.hmd.hs = some h → Config.verify h.nodeKey (Config.sha3 (h.t ++ h.sigM)) sig = true →
      Gives (.finishC sig) s (fun t =>
        (∃ f : OutFrame, t.out = s.out ++ [.frame f] ∧ f.cls = 3 ∧ f.type = 0x0A ∧ f.counter = 0) ∧
        t.hmd.sessOpen = true ∧ t.hmd.hs = none ∧ t.hmd.lastRx = none ∧ t.hmd.authFails = 0 ∧
        t.hmd.keyNode = (Config.sha3 (h.ss ++ Config.sha3 (h.t ++ h.sigM))).take 32 ∧
        t.hmd.keyMod = ((Config.sha3 (h.ss ++ Config.sha3 (h.t ++ h.sigM))).drop 32).take 32 ∧
        t.wadi.bulkKept = [] ∧ t.wadi.mgmtKept = [] ∧ OnlySent s t)) ∧
    (∀ sig h, s.mayGreet = true → s.hmd.hs = some h → Config.verify h.nodeKey (Config.sha3 (h.t ++ h.sigM)) sig = false →
      Gives (.finishC sig) s (fun t =>
        (∃ f : OutFrame, t.out = s.out ++ [.frame f] ∧ f.cls = 0 ∧ f.type = 5 ∧ f.body = leBytes 2 0x0701) ∧
        t.hmd = { s.hmd with hs := none } ∧ OnlySent s t)) ∧
    (∀ hdr, s.linkUp = true → s.hmd.sessOpen = true →
      Gives (.endSession hdr) s (fun t => t.out = s.out ∧
        t.hmd = { s.hmd with sessOpen := false, keyNode := [], keyMod := [], lastRx := none, authFails := 0 } ∧ OnlySent s t)) ∧
    (s.linkUp = true → Gives (.frameDiscard .bad) s (fun t => OnlyRegs s t ∧
      Shows t Reg.WADI_RX_CNT Fld.WADI_RX_CNT_BAD (s.fld Reg.WADI_RX_CNT Fld.WADI_RX_CNT_BAD + 1))) ∧
    (s.linkUp = true → s.hmd.sessOpen = false → Gives (.frameDiscard .noSession) s (fun t => OnlyRegs s t ∧
      Shows t Reg.WADI_DROP_CNT Fld.WADI_DROP_CNT_NO_SESSION (s.fld Reg.WADI_DROP_CNT Fld.WADI_DROP_CNT_NO_SESSION + 1))) ∧
    (s.linkUp = true → s.hmd.sessOpen = true → Gives (.frameDiscard .credit) s (fun t => OnlyRegs s t ∧
      Shows t Reg.WADI_DROP_CNT Fld.WADI_DROP_CNT_CREDIT (s.fld Reg.WADI_DROP_CNT Fld.WADI_DROP_CNT_CREDIT + 1))) ∧
    (∀ up, s.power ≠ .off → 22 ≤ s.stepNo → Gives (.wadiLos true up) s (fun t => OnlyRegs s t ∧
      Shows t Reg.WADI_LINK Fld.WADI_LINK_LOS 1 ∧ Shows t Reg.WADI_LINK Fld.WADI_LINK_STATE 0)) ∧
    (s.power ≠ .off → 22 ≤ s.stepNo → Gives (.wadiLos false true) s (fun t => OnlyRegs s t ∧
      Shows t Reg.WADI_LINK Fld.WADI_LINK_LOS 0 ∧ Shows t Reg.WADI_LINK Fld.WADI_LINK_STATE 2))

/-- COMMIT_QUERY, ROUTES and SHADOW_SWITCH; the hold state. -/
def Obligations.MantisRequests : Prop :=
  ∀ (s : State) (h : FrameHdr), Accepts s h →
    (∀ task r, s.power ≠ .hold → s.tasks.find? (fun t => t.tag == task) = some r →
      Gives (.commitQuery h task) s (fun t => OnlyReplied s t ∧
        Replied s t clMgmt 3 h.reqId (mgmtHead stOk 0 0 ++ (leBytes 8 r.last ++ leBytes 2 r.status ++ leBytes 2 (if r.final then 1 else 0))))) ∧
    (∀ first entries, s.power ≠ .hold → entries ≠ [] → entries.length ≤ 2048 → first + entries.length ≤ 16384 →
      entries.all routeGood = true →
      Gives (.routes h first entries) s (fun t => OnlyReplied { s with routes := t.routes } t ∧
        Replied s t clMgmt 4 h.reqId (mgmtHead stOk 0 0) ∧
        (∀ i, i < entries.length → tget 0 t.routes (first + i) = nth 0 entries i) ∧
        (∀ a, a < first ∨ first + entries.length ≤ a → tget 0 t.routes a = tget 0 s.routes a))) ∧
    (∀ first entries, s.power ≠ .hold → entries.all routeGood = false ∨ 16384 < first + entries.length →
      Gives (.routes h first entries) s (fun t => OnlyReplied s t ∧ Replied s t clMgmt 4 h.reqId (mgmtHead stFormat 0 0))) ∧
    (∀ tag copy version, s.power ≠ .hold → copy ≤ 1 →
      (∃ p ∈ s.shadowOf, (s.group p.2.group).live = true ∧ (s.group p.2.group).tag = tag) →
      Gives (.shadowSwitch h tag copy version) s (fun t =>
        OnlyReplied { s with shadowOf := s.shadowOf.map (fun p =>
          if (s.group p.2.group).live = true ∧ (s.group p.2.group).tag = tag then (p.1, { p.2 with current := copy, version := version }) else p) } t ∧
        Replied s t clMgmt 7 h.reqId (mgmtHead stOk 0 0))) ∧
    (s.power = .hold → ∀ task first entries tag copy version,
      Gives (.commitQuery h task) s (fun t => OnlyReplied s t ∧ Replied s t clMgmt 3 h.reqId (mgmtHead stStartHold 0 0)) ∧
      Gives (.routes h first entries) s (fun t => OnlyReplied s t ∧ Replied s t clMgmt 4 h.reqId (mgmtHead stStartHold 0 0)) ∧
      Gives (.shadowSwitch h tag copy version) s (fun t => OnlyReplied s t ∧ Replied s t clMgmt 7 h.reqId (mgmtHead stStartHold 0 0)))

/-- POWER_CAP, LEDGER_READ, SVN_RAISE, CLEAR, SET_ACTIVE and RESTART. -/
def Obligations.HamadaRequests : Prop :=
  ∀ (s : State) (h : FrameHdr), Accepts s h →
    (∀ watts, 600 ≤ watts → watts ≤ s.conf.powerCap →
      Gives (.powerCap h watts) s (fun t => OnlyReplied { s with regs := t.regs, hmd := { s.hmd with
          capRun := watts, pwrTarget := max (floorOf watts) s.hmd.pwrTarget
          thTarget0 := max (floorOf watts) s.hmd.thTarget0, thTarget1 := max (floorOf watts) s.hmd.thTarget1 } } t ∧
        Shows t Reg.HMD_PWR_CAP Fld.HMD_PWR_CAP_CAP_RUN watts ∧ Shows t Reg.HMD_PWR_CAP Fld.HMD_PWR_CAP_FLOOR_MHZ (floorOf watts) ∧
        (∀ a, a ≠ Reg.WADI_RX_CNT → a ≠ Reg.HMD_SESSION → a ≠ Reg.HMD_PWR_CAP → t.reg a = s.reg a) ∧
        Replied s t clMgmt 0x10 h.reqId (mgmtHead stOk 0 0))) ∧
    (∀ watts, watts < 600 ∨ s.conf.powerCap < watts →
      Gives (.powerCap h watts) s (fun t => OnlyReplied s t ∧ Replied s t clMgmt 0x10 h.reqId (mgmtHead stFormat 0 0))) ∧
    (∀ first count, 1 ≤ count → count ≤ 128 → first + count ≤ 4096 →
      Gives (.ledgerRead h first count) s (fun t => OnlyReplied { s with free := t.free } t ∧
        Replied s t clMgmt 0x11 h.reqId (mgmtHead stOk 0 0 ++ (List.range count).flatMap (fun i => s.ledgerSlot (first + i))))) ∧
    (s.live = true →
      Gives (.svnRaise h 0) s (fun t => Replied s t clMgmt 0x15 h.reqId (mgmtHead stOk 0 0) ∧ OnlyReplied { s with hmd := { s.hmd with
        svnHmd := max (s.svnMin 0) (min 64 (s.imageSequence (s.imageDev 0) (fwBase 0))) } } t) ∧
      Gives (.svnRaise h 1) s (fun t => Replied s t clMgmt 0x15 h.reqId (mgmtHead stOk 0 0) ∧ OnlyReplied { s with hmd := { s.hmd with
        svnMnt := max (s.svnMin 1) (min 64 (s.imageSequence (s.imageDev 1) (fwBase 1))) } } t)) ∧
    (∀ step unit i k, s.power ≠ .starting → step ≤ 24 → unit ≤ 0xFFFF → s.nextSlot = some (i, k) →
      Gives (.clear h step unit) s (fun t => Replied s t clMgmt 0x13 h.reqId (mgmtHead stOk 0 0) ∧
        OnlyReplied { s with regs := t.regs, ledger0 := t.ledger0, ledger1 := t.ledger1 } t ∧
        (∀ a, a ≠ Reg.WADI_RX_CNT → a ≠ Reg.HMD_SESSION → a ≠ Reg.LEDGER_STATUS → t.reg a = s.reg a) ∧
        Recorded s t i ⟨ltClear, 0, s.fld Reg.LEDGER_STATUS Fld.LEDGER_STATUS_HEAD_SEQ + 1,
          s.fld Reg.START_STATUS Fld.START_STATUS_START_COUNT, 0xFFFF, 0, 0, leBytes 1 step ++ zeros 1 ++ leBytes 2 unit⟩)) ∧
    (∀ image i k, s.power ≠ .starting → image ≤ 1 → s.nextSlot = some (i, k) →
      Gives (.setActive h 0 image) s (fun t => Replied s t clMgmt 0x16 h.reqId (mgmtHead stOk 0 0) ∧
        t.start.kept = { s.start.kept with hmdActive := image } ∧ t.start.summaryAt = some i ∧
        (∀ d, d < 2 → bitAt s.start.devs d = true → ∃ r, t.slotOf d i = .full r ∧ r.type = ltSummary ∧ r.unit = 0 ∧ r.detail = t.start.kept.part0) ∧
        OnlyReplied { s with regs := t.regs, ledger0 := t.ledger0, ledger1 := t.ledger1, start := t.start } t) ∧
      Gives (.setActive h 1 image) s (fun t => Replied s t clMgmt 0x16 h.reqId (mgmtHead stOk 0 0) ∧
        t.start.kept = { s.start.kept with mntActive := image } ∧ t.start.summaryAt = some i ∧
        (∀ d, d < 2 → bitAt s.start.devs d = true → ∃ r, t.slotOf d i = .full r ∧ r.type = ltSummary ∧ r.unit = 0 ∧ r.detail = t.start.kept.part0) ∧
        OnlyReplied { s with regs := t.regs, ledger0 := t.ledger0, ledger1 := t.ledger1, start := t.start } t)) ∧
    (s.power ≠ .starting →
      Gives (.restart h) s (fun t => Replied s t clMgmt 0x14 h.reqId (mgmtHead stOk 0 0) ∧ t.power = .starting ∧
        t.start = { StartSt.idle with straps := s.start.straps % 4 } ∧ Shows t Reg.START_STATUS Fld.START_STATUS_STEP 1 ∧
        t.mem = [] ∧ t.hmd.sessOpen = false ∧ t.queues = [] ∧ t.ctxs = [] ∧ t.cores = [] ∧ t.groups = [] ∧ t.wins = [] ∧
        t.flash0 = s.flash0 ∧ t.flash1 = s.flash1 ∧ t.ledger0 = s.ledger0 ∧ t.ledger1 = s.ledger1)) ∧
    (s.power = .starting →
      Gives (.restart h) s (fun t => Replied s t clMgmt 0x14 h.reqId (mgmtHead stOk 0 0) ∧
        OnlyReplied { s with start := { s.start with restart := true } } t))

/-- R561: what a bulk request may name. -/
def Sys2Proof.Machine.BulkFits (a n : Nat) : Prop := a % 32 = 0 ∧ n % 32 = 0 ∧ 32 ≤ n ∧ n ≤ 8192 ∧ bulkRange a n = true

/-- BULK_WRITE, BULK_ACK, BULK_READ, FLASH_WRITE and ATTESTATION_REQUEST. -/
def Obligations.BulkAndFlash : Prop :=
  ∀ (s : State) (h : FrameHdr),
    (∀ addr data, AcceptsBulk s h → s.power ≠ .hold → BulkFits addr data.length → s.underScrub addr data.length = false →
      Gives (.bulkWrite h addr data) s (fun t => t.wadi.bulkWr = s.wadi.bulkWr ++ [⟨h.reqId, addr, data, true⟩] ∧ t.out = s.out ∧
        (∀ i, i < data.length → t.byte (addr + i) = nth 0 data i) ∧
        (∀ a, a < addr ∨ addr + data.length ≤ a → t.byte a = s.byte a) ∧
        (∀ a, a ≠ Reg.WADI_RX_CNT → t.reg a = s.reg a) ∧
        { t with
          regs := s.regs, mem := s.mem, badBytes := s.badBytes, badAcc := s.badAcc, softAcc := s.softAcc, wadi := s.wadi
          hmd := s.hmd } = s)) ∧
    (∀ addr data, AcceptsBulk s h → s.power ≠ .hold → BulkFits addr data.length → s.underScrub addr data.length = true →
      Gives (.bulkWrite h addr data) s (fun t => t.wadi.bulkWr = s.wadi.bulkWr ++ [⟨h.reqId, addr, data, false⟩] ∧ t.out = s.out ∧
        OnlyReplied { s with wadi := { s.wadi with bulkWr := t.wadi.bulkWr } } t)) ∧
    (∀ addr data, AcceptsBulk s h → s.power = .hold →
      Gives (.bulkWrite h addr data) s (fun t => OnlyReplied s t ∧
        Replied s t clBulk 4 h.reqId (bulkHead addr data.length ++ leBytes 2 stStartHold))) ∧
    (∀ addr len, AcceptsBulk s h → s.power ≠ .hold → BulkFits addr len → s.firstUe addr len = none →
      Gives (.bulkRead h addr len) s (fun t => OnlyReplied (s.correct addr len) t ∧
        Replied s t clBulk 3 h.reqId (bulkHead addr len ++ s.bytes addr len) ∧
        (∀ x ∈ s.softAcc, addr < x * 64 + 64 → x * 64 < addr + len → x ∉ s.badAcc → x ∉ t.softAcc) ∧
        ((∀ x ∈ s.softAcc, x * 64 + 64 ≤ addr ∨ addr + len ≤ x * 64) → OnlyReplied s t))) ∧
    (∀ addr len, AcceptsBulk s h → s.power ≠ .hold → addr % 32 = 0 → len % 32 = 0 → 32 ≤ len → len ≤ 8192 → bulkRange addr len = false →
      Gives (.bulkRead h addr len) s (fun t => OnlyReplied s t ∧
        Replied s t clBulk 4 h.reqId (bulkHead addr len ++ leBytes 2 stAddrProt))) ∧
    (∀ req b, s.linkUp = true → s.hmd.sessOpen = true → s.wadi.bulkWr.find? (fun b => b.reqId == req && b.landed) = some b →
      Gives (.bulkAck req) s (fun t => Replied s t clBulk 4 req (bulkHead b.addr b.data.length ++ leBytes 2 stOk) ∧
        OnlyReplied { s with wadi := { s.wadi with bulkWr := s.wadi.bulkWr.filter (fun x => x != b) } } t)) ∧
    (∀ dev off data, Accepts s h → s.power ≠ .starting → s.flashAllowed dev off data.length = true →
      Gives (.flashWrite h dev off data) s (fun t => Replied s t clMgmt 0x12 h.reqId (mgmtHead stOk 0 0) ∧
        OnlyReplied (s.programFlash dev off data) t ∧
        (∀ i, i < data.length → tget 0xFF (if dev = 0 then t.flash0 else t.flash1) (off + i) =
          (if off % 0x10000 = 0 ∧ off + i < off + 0x10000 then 0xFF else tget 0xFF (if dev = 0 then s.flash0 else s.flash1) (off + i)) &&&
            nth 0 data i))) ∧
    (∀ dev off data, Accepts s h → s.power ≠ .starting → s.flashAllowed dev off data.length = false →
      Gives (.flashWrite h dev off data) s (fun t => OnlyReplied s t ∧ Replied s t clMgmt 0x12 h.reqId (mgmtHead stFormat 0 0))) ∧
    (∀ dev off data, Accepts s h → s.power = .starting →
      Gives (.flashWrite h dev off data) s (fun t => t.out = s.out ∧
        OnlyReplied { s with wadi := { s.wadi with flashHeld := s.wadi.flashHeld ++ [(h.reqId, dev, off, data)] } } t)) ∧
    (∀ nonce, Accepts s h →
      Gives (.attestationRequest h nonce) s (fun t => OnlyReplied { s with free := s.free + 1 } t ∧
        Replied s t clAttest 2 h.reqId (s.report nonce ++ padTo 4627 (Config.sign (Config.sha3 (s.report nonce))))))

/-- Queue `q` stands as `x`, its words moved as far as R277 lets them; nothing else differs but its counters and the bytes of the slots
of its words. -/
def Sys2Proof.Machine.QueueBecomes (s t : State) (q : Nat) (x : Queue) : Prop :=
  t.queue q = x.settle (s.qcfg q) (s.badSpill q) ∧ OnlyQueue s t q [Reg.SPQ_DROP_CNT q]

/-- As `QueueBecomes`, with no counter changed. -/
def Sys2Proof.Machine.QueueNow (s t : State) (q : Nat) (x : Queue) : Prop :=
  t.queue q = x.settle (s.qcfg q) (s.badSpill q) ∧ OnlyQueue s t q []

/-- A queue without the places of its words (R277). -/
def Sys2Proof.Machine.placeless (x : Queue) : Queue := { x with words := x.words.map (fun w => { w with slot := none }), spilled := 0 }

/-- The queue with one more word committed (R282): a data word has spent a credit. -/
def Sys2Proof.Machine.withWord (x : Queue) (kind ends : Nat) (data : List Byte) : Queue :=
  { x with words := x.words ++ [⟨kind, x.wseq, ends, data, none, kind == 0⟩], wseq := x.wseq + 1 }

/-- The returns of a queue that frees words (R290, R295): one for each word that spent a credit, or for each word of a queue without
credits. -/
def Sys2Proof.Machine.returned (c : QCfg) (x : Queue) (gone : List QWord) : Nat :=
  x.returns + (if c.credited = true then (gone.filter (fun w => w.paid)).length else gone.length)

/-- SPQ_PUSH, SPQ_CLOSE_ARRIVAL, SPQ_CREDIT_RETURN and SPQ_ENABLE. -/
def Obligations.QueueProducer : Prop :=
  ∀ (s : State) (q : Nat),
    (∀ d last, s.qOn q = true → d.length ≤ (s.qcfg q).width → (s.qcfg q).credited = true → (s.queue q).draining = false →
      (s.queue q).backlog = [] → (s.queue q).opened ≠ [] ∨ 0 < (s.queue q).credits →
      Gives (.spqPush q d last) s (fun t =>
        let c := s.qcfg q
        let x := s.queue q
        let word := x.opened ++ padTo c.width d
        let ends := if last then x.openEnds + 2 ^ (x.opened.length / c.width) else x.openEnds
        let y : Queue := { x with credits := (if x.opened = [] then x.credits - 1 else x.credits), lastEnd := last }
        (64 ≤ word.length ∨ (c.wordClose = true ∧ last = true) →
          QueueBecomes s t q { withWord y 0 ends word with opened := [], openEnds := 0 }) ∧
        (word.length < 64 → (c.wordClose = false ∨ last = false) → QueueBecomes s t q { y with opened := word, openEnds := ends }))) ∧
    (∀ d last, s.qOn q = true → d.length ≤ (s.qcfg q).width → (s.qcfg q).credited = true → (s.queue q).draining = false →
      (s.queue q).backlog ≠ [] ∨ ((s.queue q).opened = [] ∧ (s.queue q).credits = 0) →
      Gives (.spqPush q d last) s (fun t => QueueBecomes s t q { s.queue q with backlog := (s.queue q).backlog ++ [(d, last)] })) ∧
    (∀ d last, s.qOn q = true → d.length ≤ (s.qcfg q).width → (s.queue q).draining = true →
      Gives (.spqPush q d last) s (fun t => QueueBecomes s t q { s.queue q with draining := !last, lastEnd := last })) ∧
    (∀ d, s.qOn q = true → d.length ≤ (s.qcfg q).width → (s.qcfg q).credited = false → (s.queue q).draining = false →
      Gives (.spqPush q d false) s (fun t =>
        QueueBecomes s t q { s.queue q with item := (s.queue q).item ++ padTo (s.qcfg q).width d, lastEnd := false })) ∧
    (∀ d, s.qOn q = true → d.length ≤ (s.qcfg q).width → (s.qcfg q).credited = false → (s.queue q).draining = false →
      (s.qcfg q).capacity ≤ (s.queue q).words.length + (s.queue q).returns → (s.queue q).lastUnread 1 = false →
      Gives (.spqPush q d true) s (fun t =>
        QueueBecomes s t q { withWord { s.queue q with lastEnd := true } 1 0 (leBytes 4 1) with item := [] } ∧
        Shows t (Reg.SPQ_DROP_CNT q) Fld.SPQ_DROP_CNT_ITEMS (s.fld (Reg.SPQ_DROP_CNT q) Fld.SPQ_DROP_CNT_ITEMS + 1) ∧
        Shows t (Reg.SPQ_DROP_CNT q) Fld.SPQ_DROP_CNT_GAPS (s.fld (Reg.SPQ_DROP_CNT q) Fld.SPQ_DROP_CNT_GAPS + 1))) ∧
    (s.qOn q = true → (s.queue q).closing = true → (s.queue q).opened ≠ [] →
      Gives (.spqCloseArrival q) s (fun t => QueueBecomes s t q
        { withWord (s.queue q) 0 (s.queue q).openEnds (s.queue q).opened with closing := false, opened := [], openEnds := 0 })) ∧
    (s.qOn q = true → q ≠ qWadi → 0 < (s.queue q).returns → (s.qcfg q).credited = true →
      let x : Queue := { s.queue q with returns := (s.queue q).returns - 1, credits := (s.queue q).credits + 1 }
      Gives (.spqCreditReturn q) s (fun t => QueueBecomes s t q (Queue.drain (s.qcfg q) x.backlog.length x) ∧
        (x.backlog = [] → QueueBecomes s t q x))) ∧
    (s.qOn q = true → q ≠ qWadi → 0 < (s.queue q).returns → (s.qcfg q).credited = false →
      Gives (.spqCreditReturn q) s (fun t => QueueBecomes s t q { s.queue q with returns := (s.queue q).returns - 1 })) ∧
    (s.qOn qWadi = true → 0 < (s.queue qWadi).returns → (s.qcfg qWadi).credited = true →
      let x : Queue := { s.queue qWadi with returns := (s.queue qWadi).returns - 1, credits := (s.queue qWadi).credits + 1 }
      Gives (.spqCreditReturn qWadi) s (fun t => t.wadi = { s.wadi with retReq := s.wadi.retReq + 1 } ∧
        QueueBecomes s { t with wadi := s.wadi } qWadi (Queue.drain (s.qcfg qWadi) x.backlog.length x))) ∧
    (∀ d, s.qOn q = true → d.length ≤ (s.qcfg q).width → (s.qcfg q).credited = false → (s.queue q).draining = false →
      let item := (s.queue q).item ++ padTo (s.qcfg q).width d
      item.length ≤ 512 → ceilDiv item.length 64 + 1 + (s.queue q).words.length + (s.queue q).returns ≤ (s.qcfg q).capacity →
      Gives (.spqPush q d true) s (fun t => OnlyQueue s t q [Reg.SPQ_DROP_CNT q] ∧ (t.queue q).item = [] ∧
        ((t.queue q).words.take (s.queue q).words.length).map (fun w => { w with slot := none }) =
          (s.queue q).words.map (fun w => { w with slot := none }) ∧
        (t.queue q).words.length = (s.queue q).words.length + ceilDiv item.length 64 ∧
        (t.queue q).wseq = (s.queue q).wseq + ceilDiv item.length 64 ∧
        ((t.queue q).words.drop (s.queue q).words.length).flatMap (fun w => w.data) = item ∧
        (∀ f ∈ [Fld.SPQ_DROP_CNT_ITEMS, Fld.SPQ_DROP_CNT_GAPS], t.fld (Reg.SPQ_DROP_CNT q) f = s.fld (Reg.SPQ_DROP_CNT q) f))) ∧
    (∀ v : Word, isQueue q = true → v.getLsbD 63 = true → (s.qcfg q).enable = false →
      let u := s.plainWrite q 8 v.toNat
      (u.qcfg q).enable = true →
      (u.mayEnable q = true →
        Gives (.spqEnable q v) s (fun t => { t with queues := u.queues } = u ∧
          t.queue q = { Queue.idle with credits := (if (u.qcfg q).credited then (u.qcfg q).capacity - 1 else 0) } ∧
          (∀ k, k ≠ q → t.queue k = s.queue k))) ∧
      (u.mayEnable q = false →
        Gives (.spqEnable q v) s (fun t => Shows t (Reg.SPQ_CFG q) Fld.SPQ_CFG_ENABLE 0 ∧
          t.queue q = { s.queue q with cfgErr := true } ∧ (∀ a, a ≠ Reg.SPQ_CFG q → t.reg a = s.reg a) ∧
          (∀ k, k ≠ q → t.queue k = s.queue k) ∧ { t with regs := s.regs, queues := s.queues } = s))) ∧
    (∀ (c : QCfg) (bad : QWord → Bool) (x : Queue),
      (x.settle c bad).words.map (fun w => { w with slot := none }) = x.words.map (fun w => { w with slot := none }) ∧
      (∀ i w, i < 8 → x.words[i]? = some w → bad w = false → (x.settle c bad).words[i]? = some { w with slot := none }) ∧
      (∀ i w k, 8 ≤ i → x.words[i]? = some w → w.slot = some k → (x.settle c bad).words[i]? = some w) ∧
      (c.region = 0 → ∀ i w, 8 ≤ i → x.words[i]? = some w → (x.settle c bad).words[i]? = some w) ∧
      x.settle c bad = { x with words := (x.settle c bad).words, spilled := (x.settle c bad).spilled })

/-- SPQ_READ, MARK, CLEAR_MARK, REWIND, RELEASE, SPQ_TIMEOUT, FLUSH and FLUSH_EFFECT. -/
def Obligations.QueueConsumer : Prop :=
  ∀ (s : State) (q : Nat), s.qOn q = true →
    let c := s.qcfg q
    let x := s.queue q
    Gives (.mark q) s (fun t => QueueNow s t q { x with mark := some x.held }) ∧
    Gives (.clearMark q) s (fun t => QueueNow s t q { x with mark := none }) ∧
    (∀ m, x.mark = some m →
      Gives (.rewind q) s (fun t => QueueNow s t q { x with held := m, part := partAfter c x.lead (x.words.take m) })) ∧
    (x.mark = none → Gives (.rewind q) s (fun t => QueueNow s t q { x with held := 0, part := x.lead })) ∧
    (x.mark = none →
      Gives (.release q) s (fun t => QueueNow s t q { x with
        words := x.words.drop x.held
        held := 0
        returns := returned c x (x.words.take x.held)
        lead := partAfter c x.lead (x.words.take x.held) })) ∧
    (∀ m, x.mark = some m → m ≤ x.held →
      Gives (.release q) s (fun t => QueueNow s t q { x with
        words := x.words.drop m
        held := x.held - m
        mark := some 0
        returns := returned c x (x.words.take m)
        lead := partAfter c x.lead (x.words.take m) })) ∧
    (x.words.length ≤ x.held → Gives (.spqRead q) s (fun t => t = s)) ∧
    (∀ w, x.words[x.held]? = some w → s.badSpill q w = false →
      let items (part : List Byte) (inbox : List (List Byte)) : Prop :=
        (w.kind = 1 → part = x.part ∧ inbox = x.inbox) ∧ (w.kind = 2 → part = [] ∧ inbox = x.inbox) ∧
        (w.kind = 0 → w.ends = 0 → w.data.length % c.width = 0 → part = x.part ++ w.data ∧ inbox = x.inbox)
      (c.autoRel = false →
        Gives (.spqRead q) s (fun t => ∃ part inbox, items part inbox ∧
          QueueNow s t q { x with held := x.held + 1, seen := max x.seen (w.wseq + 1), part := part, inbox := inbox })) ∧
      (c.autoRel = true → x.mark = none →
        Gives (.spqRead q) s (fun t => ∃ part inbox, items part inbox ∧ QueueNow s t q { x with
          words := x.words.drop (x.held + 1)
          held := 0
          seen := max x.seen (w.wseq + 1)
          returns := returned c x (x.words.take (x.held + 1))
          lead := partAfter c x.lead (x.words.take (x.held + 1))
          part := part
          inbox := inbox }))) ∧
    (0 < c.timeout → x.unread = true →
      Gives (.spqTimeout q) s (fun t => OnlyQueue s t q [Reg.SPQ_EVT_CNT q] ∧ t.mem = s.mem ∧
        t.queue q = { x with closing := x.closing || !x.opened.isEmpty } ∧
        Shows t (Reg.SPQ_EVT_CNT q) Fld.SPQ_EVT_CNT_TIMEOUTS (s.fld (Reg.SPQ_EVT_CNT q) Fld.SPQ_EVT_CNT_TIMEOUTS + 1))) ∧
    Gives (.flush q) s (fun t => OnlyQueue s t q [Reg.SPQ_EVT_CNT q] ∧ t.mem = s.mem ∧
      t.queue q = { x with flushes := x.flushes + 1 } ∧
      Shows t (Reg.SPQ_EVT_CNT q) Fld.SPQ_EVT_CNT_FLUSHES (s.fld (Reg.SPQ_EVT_CNT q) Fld.SPQ_EVT_CNT_FLUSHES + 1)) ∧
    (0 < x.flushes →
      let back := if c.credited = true then (x.words.filter (fun w => w.paid)).length + (if x.opened = [] then 0 else 1) else 0
      let empty (kept : List QWord) : Queue := { x with
        words := kept, held := 0, mark := none, opened := [], openEnds := 0, item := [], part := [], lead := []
        draining := x.draining || !x.lastEnd, flushes := x.flushes - 1, credits := x.credits + back }
      let flushed (y : Queue) : Prop :=
        (q ≠ qWadi → Gives (.flushEffect q) s (fun t => QueueNow s t q (Queue.drain c x.backlog.length y) ∧
          (x.backlog = [] → QueueNow s t q y))) ∧
        (q = qWadi → Gives (.flushEffect q) s (fun t => t.wadi = { s.wadi with
            retReq := s.wadi.retReq + back, reqs := s.wadi.reqs.map (fun r => { r with words := 0 }) } ∧
          QueueNow s { t with wadi := s.wadi } q (Queue.drain c x.backlog.length y)))
      (x.lastUnread 2 = false → flushed (withWord (empty []) 2 0 [])) ∧
      (∀ w, x.lastUnread 2 = true → x.words.getLast? = some w → flushed (empty [w])))

/-- EVENTS, COMPLETIONS and TOKENS. -/
def Obligations.QueueItemsLeave : Prop :=
  ∀ (s : State) (n : Nat), s.live = true → s.hmd.sessOpen = true → s.linkUp = true → 0 < n →
    let sends (q type ctx : Nat) (body : List Byte) (t : State) : Prop :=
      Replied s t clEvents type 0 (leBytes 1 ctx ++ zeros 3 ++ leBytes 4 n ++ body) ∧
      t.queue q = { s.queue q with inbox := (s.queue q).inbox.drop n } ∧ (∀ k, k ≠ q → t.queue k = s.queue k) ∧
      OnlyReplied { s with queues := t.queues } t
    (n ≤ (s.queue qEvent).inbox.length → 8 + (((s.queue qEvent).inbox.take n).flatMap id).length ≤ 9164 →
      Gives (.events n) s (sends qEvent 1 0xFF (((s.queue qEvent).inbox.take n).flatMap id))) ∧
    (∀ x, x < 16 → n ≤ (s.queue (qCompletion x)).inbox.length →
      8 + (((s.queue (qCompletion x)).inbox.take n).flatMap id).length ≤ 9164 →
      Gives (.completions x n) s (sends (qCompletion x) 2 x (((s.queue (qCompletion x)).inbox.take n).flatMap id))) ∧
    (∀ x, x < 16 → n ≤ (s.queue (qToken x)).inbox.length →
      let body := ((s.queue (qToken x)).inbox.take n).flatMap (fun i => leBytes 2 i.length ++ zeros 2 ++ i)
      8 + body.length ≤ 9164 → Gives (.tokens x n) s (sends (qToken x) 3 x body))

/-- SIDEBAND_READ, BYPASS, IDCODE, SAMPLE_PRELOAD, EXTEST and TRST. -/
def Obligations.SidebandAndScan : Prop :=
  ∀ s : State,
    (s.power ≠ .off →
      (∀ cmd v, s.sideband cmd = some v →
        Gives (.sidebandRead cmd) s (fun t => t = { s with out := s.out ++ [.i2c true v (crc8 (leBytes 1 (2 * (0x5A + s.start.straps)) ++
          leBytes 1 cmd ++ leBytes 1 (2 * (0x5A + s.start.straps) + 1) ++ leBytes 8 v))] })) ∧
      s.sideband 0x00 = some (s.reg Reg.HMD_SERIAL) ∧ s.sideband 0x08 = some (s.reg Reg.START_STATUS) ∧
      s.sideband 0x40 = some (s.reg Reg.WADI_LINK) ∧
      (s.start.identity = true → s.sideband 0x30 = some (fieldLE (Config.sha3 Config.identityKey) 0 8) ∧
        s.sideband 0x37 = some (fieldLE (Config.sha3 Config.identityKey) 56 8)) ∧
      (∀ cmd, s.sideband cmd = none → Gives (.sidebandRead cmd) s (fun t => t = { s with out := s.out ++ [.i2c false 0 0] })) ∧
      s.sideband 0x38 = none ∧ s.sideband 0x41 = none ∧
      Gives (.bypass 0) s (fun t => t = { s with scan := [0, s.scanIr 1] }) ∧
      Gives (.bypass 1) s (fun t => t = { s with scan := [s.scanIr 0, 0] }) ∧
      Gives (.idcode 0) s (fun t => t = { s with scan := [1, s.scanIr 1], out := s.out ++ [.scan 0 0xB9A01C4D] }) ∧
      Gives (.idcode 1) s (fun t => t = { s with scan := [s.scanIr 0, 1], out := s.out ++ [.scan 1 0xB9A02C4D] }) ∧
      (∀ v, Gives (.samplePreload 0 v) s (fun t => t = { s with scan := [2, s.scanIr 1], scanPins := [v, nth 0 s.scanPins 1] }) ∧
        Gives (.samplePreload 1 v) s (fun t => t = { s with scan := [s.scanIr 0, 2], scanPins := [nth 0 s.scanPins 0, v] })) ∧
      (s.power = .hold → Gives (.extest 0) s (fun t => t = { s with scan := [3, s.scanIr 1] }) ∧
        Gives (.extest 1) s (fun t => t = { s with scan := [s.scanIr 0, 3] })) ∧
      (s.power ≠ .hold → Gives (.extest 0) s (fun t => t = { s with scan := [0, s.scanIr 1] }) ∧
        Gives (.extest 1) s (fun t => t = { s with scan := [s.scanIr 0, 0] }))) ∧
    Gives .trst s (fun t => t = { s with scan := [], scanPins := [] })

/-- R8, R9, R11: the bit of a register after a write, by the access code of the field it lies in. -/
def Obligations.AccessCodes : Prop :=
  (∀ (locked : Bool) (fs : List FieldDef) (old new mask i : Nat), (∀ f ∈ fs, f.lo ≤ f.hi ∧ f.hi < 64) →
    fs.Pairwise (fun f g => f.hi < g.lo ∨ g.hi < f.lo) → old < 2 ^ 64 → new < 2 ^ 64 → i < 64 →
    let after := (writeFields locked fs old new mask).testBit i
    (∀ f ∈ fs, f.lo ≤ i → i ≤ f.hi →
      (f.acc = .rw → after = if mask.testBit i then new.testBit i else old.testBit i) ∧
      (f.acc = .rwl → after = if mask.testBit i && !locked then new.testBit i else old.testBit i) ∧
      (f.acc = .w1c → after = (old.testBit i && !(new.testBit i && mask.testBit i))) ∧
      (f.acc = .ro ∨ f.acc = .wo ∨ f.acc = .hw → after = old.testBit i)) ∧
    ((∀ f ∈ fs, i < f.lo ∨ f.hi < i) → after = old.testBit i)) ∧
  (∀ a i : Nat, i < 64 →
    ((accessMask a 8).testBit i = decide (a % 8 = 0)) ∧
    ((accessMask a 4).testBit i = (decide (a % 8 = 0 ∧ i < 32) || decide (a % 8 = 4 ∧ 32 ≤ i))) ∧
    (∀ n, n ≠ 8 → n ≠ 4 → accessMask a n = 0))

/-- The register at an aligned address has no effect of its own on a write. -/
def Sys2Proof.Machine.PlainReg (a : Nat) : Prop :=
  match regAt a with
  | .spq _ o => o ≠ 0 ∧ o ≠ 0x18
  | .core _ o => o ≠ 0xF00 ∧ o ≠ 0xF08 ∧ o ≠ 0xF10 ∧ o ≠ 0xF18 ∧ o ≠ 0xF20 ∧ o ≠ 0xF28 ∧ o ≠ 0x1008
  | .win _ o => o ≠ 0x10
  | _ => True

/-- The engine of core `c` has nothing to do: no operation is queued, nothing waits to be sent or to be registered. -/
def Sys2Proof.Machine.EngineRests (s : State) (c : Nat) : Prop :=
  (s.core c).ops = [] ∧ (s.core c).lines = [] ∧ (s.core c).again = []

/-- The engine of core `c` has nothing to do of its own: nothing waits to be sent or to be registered, and the operation that sends, if
any, has begun a stream program, whose instructions are commands. -/
def Sys2Proof.Machine.EngineStill (s : State) (c : Nat) : Prop :=
  (s.core c).lines = [] ∧ (s.core c).again = [] ∧
    ∀ o, (s.core c).sender = some o → o.begun = true ∧ ((s.launchOf o.ctx).stream o.stream).kind ≠ 1

/-- REGISTER_WRITE, SPAD_SPLIT_WRITE, XLT_INVALIDATE, INVALIDATE, REG_READ and REG_WRITE. -/
def Obligations.RegisterCommands : Prop :=
  ∀ s : State,
    (∀ a n v, s.powered = true → inMemory a n = false → PlainReg (a - a % 8) → fieldsAt (a - a % 8) ≠ [] →
      let w := boundReg (a - a % 8) (writeFields s.start.locked (fieldsAt (a - a % 8)) (s.reg (a - a % 8)) (placed a v.toNat)
        (accessMask a n &&& s.openBits (a - a % 8)))
      refusedWhole (a - a % 8) w = false →
      Gives (.registerWrite a n v) s (fun t => t.reg (a - a % 8) = w % 2 ^ 64 ∧ (∀ b, b ≠ a - a % 8 → t.reg b = s.reg b) ∧
        { t with regs := s.regs } = s)) ∧
    (∀ a n v, s.powered = true → inMemory a n = false → PlainReg (a - a % 8) → fieldsAt (a - a % 8) = [] →
      Gives (.registerWrite a n v) s (fun t => t = s) ∧ s.readReg a n = 0) ∧
    (∀ a v, s.powered = true → inMemory a 8 = true →
      Gives (.registerWrite a 8 v) s (fun t =>
        (inSpad a = false → (∀ b, t.byte b = if a ≤ b ∧ b < a + 8 ∧ isMemory b then nth 0 (leBytes 8 v.toNat) (b - a) else s.byte b) ∧
          t.spadAcc = s.spadAcc ∧ t.free = s.free) ∧
        (inSpad a = true → Landed s t .aperture a (leBytes 8 v.toNat) ∧
          (∀ k, k ≠ spadCore a → t.accesses k = s.accesses k) ∧ ⟨.aperture, true, [(a, 8)], none⟩ ∈ t.accesses (spadCore a)) ∧
        (∀ i, i < 2 → ∀ r, r = Reg.SPAD_RES (spadCore a) i → inSpad a = true → s.fld r Fld.SPAD_RESn_VALID = 1 →
          spadBase (spadCore a) + 128 * bitsOf (s.reg r) 11 0 < a + 8 →
          a < spadBase (spadCore a) + 128 * bitsOf (s.reg r) 11 0 + 128 * bitsOf (s.reg r) 24 12 → Shows t r Fld.SPAD_RESn_LOADED 0) ∧
        (∀ r, inSpad a = false ∨ (r ≠ Reg.SPAD_RES (spadCore a) 0 ∧ r ≠ Reg.SPAD_RES (spadCore a) 1 ∧
          r ≠ Reg.SPAD_ROW_COLLIDE (spadCore a)) → t.reg r = s.reg r) ∧
        { t with
          regs := s.regs, mem := s.mem, badBytes := s.badBytes, badAcc := s.badAcc, softAcc := s.softAcc, spadAcc := s.spadAcc
          free := s.free } = s)) ∧
    (∀ c i, c < 288 → i < 2 → s.powered = true →
      (∀ v, Gives (.registerWrite (Reg.SPAD_RES c i) 8 v) s (fun t => Shows t (Reg.SPAD_RES c i) Fld.SPAD_RESn_LOADED 0 ∧
        (∀ a, a ≠ Reg.SPAD_RES c i → t.reg a = s.reg a) ∧ OnlyRegs s t)) ∧
      (∀ v, Gives (.registerWrite (Reg.SPAD_RES_SRC c i) 8 v) s (fun t => Shows t (Reg.SPAD_RES c i) Fld.SPAD_RESn_LOADED 0 ∧
        (∀ a, a ≠ Reg.SPAD_RES c i → a ≠ Reg.SPAD_RES_SRC c i → t.reg a = s.reg a) ∧ OnlyRegs s t))) ∧
    (∀ a n, n ≠ 8 → n ≠ 4 → s.readReg a n = 0) ∧
    (∀ c v, s.powered = true → c < 288 → s.spadWindow c = false →
      Gives (.spadSplitWrite c v) s (fun t => ∃ u : State, t = u.pumpCore c ∧ (EngineRests s c → ∀ k, t.core k = u.core k) ∧
        u.core c = { s.core c with cache := [], plru := [] } ∧
        (∀ k, k ≠ c → u.core k = s.core k) ∧ u.reg (Reg.SPAD_SPLIT c) = (s.plainWrite (Reg.SPAD_SPLIT c) 8 v.toNat).reg (Reg.SPAD_SPLIT c) ∧
        (∀ a, a ≠ Reg.SPAD_SPLIT c → u.reg a = s.reg a) ∧ { u with regs := s.regs, cores := s.cores } = s ∧
        (EngineRests s c → { t with cores := s.cores } = { u with cores := s.cores }))) ∧
    (∀ c v, c < 288 → s.spadWindow c = true → Gives (.spadSplitWrite c v) s (fun t => t = s)) ∧
    (∀ c, c < 288 →
      let u := s.putCore c { s.core c with cache := [], plru := [] }
      Gives (.invalidate c) s (fun t => t = u.pumpCore c ∧
        (EngineRests s c → (∀ k, t.core k = u.core k) ∧ { t with cores := s.cores } = s))) ∧
    (∀ c v, c < 288 → bitAt v.toNat 0 = true → bitAt v.toNat 6 = true →
      Gives (.xltInvalidate c v) s (fun t => t = s.putCore c { s.core c with
        tlb := [], walks := (s.core c).walks.map (fun w => { w with stale := true }) })) ∧
    (∀ c v, c < 288 → bitAt v.toNat 0 = true → bitAt v.toNat 6 = false →
      Gives (.xltInvalidate c v) s (fun t => t = s.putCore c { s.core c with
        tlb := (s.core c).tlb.filter (fun f => f.ctx != v.toNat / 4 % 16)
        walks := (s.core c).walks.map (fun w => { w with stale := true }) })) ∧
    (∀ h addrs, Accepts s h → addrs ≠ [] → addrs.length ≤ 128 → (∀ a ∈ addrs, if inSpad a then s.badWords ((a - spadBase 0) / 0x80000) a 8 = [] else inMemory a 8 = true → s.firstUe a 8 = none) →
      let read := (addrs.filter (fun a => inMemory a 8 && !inSpad a)).map (fun a => (a, 8))
      Gives (.regRead h addrs) s (fun t => OnlyReplied { s.correctAll read with spadAcc := t.spadAcc } t ∧
        (∀ c, (∀ a ∈ addrs, inSpad a = true → spadCore a ≠ c) → t.accesses c = s.accesses c) ∧
        Replied s t clMgmt 1 h.reqId (mgmtHead stOk 0 0 ++
          addrs.flatMap (fun a => leBytes 8 (((s.accepted h).correctAll read).mantisRead a))))) ∧
    (∀ h addrs, Accepts s h → addrs = [] ∨ 128 < addrs.length →
      Gives (.regRead h addrs) s (fun t => OnlyReplied s t ∧ Replied s t clMgmt 1 h.reqId (mgmtHead stFormat 0 0))) ∧
    (∀ h pairs, Accepts s h → s.power ≠ .hold → pairs ≠ [] → pairs.length ≤ 64 →
      let u := pairs.foldl (fun u (p : Nat × Word) => u.mantisWrite p.1 8 p.2.toNat) (s.accepted h)
      u.linkUp = true → u.hmd.sessOpen = true →
      Gives (.regWrite h pairs) s (fun t => OnlyReplied u t ∧ Replied u t clMgmt 2 h.reqId (mgmtHead stOk 0 0)))

/-- START_STEP and START_STEP_LIMIT. -/
def Obligations.StartSteps : Prop :=
  ∀ (s : State) (u i k : Nat), s.erasedAhead 16 = true → s.nextSlot = some (i, k) → s.wadi.flashHeld = [] →
    let n := s.stepNo
    let rec_ (type method outcome : Nat) (detail : List Byte) : LedgerRec :=
      ⟨type, n, s.fld Reg.LEDGER_STATUS Fld.LEDGER_STATUS_HEAD_SEQ + 1, s.fld Reg.START_STATUS Fld.START_STATUS_START_COUNT, recUnit u,
        method, outcome, detail⟩
    (s.power = .starting →
      (∀ pass mask rnd, n ∈ [3, 4, 5, 6, 7, 8, 9, 10, 11, 12, 13, 14, 15, 16, 17, 18, 21, 22, 23, 24] → u ∈ s.stepUnits n →
        u ∉ s.start.finished → (∀ r ∈ s.start.running, r.1 ≠ u) → s.mayBegin n u = true →
        Gives (.startStep u pass mask rnd) s (fun t => Recorded s t i (rec_ ltBegun (s.firstMethod n u) 0 []) ∧
          t.start = { s.start with running := s.start.running ++ [(u, s.firstMethod n u)] } ∧ t.power = .starting ∧ t.hmd = s.hmd ∧
          t.cores = s.cores ∧ t.ctxs = s.ctxs ∧
          Shows t Reg.START_STATUS Fld.START_STATUS_METHOD (s.firstMethod n u) ∧ Shows t Reg.START_STATUS Fld.START_STATUS_STEP n ∧
          (n = 11 → Shows t (Reg.HBM_STATUS u) Fld.HBM_STATUS_STATE 1) ∧
          (n = 13 → Shows t (Reg.ERG_STATUS u) Fld.ERG_STATUS_STATE 1) ∧
          (n = 21 → Shows t Reg.WADI_LINK Fld.WADI_LINK_STATE 1))) ∧
      (∀ mask rnd, n = 7 ∨ n = 8 → u = wholeStep → s.start.finished = [] → s.start.running = [(u, 0)] → s.start.restart = false →
        s.start.kept.mantisExcl = 0 → s.noMantis = false →
        Gives (.startStep u true mask rnd) s (fun t => Recorded s t i (rec_ ltEnded 0 0 (leBytes 2 stOk)) ∧
          Shows t Reg.START_STATUS Fld.START_STATUS_STEP (n + 1) ∧ t.start.running = [] ∧ t.start.finished = [] ∧ t.power = .starting ∧
          t.mem = s.mem ∧ t.hmd = s.hmd ∧
          (n = 8 → Shows t Reg.HMD_CLK Fld.HMD_CLK_DIE0_MHZ 2250 ∧ Shows t Reg.HMD_CLK Fld.HMD_CLK_DIE1_MHZ 2250))) ∧
      (∀ mask rnd, n = 12 → u < 12 → u ∉ s.start.finished → s.start.running = [(u, 0)] → (∃ v < 12, v ≠ u ∧ v ∉ s.start.finished) →
        Gives (.startStep u true mask rnd) s (fun t => Recorded s t i (rec_ ltEnded 0 0 (leBytes 2 stOk)) ∧
          (∀ a, u * 0x1000000000 ≤ a → a < (u + 1) * 0x1000000000 → t.byte a = 0) ∧
          (∀ a, a < u * 0x1000000000 ∨ (u + 1) * 0x1000000000 ≤ a → t.byte a = s.byte a) ∧
          t.start = { s.start with running := [], finished := u :: s.start.finished } ∧ t.power = .starting)) ∧
      (∀ mask rnd, n = 23 → u = wholeStep → s.start.finished = [] → s.start.running = [(u, 0)] → s.start.restart = false →
        Gives (.startStep u true mask rnd) s (fun t => Recorded s t i (rec_ ltEnded 0 0 (leBytes 2 stOk)) ∧ t.power = .ready ∧
          Shows t Reg.START_STATUS Fld.START_STATUS_STEP 24)) ∧
      (∀ m, n ∈ [3, 5, 6, 10, 11, 18, 21] → (∀ j < 33, s.slotFree ((i + j) % 4096) = true) →
        s.start.running.find? (fun r => r.1 == u) = some (u, m) → m + 1 < numMethods n →
        Gives (.startStepLimit u) s (fun t => t.power = .starting ∧ Shows t Reg.START_STATUS Fld.START_STATUS_METHOD (m + 1) ∧
          t.start.running = s.start.running.filter (fun r => r.1 != u) ++ [(u, m + 1)] ∧
          (∀ d, d < 2 → bitAt s.start.devs d = true → ∃ r, t.slotOf d i = .full r ∧ r.type = ltEnded ∧ r.step = n ∧ r.unit = recUnit u ∧
            r.method = m ∧ r.outcome = 1))) ∧
      (∀ m, n ∈ [3, 4, 5, 6, 7, 8, 10, 11, 12, 14, 16, 17, 20, 21, 23] → s.start.running.find? (fun r => r.1 == u) = some (u, m) →
        numMethods n ≤ m + 1 →
        Gives (.startStepLimit u) s (fun t => t.power = .hold ∧ Shows t Reg.START_STATUS Fld.START_STATUS_HOLD 1 ∧
          Shows t Reg.START_STATUS Fld.START_STATUS_HOLD_CAUSE 1 ∧ Shows t Reg.START_STATUS Fld.START_STATUS_HOLD_STEP n ∧
          Shows t Reg.START_STATUS Fld.START_STATUS_HOLD_UNIT (min u 0x1FF) ∧ t.mem = [] ∧ t.cores = [] ∧ t.start.running = [] ∧
          (∀ d, d < 2 → bitAt s.start.devs d = true → ∃ r, t.slotOf d i = .full r ∧ r.type = ltEnded ∧ r.step = n ∧ r.outcome = 1)))) ∧
    (∀ mask rnd, s.power = .ready → n = 24 → u = wholeStep → s.start.finished = [] → s.start.running = [(u, 0)] → s.start.restart = false →
      Gives (.startStep u true mask rnd) s (fun t => Recorded s t i (rec_ ltEnded 0 0 (leBytes 2 stOk)) ∧ t.power = .ready ∧
        Shows t Reg.START_STATUS Fld.START_STATUS_READY 1 ∧ t.start.finished = [u]))

/-- SELF_TEST, HAMADA_SCHEDULED_TEST, CORE_TEST_DONE, MODULE_TEST and MODULE_TEST_END. -/
def Obligations.SelfTests : Prop :=
  ∀ s : State,
    (∀ h, Accepts s h → s.power ≠ .hold →
      Gives (.selfTest h 0xFFFF) s (fun t => OnlyReplied { s with wadi := { s.wadi with modTest := true } } t ∧
        Replied s t clMgmt 8 h.reqId (mgmtHead stOk flDeferred 0))) ∧
    (∀ h u, Accepts s h → s.power ≠ .hold → 288 ≤ u → u ≠ 0xFFFF →
      Gives (.selfTest h u) s (fun t => OnlyReplied s t ∧ Replied s t clMgmt 8 h.reqId (mgmtHead stFormat 0 0))) ∧
    (∀ h c, Accepts s h → s.power ≠ .hold → c < 288 → s.fenced c = false → (∀ k < 288, (s.core k).test ≠ 3) → (s.core c).test = 2 →
      Gives (.selfTest h c) s (fun t => t.out = s.out ∧ t.core c = { s.core c with testReq := (s.core c).testReq ++ [h.reqId] } ∧
        (∀ k, k ≠ c → t.core k = s.core k) ∧ OnlyReplied { s with cores := t.cores } t)) ∧
    (∀ h c, Accepts s h → s.ready = true → c < 288 → s.fenced c = false → s.keptCore c = false → 0 < s.conf.testCores →
      (∀ k < 288, (s.core k).test = 0) → (s.core c).ctx = none →
      Gives (.selfTest h c) s (fun t => t.out = s.out ∧
        t.core c = { s.core c with testReq := (s.core c).testReq ++ [h.reqId], test := 2, moving := false, moveTo := none } ∧
        (∀ k, k ≠ c → t.core k = s.core k) ∧ OnlyReplied { s with cores := t.cores } t)) ∧
    (∀ c, s.ready = true → c < 288 → s.fenced c = false → s.keptCore c = false → 0 < s.conf.testCores → (∀ k < 288, (s.core k).test = 0) →
      Gives (.hamadaScheduledTest c) s (fun t => OnlyCore s t c ∧
        ((s.core c).ctx = none → t.core c = { s.core c with test := 2, moving := false, moveTo := none }) ∧
        (∀ x, (s.core c).ctx = some x → t.core c = { s.core c with test := 1, moving := true, moveTo := none }))) ∧
    (∀ c, s.live = true → c < 288 → (s.core c).test = 2 → (∀ k < 288, k ≠ c → (s.core k).test ≠ 3) → (∀ k < 288, (s.core k).lines = [] ∧ (s.core k).again = []) →
      (s.core c).testReq = [] →
      let u := s.raise (testResult c true false)
      Gives (.coreTestDone c true) s (fun t => OnlyCore u t c ∧ t.core c = { s.core c with test := 0, testReq := [] })) ∧
    (∀ c r, s.live = true → c < 288 → (s.core c).test = 2 → (∀ k < 288, k ≠ c → (s.core k).test ≠ 3) → (∀ k < 288, (s.core k).lines = [] ∧ (s.core k).again = []) →
      (s.core c).testReq = [r] → s.linkUp = true → s.hmd.sessOpen = true →
      let u := s.raise (testResult c true false)
      Gives (.coreTestDone c true) s (fun t => t.core c = { s.core c with test := 0, testReq := [] } ∧ (∀ k, k ≠ c → t.core k = s.core k) ∧
        OnlyReplied { u with cores := t.cores } t ∧
        Replied s t clMgmt 8 r (mgmtHead stOk 0 s.evSeq ++ leBytes 2 (Config.testCode true)))) ∧
    (s.ready = true → s.wadi.modTest = true → s.launched = false → s.wadi.reqs = [] →
      Gives .moduleTest s (fun t => t = { s with wadi := { s.wadi with modTest := false, testing := true } })) ∧
    (s.wadi.testing = true → s.wadi.reqs = [] → (∀ k < 288, (s.core k).lines = [] ∧ (s.core k).again = []) →
      Gives (.moduleTestEnd []) s (fun t => t.wadi.testing = false ∧
        t = { s with wadi := { s.wadi with testing := false } }.raise (testResult 0xFFFF true true)))

/-- R553, R554, R556: a submission that is taken: it came with a credit of the request path, and its number is new. -/
def Sys2Proof.Machine.AcceptsSubmission (s : State) (h : FrameHdr) : Prop :=
  Admissible s h ∧ 0 < s.wadi.nodeReq ∧ s.wadi.seen.contains h.reqId = false

/-- R554, R556: the words of the request queue that the firmware reads to take a submission of this item. -/
def Sys2Proof.Machine.State.requestWords (s : State) (item : List Byte) : Nat :=
  ((s.queue qWadi).pushItem (s.qcfg qWadi) item).q.words.length - (s.queue qWadi).held

/-- SUBMIT_GROUP, HELD_ADMISSION, STEP and END_GROUP. -/
def Obligations.Submissions : Prop :=
  ∀ s : State,
    (∀ h desc len tag place lent units, AcceptsSubmission s h → s.power ≠ .hold → s.ready = false ∨ s.wadi.testing = true →
      (∀ r ∈ s.wadi.reqs, r.kind = 1) →
      let item := leBytes 8 desc ++ leBytes 4 len ++ zeros 4 ++ leBytes 8 tag ++ zeros 8
      Gives (.submitGroup h desc len tag place ⟨lent, units⟩) s (fun t => Replied s t clSubmit 4 h.reqId [] ∧
        t.wadi.reqs = s.wadi.reqs ++ [⟨h.reqId, s.requestWords item, 1, item, place, lent, units, false⟩] ∧
        t.groups = s.groups ∧ t.ctxs = s.ctxs ∧ t.cores = s.cores ∧ t.wins = s.wins ∧ t.handles = s.handles ∧ t.mcasts = s.mcasts ∧
        t.tasks = s.tasks ∧ t.stackTab = s.stackTab ∧ t.ports = s.ports ∧ t.power = s.power)) ∧
    (∀ h desc len tag place lent units, AcceptsSubmission s h → s.power = .hold →
      Gives (.submitGroup h desc len tag place ⟨lent, units⟩) s (fun t =>
        Replied s t clSubmit 5 h.reqId (leBytes 8 tag ++ leBytes 2 stStartHold ++ zeros 2 ++ leBytes 2 0 ++ zeros 2) ∧
        OnlyReplied { s with wadi := { s.wadi with seen := t.wadi.seen } } t)) ∧
    (∀ r d gi v mask, s.ready = true → s.wadi.testing = false → s.wadi.reqs = [r] → r.kind = 1 → r.done = false →
      let u := s.mend r.judged
      r.judged u = .ok d → u.holds d r.place = false → lowest 256 u.groupFree = some gi →
      u.createGroup d r.place r.units gi = .ok (v, mask) →
      let ws := (v.group gi).windows
      v.linkUp = true → v.hmd.sessOpen = true → v.hmd.nextTx + ws.length < counterLimit →
      let xs := ((List.range 16).filter s.ctxFree).take d.tasks.length
      Gives .heldAdmission s (fun t =>
        (∃ (f : OutFrame) (fs : List OutFrame), t.out = v.out ++ (f :: fs).map .frame ∧ f.cls = clSubmit ∧ f.type = 5 ∧
          f.reqId = r.reqId ∧ f.counter = v.hmd.nextTx ∧
          f.body = leBytes 8 (fieldLE r.item 16 8) ++ leBytes 2 stOk ++ zeros 2 ++ leBytes 2 mask ++ zeros 2 ∧
          fs.map (fun g => (g.cls, g.type, g.reqId, g.body)) =
            ws.map (fun e => (clMgmt, 5, r.reqId, mgmtHead stOk 0 0 ++ (leBytes 2 e ++ leBytes 2 (v.winGen e))))) ∧
        mask = (xs.map (fun x => 2 ^ x)).sum ∧ (t.group gi).live = true ∧ (t.group gi).tag = d.tag ∧ (t.group gi).maps = d.maps ∧
        (∀ p ∈ xs.zip d.tasks, (t.ctx p.1).live = true ∧ (t.ctx p.1).group = gi ∧ (t.ctx p.1).task = p.2.tag ∧ (t.ctx p.1).cls = p.2.cls) ∧
        t.wadi.reqs = [] ∧ t.ctxs = v.ctxs ∧ t.groups = v.groups ∧ t.wins = v.wins ∧ t.handles = v.handles ∧ t.cores = v.cores)) ∧
    (∀ r st item row pos det, s.ready = true → s.wadi.testing = false → s.wadi.reqs = [r] → r.kind = 1 → r.done = false →
      r.judged (s.mend r.judged) = .error (.refuse st item row pos det) → s.linkUp = true → s.hmd.sessOpen = true →
      let u := (s.mend r.judged).raise (programError (islMantis 0) st 0xFF noStep noTile 0 item row pos det)
      Gives .heldAdmission s (fun t =>
        Replied u t clSubmit 5 r.reqId (leBytes 8 (fieldLE r.item 16 8) ++ leBytes 2 st ++ zeros 2 ++ leBytes 2 0 ++ zeros 2) ∧
        t.wadi.reqs = [] ∧ t.groups = s.groups ∧ t.ctxs = s.ctxs ∧ t.cores = s.cores ∧ t.wins = s.wins ∧ t.handles = s.handles ∧
        t.tasks = s.tasks)) ∧
    (∀ h word x, AcceptsSubmission s h → s.power ≠ .hold → s.wadi.reqs = [] → s.wadi.urgent = [] → s.wadi.urgWait = [] → h.urgent = false →
      s.queuedStep h.reqId = false → s.ctxOf (fieldLE (padTo 64 word) 8 8) = some x →
      Gives (.stepWord h word) s (fun t => Replied s t clSubmit 4 h.reqId [] ∧
        (t.ctx x).queue = (s.ctx x).queue ++ [parseStep h.reqId false (padTo 64 word)] ∧
        { t.ctx x with queue := (s.ctx x).queue } = s.ctx x ∧ (∀ y, y ≠ x → t.ctx y = s.ctx y) ∧
        t.wadi.reqs = [⟨h.reqId, s.requestWords (padTo 64 word), 2, padTo 64 word, [], false, false, false⟩] ∧
        t.cores = s.cores ∧ t.groups = s.groups ∧ t.tasks = s.tasks)) ∧
    (∀ h word, AcceptsSubmission s h → s.power ≠ .hold → s.wadi.reqs = [] → s.wadi.urgent = [] → s.wadi.urgWait = [] → h.urgent = false →
      s.queuedStep h.reqId = false → s.ctxOf (fieldLE (padTo 64 word) 8 8) = none →
      Gives (.stepWord h word) s (fun t => Replied s t clSubmit 4 h.reqId [] ∧ t.wadi.reqs = [] ∧ t.ctxs = s.ctxs ∧ t.cores = s.cores ∧
        t.groups = s.groups ∧ t.tasks = s.tasks)) ∧
    (∀ h tag gi g, AcceptsSubmission s h → s.power ≠ .hold → s.wadi.reqs = [] → tag < 2 ^ 64 →
      s.groups.find? (fun g => g.2.live && g.2.tag == tag) = some (gi, g) → s.group gi = g →
      ((∀ x < 16, (s.ctx x).live = true → (s.ctx x).group ≠ gi) → g.windows = [] → g.handles = 0 → g.mcasts = [] → g.residents = [] →
        Gives (.endGroup h tag) s (fun t => Replied s t clSubmit 4 h.reqId [] ∧ t.wadi.reqs = [] ∧ (t.group gi).live = false ∧
          (∀ j, j ≠ gi → t.group j = s.group j) ∧
          t.hmd.scrub = s.hmd.scrub ++ s.groupBytes g ((List.range 16).filter (fun x => (s.ctx x).group == gi && (s.ctx x).run == .ended)) ∧
          t.ctxs = s.ctxs ∧ t.cores = s.cores ∧ t.tasks = s.tasks)) ∧
      ((∃ x < 16, (s.ctx x).live = true ∧ (s.ctx x).group = gi) →
        (∀ x < 16, (s.ctx x).live = true → (s.ctx x).group = gi → (s.ctx x).run ≠ .idle) →
        Gives (.endGroup h tag) s (fun t => Replied s t clSubmit 4 h.reqId [] ∧ t.wadi.reqs = [] ∧
          t.group gi = { s.group gi with ending := true } ∧ (∀ j, j ≠ gi → t.group j = s.group j) ∧
          t.ctxs = s.ctxs ∧ t.cores = s.cores ∧ t.tasks = s.tasks)))

/-- SETI, ADDI, MULI, ANDI, SHRI, ADD, SUB, MUL, LDC and LDP. -/
def Obligations.StreamRegisters : Prop :=
  ∀ (s : State) (c : Nat) (f : Fetch),
    let d := f.w / 2 ^ 22 % 16
    let x := f.r.ar (f.w / 2 ^ 18 % 16)
    let y := f.r.ar (f.w / 2 ^ 14 % 16)
    let imm := BitVec.ofInt 64 (signed 18 f.w)
    let writes (v : BitVec 64) : State → Prop :=
      RunGoes s c f (f.r.pc + 1) (fun i => if i = d then v else f.r.ar i) (fun i => nth 0 f.r.n i)
    (StandsAt s c 0x01 f → Gives (.seti c) s (writes (BitVec.ofInt 64 (signed 22 f.w)))) ∧
    (StandsAt s c 0x02 f → Gives (.addi c) s (writes (x + imm))) ∧
    (StandsAt s c 0x03 f → Gives (.muli c) s (writes (x * imm))) ∧
    (StandsAt s c 0x04 f → Gives (.andi c) s (writes (x &&& BitVec.ofNat 64 (f.w % 2 ^ 18)))) ∧
    (StandsAt s c 0x05 f → Gives (.shri c) s (writes (x.sshiftRight (f.w % 64)))) ∧
    (StandsAt s c 0x06 f → Gives (.add c) s (writes (x + y))) ∧
    (StandsAt s c 0x07 f → Gives (.sub c) s (writes (x - y))) ∧
    (StandsAt s c 0x08 f → Gives (.mul c) s (writes (x * y))) ∧
    (StandsAt s c 0x09 f → Gives (.ldc c) s (writes (BitVec.ofNat 64 (ldcValue (s.launchOf f.o.ctx) f.o (f.w % 16))))) ∧
    (StandsAt s c 0x0A f → Gives (.ldp c) s (writes (BitVec.ofNat 64 (nth 0 f.e.params (f.w % 8)))))

/-- STREAM_END, LOOP, ENDL, JGE and EMIT. -/
def Obligations.StreamControl : Prop :=
  ∀ (s : State) (c : Nat) (f : Fetch), s.instAt c = some f → f.r.insts < 16384 → f.r.a.length = 16 → f.r.n.length = 8 →
    let x := f.r.ar (f.w / 2 ^ 18 % 16)
    let y := f.r.ar (f.w / 2 ^ 14 % 16)
    let k := f.w / 2 ^ 23 % 8
    let cnt (v : BitVec 32) (i : Nat) : BitVec 32 := if i = k then v else nth 0 f.r.n i
    (spCode f.w = 0x0B → bitAt f.w 22 = false → 0 < f.w % 2 ^ 18 → f.r.pc + 1 < f.e.code.length →
      Gives (.loopOp c) s (RunGoes s c f (f.r.pc + 1) f.r.ar (cnt (BitVec.ofNat 32 (f.w % 2 ^ 18))))) ∧
    (spCode f.w = 0x0B → bitAt f.w 22 = true → 0 < x.toInt → f.r.pc + 1 < f.e.code.length →
      Gives (.loopOp c) s (RunGoes s c f (f.r.pc + 1) f.r.ar (cnt (BitVec.ofNat 32 (min x.toInt.toNat (2 ^ 32 - 1)))))) ∧
    (∀ e w, spCode f.w = 0x0B → (bitAt f.w 22 = false ∧ f.w % 2 ^ 18 = 0) ∨ (bitAt f.w 22 = true ∧ x.toInt ≤ 0) →
      f.r.pc < e → f.e.code[e]? = some w → spCode w = 0x0C → spC w = k →
      (∀ j v, f.r.pc < j → j < e → f.e.code[j]? = some v → spCode v ≠ 0x0C ∨ spC v ≠ k) → e + 1 < f.e.code.length →
      Gives (.loopOp c) s (RunGoes s c f (e + 1) f.r.ar (cnt 0))) ∧
    (spCode f.w = 0x0C → nth 0 f.r.n k = 1 → f.r.pc + 1 < f.e.code.length →
      Gives (.endl c) s (RunGoes s c f (f.r.pc + 1) f.r.ar (cnt 0))) ∧
    (spCode f.w = 0x0C → nth 0 f.r.n k ≠ 1 → f.w % 64 < f.e.code.length →
      Gives (.endl c) s (RunGoes s c f (f.w % 64) f.r.ar (cnt (nth 0 f.r.n k - 1)))) ∧
    (spCode f.w = 0x0D → y.toInt ≤ x.toInt → f.w % 64 < f.e.code.length →
      Gives (.jge c) s (RunGoes s c f (f.w % 64) f.r.ar (fun i => nth 0 f.r.n i))) ∧
    (spCode f.w = 0x0D → x.toInt < y.toInt → f.r.pc + 1 < f.e.code.length →
      Gives (.jge c) s (RunGoes s c f (f.r.pc + 1) f.r.ar (fun i => nth 0 f.r.n i))) ∧
    (spCode f.w = 0x00 → Gives (.streamEnd c) s (fun t =>
      t = ((s.putCore c { s.core c with prog := none }).markSent c f.o.id).pumpCore c)) ∧
    (spCode f.w = 0x00 → (s.core c).ops = [f.o] → f.o.begun = true → (s.core c).lines = [] → (s.core c).again = [] →
      Gives (.streamEnd c) s (fun t => t.core c = { s.core c with prog := none, ops := [{ f.o with sent := true }] } ∧ OnlyCore s t c)) ∧
    (spCode f.w = 0x0E → (s.core c).blocksFull = true → Gives (.emit c) s (fun t => t = s)) ∧
    (spCode f.w = 0x0E → (s.core c).blocksFull = false → f.r.emits < 4096 → 0 ≤ x.toInt →
      (x.toInt.toNat + 1) * s.opBlock f.o ≤ f.o.size → f.r.pc + 1 < f.e.code.length →
      let u := s.moveBlock c f.o ((List.range 6).map (fun i => (f.r.ar i).toInt)) x.toInt.toNat
      ((u.core c).opOf f.o.id).isSome = true →
      Gives (.emit c) s (fun t => t = (u.putCore c { u.core c with
        prog := some { f.r with emits := f.r.emits + 1, pc := f.r.pc + 1, insts := f.r.insts + 1 } }).pumpCore c))

/-- NOP, LOAD, STORE, TOKWAIT, TOKWAIT_PASS, TOKPOST, TOKPOST_EFFECT, FENCE and FENCE_PASS. -/
def Obligations.SectionOperations : Prop :=
  ∀ (s : State) (c gi : Nat) (pf : Bool) (n : Next),
    let x := s.core c
    let l := s.launchOf n.x
    let passes (op : Nat) (f : Sect → Sect) (t : State) : Prop := OnlyCore s t c ∧ t.core c = withGrant x gi (stepSect pf op f)
    let nop := l.isNop n.g pf (n.g.sect pf).pc n.w
    (IssuesAt s c gi pf opNop n → Gives (.nop c gi pf) s (passes opNop id)) ∧
    (nop = true →
      (IssuesAt s c gi pf opLoad n → Gives (.load c gi pf) s (passes opLoad id)) ∧
      (IssuesAt s c gi pf opStore n → Gives (.store c gi pf) s (passes opStore id)) ∧
      (IssuesAt s c gi pf opTokwait n → Gives (.tokwait c gi pf) s (passes opTokwait id)) ∧
      (IssuesAt s c gi pf opTokpost n → Gives (.tokpost c gi pf) s (passes opTokpost id)) ∧
      (IssuesAt s c gi pf opFence n → Gives (.fence c gi pf) s (passes opFence id)) ∧
      (IssuesAt s c gi pf opMatch n → Gives (.matchOp c gi pf) s (passes opMatch id)) ∧
      (IssuesAt s c gi pf opMma n → Gives (.mma c gi pf) s (passes opMma id)) ∧
      (IssuesAt s c gi pf opRowfn n → Gives (.rowfn c gi pf) s (passes opRowfn id)) ∧
      (IssuesAt s c gi pf opMma2 n → Gives (.mma2 c gi pf) s (passes opMma2 id)) ∧
      (IssuesAt s c gi pf opDrain n → Gives (.drain c gi pf) s (passes opDrain id))) ∧
    (nop = false →
      (IssuesAt s c gi pf opTokwait n →
        Gives (.tokwait c gi pf) s (passes opTokwait (fun k => { k with wait := some (bufNo (fA n.w) n.g.parity, fState n.w) }))) ∧
      (IssuesAt s c gi pf opTokpost n →
        Gives (.tokpost c gi pf) s (passes opTokpost (fun k => { k with posts := k.posts ++ [(k.seq, bufNo (fA n.w) n.g.parity, fState n.w)] }))) ∧
      (IssuesAt s c gi pf opFence n → fScope n.w ≠ 0 →
        Gives (.fence c gi pf) s (passes opFence (fun k => { k with fence := some (fScope n.w + 16 * x.nextOp) }))) ∧
      (IssuesAt s c gi pf opFence n → fScope n.w = 0 → Gives (.fence c gi pf) s (passes opFence id)) ∧
      (IssuesAt s c gi pf opStore n → n.g.mute = true → Gives (.store c gi pf) s (passes opStore id)) ∧
      (∀ op cmd, (op = opLoad ∧ cmd = Instr.load c gi pf) ∨ (op = opStore ∧ cmd = Instr.store c gi pf ∧ n.g.mute = false) →
        IssuesAt s c gi pf op n →
        (16 ≤ x.ops.length → Gives cmd s (fun t => t = s)) ∧
        (x.ops.length < 16 →
          let o := streamOp c l n.x n.g pf n.w x.nextOp
          let y := withGrant { x with nextOp := x.nextOp + 1, ops := x.ops ++ [o] } gi (stepSect pf op (fun k => { k with open_ := k.open_ ++ [o.num] }))
          Gives cmd s (fun t => ∃ u : State, OnlyCore s u c ∧ u.core c = y ∧ t = u.pumpCore c) ∧
          (EngineRests s c → o.held = true → Gives cmd s (fun t => OnlyCore s t c ∧ t.core c = y)) ∧
          (EngineRests s c → o.held = false → (l.stream o.stream).kind ≠ 1 →
            Gives cmd s (fun t => OnlyCore s t c ∧ t.core c = { y with ops := [{ o with begun := true }], prog := some (ProgRun.start o.id) }))))) ∧
    (∀ g b full, s.grantAt c gi = some g → (g.sect pf).wait = some (b, full) →
      (x.ctx = some n.x → l.isPair = false ∨ (g.sect pf).pc < (l.prog.section pf).length) →
      (bitAt x.tokens b = full → Gives (.tokwaitPass c gi pf) s (fun t => OnlyCore s t c ∧
        t.core c = withGrant x gi (fun g => g.modSect pf (fun k => { k with wait := none })))) ∧
      (bitAt x.tokens b ≠ full → Gives (.tokwaitPass c gi pf) s (fun t => t = s))) ∧
    (∀ g num b full rest, s.grantAt c gi = some g → (g.sect pf).posts = (num, b, full) :: rest →
      ((∀ k ∈ (g.sect pf).open_, num ≤ k) → Gives (.tokpostEffect c gi pf) s (fun t => OnlyCore { s with spadAcc := t.spadAcc } t c ∧
        (∀ k, t.accesses k = if k = c then (s.accesses c).filter (fun y => !y.isOf (g.sectId (x.ctx.getD 0) pf) num) else s.accesses k) ∧
        t.core c = { withGrant x gi (fun g => g.modSect pf (fun k => { k with posts := rest })) with
          tokens := withBits x.tokens b b (if full then 1 else 0) })) ∧
      ((∃ k ∈ (g.sect pf).open_, k < num) → Gives (.tokpostEffect c gi pf) s (fun t => t = s))) ∧
    (∀ g f, s.grantAt c gi = some g → (g.sect pf).fence = some f →
      (x.ctx = some n.x → l.isPair = false ∨ (g.sect pf).pc < (l.prog.section pf).length) →
      (s.fenceDone c g f = true → Gives (.fencePass c gi pf) s (fun t => OnlyCore { s with spadAcc := t.spadAcc } t c ∧
        (∀ k, t.accesses k = if k = c then (s.accesses c).filter (fun y => !y.fenced (x.ctx.getD 0) g pf f) else s.accesses k) ∧
        t.core c = withGrant x gi (fun g => g.modSect pf (fun k => { k with fence := none })))) ∧
      (s.fenceDone c g f = false → Gives (.fencePass c gi pf) s (fun t => t = s)))

/-- A product's operand rows and their sum, for a product that is not masked (R47, R78, R83, R123). -/
def Sys2Proof.Machine.productSum (s : State) (c : Nat) (pf : Bool) (n : Next) (second : Bool) (start : Acc) : Acc :=
  let l := (s.launchOf n.x).view n.g
  let da := l.slotDesc (fOpa n.w)
  let db := l.slotDesc (fOpb n.w)
  let sparse := fSparse n.w && !n.g.audit
  let sh := l.shapes second da db
  let m := (n.g.sect pf).armed.getD 0
  let p := (s.launchOf n.x).passAt n.g
  let skipZero := (if sparse then scarabPath da.spform da.declNm db.spform else .dense) == .bitmap
  let k0 := l.productStart second p n.g
  let ra := s.operand da sparse skipZero sh.1 (l.bufsOf c n.g (fA n.w) (fAs n.w) (fA m) (fAs m)) k0
  let rb := s.operand db sparse skipZero sh.2 (l.bufsOf c n.g (fB n.w) (fBs n.w) (fB m) (fBs m)) k0
  mulAcc ⟨da.fmt, padRows (padCode da (l.slot (fOpa n.w)).pad) sh.1.k (fun r => l.rowLive p n.g.mb r) ra⟩
    ⟨db.fmt, padRows (padCode db (l.slot (fOpb n.w)).pad) sh.2.k (l.colLive second p n.g) rb⟩ k0 (l.productK second p n.g) l.tm l.tn start

/-- The reads that a product makes (R202). -/
def Sys2Proof.Machine.productReads (s : State) (c : Nat) (pf : Bool) (n : Next) (second : Bool) : List (Nat × Nat) :=
  let l := (s.launchOf n.x).view n.g
  let da := l.slotDesc (fOpa n.w)
  let db := l.slotDesc (fOpb n.w)
  let sparse := fSparse n.w && !n.g.audit
  let sh := l.shapes second da db
  let m := (n.g.sect pf).armed.getD 0
  let ba := l.bufsOf c n.g (fA n.w) (fAs n.w) (fA m) (fAs m)
  let bb := l.bufsOf c n.g (fB n.w) (fBs n.w) (fB m) (fBs m)
  let oa := if sparse then s.structBytes da sh.1 ba else ⟨[], [], [], []⟩
  let ob := if sparse then s.structBytes db sh.2 bb else ⟨[], [], [], []⟩
  let k0 := l.productStart second ((s.launchOf n.x).passAt n.g) n.g
  let kn := l.productK second ((s.launchOf n.x).passAt n.g) n.g
  cellReads da sparse oa sh.1 ba k0 kn ++ cellReads db sparse ob sh.2 bb k0 kn

/-- Accumulators are in place, the section has gone on, `accs` are the accesses noted at the core's scratchpad, and nothing differs but core
`c`, what its Scarab, its banks and, where a partial has been read, its translation unit and the corrected reads count, and a free value
used. -/
def Sys2Proof.Machine.Multiplied (s : State) (c gi : Nat) (pf : Bool) (op set : Nat) (a : Acc) (accs : List SpadAcc) (looked : Bool)
    (t : State) : Prop :=
  t.core c = withGrant { s.core c with
      acc0 := (if set = 0 then a else (s.core c).acc0)
      acc1 := (if set = 0 then (s.core c).acc1 else a)
      tlb := (if looked then (t.core c).tlb else (s.core c).tlb) } gi (stepSect pf op id) ∧
    (∀ k, k ≠ c → t.core k = s.core k) ∧ (∀ k, t.accesses k = if k = c then accs else s.accesses k) ∧
    { t with cores := s.cores, regs := s.regs, softAcc := s.softAcc, spadAcc := s.spadAcc, free := s.free } = s ∧
    (looked = false → t.softAcc = s.softAcc) ∧
    (∀ r, r ∉ [Reg.SCARAB_GROUP_OVER c, Reg.SCARAB_MATCH_CNT c, Reg.SCARAB_FLOOR_CYC c] →
      (r = Reg.XLT_MISS_CNT c ∨ ReadsAndMeetings r → looked = false) →
      (∀ b, b < 16 → r ≠ Reg.SPAD_CONF_CNT c b) → t.reg r = s.reg r)

/-- MATCH, MMA and MMA2. -/
def Obligations.MatrixOperations : Prop :=
  ∀ (s : State) (c gi : Nat) (pf : Bool) (n : Next),
    let l := s.launchOf n.x
    l.isNop n.g pf (n.g.sect pf).pc n.w = false →
    (IssuesAt s c gi pf opMatch n →
      let v := l.view n.g
      let second := (v.prog.productAfter pf (n.g.sect pf).pc).elim false (fun w => opCode w == opMma2)
      let da := v.slotDesc (fOpa n.w)
      let db := v.slotDesc (fOpb n.w)
      let sh := v.shapes second da db
      let ba := v.bufsOf c n.g 0 0 (fA n.w) (fAs n.w)
      let bb := v.bufsOf c n.g 0 0 (fB n.w) (fBs n.w)
      let kn := v.productK second (l.passAt n.g) n.g
      let k0 := v.productStart second (l.passAt n.g) n.g
      let reads := structReads da sh.1 ba ++ structReads db sh.2 bb
      (v.predPair = true ∨ n.g.audit = true) ∨
        (s.anyBad reads = false ∧
          operandFault da (s.structBytes da sh.1 ba) (fun r => v.rowLive (l.passAt n.g) n.g.mb r) sh.1 kn k0 (v.productExt second) = none ∧
          operandFault db (s.structBytes db sh.2 bb) (v.colLive second (l.passAt n.g) n.g) sh.2 kn k0 (v.productExt second) = none) →
      Gives (.matchOp c gi pf) s (fun t => OnlyCore { s with regs := t.regs, spadAcc := t.spadAcc, free := t.free } t c ∧
        (∀ k, t.accesses k = if k = c ∧ ¬ (v.predPair = true ∨ n.g.audit = true)
          then (s.noteAcc c ⟨.scarab, false, reads, n.g.own n.x pf⟩).accesses c else s.accesses k) ∧
        (∀ r, (∀ b, b < 16 → r ≠ Reg.SPAD_CONF_CNT c b) → t.reg r = s.reg r) ∧
        (v.predPair = true ∨ n.g.audit = true → t.regs = s.regs ∧ t.free = s.free) ∧
        t.core c = withGrant (s.core c) gi (stepSect pf opMatch (fun k => { k with armed := some n.w })))) ∧
    (∀ a, IssuesAt s c gi pf opMma n →
      (l.loadsAccIn (l.passAt n.g) pf n && s.anyBad [l.bufRead c n.g (fPartialBr n.w) l.partSize]) = false →
      s.mmaStart c l (l.passAt n.g) pf n (if l.isPair then 0 else n.g.set) = .ok a → s.anyBad (productReads s c pf n false) = false →
      s.partServed c pf n = true →
      let loaded := if l.loadsAccIn (l.passAt n.g) pf n
        then s.noteAcc c ⟨.accLoad, false, [l.bufRead c n.g (fPartialBr n.w) l.partSize], n.g.own n.x pf⟩ else s
      Gives (.mma c gi pf) s (Multiplied s c gi pf opMma (if l.isPair then 0 else n.g.set) (productSum s c pf n false a)
        ((loaded.noteAcc c ⟨.cells, false, productReads s c pf n false, n.g.own n.x pf⟩).accesses c) (l.loadsPass (l.passAt n.g) pf n))) ∧
    (s.partServed c pf n = false → IssuesAt s c gi pf opMma n → Gives (.mma c gi pf) s (fun t => t = s)) ∧
    (l.prog.firstMma pf (n.g.sect pf).pc = true → l.isPair = false → fAccIn n.w = false → (l.passCoord (l.passAt n.g)).k = 0 →
      s.mmaStart c l (l.passAt n.g) pf n n.g.set = .ok { Acc.zero with int := l.intTile }) ∧
    (l.prog.firstMma pf (n.g.sect pf).pc = true → l.isPair = false → fAccIn n.w = true → (l.passCoord (l.passAt n.g)).k = 0 →
      s.mmaStart c l (l.passAt n.g) pf n n.g.set = .ok (accOf l.intTile (s.got (l.bufRead c n.g (fPartialBr n.w) l.partSize)))) ∧
    (∀ b, l.prog.firstMma pf (n.g.sect pf).pc = true → l.isPair = false → 0 < (l.passCoord (l.passAt n.g)).k →
      s.readBy c (l.partVa n.g.mb n.g.nb 0) l.partSize = .ok b →
      s.mmaStart c l (l.passAt n.g) pf n n.g.set = .ok (accOf l.intTile b)) ∧
    (l.prog.firstMma pf (n.g.sect pf).pc = false →
      ∀ set, s.mmaStart c l (l.passAt n.g) pf n set = .ok (if set = 0 then (s.core c).acc0 else (s.core c).acc1)) ∧
    (IssuesAt s c gi pf opMma2 n → (l.view n.g).predPair = false → s.anyBad (productReads s c pf n true) = false →
      Gives (.mma2 c gi pf) s (Multiplied s c gi pf opMma2 1 (productSum s c pf n true (s.core c).acc1)
      ((s.noteAcc c ⟨.cells, false, productReads s c pf n true, n.g.own n.x pf⟩).accesses c) false))

/-- The exact sums of the cell. -/
def Obligations.BlockSums : Prop :=
  (∀ ps qs : List FV, ps.Perm qs → ∀ b : BlockAcc, ps.foldl BlockAcc.add b = qs.foldl BlockAcc.add b) ∧
  (∀ ps : List (Bool × Nat × Nat),
    ((ps.map (fun p => FV.fin p.1 p.2.1 (blockLsb + p.2.2))).foldl BlockAcc.add BlockAcc.empty).sum =
      (ps.map (fun p => (if p.1 then -((p.2.1 * 2 ^ p.2.2 : Nat) : Int) else ((p.2.1 * 2 ^ p.2.2 : Nat) : Int)))).sum) ∧
  (∀ ps : List FV, let v := (ps.foldl BlockAcc.add BlockAcc.empty).value
    (FV.nan ∈ ps ∨ (FV.inf true ∈ ps ∧ FV.inf false ∈ ps) → v = .nan) ∧
    (FV.nan ∉ ps → FV.inf false ∈ ps → FV.inf true ∉ ps → v = .inf false) ∧
    (FV.nan ∉ ps → FV.inf true ∈ ps → FV.inf false ∉ ps → v = .inf true)) ∧
  (∀ acc b x, dec32 (addBlock acc b .nan x) = .nan ∧ dec32 (addBlock acc b x .nan) = .nan) ∧
  (∀ kn ra rb acc, dotInt kn ra rb acc = acc + (((ra.codes.zip rb.codes).take kn).map (fun q =>
    match q with
    | (some x, some y) => signed 8 x * signed 8 y
    | _ => 0)).sum) ∧
  (∀ a b : F32, fadd a b = fadd b a) ∧
  addBlock f32zero ([(0x7E, 0x7E), (0x01, 0x01), (0xFE, 0x7E)].foldl (fun b p => b.add (product 0x06 0x06 p.1 p.2)) BlockAcc.empty)
    (scaleValue 0x06 0x7F) (scaleValue 0x06 0x7F) = 0x36800000

/-- R49: a zero sum of finite products is +0. -/
def Obligations.ZeroBlock : Prop :=
  ∀ ps : List (Bool × Nat × Int),
    ((ps.map (fun p => FV.fin p.1 p.2.1 p.2.2)).foldl BlockAcc.add BlockAcc.empty).sum = 0 →
    ((ps.map (fun p => FV.fin p.1 p.2.1 p.2.2)).foldl BlockAcc.add BlockAcc.empty).value = .fin false 0 blockLsb

/-- R443: MCAST_DETACHED. -/
def Obligations.DetachedBits : Prop :=
  ∀ (s : State) (g : Nat), g < 64 → (s.mcast g).rcvs.length ≤ 64 →
    (∀ r, (h : r < (s.mcast g).rcvs.length) →
      (s.readReg (Reg.MCAST_DETACHED g) 8).testBit r = (s.mcast g).rcvs[r].detached) ∧
    (∀ r, (s.mcast g).rcvs.length ≤ r → (s.readReg (Reg.MCAST_DETACHED g) 8).testBit r = false)

/-- FLIT_RECEIVE. -/
def Obligations.FlitsReceived : Prop :=
  ∀ (s : State) (p : Nat) (bytes : List Byte) (codes : List Code), p < 12 → s.portUp p = true → (s.swarm.live = true → s.swarm.hopQ = []) →
    let f := readFlit bytes
    let x := s.port p
    let noted := codes.foldl Port.noteCode x
    let d := (f.seq + 4096 - x.expSeq) % 4096
    let here := Instr.flitReceive p bytes codes
    let fixed (t : State) : Prop := Shows t (Reg.SEIF_ERR_CNT p) Fld.SEIF_ERR_CNT_CORRECTED
      (s.fld (Reg.SEIF_ERR_CNT p) Fld.SEIF_ERR_CNT_CORRECTED + (codes.filter codeFixed).length)
    let counted (t : State) : Prop := fixed t ∧ (t.port p).codes = noted.codes ∧ (t.port p).bad = noted.bad
    let only (t : State) (rs : List Nat) : Prop := OnlyPort s t p (Reg.SEIF_ERR_CNT p :: rs) ∧ counted t
    let nak (t : State) : Prop := ∃ g, t.out = s.out ++ [.flit p (flitBytes g)] ∧ g.type = 2 ∧ g.ack = x.expSeq ∧
      (t.port p).nakFor = some x.expSeq
    let answers (t : State) (ack : Nat) : Prop :=
      ∃ g rest, t.out = s.out ++ .flit p (flitBytes g) :: rest ∧ g.type = 0 ∧ g.ackValid = true ∧ g.ack = ack
    let takes (t : State) (slots : List Flit) : Prop := answers t (x.expSeq % 4096) ∧ (t.port p).expSeq = (x.expSeq + 1) % 4096 ∧
      (t.port p).nakFor = none ∧ (t.port p).slots = slots ∧
      (x.waiting = [] → (t.port p).credits = mapAt x.credits f.creditVl (fun n => n + f.credits))
    let stays (t : State) : Prop := (t.port p).expSeq = x.expSeq ∧ (t.port p).slots = x.slots ∧ (x.waiting = [] → (t.port p).credits = x.credits)
    (¬ WellFlit f codes →
      (∀ c ∈ codes, codeLost c = true → bitAt x.unhealthy c.lane = true ∨ (nth [] x.bad c.lane).length + codes.length ≤ s.conf.laneLimit) →
      Gives here s (fun t => only t [] ∧
        Shows t (Reg.SEIF_ERR_CNT p) Fld.SEIF_ERR_CNT_DISCARDED (s.fld (Reg.SEIF_ERR_CNT p) Fld.SEIF_ERR_CNT_DISCARDED + 1) ∧
        t.port p = { noted with owed := (t.port p).owed, rrCredit := (t.port p).rrCredit, nakFor := (t.port p).nakFor } ∧
        (if (f.type = 1 ∨ codes.any codeLost = true ∨ f.crcOk = false) ∧ x.nakFor ≠ some x.expSeq then nak t
          else t.port p = noted ∧ t.out = s.out))) ∧
    (∀ c n, codes = [c] → codeLost c = true → c.lane < 8 → n = nth 0 x.codes c.lane + c.gap + 1 →
      s.conf.laneLimit ≤ (nth [] x.bad c.lane).length → (∀ i ∈ nth [] x.bad c.lane, n < i + 2 ^ 20) → bitAt x.unhealthy c.lane = false →
      s.portState p = psUp → bitAt (s.fld (Reg.SEIF_WIDTH p) Fld.SEIF_WIDTH_ACTIVE) c.lane = true →
      Gives here s (fun t => OnlyPortEvents s t p [Reg.SEIF_ERR_CNT p, Reg.SEIF_RETRY_CNT p, Reg.SEIF_WIDTH p] ∧ counted t ∧
        Shows t (Reg.SEIF_ERR_CNT p) Fld.SEIF_ERR_CNT_DISCARDED (s.fld (Reg.SEIF_ERR_CNT p) Fld.SEIF_ERR_CNT_DISCARDED + 1) ∧
        t.portState p = psRetrain ∧ (t.port p).unhealthy = x.unhealthy ||| 2 ^ c.lane ∧ (t.port p).retry = x.retry ∧
        Shows t (Reg.SEIF_RETRY_CNT p) Fld.SEIF_RETRY_CNT_RETRAINS (s.fld (Reg.SEIF_RETRY_CNT p) Fld.SEIF_RETRY_CNT_RETRAINS + 1))) ∧
    (∀ first k, WellFlit f codes → f.type = 0 → f.ackValid = true → x.waiting = [] → x.inOrder first → k < x.retry.length →
      f.ack = (first + k) % 4096 →
      Gives here s (fun t => only t [] ∧ t.out = s.out ∧
        t.port p = { noted with
          retry := x.retry.drop (k + 1), replays := 0, credits := mapAt x.credits f.creditVl (fun n => n + f.credits) })) ∧
    (WellFlit f codes → f.type = 1 → d = 0 →
      (f.dst = s.ownId → Gives here s (fun t => only t [] ∧ takes t (x.slots ++ [f]))) ∧
      (f.dst ≠ s.ownId → f.hops ≠ 0 → s.route f.dst ≠ .noRoute →
        Gives here s (fun t => only t [] ∧ takes t (x.slots ++ [{ f with hops := f.hops - 1 }]))) ∧
      (f.dst ≠ s.ownId → f.hops = 0 →
        Gives here s (fun t => only t [Reg.SEIF_FWD_DROP p] ∧ takes t x.slots ∧
          Shows t (Reg.SEIF_FWD_DROP p) Fld.SEIF_FWD_DROP_HOPS (s.fld (Reg.SEIF_FWD_DROP p) Fld.SEIF_FWD_DROP_HOPS + 1))) ∧
      (f.dst ≠ s.ownId → f.hops ≠ 0 → s.route f.dst = .noRoute →
        Gives here s (fun t => only t [Reg.SEIF_FWD_DROP p] ∧ takes t x.slots ∧
          Shows t (Reg.SEIF_FWD_DROP p) Fld.SEIF_FWD_DROP_NO_ROUTE (s.fld (Reg.SEIF_FWD_DROP p) Fld.SEIF_FWD_DROP_NO_ROUTE + 1)))) ∧
    (WellFlit f codes → f.type = 1 → 2048 ≤ d →
      Gives here s (fun t => only t [] ∧ answers t ((x.expSeq + 4095) % 4096) ∧ stays t)) ∧
    (WellFlit f codes → f.type = 1 → 0 < d → d < 2048 → x.nakFor ≠ some x.expSeq → Gives here s (fun t => only t [] ∧ nak t ∧ stays t))

/-- NAK, SEIF_RETRY_TIMEOUT, FLIT_FORWARD and MESSAGE_QUEUE_COMMIT. -/
def Obligations.LinkRetry : Prop :=
  ∀ (s : State) (p : Nat), p < 12 →
    let x := s.port p
    let limit := s.fld (Reg.SEIF_CTL p) Fld.SEIF_CTL_SEIF_RETRY_LIMIT
    let replayed (n : Option Nat) (first k : Nat) (t : State) : Prop :=
      (x.replays < limit → Resent s t p (x.retry.drop k) ∧ OnlyPort s t p [Reg.SEIF_RETRY_CNT p] ∧
        Shows t (Reg.SEIF_RETRY_CNT p) Fld.SEIF_RETRY_CNT_REPLAYS (s.fld (Reg.SEIF_RETRY_CNT p) Fld.SEIF_RETRY_CNT_REPLAYS + 1) ∧
        (t.port p).replays = x.replays + 1 ∧ (t.port p).nakFor = n ∧
        (t.port p).expSeq = x.expSeq ∧ (t.port p).slots = x.slots ∧ (x.waiting = [] → (t.port p).retry = x.retry)) ∧
      (limit ≤ x.replays → OnlyPortEvents s t p [Reg.SEIF_RETRY_CNT p, Reg.SEIF_WIDTH p] ∧ t.portState p = psRetrain ∧
        Shows t (Reg.SEIF_RETRY_CNT p) Fld.SEIF_RETRY_CNT_RETRAINS (s.fld (Reg.SEIF_RETRY_CNT p) Fld.SEIF_RETRY_CNT_RETRAINS + 1) ∧
        Shows t Reg.FLT_EVT_SEQ Fld.FLT_EVT_SEQ_NEXT (s.evSeq + 1) ∧
        (∃ g, t.out = s.out ++ [.flit p (flitBytes g)] ∧ g.type = 3 ∧ g.payload = leBytes 1 3 ++ leBytes 1 (s.ownLanes p)) ∧
        t.port p = { x with after := some ((first + k) % 4096), replays := 0, nakFor := none, peerMask := none, owed := (t.port p).owed,
                            rrCredit := (t.port p).rrCredit })
    (∀ first k, s.portUp p = true → x.inOrder first → k < x.retry.length →
      Gives (.nak p ((first + k) % 4096)) s (replayed x.nakFor first k)) ∧
    (∀ seq, s.portUp p = false → s.portState p = psRetrain →
      Gives (.nak p seq) s (fun t => t = s.putPort p { x with after := some (seq % 4096) })) ∧
    (∀ first, s.portUp p = true → x.inOrder first → 0 < x.retry.length → Gives (.seifRetryTimeout p) s (replayed none first 0)) ∧
    (s.portUp p = true → x.retry = [] → Gives (.seifRetryTimeout p) s (fun t => t = s.putPort p { x with nakFor := none })) ∧
    (∀ vl a f b, s.portUp p = true → s.power ≠ .aest ∨ vl = 0 → x.slots = a ++ f :: b → f.vl = vl → f.dst ≠ s.ownId →
      (∀ g ∈ a, g.vl ≠ vl ∨ g.dst = s.ownId) →
      (∀ q, s.route f.dst = .port q → vl < 8 → 0 < nth 0 (s.port q).credits vl → (s.port q).retry.length < 512 →
        s.portState q ≠ psLow ∨ vl = 0 → (s.port q).waiting = [] →
        Gives (.flitForward p vl) s (fun t => (∀ k, k ≠ p → k ≠ q → t.port k = s.port k) ∧ { t with ports := s.ports, out := s.out } = s ∧
          (t.port p).slots = a ++ b ∧ nth 0 (t.port q).credits vl = nth 0 (s.port q).credits vl - 1 ∧
          (t.port q).waiting = [] ∧ (t.port q).nextSeq = ((s.port q).nextSeq + 1) % 4096 ∧
          ∃ g rest, (t.port q).retry = (s.port q).retry ++ [g] ∧ t.out = s.out ++ .flit q (flitBytes g) :: rest ∧
            bareFlit g = bareFlit { f with seq := (s.port q).nextSeq })) ∧
      (∀ q, s.route f.dst = .port q → nth 0 (s.port q).credits vl = 0 → Gives (.flitForward p vl) s (fun t => t = s)) ∧
      (s.route f.dst = .noRoute → Gives (.flitForward p vl) s (fun t => OnlyPort s t p [Reg.SEIF_FWD_DROP p] ∧ (t.port p).slots = a ++ b ∧
        Shows t (Reg.SEIF_FWD_DROP p) Fld.SEIF_FWD_DROP_NO_ROUTE (s.fld (Reg.SEIF_FWD_DROP p) Fld.SEIF_FWD_DROP_NO_ROUTE + 1)))) ∧
    (∀ vl a f b, s.portUp p = true → vl < 8 → x.slots = a ++ f :: b → f.vl = vl → f.dst = s.ownId → queuedKind f.kind = true →
      (∀ g ∈ a, g.vl ≠ vl ∨ g.dst ≠ s.ownId ∨ queuedKind g.kind = false) →
      let q := qSeif p vl
      let us := queueUnits (s.qcfg q).width f.payload (f.msg == 2 || f.msg == 3)
      (s.qOn q = true → (s.queue q).fits (s.qcfg q) us = false → Gives (.messageQueueCommit p vl) s (fun t => t = s)) ∧
      (s.qOn q = true → (s.queue q).fits (s.qcfg q) us = true →
      Gives (.messageQueueCommit p vl) s (fun t => (∀ k, k ≠ p → t.port k = s.port k) ∧ (t.port p).slots = a ++ b ∧
        (t.port p).expSeq = x.expSeq ∧ (t.port p).retry = x.retry ∧ (∀ k, k ≠ q → t.queue k = s.queue k) ∧
        placeless (t.queue q) = placeless (us.foldl (fun y u => (y.push (s.qcfg q) u.1 u.2).q) (s.queue q)) ∧
        (∀ r, r ≠ Reg.SPQ_DROP_CNT q → ¬ ReadsAndMeetings r → t.reg r = s.reg r) ∧
        ((∀ w ∈ (s.queue q).words, ∀ k, w.slot = some k → k < (s.qcfg q).region) →
          ∀ i, i < (s.qcfg q).base ∨ (s.qcfg q).base + 72 * (s.qcfg q).region ≤ i → t.byte i = s.byte i) ∧
        { t with
          ports := s.ports, queues := s.queues, regs := s.regs, mem := s.mem, badBytes := s.badBytes, badAcc := s.badAcc
          softAcc := s.softAcc, spadAcc := s.spadAcc, free := s.free, out := s.out } = s)))

/-- A port is down with nothing in its buffers (R391). -/
def Sys2Proof.Machine.PortLost (s t : State) (p : Nat) : Prop :=
  t.portState p = psDown ∧ Shows t (Reg.SEIF_WIDTH p) Fld.SEIF_WIDTH_ACTIVE 0 ∧ Shows t (Reg.SEIF_WIDTH p) Fld.SEIF_WIDTH_WIDTH 0 ∧
    t.port p = { Port.idle with
      unhealthy := (s.port p).unhealthy, peerInc := (s.port p).peerInc, wakes := (s.port p).wakes, codes := (s.port p).codes
      bad := (s.port p).bad }

/-- No traffic waits at a port, none is unacknowledged, and its partner is also reached by another up port: what a port that goes down
then leaves is the port alone. -/
def Sys2Proof.Machine.Spare (s : State) (p : Nat) : Prop :=
  (s.port p).waiting = [] ∧ (s.port p).retry = [] ∧
    ∃ k, k ≠ p ∧ k < 12 ∧ s.portUp k = true ∧ s.fld (Reg.SEIF_PEER k) Fld.SEIF_PEER_MODULE = s.fld (Reg.SEIF_PEER p) Fld.SEIF_PEER_MODULE

/-- LANE_UNHEALTHY, PORT_RETRAIN, RETRAIN_DONE, RETRAIN_TIMEOUT and PORT_TRAIN_RETRY. -/
def Obligations.Retrains : Prop :=
  ∀ (s : State) (p : Nat), p < 12 →
    let x := s.port p
    let up := s.portState p = psUp ∨ s.portState p = psConflict
    let trains := Reg.SEIF_RETRY_CNT p :: [Reg.SEIF_WIDTH p]
    let mask (t : State) : Prop := (t.port p).peerMask = none ∧
      ∃ g, t.out = s.out ++ [.flit p (flitBytes g)] ∧ g.type = 3 ∧ g.payload = leBytes 1 3 ++ leBytes 1 (t.ownLanes p)
    (∀ lane, lane < 8 → bitAt (s.fld (Reg.SEIF_WIDTH p) Fld.SEIF_WIDTH_ACTIVE) lane = false → s.portState p ≠ psRetrain →
      Gives (.laneUnhealthy p lane) s (fun t => t = s.putPort p { x with unhealthy := x.unhealthy ||| 2 ^ lane })) ∧
    (∀ lane, lane < 8 → s.portState p = psRetrain →
      Gives (.laneUnhealthy p lane) s (fun t => OnlyPort s t p [] ∧ mask t ∧
        t.port p = { x with
          unhealthy := x.unhealthy ||| 2 ^ lane, peerMask := none, owed := (t.port p).owed, rrCredit := (t.port p).rrCredit })) ∧
    (∀ lane, lane < 8 → bitAt (s.fld (Reg.SEIF_WIDTH p) Fld.SEIF_WIDTH_ACTIVE) lane = true → up →
      Gives (.laneUnhealthy p lane) s (fun t => OnlyPortEvents s t p trains ∧ t.portState p = psRetrain ∧ mask t ∧
        (t.port p).unhealthy = x.unhealthy ||| 2 ^ lane ∧ (t.port p).retry = x.retry ∧
        (t.port p).after = x.after.or (x.retry.head?.map (·.seq)) ∧
        Shows t (Reg.SEIF_RETRY_CNT p) Fld.SEIF_RETRY_CNT_RETRAINS (s.fld (Reg.SEIF_RETRY_CNT p) Fld.SEIF_RETRY_CNT_RETRAINS + 1))) ∧
    (∀ mask act w, up ∨ s.portState p = psRetrain → laneChoice (s.ownLanes p &&& mask) = some (act, w) →
      Gives (.portRetrain p mask) s (fun t => OnlyPortEvents s t p trains ∧ t.portState p = psRetrain ∧ (t.port p).peerMask = some mask ∧
        Shows t (Reg.SEIF_WIDTH p) Fld.SEIF_WIDTH_HEALTHY (s.ownLanes p &&& mask) ∧
        Shows t (Reg.SEIF_WIDTH p) Fld.SEIF_WIDTH_ACTIVE act ∧ Shows t (Reg.SEIF_WIDTH p) Fld.SEIF_WIDTH_WIDTH w ∧
        (t.port p).retry = x.retry ∧ (t.port p).waiting = x.waiting ∧ (t.port p).slots = x.slots)) ∧
    (∀ mask, s.portState p = psRetrain → laneChoice (s.ownLanes p &&& mask) = none → Spare s p →
      Gives (.portRetrain p mask) s (fun t => PortLost s t p ∧ OnlyPortEvents s t p [Reg.SEIF_WIDTH p])) ∧
    (s.portState p = psRetrain → x.peerMask = none → Gives (.retrainDone p) s (fun t => t = s)) ∧
    (s.portState p = psRetrain → x.peerMask.isSome = true → s.mustBeLow p = false →
      Gives (.retrainDone p) s (fun t => OnlyPortEvents s t p trains ∧ t.portState p = psUp ∧ (t.port p).fails = 0 ∧
        (t.port p).after = none ∧ (t.port p).slots = x.slots ∧ (t.port p).expSeq = x.expSeq ∧
        let again := (x.after.map (fromSeq x.retry)).getD []
        Resent s t p again ∧
        Shows t (Reg.SEIF_RETRY_CNT p) Fld.SEIF_RETRY_CNT_REPLAYS
          (s.fld (Reg.SEIF_RETRY_CNT p) Fld.SEIF_RETRY_CNT_REPLAYS + if again = [] then 0 else 1) ∧
        ∃ g, .flit p (flitBytes g) ∈ t.out.drop s.out.length ∧ g.type = 3 ∧
          g.payload = leBytes 1 1 ++ leBytes 1 p ++ leBytes 2 s.ownId ++ leBytes 8 s.hmd.incarnation)) ∧
    (∀ k, s.portState p = psRetrain → x.peerMask.isSome = true → s.mustBeLow p = true → keptLane (s.ownLanes p) = some k →
      Gives (.retrainDone p) s (fun t => OnlyPortEvents s t p trains ∧ t.portState p = psLow ∧ (t.port p).fails = 0 ∧
        Shows t (Reg.SEIF_WIDTH p) Fld.SEIF_WIDTH_ACTIVE (2 ^ k) ∧ Shows t (Reg.SEIF_WIDTH p) Fld.SEIF_WIDTH_WIDTH 1 ∧
        (t.port p).after = none ∧ (t.port p).slots = x.slots ∧ (t.port p).expSeq = x.expSeq)) ∧
    (s.portState p = psRetrain → x.fails + 1 < 3 →
      Gives (.retrainTimeout p) s (fun t => OnlyPort s t p [Reg.SEIF_RETRY_CNT p] ∧ t.portState p = psRetrain ∧ (t.port p).fails = x.fails + 1 ∧ mask t ∧
        Shows t (Reg.SEIF_RETRY_CNT p) Fld.SEIF_RETRY_CNT_RETRAINS (s.fld (Reg.SEIF_RETRY_CNT p) Fld.SEIF_RETRY_CNT_RETRAINS + 1))) ∧
    (s.portState p = psRetrain → 3 ≤ x.fails + 1 → Spare s p →
      Gives (.retrainTimeout p) s (fun t => PortLost s t p ∧ OnlyPortEvents s t p [Reg.SEIF_WIDTH p])) ∧
    (∀ lanes act w, lanes < 256 → s.power = .ready → s.portState p = psDown → bitAt s.conf.portMask p = true →
      laneChoice (lanes - (lanes &&& x.unhealthy)) = some (act, w) → (∃ k, k ≠ p ∧ k < 12 ∧ s.portUp k = true) →
      Gives (.portTrainRetry p lanes) s (fun t => OnlyPortEvents s t p [Reg.SEIF_WIDTH p] ∧ t.portState p = psUp ∧
        Shows t (Reg.SEIF_WIDTH p) Fld.SEIF_WIDTH_ACTIVE act ∧ Shows t (Reg.SEIF_WIDTH p) Fld.SEIF_WIDTH_WIDTH w ∧
        (t.port p).slots = [] ∧ (t.port p).expSeq = 0 ∧ (t.port p).nakFor = none ∧ (t.port p).unhealthy = x.unhealthy))

/-- HELLO, HEARTBEAT, HEARTBEAT_MISS, WAKE, WAKE_FLIT_SEND, WAKE_STAGE and PARTNER_LOW_MODE. -/
def Obligations.Partners : Prop :=
  ∀ (s : State) (p : Nat), p < 12 →
    let x := s.port p
    (∀ id peer inc, s.portUp p = true → id ≠ s.ownId → ((s.member id).state = 1 → (s.member id).inc = inc) →
      Gives (.hello p id peer inc) s (fun t => t.port p = { x with peerInc := inc } ∧ OnlyPort s t p [Reg.SEIF_PEER p] ∧ t.out = s.out ∧
        Shows t (Reg.SEIF_PEER p) Fld.SEIF_PEER_MODULE id)) ∧
    (∀ id peer inc, s.portUp p = true → (id = s.ownId ∨ ((s.member id).state = 1 ∧ (s.member id).inc ≠ inc)) →
      Gives (.hello p id peer inc) s (fun t => t.portState p = psConflict ∧ t.port p = x ∧ t.out = s.out ∧
        OnlyPortEvents s t p [Reg.SEIF_WIDTH p] ∧ Shows t Reg.FLT_EVT_SEQ Fld.FLT_EVT_SEQ_NEXT (s.evSeq + 2))) ∧
    (s.portUp p = true →
      Gives (.heartbeat p) s (fun t => OnlyPort s t p [] ∧ t.port p = { x with owed := (t.port p).owed, rrCredit := (t.port p).rrCredit } ∧
        ∃ g, t.out = s.out ++ [.flit p (flitBytes g)] ∧ g.type = 3 ∧ g.payload = leBytes 1 2 ∧ g.ack = (x.expSeq + 4095) % 4096)) ∧
    (s.portUp p = true → x.waiting = [] → x.retry = [] →
      (∃ k, k ≠ p ∧ k < 12 ∧ s.portUp k = true ∧ s.fld (Reg.SEIF_PEER k) Fld.SEIF_PEER_MODULE = s.fld (Reg.SEIF_PEER p) Fld.SEIF_PEER_MODULE) →
      Gives (.heartbeatMiss p) s (fun t => t.portState p = psDown ∧ Shows t (Reg.SEIF_WIDTH p) Fld.SEIF_WIDTH_WIDTH 0 ∧
        t.port p = { Port.idle with unhealthy := x.unhealthy, peerInc := x.peerInc, wakes := x.wakes, codes := x.codes, bad := x.bad } ∧
        OnlyPortEvents s t p [Reg.SEIF_WIDTH p])) ∧
    (s.portUp p = true → (s.power ≠ .aest ∧ s.entering = false) ∨ s.fld (Reg.SEIF_CTL p) Fld.SEIF_CTL_AEST_WAKE_BY_PEER ≠ 1 →
      Gives (.wake p) s (fun t => t = s.putPort p { x with wakes := x.wakes + 1 })) ∧
    (s.portUp p = true → s.entering = true → s.fld (Reg.SEIF_CTL p) Fld.SEIF_CTL_AEST_WAKE_BY_PEER = 1 →
      Gives (.wake p) s (fun t => t = { s.putPort p { x with wakes := x.wakes + 1 } with wadi := { s.wadi with aestWake := true } })) ∧
    (s.portUp p = true → s.power = .aest → s.fld (Reg.SEIF_CTL p) Fld.SEIF_CTL_AEST_WAKE_BY_PEER = 1 →
      Gives (.wake p) s (fun t => t.power = .ready ∧ (t.port p).wakes = x.wakes + 1 ∧ (∀ c a, c < 288 → a < 0x80000 → t.byte (spadBase c + a) = 0) ∧
        (∀ a, inSpad a = false → t.byte a = s.byte a) ∧
        (∀ c, c < 288 → t.core c = { s.core c with progs := [], tlb := [], walks := [], cache := [], plru := [], misses := [], tokens := 0 }) ∧
        (∀ k, s.portState k = psLow → (s.port k).peerLow = false → k < 12 → (t.port k).wakeStage = 1) ∧
        t.ctxs = s.ctxs ∧ t.groups = s.groups ∧ t.wins = s.wins ∧ t.out = s.out)) ∧
    (s.portState p = psLow → x.peerLow = true → s.power = .ready → s.waitsFor p = true → 0 < nth 0 x.credits 0 → x.retry.length < 512 →
      Gives (.wakeFlitSend p) s (fun t => OnlyPort s t p [] ∧ ∃ g rest, t.out = s.out ++ .flit p (flitBytes g) :: rest ∧ g.kind = 7 ∧ g.vl = 0 ∧
        g.seq = x.nextSeq ∧ g.dst = s.fld (Reg.SEIF_PEER p) Fld.SEIF_PEER_MODULE)) ∧
    (s.power = .ready → x.wakeStage = 1 → s.portState p = psLow →
      Gives (.wakeStage p) s (fun t => t.portState p = psUp ∧ (t.port p).wakeStage = 2 ∧ OnlyPortEvents s t p [Reg.SEIF_WIDTH p] ∧
        Shows t (Reg.SEIF_WIDTH p) Fld.SEIF_WIDTH_WIDTH (s.fld (Reg.SEIF_WIDTH p) Fld.SEIF_WIDTH_WIDTH))) ∧
    (s.power = .ready → x.wakeStage = 2 → s.portState p = psUp →
      Gives (.wakeStage p) s (fun t => t.portState p = psRetrain ∧ (t.port p).wakeStage = 0 ∧ (t.port p).peerMask = none ∧
        OnlyPortEvents s t p [Reg.SEIF_RETRY_CNT p, Reg.SEIF_WIDTH p] ∧
        Shows t (Reg.SEIF_RETRY_CNT p) Fld.SEIF_RETRY_CNT_RETRAINS (s.fld (Reg.SEIF_RETRY_CNT p) Fld.SEIF_RETRY_CNT_RETRAINS + 1) ∧
        ∃ g, t.out = s.out ++ [.flit p (flitBytes g)] ∧ g.type = 3 ∧ g.payload = leBytes 1 3 ++ leBytes 1 (s.ownLanes p))) ∧
    (∀ k, s.portUp p = true → keptLane (s.ownLanes p) = some k →
      Gives (.partnerLowMode p true) s (fun t => t.portState p = psLow ∧ t.port p = { x with peerLow := true, wakeStage := 0 } ∧
        OnlyPortEvents s t p [Reg.SEIF_WIDTH p] ∧ Shows t (Reg.SEIF_WIDTH p) Fld.SEIF_WIDTH_ACTIVE (2 ^ k) ∧
        Shows t (Reg.SEIF_WIDTH p) Fld.SEIF_WIDTH_WIDTH 1)) ∧
    (s.portUp p = true →
      Gives (.partnerLowMode p false) s (fun t => t = s.putPort p { x with peerLow := false, wakeStage := if s.power = .aest then 0 else 1 }))

/-- The entry into Aestivation as a change of state, in a module each of whose up ports has a healthy lane (R403, R404). -/
def Sys2Proof.Machine.EnteredAest (s t : State) : Prop :=
  t.power = .aest ∧ t.wadi.aestEnter = false ∧ t.wadi.aestWake = false ∧ t.cores = s.cores ∧ t.ctxs = s.ctxs ∧ t.groups = s.groups ∧ t.wins = s.wins ∧ t.handles = s.handles ∧
    t.stackTab = s.stackTab ∧ t.members = s.members ∧ t.routes = s.routes ∧ (∀ q, q ≠ qEvent → t.queue q = s.queue q) ∧
    (∀ p k, p < 12 → s.portUp p = true → keptLane (s.ownLanes p) = some k →
      t.portState p = psLow ∧ Shows t (Reg.SEIF_WIDTH p) Fld.SEIF_WIDTH_ACTIVE (2 ^ k) ∧ Shows t (Reg.SEIF_WIDTH p) Fld.SEIF_WIDTH_WIDTH 1) ∧
    (∀ p, s.portUp p = false → p < 12 → t.portState p = s.portState p ∧ t.port p = s.port p)

/-- The wake as a change of state (R405, R585). -/
def Sys2Proof.Machine.Woke (s t : State) : Prop :=
  t.power = .ready ∧ (∀ c a, c < 288 → a < 0x80000 → t.byte (spadBase c + a) = 0) ∧ (∀ a, inSpad a = false → t.byte a = s.byte a) ∧
    (∀ c, c < 288 → t.core c = { s.core c with progs := [], tlb := [], walks := [], cache := [], plru := [], misses := [], tokens := 0 }) ∧
    (∀ p, p < 12 → s.portState p = psLow → (s.port p).peerLow = false → (t.port p).wakeStage = 1) ∧
    t.ctxs = s.ctxs ∧ t.groups = s.groups ∧ t.wins = s.wins ∧ t.queues = s.queues ∧ t.stackTab = s.stackTab

/-- AESTIVATE_ENTER, AESTIVATION_ENTRY and AESTIVATE_WAKE. -/
def Obligations.Aestivation : Prop :=
  ∀ (s : State) (h : FrameHdr),
    let open_ := s.ready = true ∧ s.launched = false ∧ s.portsQuiet = true
    let lanes := ∀ p, p < 12 → s.portUp p = true → ∃ k, keptLane (s.ownLanes p) = some k
    (Accepts s h → s.power = .aest → Gives (.aestivateEnter h) s (fun t => OnlyReplied s t ∧ Replied s t clMgmt 9 h.reqId (mgmtHead stOk 0 0))) ∧
    (Accepts s h → s.power ≠ .aest → s.power ≠ .hold → ¬ open_ →
      Gives (.aestivateEnter h) s (fun t => OnlyReplied { s with wadi := { s.wadi with aestEnter := true } } t ∧
        Replied s t clMgmt 9 h.reqId (mgmtHead stOk (if s.launched then flDeferred else 0) 0))) ∧
    (Accepts s h → open_ → lanes → s.wadi.aestWake = false →
      Gives (.aestivateEnter h) s (fun t => EnteredAest s t ∧ ∃ f rest, t.out = s.out ++ .frame f :: rest ∧ f.type = 9 ∧ f.reqId = h.reqId ∧
        f.body = mgmtHead stOk 0 0)) ∧
    (s.wadi.aestEnter = true → open_ → lanes → s.wadi.aestWake = false → Gives .aestivationEntry s (fun t => EnteredAest s t)) ∧
    (s.wadi.aestEnter = true → open_ → lanes → s.wadi.aestWake = true →
      Gives .aestivationEntry s (fun t => ∃ u : State, EnteredAest s u ∧ Woke u t)) ∧
    (s.wadi.aestEnter = false ∨ ¬ open_ → Gives .aestivationEntry s (fun t => t = s)) ∧
    (Accepts s h → s.power ≠ .hold → s.entering = true →
      Gives (.aestivateWake h) s (fun t => OnlyReplied { s with wadi := { s.wadi with aestWake := true } } t ∧
        Replied s t clMgmt 9 h.reqId (mgmtHead stOk 0 0))) ∧
    (Accepts s h → s.power ≠ .hold → s.power ≠ .aest → s.entering = false →
      Gives (.aestivateWake h) s (fun t => OnlyReplied { s with wadi := { s.wadi with aestEnter := false } } t ∧
        Replied s t clMgmt 9 h.reqId (mgmtHead stOk 0 0))) ∧
    (Accepts s h → s.power = .aest →
      Gives (.aestivateWake h) s (fun t => Woke s t ∧ t.wadi.aestEnter = false ∧ Replied s t clMgmt 9 h.reqId (mgmtHead stOk 0 0))) ∧
    (Accepts s h → s.power = .hold →
      Gives (.aestivateEnter h) s (fun t => OnlyReplied s t ∧ Replied s t clMgmt 9 h.reqId (mgmtHead stStartHold 0 0)) ∧
      Gives (.aestivateWake h) s (fun t => OnlyReplied s t ∧ Replied s t clMgmt 9 h.reqId (mgmtHead stStartHold 0 0)))

/-- JOIN, WITHDRAW and DEPARTED. -/
def Obligations.Membership : Prop :=
  ∀ (s : State) (p id inc no : Nat), p < 12 → s.portUp p = true → id < 16384 →
    let cmd (k : Ann) : Instr := match k with
      | .join => .join p id inc no | .withdraw => .withdraw p id inc no | .departed => .departed p id inc no
    (∀ k : Ann, id = s.ownId ∨ (inc < (s.member id).inc ∨ (inc = (s.member id).inc ∧ (k = .join ∨ (s.member id).state ≠ 1))) →
      Gives (cmd k) s (fun t => t = s)) ∧
    (id ≠ s.ownId → (s.member id).inc < inc → (∀ q, q < 12 → q ≠ p → (s.port q).waiting = []) →
      Gives (.join p id inc no) s (fun t => t.member id = ⟨1, inc, no, s.evSeq⟩ ∧ (∀ i, i ≠ id → t.member i = s.member i) ∧
        t.epoch = (s.epoch + 1) % 2 ^ 32 ∧ Shows t Reg.FLT_EVT_SEQ Fld.FLT_EVT_SEQ_NEXT (s.evSeq + 1) ∧ t.routes = s.routes ∧ t.wins = s.wins ∧
        t.handles = s.handles ∧ t.ctxs = s.ctxs ∧ t.cores = s.cores ∧ t.port p = s.port p ∧
        (∀ q, q < 12 → q ≠ p → s.portUp q = true → 0 < nth 0 (s.port q).credits 0 → (s.port q).retry.length < 512 →
          ∃ g, .flit q (flitBytes g) ∈ t.out.drop s.out.length ∧ g.kind = 6 ∧ g.vl = 0 ∧ g.payload = annBytes .join id inc no))) ∧
    (∀ k : Ann, k ≠ .join → id ≠ s.ownId → (s.member id).inc < inc ∨ ((s.member id).inc = inc ∧ (s.member id).state = 1) →
      s.shadowOf = [] → s.swarm.live = false → s.mcasts = [] → (∀ x, x < 16 → (s.ctx x).run ≠ .running) →
      (∀ c, c < 288 → (s.core c).wr = []) →
      Gives (cmd k) s (fun t => t.member id = ⟨k.state, inc, no, s.evSeq⟩ ∧ (∀ i, i ≠ id → t.member i = s.member i) ∧
        t.epoch = (s.epoch + 1) % 2 ^ 32 ∧ routeValid (tget 0 t.routes id) = false ∧ (∀ i, i ≠ id → tget 0 t.routes i = tget 0 s.routes i) ∧
        (∀ e, tget 0 (t.win e).held id = 0 ∧ ∀ r ∈ (t.win e).waiting, r.1 ≠ id) ∧
        (∀ n, (s.handle n).live = true → (s.handle n).mcast = false → (s.handle n).module_ = id →
          (t.handle n).credits = 0 ∧ (t.handle n).size = 0 ∧ (t.handle n).live = true) ∧
        (∀ n, (s.handle n).module_ ≠ id → t.handle n = s.handle n) ∧ t.ctxs = s.ctxs ∧ t.groups = s.groups ∧ t.power = s.power))

/-- TAKEOVER_NOTICE and TAKEOVER_DONE. -/
def Obligations.Takeovers : Prop :=
  ∀ (s : State) (src id : Nat) (entries : List (Nat × Nat × Nat)),
    let swap (m : Nat) : Nat := if m = id then src else m
    (s.ready = false ∨ src = id ∨ id = s.ownId → Gives (.takeoverNotice src id entries) s (fun t => t = s)) ∧
    (s.ready = true → src ≠ id → id ≠ s.ownId → (∀ x, x < 16 → (s.ctx x).run ≠ .running) → (∀ c, c < 288 → (s.core c).wr = []) →
      (∀ g, (s.group g).live = true → (∃ b ∈ (s.group g).borrow, b.1 = id) → ∀ b ∈ (s.group g).borrow,
        (b.1 = id ∧ b.2.1 ∈ entries.map (·.1)) ∨ s.goneStatus b.1 = none) →
      Gives (.takeoverNotice src id entries) s (fun t =>
        (∀ n e, (s.handle n).live = true → (s.handle n).mcast = false → (s.handle n).module_ = id →
          entries.find? (fun e => e.1 == (s.handle n).entry) = some e →
          t.handle n = { s.handle n with module_ := src, entry := e.2.1, gen := e.2.2, size := 0, credits := 0, inUse := 0, asked := false, closing := false }) ∧
        (∀ n, (s.handle n).module_ ≠ id → t.handle n = s.handle n) ∧
        t.swarm = { s.swarm with ring := s.swarm.ring.map swap } ∧ (∀ g, t.group g = { s.group g with peers := (s.group g).peers.map swap }) ∧
        t.takeover = ⟨id, src, 0, true, 0, [], entries.map (·.1)⟩ :: s.takeover.filter (fun (k : Takeover) => k.id != id) ∧
        { t with handles := s.handles, groups := s.groups, swarm := s.swarm, takeover := s.takeover } = s)) ∧
    (∀ cache : List (Nat × Nat × List Byte), (∃ k ∈ s.takeover, k.id = id ∧ k.by_ = s.ownId ∧ k.done = false) →
      let mine (k : Takeover) : Bool := k.id == id && k.by_ == s.ownId && !k.done
      let v := (cache.filter (fun q => s.takeover.any (fun k => mine k && k.group == q.1))).foldl State.writeCache s
      let u : State := { v with takeover := s.takeover.map (fun (k : Takeover) => if mine k then { k with done := true, replay := [] } else k) }
      let n := ((s.takeover.filter mine).map (fun k => k.replay.length)).sum
      Gives (.takeoverDone ⟨id, cache⟩) s (fun t => t = u.raise (Ev.plain (islMantis 0) evTakeoverDone (leBytes 2 id ++ leBytes 4 n)) ∧
        OnlyRaised u t ∧ Shows t Reg.FLT_EVT_SEQ Fld.FLT_EVT_SEQ_NEXT (s.evSeq + 1))) ∧
    ((∀ k ∈ s.takeover, k.id = id → k.by_ = s.ownId → k.done = true) → ∀ cache, Gives (.takeoverDone ⟨id, cache⟩) s (fun t => t = s))

/-- Entry `e` is CLOSED by a close that has completed: the next generation, no credit held, under its hold (R417, R426). -/
def Sys2Proof.Machine.ClosedNow (s t : State) (e : Nat) : Prop :=
  Shows t (Reg.WIN_CTL e) Fld.WIN_CTL_STATE wsClosed ∧ Shows t (Reg.WIN_CTL e) Fld.WIN_CTL_GEN (nextWinGen (s.winGen e)) ∧
    t.win e = { s.win e with held := [], waiting := [], hold := true, reply := [] } ∧ (∀ k, k ≠ e → t.win k = s.win k)

/-- Entry `e` stands OPEN as `w` says with every credit free (R415, R416). -/
def Sys2Proof.Machine.OpenNow (s t : State) (e : Nat) (w : WinSpec) (x : Win) : Prop :=
  Shows t (Reg.WIN_BASE e) Fld.WIN_BASE_ADDR (w.base / 128) ∧ Shows t (Reg.WIN_LIMIT e) Fld.WIN_BASE_ADDR (w.limit / 128) ∧
    Shows t (Reg.WIN_CREDIT e) Fld.WIN_CREDIT_POOL w.pool ∧ Shows t (Reg.WIN_CREDIT e) Fld.WIN_CREDIT_FREE w.pool ∧
    Shows t (Reg.WIN_CTL e) Fld.WIN_CTL_STATE wsOpen ∧ Shows t (Reg.WIN_CTL e) Fld.WIN_CTL_GEN (if s.winGen e = 0 then 1 else s.winGen e) ∧
    Shows t (Reg.WIN_CTL e) Fld.WIN_CTL_CREDIT_UNIT_LOG2 w.unitLog2 ∧ Shows t (Reg.WIN_CTL e) Fld.WIN_CTL_READ (w.rights % 2) ∧
    Shows t (Reg.WIN_CTL e) Fld.WIN_CTL_WRITE (w.rights / 2 % 2) ∧ Shows t (Reg.WIN_CTL e) Fld.WIN_CTL_MCAST (w.rights / 4 % 2) ∧
    Shows t (Reg.WIN_CTL e) Fld.WIN_CTL_PEER_MODE w.peerMode ∧ Shows t (Reg.WIN_CTL e) Fld.WIN_CTL_PEER_LO w.peerLo ∧
    t.win e = x ∧ (∀ k, k ≠ e → t.win k = s.win k) ∧ t.byte = s.byte

/-- WINDOW_OPEN, WINDOW_CLOSE, WIN_OPEN_CMD, WIN_CLOSE_CMD and WIN_CLOSE_TIMEOUT. -/
def Obligations.WindowOpening : Prop :=
  ∀ (s : State) (e : Nat), e < 4096 →
    let idle := (s.win e).held = [] ∧ (s.win e).waiting = []
    (∀ (h : FrameHdr) (core x : Nat) (r : WinReq), Accepts s h → s.power ≠ .hold → (s.core core).ctx = some x →
      let g := (s.ctx x).group
      s.walkUe (s.group g).root r.vaddr (min r.size 0x10000000000) = false →
      (∀ pa, s.physicalRun (s.group g).root r.vaddr r.size = some pa →
        let w : WinSpec := ⟨pa, pa + r.size, r.unitLog2, r.rights, r.peerMode, r.peerLo, r.peerHi, r.pool, r.perPeerMax⟩
        (s.winRefusal w = none → lowest 4096 s.winUsable = some e →
          Gives (.windowOpen h core r) s (fun t => OpenNow s t e w { Win.idle with group := some g, peers := (s.group g).peers } ∧
            t.group g = { s.group g with windows := (s.group g).windows ++ [e] } ∧ (∀ k, k ≠ g → t.group k = s.group k) ∧
            Replied s t clMgmt 5 h.reqId (mgmtHead stOk 0 0 ++ (leBytes 2 e ++ leBytes 2 ((if s.winGen e = 0 then 1 else s.winGen e) % 65536))) ∧
            t.ctxs = s.ctxs ∧ t.cores = s.cores ∧ t.handles = s.handles)) ∧
        (∀ st, s.winRefusal w = some st →
          Gives (.windowOpen h core r) s (fun t => OnlyReplied s t ∧ Replied s t clMgmt 5 h.reqId (mgmtHead st 0 0))) ∧
        (s.winRefusal w = none → lowest 4096 s.winUsable = none →
          Gives (.windowOpen h core r) s (fun t => OnlyReplied s t ∧ Replied s t clMgmt 5 h.reqId (mgmtHead stCapacity 0 0)))) ∧
      (s.physicalRun (s.group g).root r.vaddr r.size = none →
        Gives (.windowOpen h core r) s (fun t => OnlyReplied s t ∧ Replied s t clMgmt 5 h.reqId (mgmtHead stAddrProt 0 0)))) ∧
    (∀ (h : FrameHdr) (gen : Nat), Accepts s h → s.power ≠ .hold →
      (s.winState e = wsClosed ∨ s.winGen e ≠ gen →
        Gives (.windowClose h e gen) s (fun t => OnlyReplied s t ∧ Replied s t clMgmt 6 h.reqId (mgmtHead stWindowClosed 0 0))) ∧
      (s.winState e = wsClosing → s.winGen e = gen →
        Gives (.windowClose h e gen) s (fun t => t.win e = { s.win e with reply := (s.win e).reply ++ [h.reqId] } ∧ (∀ k, k ≠ e → t.win k = s.win k) ∧
          t.out = s.out ∧ OnlyReplied { s with wins := t.wins } t)) ∧
      (s.winState e = wsOpen → s.winGen e = gen → idle → (s.win e).reply = [] → s.winFree e = s.winPool e →
        Gives (.windowClose h e gen) s (fun t => ClosedNow s t e ∧ Replied s t clMgmt 6 h.reqId (mgmtHead stOk 0 0)))) ∧
    (∀ v : Word, s.ready = true → bitsOf v.toNat 45 44 = 1 →
      let u := s.plainWrite (Reg.WIN_CTL e) 8 v.toNat
      (u.winUsable e = true → u.winRefusal (u.winSpec e) = none → inHbm (u.winSpec e).base = true ∨ inSpad (u.winSpec e).base = true →
        Gives (.winOpenCmd e v) s (fun t => OpenNow u t e (u.winSpec e) Win.idle ∧ { t with regs := s.regs, wins := s.wins } = s)) ∧
      (u.winUsable e = false ∨ (u.winRefusal (u.winSpec e)).isSome → Gives (.winOpenCmd e v) s (fun t => t = u))) ∧
    (s.ready = true → s.winState e = wsOpen → idle → (s.win e).reply = [] → s.winFree e = s.winPool e →
      Gives (.winCloseCmd e) s (fun t => ClosedNow s t e ∧ { t with regs := s.regs, wins := s.wins } = s)) ∧
    (s.ready = true → s.winState e = wsOpen → (s.win e).held = [] → (s.win e).waiting = [] → s.winFree e ≠ s.winPool e →
      Gives (.winCloseCmd e) s (fun t => Shows t (Reg.WIN_CTL e) Fld.WIN_CTL_STATE wsClosing ∧ t.winGen e = s.winGen e ∧
        t.winFree e = s.winFree e ∧ (∀ k, t.win k = s.win k) ∧ { t with regs := s.regs, wins := s.wins } = s)) ∧
    (s.winState e = wsClosing → (s.win e).reply = [] →
      Gives (.winCloseTimeout e) s (fun t => ClosedNow s t e ∧ { t with regs := s.regs, wins := s.wins } = s)) ∧
    (s.winState e = wsClosed → (s.win e).hold = true → Gives (.winCloseTimeout e) s (fun t => t = s.putWin e { s.win e with hold := false })) ∧
    (s.winState e = wsOpen ∨ (s.winState e = wsClosed ∧ (s.win e).hold = false) → Gives (.winCloseTimeout e) s (fun t => t = s))

/-- CREDIT_REQUEST, WINDOW_WRITE, WINDOW_READ_REQUEST, FINISH_NOTICE and CREDIT_RETURN. Whether a write that arrives falls into the cycle
of an access of the core's units is a free choice (log 88). -/
def Obligations.WindowTraffic : Prop :=
  ∀ (s : State) (src e gen n : Nat), s.ready = true → e < 4096 →
    let w := s.win e
    let per := s.fld (Reg.WIN_CREDIT e) Fld.WIN_CREDIT_PER_PEER_MAX
    let has := tget 0 w.held src
    let size := (s.fld (Reg.WIN_LIMIT e) Fld.WIN_BASE_ADDR - s.fld (Reg.WIN_BASE e) Fld.WIN_BASE_ADDR) * 128
    let got := min (min n (s.winFree e)) (if per = 0 then s.winFree e else per - has)
    let counted (st : Nat) (v u : State) : Prop := OnlyRegs v u ∧ (∀ a, a ≠ Reg.WIN_REFUSE_CNT → u.reg a = s.reg a) ∧
      (st = stWindowClosed → Shows u Reg.WIN_REFUSE_CNT Fld.WIN_REFUSE_CNT_CLOSED (s.fld Reg.WIN_REFUSE_CNT Fld.WIN_REFUSE_CNT_CLOSED + 1)) ∧
      (st ≠ stWindowClosed → Shows u Reg.WIN_REFUSE_CNT Fld.WIN_REFUSE_CNT_PROT (s.fld Reg.WIN_REFUSE_CNT Fld.WIN_REFUSE_CNT_PROT + 1))
    (s.judgeCredit src e gen = none → w.waiting = [] → 0 < s.winFree e →
      Gives (.creditRequest src e gen n) s (fun t => ∃ u : State, t = u.sendMsg src 3 4 (msgGrant e (s.winGen e) size got) ∧
        Shows u (Reg.WIN_CREDIT e) Fld.WIN_CREDIT_FREE (s.winFree e - got) ∧ tget 0 (u.win e).held src = has + got ∧
        (∀ k, k ≠ src → tget 0 (u.win e).held k = tget 0 w.held k) ∧ (u.win e).waiting = [] ∧ (∀ k, k ≠ e → u.win k = s.win k) ∧
        (∀ a, a ≠ Reg.WIN_CREDIT e → u.reg a = s.reg a) ∧ { u with regs := s.regs, wins := s.wins } = s)) ∧
    (s.judgeCredit src e gen = none → s.winFree e = 0 →
      Gives (.creditRequest src e gen n) s (fun t => t = s.putWin e { w with waiting := w.waiting ++ [(src, n)] })) ∧
    (∀ st, s.judgeCredit src e gen = some st →
      Gives (.creditRequest src e gen n) s (fun t => ∃ u : State, counted st s u ∧ t = u.sendMsg src 3 4 (msgRefuse e gen st))) ∧
    (∀ (h : WinHdr) (data : List Byte), h.entry = e →
      let a := s.fld (Reg.WIN_BASE e) Fld.WIN_BASE_ADDR * 128 + h.offset
      let taken (v : State) : Prop := v = s.takeWrite src h.mcast ∧ OnlyPorts s v
      let asked (v : State) : Prop := v = s.consume src (fun f => f.kind == 1) ∧ OnlyPorts s v
      let leaves (t : State) : Prop := ∀ p x y, HoldsAt s src (fun f => f.kind == 1) p x y → (t.port p).slots = x ++ y
      let stored (c : Nat) (v u : State) : Prop := (∀ r, r ≠ Reg.SPAD_ROW_COLLIDE c → u.reg r = s.reg r) ∧
        { u with
          regs := s.regs, wins := s.wins, mem := s.mem, badBytes := s.badBytes, badAcc := s.badAcc, softAcc := s.softAcc
          spadAcc := s.spadAcc, free := s.free } = { v with wins := s.wins }
      (s.judge src h true = none → h.mcast = false → data.length = h.length → (∀ i, i < h.length → isMemory (a + i) = true) →
        Gives (.windowWrite src h ⟨data, none⟩) s (fun t => ∃ v u : State, taken v ∧ t = u.sendMsg src 0 2 (winAnswer h stOk) ∧
          (inSpad a = true → Landed s u .streamWrite a data ∧ OnlyAccessed v u (spadCore a) ∧
            u.accesses (spadCore a) = ⟨.streamWrite, true, [(a, h.length)], none⟩ ::
              (s.accesses (spadCore a)).filter (fun y => !(y.unit == .streamWrite && y.write)) ∧
            ((∀ x ∈ s.accesses (spadCore a), x.meets a h.length = []) →
              (∀ i, i < h.length → u.byte (a + i) = nth 0 data i) ∧ u.regs = s.regs ∧ u.free = s.free)) ∧
          (inSpad a = false → (∀ i, i < h.length → u.byte (a + i) = nth 0 data i) ∧ (∀ i, i < a ∨ a + h.length ≤ i → u.byte i = s.byte i) ∧
            { u with mem := s.mem, badBytes := s.badBytes, badAcc := s.badAcc, softAcc := s.softAcc } = v))) ∧
      (∀ lo bits, s.judge src h true = none → h.mcast = false → data.length = h.length → 0 < bits → lo + bits ≤ 8 * h.length →
        let k := (lo % 8 + bits + 7) / 8
        inSpad (a + lo / 8) = false → (∀ i, i < k → isMemory (a + lo / 8 + i) = true) →
        Gives (.windowWrite src h ⟨data, some (lo, bits)⟩) s (fun t => ∃ v u : State, taken v ∧ t = u.sendMsg src 0 2 (winAnswer h stOk) ∧
          u.bytes (a + lo / 8) k = s.mergeBits a lo bits (ofLE data / 2 ^ lo % 2 ^ bits) ∧
          (∀ i, i < a + lo / 8 ∨ a + lo / 8 + k ≤ i → u.byte i = s.byte i) ∧
          { u with mem := s.mem, badBytes := s.badBytes, badAcc := s.badAcc, softAcc := s.softAcc } = v)) ∧
      (s.judge src h true = none → h.mcast = true → data.length = h.length → h.seq = w.nextUnit % 2 ^ 32 → w.early = [] →
        Gives (.windowWrite src h ⟨data, none⟩) s (fun t => ∃ v u : State, taken v ∧ t = u.sendMsg src 0 2 (winAnswer h stOk) ∧
          u.win e = { w with committed := w.committed + h.length, nextUnit := w.nextUnit + 1 } ∧ (∀ k, k ≠ e → u.win k = s.win k) ∧
          (∀ i, i < a ∨ a + h.length ≤ i → u.byte i = s.byte i) ∧ stored (spadCore a) v u)) ∧
      (∀ st part, s.judge src h true = some st →
        Gives (.windowWrite src h ⟨data, part⟩) s (fun t => ∃ v u : State, taken v ∧ counted st v u ∧ t = u.sendMsg src 0 2 (winAnswer h st))) ∧
      (s.judge src h false = none → s.firstUe a h.length = none → s.hasBad a h.length = false →
        Gives (.windowReadRequest src h) s (fun t => leaves t ∧ ∃ v u : State, asked v ∧ u = v.correct a h.length ∧
          t = u.sendMsg src 2 2 (winAnswer h stOk ++ s.bytes a h.length) ∧ { u with regs := s.regs, softAcc := s.softAcc } = v ∧
          ∀ r, ¬ ReadsAndMeetings r → u.reg r = s.reg r)) ∧
      (∀ st, s.judge src h false = some st →
        Gives (.windowReadRequest src h) s (fun t => leaves t ∧ ∃ v u : State, asked v ∧ counted st v u ∧
          t = u.sendMsg src 2 2 (winAnswer h st)))) ∧
    (gen ≠ 0 → s.winGen e = gen → Gives (.finishNotice e gen n) s (fun t => t = s.putWin e { w with committed := w.committed + n })) ∧
    (s.winGen e ≠ gen → Gives (.finishNotice e gen n) s (fun t => t = s)) ∧
    (s.winState e = wsOpen ∨ (s.winState e = wsClosing ∧ s.winFree e + min n has < s.winPool e) → s.winGen e = gen → w.waiting = [] →
      Gives (.creditReturn src e gen n false) s (fun t => Shows t (Reg.WIN_CREDIT e) Fld.WIN_CREDIT_FREE (min (s.winFree e + min n has) (s.winPool e)) ∧
        tget 0 (t.win e).held src = has - min n has ∧ (∀ k, k ≠ src → tget 0 (t.win e).held k = tget 0 w.held k) ∧
        (∀ k, k ≠ e → t.win k = s.win k) ∧ (∀ a, a ≠ Reg.WIN_CREDIT e → t.reg a = s.reg a) ∧ { t with regs := s.regs, wins := s.wins } = s)) ∧
    (s.winState e = wsClosing → s.winPool e ≤ s.winFree e + min n has → s.winGen e = gen → w.reply = [] →
      Gives (.creditReturn src e gen n false) s (fun t => Shows t (Reg.WIN_CTL e) Fld.WIN_CTL_STATE wsClosed ∧
        Shows t (Reg.WIN_CTL e) Fld.WIN_CTL_GEN (nextWinGen gen) ∧ (t.win e).held = [] ∧ (t.win e).hold = true ∧
        (∀ k, k ≠ e → t.win k = s.win k) ∧ { t with regs := s.regs, wins := s.wins } = s)) ∧
    (s.winState e = wsClosed ∨ s.winGen e ≠ gen → Gives (.creditReturn src e gen n false) s (fun t => t = s))

/-- WINDOW_CREDIT_GRANT, WRITE_ACKNOWLEDGEMENT, CLOSING_NOTICE, MULTICAST_UNIT_SEND, MULTICAST_DETACH and the slot form of
CREDIT_RETURN. -/
def Obligations.SendersAndGroups : Prop :=
  ∀ s : State, s.ready = true →
    let acked (v : State) (m : Nat) : Prop := v = s.consume m isAck ∧ OnlyPorts s v
    let leaves (t : State) (m : Nat) : Prop := ∀ p x y, HoldsAt s m isAck p x y → (t.port p).slots = x ++ y
    (∀ key : Nat, let h := s.handle key
      let quiet := s.swarm.live = false ∧ s.swarm.shadowQ = [] ∧ ∀ c x, c < 288 → (s.core c).ctx = some x → (s.ctx x).group ≠ key / 4096
      (∀ gen size count, h.live = true → h.asked = true → h.mcast = false → h.size ≠ 0 → quiet →
        Gives (.windowCreditGrant false key 0 gen size count stOk) s (fun t =>
          t = s.putHandle key { h with gen := gen, size := size, credits := h.credits + count, asked := false })) ∧
      (∀ gen size count, h.live = true → h.asked = true → h.mcast = false → h.size = 0 → quiet → (∀ x, x < 16 → s.usesHandle x key = false) →
        Gives (.windowCreditGrant false key 0 gen size count stOk) s (fun t =>
          t = s.putHandle key { h with gen := gen, size := size, credits := h.credits + count, asked := false })) ∧
      (∀ rcv gen size count, h.live = false → h.asked = true → h.mcast = false → h.inUse = 0 →
        Gives (.windowCreditGrant false key rcv gen size count stOk) s (fun t =>
          t = (s.putHandle key .none).sendMsg h.module_ 3 (s.keyLane (keyGroup key) 4) (msgReturn h.entry gen count))) ∧
      (∀ rcv gen size count st, st ≠ stOk → h.live = true → h.asked = true → h.mcast = false → (∀ x, x < 16 → s.usesHandle x key = false) →
        Gives (.windowCreditGrant false key rcv gen size count st) s (fun t => t = s.putHandle key { h with asked := false })) ∧
      (∀ c unit, c < 288 → h.live = true → h.closing = false → 0 < h.inUse → (s.core c).wr = [] → quiet →
        Gives (.writeAcknowledgement false key c stOk unit) s (fun t => ∃ v : State, acked v h.module_ ∧
          t = v.putHandle key { h with inUse := h.inUse - 1, credits := h.credits + 1 } ∧ leaves t h.module_)) ∧
      (∀ c unit i w, c < 288 → h.live = true → h.closing = false → 0 < h.inUse → s.firstWrite c key = some (i, w) → quiet →
        Gives (.writeAcknowledgement false key c stOk unit) s (fun t => ∃ v : State, acked v h.module_ ∧
          t.handle key = { h with inUse := h.inUse - 1, credits := h.credits + 1 } ∧ (∀ k, k ≠ key → t.handle k = s.handle k) ∧
          t.core c = { s.core c with wr := dropAt (s.core c).wr i } ∧ (∀ k, k ≠ c → t.core k = s.core k) ∧
          { t with handles := s.handles, cores := s.cores } = v)) ∧
      (∀ src entry gen, s.mcasts = [] → h.live = true → h.mcast = false → h.module_ = src → h.entry = entry → h.gen = gen →
        Gives (.closingNotice src entry gen) s (fun t => t.handle key = { h with closing := true, credits := 0 } ∧
          (∀ k, (s.handle k).module_ ≠ src ∨ (s.handle k).entry ≠ entry ∨ (s.handle k).gen ≠ gen → t.handle k = s.handle k) ∧
          t.wins = s.wins ∧ t.cores = s.cores ∧ t.ctxs = s.ctxs))) ∧
    (∀ g i : Nat, ∀ r : McastRcv, (s.mcast g).rcvs[i]? = some r →
      let m := s.mcast g
      let u := s.mcastUnit g
      let only (t : State) : Prop := ∀ k, k ≠ g → t.mcast k = s.mcast k
      (∀ gen size count, r.closing = true →
        Gives (.windowCreditGrant true g i gen size count stOk) s (fun t =>
          t = s.sendMsg r.id 3 (s.keyLane m.group 4) (msgReturn r.entry gen count))) ∧
      (∀ gen size count, r.closing = false → count * u = size →
        Gives (.windowCreditGrant true g i gen size count stOk) s (fun t =>
          t = s.putMcast g { m with rcvs := mapAt m.rcvs i (fun r => { r with gen := gen, size := size, credits := r.credits + count }) })) ∧
      (∀ b, r.removed = false → 0 < r.credits → m.released ≤ r.cursor → m.units[r.cursor - m.released]? = some b →
        Gives (.multicastUnitSend g i) s (fun t => ∃ v : State, ∃ vl : Nat,
          v = s.putMcast g { m with rcvs := mapAt m.rcvs i (fun r => { r with cursor := r.cursor + 1, credits := r.credits - 1 }) } ∧
          (vl = 6 ∨ vl = 7) ∧
          t = v.sendMsg r.id 5 vl (winHeader r.entry r.gen (r.cursor % max 1 (r.size / u) * u) u (r.cursor % 2 ^ 32)
            (s.taskRef (s.firstCtx m.group)) ++ b))) ∧
      (r.removed = true ∨ r.credits = 0 → Gives (.multicastUnitSend g i) s (fun t => t = s)) ∧
      (∀ q, r.removed = false → r.closing = false → q = r.acked → r.early = [] → q < m.pushed → m.waiting = [] →
        (∀ o ∈ m.rcvs, o.detached = false) →
        Gives (.writeAcknowledgement true g i stOk q) s (fun t => only t ∧ acked { t with mcasts := s.mcasts } r.id ∧
          (t.mcast g).rcvs = mapAt m.rcvs i (fun r => { r with acked := q + 1, cursor := max r.cursor (q + 1), credits := r.credits - (max r.cursor (q + 1) - r.cursor) }) ∧
          (t.mcast g).pushed = m.pushed ∧ m.released ≤ (t.mcast g).released)) ∧
      (∀ q, r.closing = true → q = r.acked → r.early = [] → q < m.pushed → m.waiting = [] → (∀ o ∈ m.rcvs, o.detached = false) →
        Gives (.writeAcknowledgement true g i stOk q) s (fun t => only t ∧ ∃ v : State, acked v r.id ∧
          { t with mcasts := s.mcasts } = v.sendMsg r.id 3 (s.keyLane m.group 4) (msgReturn r.entry r.gen 1) ∧
          (t.mcast g).rcvs = mapAt m.rcvs i (fun r => r.ack q))) ∧
      (∀ late : List Nat, i ∈ late → m.waiting = [] → r.removed = false → r.detached = false → s.lagLimit g ≤ m.pushed + 1 - r.acked →
        (∃ o ∈ m.rcvs, o.removed = false ∧ o.detached = false ∧ r.acked < o.acked) →
        (∀ j o, m.rcvs[j]? = some o → o.attached = true → j ∉ late → r.acked < o.acked) →
        Gives (.multicastDetach ⟨g, late⟩) s (fun t => only t ∧ (∃ o, (t.mcast g).rcvs[i]? = some o ∧ o.detached = true ∧ o.acked = r.acked ∧
            o.cursor = r.acked ∧ o.credits = r.credits + (r.cursor - r.acked)) ∧
          (t.mcast g).pushed = m.pushed ∧ (t.mcast g).units = m.units.drop ((t.mcast g).released - m.released) ∧ t.handles = s.handles ∧
          t.wins = s.wins ∧ t.cores = s.cores)) ∧
      (∀ late : List Nat, (∀ j o, j ∈ late → m.rcvs[j]? = some o → m.lags (s.lagLimit g) o = false) →
        Gives (.multicastDetach ⟨g, late⟩) s (fun t => t = s)) ∧
      (∀ gen, r.closing = false → s.handles = [] → s.mcasts = [(g, m)] → m.rcvs = [r] → 0 < r.credits →
        Gives (.closingNotice r.id r.entry gen) s (fun t =>
          { t with mcasts := s.mcasts } = s.sendMsg r.id 3 (s.keyLane m.group 4) (msgReturn r.entry r.gen r.credits) ∧
          ∃ o, (t.mcast g).rcvs = [o] ∧ o = { r with closing := true, credits := 0, owed := o.owed })) ∧
      (∀ count, r.closing = true → s.mcasts = [(g, m)] → m.rcvs = [r] → 0 < min count r.owed →
        Gives (.creditReturn r.id r.entry r.gen count true) s (fun t =>
          { t with mcasts := s.mcasts } = s.sendMsg r.id 3 (s.keyLane m.group 4) (msgReturn r.entry r.gen (min count r.owed)) ∧
          (t.mcast g).rcvs = [{ r with owed := r.owed - count }])) ∧
      (∀ count, r.closing = false →
        (∀ k, ∀ o ∈ (s.mcast k).rcvs, o.id = r.id → o.entry = r.entry → o.gen = r.gen → o.closing = false) →
        Gives (.creditReturn r.id r.entry r.gen count true) s (fun t => { t with mcasts := s.mcasts } = s ∧
          ∃ o, (t.mcast g).rcvs[i]? = some o ∧ o = { r with credits := r.credits + count })))

/-- STREAM_READ_RESPONSE, WINDOW_READ_RESPONSE, STRM_RESP_TIMEOUT and MEMORY_WRITE_ACK. Requests that are no tracked reads have the
numbers of log 92; when a controller serves a request is log 99, and that no meeting in a cycle occurs where none is possible log 88. -/
def Obligations.StreamAnswers : Prop :=
  ∀ (s : State) (c : Nat),
    let x := s.core c
    let isMem (a sbit n : Nat) : Prop := ∀ i < (sbit % 8 + n + 7) / 8, isMemory (a + sbit / 8 + i) = true
    let others (t : State) : Prop := ∀ k, k ≠ c → t.core k = s.core k
    let came (src : Nat) (v : State) : Prop := v = s.consume src (fun f => f.kind == 2) ∧ OnlyPorts s v ∧
      ∀ p y z, HoldsAt s src (fun f => f.kind == 2) p y z → (v.port p).slots = y ++ z
    let freed (id : Nat) (t : State) : Prop := t.core c = { x with rd := x.rd.filter (fun r => r.id != id) } ∧ others t
    let landed (p : Piece) (v : Nat) (from_ t : State) : Prop :=
      Landed s t .streamWrite (p.dst / 8) (s.mergeBits (p.dst / 8) (p.dst % 8) p.nbits v) ∧
      ((∀ y ∈ s.accesses (spadCore (p.dst / 8)), y.meets (p.dst / 8) ((p.dst % 8 + p.nbits + 7) / 8) = []) →
        t.getBits (p.dst / 8) (p.dst % 8) p.nbits = v) ∧
      (∀ a, a ≠ Reg.SPAD_ROW_COLLIDE (spadCore (p.dst / 8)) → ¬ ReadsAndMeetings a → t.reg a = s.reg a) ∧
      (∀ k, k ≠ spadCore (p.dst / 8) → t.accesses k = s.accesses k) ∧
      { t with
        cores := s.cores, regs := s.regs, mem := s.mem, badBytes := s.badBytes, badAcc := s.badAcc, softAcc := s.softAcc
        spadAcc := s.spadAcc, free := s.free } = from_
    let stopped (v : State) (o : StrmOp) (kind addr tag : Nat) (t : State) : Prop :=
      let e := 2 ^ 63 + kind * 2 ^ 60 + o.stream * 2 ^ 56 + addr % 2 ^ 48
      let u := if s.fld (Reg.STRM_FAULT_LOG c) Fld.STRM_FAULT_LOG_VALID = 0 then v.putReg (Reg.STRM_FAULT_LOG c) e else v
      t = u.midStream o.ctx ⟨islCore c, evStreamFault, stOk, o.ctx, (u.ctx o.ctx).stepNo, o.tile, o.gen, leBytes 8 e ++ leBytes 8 tag⟩
    (∀ src id ep err st data, x.tracker id ep = none → x.busy = 0 → EngineStill s c →
      let late (v t : State) : Prop := t.core c = { x with late := x.late.filter (fun r => r ≠ (id, ep)) } ∧ others t ∧
        { t with cores := s.cores } = v
      ((id < 576 ∨ err = none) → Gives (.streamReadResponse c id ep err) s (late s)) ∧
      Gives (.windowReadResponse src c id ep ⟨st, data⟩) s (fun t => ∃ v : State, came src v ∧ late v t)) ∧
    (∀ src id ep st data r, x.tracker id ep = some r → x.opOf r.piece.op = none → x.busy = 0 →
      Gives (.streamReadResponse c id ep none) s (fun t => freed r.id t ∧ { t with cores := s.cores } = s) ∧
      Gives (.windowReadResponse src c id ep ⟨st, data⟩) s (fun t => freed r.id t ∧ ∃ v : State, came src v ∧ { t with cores := s.cores } = v)) ∧
    (∀ id ep r o, x.tracker id ep = some r → x.opOf r.piece.op = some o →
      let p := r.piece
      let n := (unitsOf p.sbit p.nbits).2
      let plain := p.ant = false ∧ p.meta_ = false ∧ p.more = [] ∧ 0 < p.nbits ∧ x.busy = 0 ∧ EngineStill s c ∧
        isMem (p.dst / 8) (p.dst % 8) p.nbits
      (p.win = 0 → plain → s.mayServe r.pa (.read c r.id r.epoch) = true →
        s.firstUe (r.pa + p.sbit / 8) ((p.sbit % 8 + p.nbits + 7) / 8) = none →
        Gives (.streamReadResponse c id ep none) s (fun t => landed p (s.getBits r.pa p.sbit p.nbits) s t ∧ freed r.id t)) ∧
      (p.win ≠ 0 ∨ s.mayServe r.pa (.read c r.id r.epoch) = false → Gives (.streamReadResponse c id ep none) s (fun t => t = s)) ∧
      (∀ src data, p.win ≠ 0 → plain → data.length = n →
        Gives (.windowReadResponse src c id ep ⟨stOk, data⟩) s (fun t => ∃ v : State, came src v ∧
          landed p (ofLE data / 2 ^ (p.sbit % 256) % 2 ^ p.nbits) v t ∧ freed r.id t)) ∧
      (∀ kind, id < 576 → x.rd.find? (fun r => r.id == id) = some r → (s.ctx o.ctx).gen = o.gen →
        Gives (.streamReadResponse c id ep (some kind)) s (stopped s o kind r.pa p.tag)) ∧
      (∀ src data, p.win ≠ 0 → Gives (.windowReadResponse src c id ep ⟨stMemUncorrectable, data⟩) s
        (fun t => ∃ v : State, came src v ∧ stopped v o 0 p.va p.tag t)) ∧
      (∀ src st data, p.win ≠ 0 → st ≠ stOk → st ≠ stMemUncorrectable →
        Gives (.windowReadResponse src c id ep ⟨st, data⟩) s (fun t => ∃ v : State, came src v ∧ t = v.fault o.ctx st false
          (programError (islCore c) st o.ctx (s.ctx o.ctx).stepNo o.tile o.gen p.desc none32 none32 p.tag)))) ∧
    (∀ id, id < 576 → x.rd.find? (fun r => r.id == id) = none → Gives (.strmRespTimeout c id) s (fun t => t = s)) ∧
    (∀ id r o, id < 576 → x.rd.find? (fun r => r.id == id) = some r → x.opOf r.piece.op = some o → (s.ctx o.ctx).gen = o.gen →
      Gives (.strmRespTimeout c id) s (stopped s o 5 r.pa r.piece.tag)) ∧
    (∀ i a o p, i < 16 → x.misses[i]? = some a → s.lineWaiter c a = some (o, p) → (s.ctx o.ctx).gen = o.gen →
      Gives (.strmRespTimeout c (576 + i)) s (stopped s o 5 a p.tag) ∧
      ∀ ep kind, Gives (.streamReadResponse c (576 + i) ep (some kind)) s (stopped s o kind a p.tag)) ∧
    (∀ i w o p, i < 2 → x.walks[i]? = some w → x.waiter w.vpn = some (o, p) → (s.ctx o.ctx).gen = o.gen →
      Gives (.strmRespTimeout c (592 + i)) s (stopped s o 5 (s.walkAt c w.vpn) p.tag) ∧
      ∀ ep kind, Gives (.streamReadResponse c (592 + i) ep (some kind)) s (stopped s o kind (s.walkAt c w.vpn) p.tag)) ∧
    (∀ i o, (x.ops.filter (fun o => o.begun && ((s.launchOf o.ctx).stream o.stream).kind == 1))[i]? = some o → (s.ctx o.ctx).gen = o.gen →
      Gives (.strmRespTimeout c (850 + i)) s (stopped s o 5 (s.entryPa c o) 0) ∧
      ∀ ep kind, Gives (.streamReadResponse c (850 + i) ep (some kind)) s (stopped s o kind (s.entryPa c o) 0)) ∧
    (∀ i w ep kind, i < 256 → x.wr[i]? = some w → (s.ctx w.ctx).gen = w.gen →
      let e := 2 ^ 63 + kind * 2 ^ 60 + w.stream * 2 ^ 56 + w.pa % 2 ^ 48
      let u := if s.fld (Reg.STRM_FAULT_LOG c) Fld.STRM_FAULT_LOG_VALID = 0 then s.putReg (Reg.STRM_FAULT_LOG c) e else s
      Gives (.strmRespTimeout c (594 + i)) s (fun t => t = s) ∧
      Gives (.streamReadResponse c (594 + i) ep (some kind)) s (fun t => t = u.midStream w.ctx
        ⟨islCore c, evStreamFault, stOk, w.ctx, (u.ctx w.ctx).stepNo, w.tile, w.gen, leBytes 8 e ++ leBytes 8 w.piece.tag⟩)) ∧
    (∀ w ws, x.wr = w :: ws → w.piece.win = 0 → s.swarm.live = false →
      let p := w.piece
      let n := 64 * s.fld (Reg.SPAD_SPLIT c) Fld.SPAD_SPLIT_SPLIT
      let holds (i : Nat) : Prop := 0 < n ∧ ∃ way, x.wayOf (w.pa / 128 % n) (w.pa / 128) = some way ∧ i = 8 * (w.pa / 128 % n) + way
      (s.noUrgent w.pa = false → Gives (.memoryWriteAck c) s (fun t => t = s)) ∧
      (s.noUrgent w.pa = true → EngineStill s c → (s.ctx w.ctx).gen = w.gen → 0 < p.nbits → isMem w.pa p.sbit p.nbits →
        Gives (.memoryWriteAck c) s (fun t => t.getBits w.pa p.sbit p.nbits = p.val % 2 ^ p.nbits ∧
          (∀ b, b < w.pa + p.sbit / 8 ∨ w.pa + p.sbit / 8 + (p.sbit % 8 + p.nbits + 7) / 8 ≤ b → t.byte b = s.byte b) ∧
          t.core c = { x with wr := ws, cache := (t.core c).cache } ∧ others t ∧
          (∀ i, holds i → tget 0 (t.core c).cache i = 0) ∧ (∀ i, ¬ holds i → tget 0 (t.core c).cache i = tget 0 x.cache i) ∧
          t.ctx w.ctx = { s.ctx w.ctx with wrote := (w.pa + p.sbit / 8, (p.sbit % 8 + p.nbits + 7) / 8) :: (s.ctx w.ctx).wrote } ∧
          (∀ k, k ≠ w.ctx → t.ctx k = s.ctx k) ∧
          { t with
            cores := s.cores, ctxs := s.ctxs, mem := s.mem, badBytes := s.badBytes, badAcc := s.badAcc, softAcc := s.softAcc } = s)) ∧
      (s.noUrgent w.pa = true → EngineStill s c → (s.ctx w.ctx).gen ≠ w.gen →
        Gives (.memoryWriteAck c) s (fun t => t.core c = { x with wr := ws } ∧ others t ∧ { t with cores := s.cores } = s)))

/-- CACHE_FILL, TABLE_WALK, ANT_ROW_ARRIVAL and STREAM_CANCEL. When a controller serves a request is log 99. -/
def Obligations.StreamFills : Prop :=
  ∀ (s : State) (c : Nat), c < 288 →
    let x := s.core c
    let mem (u : SpadUnit) (a : Nat) (bs : List Byte) (t : State) : Prop := Landed s t u a bs ∧
      ((∀ y ∈ s.accesses (spadCore a), y.meets a bs.length = []) → ∀ i < bs.length, t.byte (a + i) = nth 0 bs i) ∧
      ∀ k, k ≠ spadCore a → t.accesses k = s.accesses k
    let corrected (t : State) : Prop := (∀ a, ¬ ReadsAndMeetings a → t.reg a = s.reg a) ∧
      { t with cores := s.cores, regs := s.regs, softAcc := s.softAcc } = s ∧ ∀ k, k ≠ c → t.core k = s.core k
    let isMem (a n : Nat) : Prop := ∀ i < n, isMemory (a + i) = true
    (∀ line, line ∉ x.misses ∨ s.mayServe line (.fill c line) = false → Gives (.cacheFill c line) s (fun t => t = s)) ∧
    (∀ line, line ∈ x.misses → s.mayServe line (.fill c line) = true → s.firstUe line 128 = none → EngineStill s c →
      let n := 64 * s.fld (Reg.SPAD_SPLIT c) Fld.SPAD_SPLIT_SPLIT
      let set := line / 128 % n
      let w := x.victim set
      let row := spadBase c + 128 * (4096 - 8 * n + 8 * set + w)
      (0 < n → isMem row 128 → Gives (.cacheFill c line) s (fun t => mem .cache row (s.bytes line 128) t ∧
        t.core c = { x with misses := x.misses.filter (fun m => m != line), cache := (t.core c).cache } ∧
        (∀ i, tget 0 (t.core c).cache i = if i = 8 * set + w then line / 128 + 1 else tget 0 x.cache i) ∧
        (∀ k, k ≠ c → t.core k = s.core k) ∧
        (∀ a, a ≠ Reg.SPAD_ROW_COLLIDE (spadCore row) → ¬ ReadsAndMeetings a → t.reg a = s.reg a) ∧
        { t with
          cores := s.cores, regs := s.regs, mem := s.mem, badBytes := s.badBytes, badAcc := s.badAcc, softAcc := s.softAcc
          spadAcc := s.spadAcc, free := s.free } = s)) ∧
      (n = 0 → Gives (.cacheFill c line) s (fun t =>
        t.core c = { x with misses := x.misses.filter (fun m => m != line) } ∧ corrected t))) ∧
    (x.walks = [] → Gives (.tableWalk c) s (fun t => t = s)) ∧
    (∀ w rest, x.walks = w :: rest → s.mayServe (s.walkAt c w.vpn) (.walk c w.vpn) = false → Gives (.tableWalk c) s (fun t => t = s)) ∧
    (∀ w rest, x.walks = w :: rest → s.mayServe (s.walkAt c w.vpn) (.walk c w.vpn) = true →
      (w.stale = true →
        Gives (.tableWalk c) s (fun t => t.core c = { x with walks := rest ++ [{ w with stale := false }] } ∧ OnlyCore s t c)) ∧
      (w.stale = false → s.fld (Reg.XLT_ROOT c) Fld.XLT_ROOT_ENABLE = 1 →
        let root := s.fld (Reg.XLT_ROOT c) Fld.XLT_ROOT_ROOT * 2 ^ 17
        let va := w.vpn * 2 ^ 21
        let ctx := s.fld (Reg.XLT_ROOT c) Fld.XLT_ROOT_CTX
        let left := rest.filter (fun q => q.vpn != w.vpn)
        (∀ a ∈ s.walkReads root va, s.firstUe a 8 = none) →
        (∀ e, s.walk root va = .ok e → EngineStill s c →
          Gives (.tableWalk c) s (fun t => t.core c = { x with
            walks := left, tlb := (⟨ctx, w.vpn, e⟩ :: x.tlb.filter (fun g => !(g.ctx == ctx && g.vpn == w.vpn))).take 64 } ∧ corrected t)) ∧
        (∀ k o p, s.walk root va = .bad k → x.waiter w.vpn = some (o, p) →
          Gives (.tableWalk c) s (fun t => ∃ u : State, u.core c = { x with walks := left } ∧ corrected u ∧
            t = u.xltStop c o.ctx o.tile o.gen k p.unitVa p.desc p.tag)) ∧
        (∀ k, s.walk root va = .bad k → x.waiter w.vpn = none →
          Gives (.tableWalk c) s (fun t => t.core c = { x with walks := left } ∧ corrected t)))) ∧
    (∀ row (e : AntEntry) (y : Taker) bs, tget [] s.ant (c / 12) = [e] → e.takers.filter (fun k => k.core == c && !e.landed.contains (k, row)) = [y] →
      e.rows.find? (fun r => r.1 == row) = some (row, bs) →
      let a := y.base + 128 * row
      let e' := { e with landed := (y, row) :: e.landed }
      (isMem a bs.length →
        Gives (.antRowArrival c row false) s (fun t => mem .streamWrite a bs t ∧
          (e'.complete y = true → Shows t (Reg.STRM_ANT_CNT c) Fld.STRM_ANT_CNT_TAKEN (s.fld (Reg.STRM_ANT_CNT c) Fld.STRM_ANT_CNT_TAKEN + 1)) ∧
          (e'.complete y = false → t.reg (Reg.STRM_ANT_CNT c) = s.reg (Reg.STRM_ANT_CNT c)) ∧
          (∀ r, r ≠ Reg.STRM_ANT_CNT c → r ≠ Reg.SPAD_ROW_COLLIDE (spadCore a) → t.reg r = s.reg r) ∧
          tget [] t.ant (c / 12) = (if e'.finished then [] else [e']) ∧ (∀ r, r ≠ c / 12 → tget [] t.ant r = tget [] s.ant r) ∧
          { t with
            regs := s.regs, ant := s.ant, mem := s.mem, badBytes := s.badBytes, badAcc := s.badAcc, softAcc := s.softAcc
            spadAcc := s.spadAcc, free := s.free } = s)) ∧
      (∀ o, x.opOf y.at_.op = some o →
        Gives (.antRowArrival c row true) s (fun t => t = s.streamStop c o.ctx o.tile o.gen 3 o.stream (s.antAddr e row).1 (s.antAddr e row).2))) ∧
    (∀ row bad, (∀ e ∈ tget [] s.ant (c / 12), (∀ y ∈ e.takers, y.core ≠ c ∨ (y, row) ∈ e.landed) ∨ (∀ r ∈ e.rows, r.1 ≠ row)) →
      Gives (.antRowArrival c row bad) s (fun t => t = s)) ∧
    (tget [] s.ant (c / 12) = [] → (∀ k, k < 288 → (s.core k).lines = [] ∧ (s.core k).again = []) → (∀ r ∈ x.rd, ∃ o ∈ x.ops, o.id = r.piece.op) →
      (∀ r ∈ x.prog, ∃ o ∈ x.ops, o.id = r.op) → (∀ k ∈ x.packs, ∃ o ∈ x.ops, o.id = k.op) → x.busy = 0 →
      let late := x.late ++ x.rd.map (fun r => (r.id, r.epoch))
      let next := (x.epoch + 1) % 256
      let inUse := ∃ r ∈ late, r.2 = next
      Gives (.streamCancel c) s (fun t =>
        t.core c = { x with ops := [], prog := none, rd := [], late := late, packs := [], walks := [], misses := [],
                            epoch := (t.core c).epoch, busy := (t.core c).busy } ∧
        (¬ inUse → (t.core c).epoch = next ∧ (t.core c).busy = 0) ∧ (inUse → (t.core c).epoch = x.epoch ∧ (t.core c).busy = 1) ∧
        (∀ k, k ≠ c → t.core k = s.core k) ∧
        Shows t (Reg.STRM_CANCEL_CNT c) Fld.STRM_CANCEL_CNT_COUNT (s.fld (Reg.STRM_CANCEL_CNT c) Fld.STRM_CANCEL_CNT_COUNT + 1) ∧
        (∀ a, a ≠ Reg.STRM_CANCEL_CNT c → t.reg a = s.reg a) ∧
        (∀ r, tget [] t.ant r = tget [] s.ant r) ∧ { t with regs := s.regs, cores := s.cores, ant := s.ant } = s))

/-- LOAD_COMPLETE and STORE_COMPLETE. -/
def Obligations.StreamOperationsEnd : Prop :=
  ∀ (s : State) (c : Nat),
    let x := s.core c
    let hit (o : StrmOp) (g : Grant) : Prop := g.tile = o.tile ∧ g.gen = o.gen ∧ g.copy = o.copy
    let ended (o : StrmOp) : List Grant := x.grants.map (fun g => if g.tile = o.tile ∧ g.gen = o.gen ∧ g.copy = o.copy then
      (if o.pf then { g with pf := { g.pf with open_ := g.pf.open_.filter (fun n => n ≠ o.num) } }
       else { g with cp := { g.cp with open_ := g.cp.open_.filter (fun n => n ≠ o.num) } }) else g)
    let over_ (o : StrmOp) (t : State) : Prop := OnlyCore s t c ∧ t.core c = { x with ops := [], grants := ended o }
    let idle (o : StrmOp) : Prop := o.held = false ∧ o.sent = true ∧ x.lines = [] ∧ x.again = [] ∧ (∀ r ∈ x.rd, r.piece.op ≠ o.id) ∧
      (∀ k ∈ x.packs, k.op ≠ o.id) ∧ s.antWaits c o.id = false
    let busy (o : StrmOp) : Prop := o.sent = false ∨ (∃ p ∈ x.lines, p.op = o.id) ∨ (∃ r ∈ x.rd, r.piece.op = o.id) ∨
      (∃ k ∈ x.packs, k.op = o.id) ∨ (∃ k ∈ x.again, k.op = o.id)
    (∀ o, x.ops = [o] → o.write = false → o.mask = false → idle o → Gives (.loadComplete c) s (over_ o)) ∧
    (∀ o, x.ops = [o] → o.write = true → idle o → (∀ w ∈ x.wr, w.piece.op = o.id → w.piece.win ≠ 0) →
      let l := s.launchOf o.ctx
      let done (g : Grant) : Prop := hit o g ∧ g.drained = true ∧ g.mute = false ∧ l.finalPos g = true ∧
        (∀ w ∈ (l.prog.section false).drop g.cp.pc, opCode w ≠ opStore) ∧ ((s.ctx o.ctx).slotFor (l.outKey g.tile)).state = 1 ∧
        ((s.ctx o.ctx).slotFor (l.outKey g.tile)).core = c
      ((∀ g ∈ x.grants, ¬ done g) → Gives (.storeComplete c) s (over_ o)) ∧
      (∀ g, x.grants = [g] → done g →
        Gives (.storeComplete c) s (fun t => t.core c = { x with ops := [], grants := ended o } ∧ (∀ k, k ≠ c → t.core k = s.core k) ∧
          t.ctx o.ctx = (s.ctx o.ctx).setSlot (l.outKey g.tile) 2 c ∧ (∀ y, y ≠ o.ctx → t.ctx y = s.ctx y) ∧
          { t with cores := s.cores, ctxs := s.ctxs } = s))) ∧
    (∀ o rest, x.queued = o :: rest → o.write = true ∨ busy o → Gives (.loadComplete c) s (fun t => t = s)) ∧
    (∀ o rest, x.queued = o :: rest → o.write = false ∨ busy o → Gives (.storeComplete c) s (fun t => t = s)) ∧
    (x.queued = [] → Gives (.loadComplete c) s (fun t => t = s) ∧ Gives (.storeComplete c) s (fun t => t = s))

/-- GRANT_REQUEST, GRANT_ARRIVAL, TILE_START, TILE_END and TILE_WDOG_EXPIRY. -/
def Obligations.GrantsAndTiles : Prop :=
  ∀ (s : State) (c x : Nat), c < 288 → x < 16 → (s.core c).ctx = some x → (s.ctx x).run = .running → s.swarm.live = false →
    let k := s.core c
    let l := s.launchOf x
    let kx := s.ctx x
    let granted (tile copy : Nat) (combine audit list : Bool) (t : State) : Prop :=
      (∃ g : Grant, t.core c = { k with grants := k.grants ++ [g] } ∧ g.tile = tile ∧ g.copy = copy ∧ g.gen = kx.gen ∧ g.combine = combine ∧
        g.audit = audit ∧ g.arrived = false ∧ g.running = false ∧ g.relist = (list && combine)) ∧
      Shows t (Reg.TILECTR_GRANT_CNT (x % 2) x) Fld.TILECTR_GRANT_CNT_COUNT
        (s.fld (Reg.TILECTR_GRANT_CNT (x % 2) x) Fld.TILECTR_GRANT_CNT_COUNT + 1) ∧
      (∀ a, a ≠ Reg.TILECTR_GRANT_CNT (x % 2) x → t.reg a = s.reg a) ∧ (∀ j, j ≠ c → t.core j = s.core j) ∧ (∀ j, j ≠ x → t.ctx j = s.ctx j) ∧
      { t with regs := s.regs, cores := s.cores, ctxs := s.ctxs } = s
    let asks := l.kind = 0 ∧ l.unrun = false ∧ k.moving = false ∧ s.fenced c = false ∧ k.grants.length < 3 ∧
      ∀ g, k.grants.getLast? = some g → g.arrived = true ∧ (l.prog.section true).length ≤ g.pf.pc ∧ g.pf.wait = none ∧ g.pf.fence = none
    (asks → s.assured = false → ∀ n rest, kx.reissue = [] → kx.cur = n :: rest → n < kx.base + l.perPass →
      Gives (.grantRequest c) s (fun t => granted n 0 false false false t ∧ (t.ctx x).cur = (n + 1) :: rest)) ∧
    (asks → s.assured = false → ∀ e es, kx.reissue = e :: es → (e.die = x % 2 ∨ ∀ y ∈ es, y.die ≠ x % 2) →
      (e.audit = false ∨ ((∀ y ∈ es, y.audit = true) ∧ s.atCursor x = none)) →
      Gives (.grantRequest c) s (fun t => granted e.tile e.copy e.combine e.audit true t ∧ (t.ctx x).cur = kx.cur ∧ e ∉ (t.ctx x).reissue)) ∧
    (k.moving = true ∨ s.fenced c = true ∨ 3 ≤ k.grants.length → Gives (.grantRequest c) s (fun t => t = s)) ∧
    (∀ g, k.grants = [g] → l.isPair = false → g.audit = false → g.relist = false →
      (let u := s.readUp c (l.binRead g).1 (l.binRead g).2
        let tlb := (u.core c).tlb
        let served := s.vaServed c (l.binRead g).1 (l.binRead g).2
        (l.bins = none → tlb = k.tlb ∧ u = s ∧ served = true) ∧
        (∀ a, a ≠ Reg.XLT_MISS_CNT c → ¬ ReadsAndMeetings a → u.reg a = s.reg a) ∧
        (served = false → Gives (.grantArrival c) s (fun t => t = s)) ∧
        (∀ rows, served = true → g.arrived = false → u.readBin c l g = .ok rows → (l.view { g with binRows := rows }).skips g.tile = false →
          Gives (.grantArrival c) s (fun t =>
            t.core c = { k with
              tlb := tlb
              runs := k.runs + 1
              grants := [{ g with arrived := true, mb := g.tile / (l.kbs * l.nbs) % l.mbs, nb := g.tile / l.kbs % l.nbs, kb := g.tile % l.kbs,
                                  jb := 0, alone := false, parity := k.runs, masses := [], binRows := rows }] } ∧
            (∀ a, t.reg a = u.reg a) ∧ (∀ j, j ≠ c → t.core j = s.core j) ∧
            { t with regs := s.regs, cores := s.cores, softAcc := s.softAcc } = s)) ∧
        (∀ rows, served = true → g.arrived = false → u.readBin c l g = .ok rows → (l.view { g with binRows := rows }).skips g.tile = true →
          l.passCount * l.sweeps ≤ kx.passIdx l + 1 → Gives (.grantArrival c) s (fun t =>
            t.core c = { k with tlb := tlb, grants := [] } ∧ g.tile ∈ (t.ctx x).done ∧
            Shows t (Reg.SEQ_SKIP_CNT c) Fld.SEQ_SKIP_CNT_COUNT (s.fld (Reg.SEQ_SKIP_CNT c) Fld.SEQ_SKIP_CNT_COUNT + 1) ∧
            (∀ a, a ≠ Reg.SEQ_SKIP_CNT c → t.reg a = u.reg a) ∧ (∀ j, j ≠ c → t.core j = s.core j ∧ t.accesses j = s.accesses j) ∧
            { t with regs := s.regs, cores := s.cores, ctxs := s.ctxs, softAcc := s.softAcc, spadAcc := s.spadAcc } = s)) ∧
        (∀ z, served = true → g.arrived = false → u.readBin c l g = .error z →
          Gives (.grantArrival c) s (fun t => t = (u.stopBy c x g.tile g.gen 0 0 0 z).swarmAdvance))) ∧
      (g.arrived = true → Gives (.grantArrival c) s (fun t => t = s)) ∧
      (g.arrived = true → g.running = false → k.moving = false → l.sweeps ≤ 1 → Gives (.tileStart c 0) s (fun t =>
        t.core c = { k with grants := [{ g with running := true, set := 0 }], acc0 := { Acc.zero with int := l.intTile },
                            execs := k.execs + (if s.copied x then 1 else 0) } ∧ OnlyCore s t c)) ∧
      (g.arrived = false ∨ g.running = true ∨ k.moving = true → Gives (.tileStart c 0) s (fun t => t = s)) ∧
      (g.complete l = true → g.stands = false → (∀ j, j < 288 → (s.core j).lines = [] ∧ (s.core j).again = []) → l.passCount * l.sweeps ≤ kx.passIdx l + 1 →
        Gives (.tileEnd c 0) s (fun t => t.core c = { k with grants := [] } ∧ g.tile ∈ (t.ctx x).done ∧
          (g.drained = true → g.mute = false → (kx.slotFor (l.outKey g.tile)).state = 1 → (kx.slotFor (l.outKey g.tile)).core = c →
            ((t.ctx x).slotFor (l.outKey g.tile)).state = 2) ∧
          Shows t (Reg.SEQ_TILE_CNT c) Fld.SEQ_TILE_CNT_COUNT (s.fld (Reg.SEQ_TILE_CNT c) Fld.SEQ_TILE_CNT_COUNT + 1) ∧
          (∀ a, a ≠ Reg.SEQ_TILE_CNT c → t.reg a = s.reg a) ∧ (∀ j, j ≠ c → t.core j = s.core j ∧ t.accesses j = s.accesses j) ∧
          (∀ j, j ≠ x → t.ctx j = s.ctx j) ∧
          { t with regs := s.regs, cores := s.cores, ctxs := s.ctxs, spadAcc := s.spadAcc } = s)) ∧
      (g.complete l = false → Gives (.tileEnd c 0) s (fun t => t = s)) ∧
      (g.wdog = false → Gives (.tileWdogExpiry c 0) s (fun t => t = s)) ∧
      (g.wdog = true → g.complete l = false → g.drained = false → g.stands = false → g.gen = kx.gen →
        (∀ j, j < 288 → (s.core j).lines = [] ∧ (s.core j).again = []) → tget [] s.ant (c / 12) = [] →
        let n := tget 0 kx.expiries g.tile + 1
        let counted (t : State) : Prop := Shows t (Reg.TILE_WDOG_EXP_CNT c) Fld.TILE_WDOG_EXP_CNT_COUNT
          (s.fld (Reg.TILE_WDOG_EXP_CNT c) Fld.TILE_WDOG_EXP_CNT_COUNT + 1)
        (n = 1 → Gives (.tileWdogExpiry c 0) s (fun t => counted t ∧ (t.core c).grants = [] ∧ tget 0 (t.ctx x).expiries g.tile = 1 ∧
          (t.ctx x).run = .running ∧ ⟨s.counterDie x (dieOf c), g.tile, g.gen, g.copy, g.combine, false⟩ ∈ (t.ctx x).reissue ∧
          (∀ e ∈ kx.reissue, e ∈ (t.ctx x).reissue) ∧ (∀ j, j ≠ c → t.core j = s.core j) ∧ (∀ j, j ≠ x → t.ctx j = s.ctx j))) ∧
        (2 ≤ n → Gives (.tileWdogExpiry c 0) s (fun t => (t.ctx x).run ≠ .running ∧ (t.core c).grants = []))))

/-- CORE_FENCE, SLICE_BOUNDARY and CORE_MOVE. -/
def Obligations.CoresAndSlices : Prop :=
  ∀ s : State, (∀ k, k < 288 → (s.core k).lines = [] ∧ (s.core k).again = []) →
    (∀ c reason, s.live = true → c < 288 → (reason = 1 ∨ reason = 2) → s.fenced c = false → (s.setFence c).tooFewCores = false →
      tget [] s.ant (c / 12) = [] → (s.core c).testReq = [] →
      let k := s.core c
      let next := (k.epoch + 1) % 256
      Gives (.coreFence c reason) s (fun t => t.fenced c = true ∧ (∀ j < 288, j ≠ c → t.fenced j = s.fenced j) ∧
        (t.core c).ctx = none ∧ (t.core c).moving = false ∧ (t.core c).ops = [] ∧
        (k.busy = 0 → (∀ r ∈ k.late, r.2 ≠ next) → (∀ r ∈ k.rd, r.epoch ≠ next) → (t.core c).epoch = next ∧ (t.core c).busy = 0) ∧
        c ∉ t.hmd.parked ∧ (∀ j, j ≠ c → s.assured = false → (s.core j).moving = false ∨ (s.core j).ctx ≠ k.ctx → t.core j = s.core j) ∧ t.power = s.power ∧
        Shows t Reg.FLT_EVT_SEQ Fld.FLT_EVT_SEQ_NEXT (s.evSeq + 1) ∧
        (∀ x g, k.ctx = some x → g ∈ k.grants → g.gen = (s.ctx x).gen → g.stands = false →
          ⟨s.counterDie x (dieOf c), g.tile, g.gen, g.copy, g.combine, g.audit⟩ ∈ (t.ctx x).reissue) ∧
        (∀ x, k.ctx = some x → (t.core c).grants = [] ∧ (t.core c).tokens = 0))) ∧
    (∀ c reason, s.fenced c = true → Gives (.coreFence c reason) s (fun t => t = s)) ∧
    (s.ready = false → Gives .sliceBoundary s (fun t => t = s)) ∧
    (∀ x, s.ready = true → s.assured = false → x < 16 → (s.ctx x).run = .running → (∀ y < 16, y ≠ x → (s.ctx y).run ≠ .running) →
      (s.ctx x).cls < 4 → 0 < (s.ctx x).weight → 0 < s.wants x → s.wins = [] → s.hmd.parked = [] →
      (∀ k < 288, (s.core k).ctx = none ∧ (s.core k).moving = false ∧ (s.core k).test = 0) →
      let chosen := (allCores.filter (fun c => !s.fenced c)).take (s.wants x)
      Gives .sliceBoundary s (fun t => (∀ c ∈ chosen, t.core c = { s.core c with moving := true, moveTo := some x }) ∧
        (∀ c, c ∉ chosen → t.core c = s.core c) ∧ { t with cores := s.cores } = s)) ∧
    (s.ready = true → (∀ y < 16, (s.ctx y).run ≠ .running) → (∀ k < 288, (s.core k).test = 0) →
      Gives .sliceBoundary s (fun t => (∀ c, c < 288 → s.usable c = true → s.headed c ≠ none →
          t.core c = { s.core c with moving := (s.core c).ctx.isSome, moveTo := none }) ∧
        (∀ c, 288 ≤ c ∨ s.usable c = false ∨ s.headed c = none → t.core c = s.core c) ∧ { t with cores := s.cores } = s)) ∧
    (∀ c, s.keptCore c = true ∨ (∃ g ∈ (s.core c).grants, g.issued = true) → Gives (.coreMove c) s (fun t => t = s)) ∧
    (∀ c, (s.core c).moving = false → s.ready = false ∨ s.isIdle c = false ∨ s.neediest c = none → Gives (.coreMove c) s (fun t => t = s)) ∧
    (∀ c, (s.core c).moving = true → (s.core c).grants = [] → (s.core c).ctx = none → (s.core c).moveTo = none →
      Gives (.coreMove c) s (fun t => OnlyCore s t c ∧ t.core c = { s.core c with
        moving := false, cache := [], plru := [], test := if (s.core c).test = 1 then 2 else (s.core c).test })) ∧
    (∀ c x, c < 288 → x < 16 → (s.core c).grants = [] → (s.core c).ctx = none →
      ((s.core c).moving = true ∧ (s.core c).moveTo = some x) ∨
        ((s.core c).moving = false ∧ s.ready = true ∧ s.isIdle c = true ∧ s.neediest c = some x) →
      let k := s.core c
      let l := s.launchOf x
      let owner := (s.group (s.ctx x).group).owner
      let tile := (s.ctx x).run = .running ∧ l.kind = 0
      ((s.ctx x).live = false ∨ s.canServe c x = false → Gives (.coreMove c) s (fun t => OnlyCore s t c ∧
        t.core c = { k with moving := false, moveTo := none, cache := [], plru := [] })) ∧
      ((s.ctx x).live = true → s.canServe c x = true →
        (tile → k.resident x l.prog = true ∨
          (k.owner = owner ∧ ∃ b, (s.setRoot c x).readBy c (l.prog.addr + l.prog.opOff 0) (8 * l.prog.ops.length) = .ok b)) →
        Gives (.coreMove c) s (fun t =>
          (t.core c).ctx = some x ∧ (t.core c).moving = false ∧ (t.core c).moveTo = none ∧ (t.core c).owner = owner ∧ (t.core c).cache = [] ∧
          (k.owner ≠ owner → ∀ a, s.inWorking c a = true → t.byte a = 0) ∧ (k.owner = owner → t.mem = s.mem) ∧
          ((¬ tile ∨ k.resident x l.prog = true) → (t.core c).tlb = if k.owner = owner then k.tlb else []) ∧
          (∀ a, s.inWorking c a = false → t.byte a = s.byte a) ∧
          Shows t (Reg.SPAD_SPLIT c) Fld.SPAD_SPLIT_SPLIT (s.ctx x).split ∧ Shows t (Reg.XLT_ROOT c) Fld.XLT_ROOT_CTX x ∧
          Shows t (Reg.XLT_ROOT c) Fld.XLT_ROOT_ROOT (s.rootOf x / 2 ^ 17) ∧ Shows t (Reg.XLT_ROOT c) Fld.XLT_ROOT_ENABLE 1 ∧
          Shows t (Reg.SEQ_EXT c) Fld.SEQ_EXT_EXT_M l.extM ∧ Shows t (Reg.SEQ_EXT c) Fld.SEQ_EXT_EXT_N l.extN ∧
          Shows t (Reg.SEQ_EXT c) Fld.SEQ_EXT_EXT_K l.extK ∧ Shows t (Reg.SEQ_EXT_J c) Fld.SEQ_EXT_J_EXT_J l.extJ ∧
          (tile → (t.core c).tokens = tokensOf l.prog.bufs ∧ (t.core c).runs = tget 0 (s.ctx x).ran c ∧
            (l.prog.ops.length ≤ 256 → ∃ p ∈ (t.core c).progs.head?, p.1 = x ∧ p.2.1 = l.prog.addr ∧
              (k.resident x l.prog = true → p.2.2 = l.prog.ops))) ∧
          (∀ j, j ≠ c → (s.core j).moving = false ∨ (s.core j).ctx ≠ some x → t.core j = s.core j) ∧ (∀ y, y ≠ x → t.ctx y = s.ctx y)))) ∧
    (∀ c y g, c < 288 → (s.core c).moving = true → (s.core c).ctx = some y → (s.core c).moveTo = none → (s.core c).grants = [g] →
      s.keptCore c = false → g.issued = false → g.gen = (s.ctx y).gen → g.stands = false → tget [] s.ant (c / 12) = [] →
      Gives (.coreMove c) s (fun t => (t.core c).ctx = none ∧ (t.core c).grants = [] ∧ (t.core c).moving = false ∧
        ⟨s.counterDie y (dieOf c), g.tile, g.gen, g.copy, g.combine, g.audit⟩ ∈ (t.ctx y).reissue ∧
        tget 0 (t.ctx y).ran c = (s.core c).runs - (if g.arrived = true then 1 else 0) ∧ (∀ j, j ≠ c → t.core j = s.core j)))

/-- STEP_LAUNCH, STEP_REPLAY and STEP_COMMIT. -/
def Obligations.Steps : Prop :=
  ∀ (s : State) (x : Nat), x < 16 →
    let c := s.ctx x
    let begun (l : Launch) (t : State) : Prop :=
      (t.ctx x).run = .running ∧ (t.ctx x).launch = some l ∧ (t.ctx x).launchNo = c.launchNo + 1 ∧ (t.ctx x).stepNo = c.stepNo ∧
      (t.ctx x).failures = c.failures ∧ (∀ a as, s.serving x = a :: as → (t.ctx x).anchor = a) ∧ (∀ y, y ≠ x → t.ctx y = s.ctx y) ∧
      (l.kind = 0 → (∀ d < 2, Shows t (Reg.TILECTR_CFG d x) Fld.TILECTR_CFG_TILES l.perPass ∧
          Shows t (Reg.TILECTR_CFG d x) Fld.TILECTR_CFG_ENABLE 1) ∧
        ∀ k ∈ s.serving x, (t.core k).tokens = tokensOf l.prog.bufs ∧ (t.core k).runs = tget 0 (t.ctx x).ran k ∧ (t.core k).cache = []) ∧
      (∀ k ∈ s.serving x, Shows t (Reg.SEQ_EXT k) Fld.SEQ_EXT_EXT_M l.extM ∧ Shows t (Reg.SEQ_EXT k) Fld.SEQ_EXT_EXT_N l.extN ∧
        Shows t (Reg.SEQ_EXT k) Fld.SEQ_EXT_EXT_K l.extK ∧ Shows t (Reg.SEQ_EXT_J k) Fld.SEQ_EXT_J_EXT_J l.extJ) ∧
      (t.ctx x).params = s.params
    let readable (l : Launch) (u : State) : Prop := l.kind = 0 → ∀ k ∈ s.serving x, (s.core k).resident x l.prog = true ∨
      ∃ b, (u.setRoot k x).readBy k (l.prog.addr + l.prog.opOff 0) (8 * l.prog.ops.length) = .ok b
    (s.ready = false ∨ s.wadi.testing = true ∨ c.live = false ∨ c.run ≠ .idle ∨ (s.group c.group).ending = true ∨ s.rebuilding c.group = true ∨
        c.queue = [] →
      Gives (.stepLaunch x) s (fun t => t = s)) ∧
    (∀ r rest, s.ready = true → s.wadi.testing = false → c.live = true → c.run = .idle → (s.group c.group).ending = false →
      s.rebuilding c.group = false → c.queue = r :: rest →
      let m := s.mend (fun s => s.launchDesc r)
      { m with regs := s.regs, softAcc := s.softAcc } = s ∧ (∀ a, ¬ ReadsAndMeetings a → m.reg a = s.reg a) ∧
      ∀ d, m.launchDesc r = .ok d →
      (∀ st a row pos det, d.check = .error (.refuse st a row pos det) → Gives (.stepLaunch x) s (fun t =>
        t = (m.raise (programError (islMantis 0) st x c.stepNo noTile c.gen a row pos det)).endTask x st s.evSeq)) ∧
      (d.check = .ok () → r.bad = false → s.waitMet d = false → (∃ q ∈ s.winSenders (d.waitEntry - 1), s.goneStatus q = none) →
        Gives (.stepLaunch x) s (fun t => t = m)) ∧
      (∀ q st, d.check = .ok () → r.bad = false → s.waitMet d = false → (s.winSenders (d.waitEntry - 1)).getLast? = some q →
        (∀ i ∈ s.winSenders (d.waitEntry - 1), (s.goneStatus i).isSome = true ∧ s.standIn i = i) → s.goneStatus q = some st →
        Gives (.stepLaunch x) s (fun t => t = m.endTask x st (s.member q).ev)) ∧
      (∀ l u, d.check = .ok () → r.bad = false → s.waitMet d = true → d.kind < 2 →
        let v := m.mend (fun s => s.loadStep x r d)
        v.loadStep x r d = .ok (l, none) → s.lenderGone c.group = none → s.needsGone x l = none →
        (v.mend (fun s => s.prepareRun x l)).prepareRun x l = .ok u → s.windowBreach x l = none → readable l u →
        Gives (.stepLaunch x) s (fun t => begun l t ∧ (t.ctx x).gen = (c.gen + 1) % 2 ^ 16 ∧ (t.ctx x).queue = rest ∧
          (t.ctx x).done = [] ∧ (t.ctx x).reissue = [] ∧ (t.ctx x).cur = [0, 0] ∧ (t.ctx x).ran = []))) ∧
    (s.ready = false ∨ c.live = false ∨ c.run ≠ .aborted ∨ s.rebuilding c.group = true → Gives (.stepReplay x) s (fun t => t = s)) ∧
    (∀ l u, s.ready = true → c.live = true → c.run = .aborted → s.rebuilding c.group = false → c.launch = some l → l.swarmAddr = 0 →
      s.lenderGone c.group = none → s.needsGone x l = none → (s.mend (fun s => s.prepareRun x l)).prepareRun x l = .ok u →
      s.windowBreach x l = none → readable l u →
      Gives (.stepReplay x) s (fun t => begun l t ∧ (t.ctx x).gen = c.gen ∧ (t.ctx x).ran = c.ran ∧ (t.ctx x).queue = c.queue ∧
        Shows t Reg.FLT_EVT_SEQ Fld.FLT_EVT_SEQ_NEXT (s.evSeq + 1))) ∧
    (∀ tokens l, c.launch = some l → c.run ≠ .running ∨ s.mayCommit x l = false → Gives (.stepCommit x tokens) s (fun t => t = s)) ∧
    (∀ tokens l z, c.launch = some l → c.run = .running → s.mayCommit x l = true → (s.preCommit x l).stop = some z →
      Gives (.stepCommit x tokens) s (fun t => t = (s.preCommit x l).s.stopBy c.anchor x noTile c.gen 0 0 0 z)) ∧
    (∀ tokens l, c.launch = some l → c.run = .running → s.mayCommit x l = true → (s.preCommit x l).stop = none → c.remote = [] →
      (s.group c.group).mcasts = [] → (s.group c.group).ending = false → l.mcast = 0 → l.swarmAddr = 0 → (∀ k, (s.core k).test ≠ 3) →
      let u := (s.preCommit x l).s
      let v := u.putTask { u.taskRec c.task with last := c.stepNo, gen := c.gen, status := stOk }
      let w := (tokens.foldl (fun s b => s.pushItem (qToken x) b) v).pushItem (qCompletion x)
        (completionItem c.stepNo stOk (itemFlags c.empty false false (decide (1 < c.launchNo))) x c.failures c.task c.cause)
      let p := w.keepTokens x tokens
      let masses (s : State) : Chk State := s.commitMasses (p.rootOf x) x l
      ∀ z, masses (p.mend masses) = .ok z →
      Gives (.stepCommit x tokens) s (fun t => t = z.putCtx x c.afterCommit ∧ (t.ctx x).run = .idle ∧ (t.ctx x).launch = none ∧
        (t.ctx x).stepNo = c.stepNo + 1 ∧ (t.ctx x).failures = 0 ∧ (t.ctx x).queue = c.queue ∧ (t.taskRec c.task).last = c.stepNo ∧
        (t.taskRec c.task).gen = c.gen ∧ (∀ y, y ≠ x → t.ctx y = s.ctx y)))

/-- `n` pieces of work done in order, the last leaving the memory of `t`. -/
def Sys2Proof.Machine.Chained (s t : State) (n : Nat) (r : Nat → State → State → Prop) : Prop :=
  ∃ u : Nat → State, u 0 = s ∧ (∀ i < n, r i (u i) (u (i + 1))) ∧ (u n).mem = t.mem

/-- A run of elements written (R224). -/
def Sys2Proof.Machine.Wrote (root : Nat) (d : Desc) (i : Idx) (vs : List Nat) (a b : State) : Prop :=
  ∃ v n, a.writeRun root d i vs = .ok (v, n) ∧ b.mem = v.mem

/-- The record at the front of stack `k` is one of a running step, for the operation `op`, which works on `j`, and no urgent request
stands at the controller (R325, R351, R352). -/
def Sys2Proof.Machine.ErgFront (s : State) (k op : Nat) (e : ErgEnt) (q : List ErgEnt) (r : ErgRec) (j : ErgJob) : Prop :=
  k < 12 ∧ s.ergLine k = e :: q ∧ (s.launchOf e.ctx).erg[e.idx]? = some r ∧ (s.launchOf e.ctx).jobs[e.idx]? = some j ∧ r.op = op ∧
    (s.ctx e.ctx).run = .running ∧ (s.ctx e.ctx).gen = e.gen ∧ s.serving e.ctx ≠ [] ∧ s.urgentOf k = []

/-- The record at the front of stack `k` can run as an operation, with the accesses `rs`, which its anchor core looks up and engine `k`
reaches (R348, R351, R352). -/
def Sys2Proof.Machine.ErgRuns (s : State) (k op : Nat) (e : ErgEnt) (q : List ErgEnt) (r : ErgRec) (root : Nat) (j : ErgJob)
    (rs : List Reach) : Prop :=
  ErgFront s k op e q r j ∧ s.coreRoot (s.ctx e.ctx).anchor = some root ∧ s.ergReach (s.rootOf e.ctx) j = .ok rs ∧ eachChk rs ((s.lookReach (s.ctx e.ctx).anchor rs).checkReach root k e.idx) = .ok ()

/-- Of the cores only the TLB of core `c` differs, and of the registers, besides those listed, only its count of TLB misses and the counters
of corrected reads and of meetings. -/
def Sys2Proof.Machine.LookedBy (s t : State) (c : Nat) (regs : List Nat) : Prop :=
  t.core c = { s.core c with tlb := (t.core c).tlb } ∧ (∀ k, k ≠ c → t.core k = s.core k) ∧
    ∀ a, a ≠ Reg.XLT_MISS_CNT c → a ∉ regs → ¬ ReadsAndMeetings a → t.reg a = s.reg a

/-- The operation has left the line of stack `k`, that of the engine or of what runs on cores for it, and is counted; of the context only what `f` says has changed, and what it wrote. -/
def Sys2Proof.Machine.ErgEnds (s : State) (k : Nat) (e : ErgEnt) (q : List ErgEnt) (f : Ctx → Ctx) (t : State) : Prop :=
  t.stack k = (if s.ergFailed k then { s.stack k with onCores := q } else { s.stack k with queue := q }) ∧
    (∀ n, n ≠ k → t.stack n = s.stack n) ∧
    (let c := if s.ergFailed k then Fld.ERG_CNT_FALLBACK else Fld.ERG_CNT_DONE
     Shows t (Reg.ERG_CNT k) c (s.fld (Reg.ERG_CNT k) c + 1)) ∧
    LookedBy s t (s.ctx e.ctx).anchor [Reg.ERG_CNT k, Reg.DESC_OOB_WR_CNT (s.ctx e.ctx).anchor] ∧
    t.ctx e.ctx = { f (s.ctx e.ctx) with wrote := (t.ctx e.ctx).wrote } ∧ (∀ y, y ≠ e.ctx → t.ctx y = s.ctx y) ∧
    { t with
      regs := s.regs, cores := s.cores, ctxs := s.ctxs, stackTab := s.stackTab, mem := s.mem, badBytes := s.badBytes, badAcc := s.badAcc
      softAcc := s.softAcc } = s

/-- GATHER, SCATTER, MERGE, INTERSECT, DECOMPRESS, TOPK_ROW, SUM_CHECK, DECODE_ATTN and DECODE_ATTN_MERGE. -/
def Obligations.ErgOperations : Prop :=
  ∀ (s : State) (k : Nat) (e : ErgEnt) (q : List ErgEnt) (r : ErgRec) (root : Nat) (rs : List Reach),
    let done (t : State) : Prop := ErgEnds s k e q (fun c => { c with ergDone := e.idx :: c.ergDone }) t
    let anchor := (s.ctx e.ctx).anchor
    let u := s.lookReach anchor rs
    let work (j : ErgJob) : Done := u.ergWork e.ctx root k r j
    (∀ d l h p, ErgRuns s k erGather e q r root (.gather d l h p) rs → (work (.gather d l h p)).stop = none →
      Gives (.gather k) s (fun t => done t ∧ Chained u t h.count (fun n a b => ∃ x cs, a.listEnt root l n = .ok x ∧
        a.readBox root d (x.origin h.block) h.block = .ok cs ∧ Wrote root p [0, (x.slot : Int), 0, 0, 0, 0] cs a b))) ∧
    (∀ p l h d, ErgRuns s k erScatter e q r root (.scatter p l h d) rs → (work (.scatter p l h d)).stop = none →
      Gives (.scatter k) s (fun t => done t ∧ Chained u t h.count (fun n a b => ∃ x cs, a.scatterEnt root l n = .ok x ∧
        a.readRun root p [0, (x.slot : Int), 0, 0, 0, 0] (boxSize h.block) = .ok cs ∧
        let o := x.origin h.block
        Chained a b (boxRuns o h.block).length (fun m y z => ∀ g, (boxRuns o h.block)[m]? = some g →
          Wrote root d (nth 0 o 0 :: g.1) ((cs.drop (g.2 * nth 1 h.block 0)).take (nth 1 h.block 0)) y z)))) ∧
    (∀ both a b o p ka kb, let op := if both then erIntersect else erMerge
      let c := if both then Instr.intersect k else Instr.merge k
      ErgRuns s k op e q r root (.keys both a b o p) rs → (work (.keys both a b o p)).stop = none →
      u.readRun root a [0] (a.dim 0).extent = .ok ka → u.readRun root b [0] (b.dim 0).extent = .ok kb →
      let out := (zipKeys both (ka.length + kb.length + 1) 0 0 none none ka kb).keys
      ka.Pairwise (· < ·) ∧ kb.Pairwise (· < ·) ∧ (out.map (·.1)).Pairwise (· < ·) ∧
        (∀ x, x ∈ out.map (·.1) ↔ if both then x ∈ ka ∧ x ∈ kb else x ∈ ka ∨ x ∈ kb) ∧
        (∀ x ∈ out, (if x.2.1 = -1 then x.1 ∉ ka else ka[x.2.1.toNat]? = some x.1) ∧ (if x.2.2 = -1 then x.1 ∉ kb else kb[x.2.2.toNat]? = some x.1)) ∧
        Gives c s (fun t => done t ∧ ∃ v w : State, Wrote root o [((o.dim 0).vlo : Int) + 1] (out.map (·.1)) u v ∧
          Wrote root p [((p.dim 0).vlo : Int)] (out.flatMap (fun x => [unsigned 32 x.2.1, unsigned 32 x.2.2])) v w ∧
          Wrote root o [((o.dim 0).vlo : Int)] [out.length] w t)) ∧
    (∀ v m p o, ErgRuns s k erDecompress e q r root (.decompress v m p o) rs → (work (.decompress v m p o)).stop = none →
      Gives (.decompress k) s (fun t => done t ∧ Chained u t (m.dim 1).extent (fun n a b => ∃ (y : PackRow) (bits cs : List Nat),
        let len := (o.dim 0).extent
        rowBitsBy (a.bitsVa root) m len n = .ok bits ∧ packRow (a.bitsVa root) ⟨some v, none, some m, some p, 0⟩ len 0 len n = .ok y ∧
        cs.length = bits.length ∧ (∀ i < bits.length, a.bitsVa root (8 * v.base + y.start * 256 + i * v.w) v.w = .ok (nth 0 cs i)) ∧
        Wrote root o (0 :: nth [(n : Int)] o.rowIdx n) (spread len bits cs) a b))) ∧
    (∀ d v c n, ErgRuns s k erTopk e q r root (.topk d v c n) rs → (work (.topk d v c n)).stop = none →
      Gives (.topkRow k) s (fun t => done t ∧ Chained u t d.rowIdx.length (fun i a b => ∃ (cs : List Nat) (y : State),
        let row := 0 :: nth [] d.rowIdx i
        let top := topCols d.fmt n cs
        a.readRun root d row (d.dim 0).extent = .ok cs ∧
        Wrote root v row (top.map (fun i => canonCode d.fmt (nth 0 cs i)) ++ List.replicate (n - top.length) v.fill) a y ∧
        Wrote root c row (top ++ List.replicate (n - top.length) (2 ^ 32 - 1)) y b))) ∧
    (∀ l d v mode sl sums cs, ErgRuns s k erSumCheck e q r root (.sumCheck l d v mode) rs → (work (.sumCheck l d v mode)).stop = none →
      u.sumList root l = .ok sl → u.sumOf root (d.dim 0).extent sl = .ok sums → u.readRun root d [0] (d.dim 0).extent = .ok cs →
      let f := (sums.zip (cs.map (BitVec.ofNat 32))).findIdx? (fun x => !passes mode x.1 x.2)
      let word := match f with | some i => 1 + i * 2 ^ 32 | none => (2 ^ 32 - 1) * 2 ^ 32
      Gives (.sumCheck k) s (fun t => done t ∧ Wrote root v [0] (cutBits v.w 64 word) u t)) ∧
    (∀ qd o table a sigma pages views, ErgRuns s k erAttn e q r root (.attn qd o table a sigma) [] → s.pageTable root table r.len = .ok pages →
      mapChk ((List.range pages.length).filter (fun i => i % 12 == k))
        (fun i => (s.readVa root (nth 0 pages i) a.page).map (fun b => (i, (⟨a, b⟩ : PageView)))) = .ok views →
      s.firstUe (workArea k) (2 * a.heads * a.dim) = none →
      let part (h : Nat) : List Byte := (views.foldl (fun st v =>
        attnPage sigma (s.queryOf k a.dim h) r.len v.1 (h / a.group) v.2 st) (HeadPart.empty a.dim)).bytes
      Gives (.decodeAttn k) s (fun t => ErgEnds s k e q (fun c => { c with partials := (e.idx, k) :: c.partials }) t ∧
        (∀ h < a.heads, ∀ i < 32 + 4 * a.dim, t.byte (partialAt k h a.dim + i) = nth 0 (part h) i) ∧
        ∀ b, b < partialAt k 0 a.dim ∨ partialAt k a.heads a.dim ≤ b → t.byte b = s.byte b)) ∧
    (∀ x i qd o table a sigma, s.mergeable x = some (i, .attn qd o table a sigma) → (s.ctx x).run = .running → s.serving x ≠ [] →
      s.coreRoot (s.ctx x).anchor = some root →
      let c := (s.ctx x).anchor
      let v := (s.lookReach c o.reachWrite).correctAll (partialRanges a)
      let sat (z : State) : Nat := z.fld (Reg.ARITH_SAT_CNT c) Fld.ARITH_SAT_CNT_COUNT
      (v.mergeRun c x root o a).stop = none →
      Gives (.decodeAttnMerge x) s (fun t => (∃ w : Nat → State, w 0 = v ∧ (w a.heads).mem = t.mem ∧ sat (w a.heads) = sat t ∧
          ∀ h < a.heads, ∃ ps,
            mapChk (List.range 12) (fun n => ((w h).fetch [(partialAt n h a.dim, 32 + 4 * a.dim)]).map headPartOf) = .ok ps ∧
            let out := headOut o.fmt (mergeHead a.dim ps)
            let n := (out.filter (·.2)).length
            Wrote root o [0, (h : Int)] (out.map (·.1)) ((w h).countConv c n 0) (w (h + 1)) ∧
            Shows (w (h + 1)) (Reg.ARITH_SAT_CNT c) Fld.ARITH_SAT_CNT_COUNT (sat (w h) + n)) ∧
        t.ctx x = { s.ctx x with
          partials := (s.ctx x).partials.filter (fun p => p.1 != i), ergDone := i :: (s.ctx x).ergDone, wrote := (t.ctx x).wrote } ∧
        (∀ y, y ≠ x → t.ctx y = s.ctx y) ∧ LookedBy s t c [Reg.DESC_OOB_WR_CNT c, Reg.ARITH_SAT_CNT c] ∧
        { t with
          regs := s.regs, cores := s.cores, ctxs := s.ctxs, mem := s.mem, badBytes := s.badBytes, badAcc := s.badAcc
          softAcc := s.softAcc } = s)) ∧
    (∀ c, (r.op, c) ∈ [(erGather, Instr.gather k), (erScatter, Instr.scatter k), (erMerge, Instr.merge k), (erIntersect, Instr.intersect k),
        (erDecompress, Instr.decompress k), (erTopk, Instr.topkRow k), (erSumCheck, Instr.sumCheck k), (erAttn, Instr.decodeAttn k)] →
      (∀ j z, ErgRuns s k r.op e q r root j rs → (work j).stop = some z →
        Gives c s (fun t => t = ((work j).s.countOob anchor (work j).oob).ergStop e.ctx k z)) ∧
      (∀ j z, ErgFront s k r.op e q r j → s.ergReach (s.rootOf e.ctx) j = .error z → Gives c s (fun t => t = s.ergStop e.ctx k z)) ∧
      (∀ j, ErgFront s k r.op e q r j → s.ergReach (s.rootOf e.ctx) j = .ok rs →
        (s.coreRoot anchor = none → Gives c s (fun t => t = s.ergStop e.ctx k (offStop r.src1 rs))) ∧
        (∀ z, s.coreRoot anchor = some root → eachChk rs (u.checkReach root k e.idx) = .error z →
          Gives c s (fun t => t = u.ergStop e.ctx k z))) ∧
      (s.urgentOf k ≠ [] → Gives c s (fun t => t = s)))

/-- ERG_RECORD_SEND, ERG_OP_TIMEOUT, HBM_PATROL and PCH_NO_RESPONSE. -/
def Obligations.ErgQueuesAndStacks : Prop :=
  ∀ s : State,
    (∀ x r j, (s.ctx x).run = .running → (s.launchOf x).kind = 1 → s.ergOf x (s.ctx x).ergSent = some (r, j) →
      let put (k : Nat) (l : List ErgEnt) : Stack :=
        if s.ergFailed k then { s.stack k with onCores := l } else { s.stack k with queue := l }
      let e (u : Bool) : ErgEnt := ⟨x, (s.ctx x).ergSent, (s.ctx x).gen, u⟩
      let sent (t : State) : Prop := t.ctx x = { s.ctx x with ergSent := (s.ctx x).ergSent + 1 } ∧ ∀ y, y ≠ x → t.ctx y = s.ctx y
      (r.op ≠ erAttn → (s.stack r.stack).queue.length < 16 →
        ((s.ctx x).cls ≠ 0 → Gives (.ergRecordSend x) s (fun t => sent t ∧ (∀ k, k ≠ r.stack → t.stack k = s.stack k) ∧
          t.stack r.stack = put r.stack (s.ergLine r.stack ++ [e false]) ∧
          { t with ctxs := s.ctxs, stackTab := s.stackTab } = s)) ∧
        ((s.ctx x).cls = 0 → s.ergLine r.stack = [] → Gives (.ergRecordSend x) s (fun t => sent t ∧
          (∀ k, k ≠ r.stack → t.stack k = s.stack k) ∧ t.stack r.stack = put r.stack [e true] ∧
          { t with ctxs := s.ctxs, stackTab := s.stackTab } = s)) ∧
        (∀ front urg rest, (s.ctx x).cls = 0 → s.ergLine r.stack = front :: (urg ++ rest) → (∀ a ∈ urg, a.urgent = true) →
          (∀ a as, rest = a :: as → a.urgent = false) →
          Gives (.ergRecordSend x) s (fun t => sent t ∧ (∀ k, k ≠ r.stack → t.stack k = s.stack k) ∧
            t.stack r.stack = put r.stack (front :: (urg ++ e true :: rest)) ∧
            { t with ctxs := s.ctxs, stackTab := s.stackTab } = s))) ∧
      (r.op ≠ erAttn → 16 ≤ (s.stack r.stack).queue.length → Gives (.ergRecordSend x) s (fun t => t = s)) ∧
      (∀ qd o table a sigma, r.op = erAttn → s.attnBusy = false → (∀ k < 12, (s.stack k).queue.length < 16) → j = .attn qd o table a sigma →
        let d := (s.mend (fun s => s.pageTable (s.rootOf x) table r.len)).judgePages (s.ctx x).anchor x table r.len a
        let v := d.s.mend (fun s => s.copyQuery (s.rootOf x) qd)
        (∀ u, d.stop = none → v.copyQuery (s.rootOf x) qd = .ok u → (s.ctx x).cls ≠ 0 →
          Gives (.ergRecordSend x) s (fun t => sent t ∧ (∀ k < 12, t.stack k = put k (s.ergLine k ++ [e false])) ∧ t.mem = u.mem ∧
            LookedBy s t (s.ctx x).anchor [] ∧
            { t with
              regs := s.regs, cores := s.cores, ctxs := s.ctxs, stackTab := s.stackTab, mem := s.mem, badBytes := s.badBytes
              badAcc := s.badAcc, softAcc := s.softAcc } = s)) ∧
        (∀ z, d.stop = some z → Gives (.ergRecordSend x) s (fun t => t = d.s.firmwareStop x z)) ∧
        (∀ z, d.stop = none → v.copyQuery (s.rootOf x) qd = .error z → Gives (.ergRecordSend x) s (fun t => t = v.firmwareStop x z))) ∧
      (r.op = erAttn → s.attnBusy = true → Gives (.ergRecordSend x) s (fun t => t = s))) ∧
    (∀ x, (s.ctx x).run ≠ .running ∨ (s.launchOf x).kind ≠ 1 ∨ s.ergOf x (s.ctx x).ergSent = none →
      Gives (.ergRecordSend x) s (fun t => t = s)) ∧
    (∀ k e q, k < 12 → s.live = true → s.ergFailed k = false → (s.stack k).queue = e :: q →
      Gives (.ergOpTimeout k) s (fun t => Shows t (Reg.ERG_STATUS k) Fld.ERG_STATUS_STATE 3 ∧ Shows t (Reg.ERG_STATUS k) Fld.ERG_STATUS_CAUSE 1 ∧
        (t.ctx e.ctx).run ≠ .running ∧ (t.stack k).queue = [] ∧ ((s.ctx e.ctx).run = .running → e ∉ (t.stack k).onCores))) ∧
    (∀ k, s.live = false ∨ s.ergFailed k = true ∨ (s.stack k).queue = [] → Gives (.ergOpTimeout k) s (fun t => t = s)) ∧
    (∀ k off n, k < 12 → off < 2 ^ 36 → s.live = true →
      let a := k * 2 ^ 36 + off / 64 * 64
      let entry := 2 ^ 63 + 3 * 2 ^ 60 + pchOf a * 2 ^ 54 + a
      (a / 64 ∉ s.badAcc → a / 64 ∉ s.softAcc → Gives (.hbmPatrol k off n) s (fun t =>
        Shows t (Reg.HBM_ODECC_CNT k) Fld.HBM_ODECC_CNT_COUNT (s.fld (Reg.HBM_ODECC_CNT k) Fld.HBM_ODECC_CNT_COUNT + n) ∧ OnlyRegs s t ∧
        ∀ b, b ≠ Reg.HBM_ODECC_CNT k → t.reg b = s.reg b)) ∧
      (a / 64 ∉ s.badAcc → s.softAcc.filter (fun y => y == a / 64) = [a / 64] → Gives (.hbmPatrol k off n) s (fun t =>
        Shows t (Reg.HBM_ODECC_CNT k) Fld.HBM_ODECC_CNT_COUNT (s.fld (Reg.HBM_ODECC_CNT k) Fld.HBM_ODECC_CNT_COUNT + n) ∧
        Shows t (Reg.HBM_ECC_CNT k) Fld.HBM_ECC_CNT_CE (s.fld (Reg.HBM_ECC_CNT k) Fld.HBM_ECC_CNT_CE + 1) ∧
        t.softAcc = s.softAcc.filter (fun y => y != a / 64) ∧ { t with regs := s.regs, softAcc := s.softAcc } = s ∧
        ∀ b, b ≠ Reg.HBM_ODECC_CNT k → b ≠ Reg.HBM_ECC_CNT k → t.reg b = s.reg b)) ∧
      (a / 64 ∈ s.badAcc → (s.stack k).ues + 1 < s.conf.hbmBudget → Gives (.hbmPatrol k off n) s (fun t =>
        Shows t (Reg.HBM_ODECC_CNT k) Fld.HBM_ODECC_CNT_COUNT (s.fld (Reg.HBM_ODECC_CNT k) Fld.HBM_ODECC_CNT_COUNT + n) ∧
        Shows t (Reg.HBM_ECC_CNT k) Fld.HBM_ECC_CNT_UE (s.fld (Reg.HBM_ECC_CNT k) Fld.HBM_ECC_CNT_UE + 1) ∧
        (s.fld (Reg.HBM_ECC_LOG k) Fld.HBM_ECC_LOG_VALID = 0 → t.reg (Reg.HBM_ECC_LOG k) = entry) ∧
        (s.fld (Reg.HBM_ECC_LOG k) Fld.HBM_ECC_LOG_VALID = 1 → t.reg (Reg.HBM_ECC_LOG k) = s.reg (Reg.HBM_ECC_LOG k)) ∧
        t.stack k = { s.stack k with ues := (s.stack k).ues + 1 } ∧ (∀ j, j ≠ k → t.stack j = s.stack j) ∧
        Shows t Reg.FLT_EVT_SEQ Fld.FLT_EVT_SEQ_NEXT (s.evSeq + 1) ∧ t.power = s.power ∧ t.ctxs = s.ctxs ∧ t.cores = s.cores))) ∧
    (∀ k, k < 12 → s.live = true → Gives (.pchNoResponse k) s WithdrawnTo) ∧
    (∀ k, 12 ≤ k ∨ s.live = false → Gives (.pchNoResponse k) s (fun t => t = s))

/-- With what stands in `w` the Swarm step awaits a further message (R449 to R451, R463). -/
def Sys2Proof.Machine.SwarmAwaits (w : Swarm) : Prop :=
  (w.phase = 1 ∨ w.phase = 7 ∨ (w.phase = 2 ∧ ∃ q ∈ w.shardBlocks w.pos, q ∉ w.reducedB) ∨ (w.phase = 3 ∧ ∃ q < w.r, tget none w.norms q = none) ∨
    (w.phase = 6 ∧ w.gathered = false)) ∧
    w.hopQ = [] ∧ ∀ c ∈ w.slots, c.issued = true ∨ ∃ q ≤ w.r, q ∉ c.from_

/-- The reduction staging queue of core `c` stands empty in a scratchpad region, with credits for `n` words (R299). -/
def Sys2Proof.Machine.StagingReady (s : State) (c n : Nat) : Prop :=
  let x := s.queue (qStaging c)
  s.stagingFits c n = true ∧ (s.qcfg (qStaging c)).kind ≠ 2 ∧ x.words = [] ∧ x.held = 0 ∧ x.mark = none

/-- SWARM_DIGEST, SWARM_PARTIAL, CHECK_COPY, SWARM_GATHER, READY, NORM, COMMITTED and SWARM_COMMIT_QUERY. A message that is taken or
discarded leaves its link slots (R466; `d`); one that comes while no run is live, or that finds no room, stays in them. A partial passes
through the reduction staging of the core that adds it (R300, R460; log 97). -/
def Obligations.SwarmMessages : Prop :=
  ∀ (s : State) (src : Nat) (h : SwarmHdr),
    let w := s.swarm
    let b := h.bucket
    let j := h.shard
    let k := h.block
    let anchor := (s.ctx w.ctx).anchor
    let d (type : Nat) : State := s.dropSwarm src type h
    let dg (e : Nat) : State := s.dropSwarm src 2 { h with bucket := e }
    let at_ := w.slotAt ((w.slotOf b j k).getD 0) + 4096 * ((h.sender + w.r - w.pos) % w.r - 1)
    (∀ n g, OnlyPorts s (s.dropSwarm src n g)) ∧
    (w.live = false → ∀ c, (∃ x, c = Instr.swarmPartial src h x) ∨ (∃ x, c = Instr.checkCopy src h x) ∨ (∃ e x, c = Instr.swarmGather src h e x) ∨
      c = Instr.ready src h ∨ (∃ q, c = Instr.norm src h q) → Gives c s (fun t => t = s)) ∧
    (w.live = true → w.current src h = false →
      (∀ x, Gives (.swarmPartial src h x) s (fun t => t = d 0)) ∧ (∀ x, Gives (.checkCopy src h x) s (fun t => t = d 1)) ∧
      (∀ e x, Gives (.swarmGather src h e x) s (fun t => t = dg e)) ∧ Gives (.ready src h) s (fun t => t = d 3) ∧
      (∀ q, Gives (.norm src h q) s (fun t => t = d 5))) ∧
    (∀ v : Word,
      (s.power ≠ .ready → Gives (.swarmDigest src h v) s (fun t => t = s)) ∧
      (s.power = .ready → w.live = false → Gives (.swarmDigest src h v) s (fun t =>
        t = { d 4 with digests := ⟨src, h.step, h.gen, v.toNat⟩ :: s.digests })) ∧
      (s.power = .ready → w.live = true →
        (h.step ≠ w.step % 2 ^ 32 ∨ h.gen ≠ w.gen → Gives (.swarmDigest src h v) s (fun t => t = d 4)) ∧
        (h.step = w.step % 2 ^ 32 → h.gen = w.gen →
          (v.toNat = w.digest → Gives (.swarmDigest src h v) s (fun t => t = (d 4).putSwarm { w with digests := h.sender :: w.digests })) ∧
          (v.toNat ≠ w.digest → Gives (.swarmDigest src h v) s (fun t => t = (d 4).fault w.ctx stFormat false
            (programError (islMantis 0) stFormat w.ctx (s.ctx w.ctx).stepNo noTile w.gen (s.launchOf w.ctx).swarmAddr none32 none32 none64)))))) ∧
    (w.current src h = true →
      (w.frozen = false → h.sender ∉ w.readys → Gives (.ready src h) s (fun t => t = (d 3).putSwarm { w with readys := h.sender :: w.readys })) ∧
      (w.frozen = true ∨ h.sender ∈ w.readys → Gives (.ready src h) s (fun t => t = d 3)) ∧
      (∀ q, w.norm = true → tget none w.norms h.sender = none →
        let w' := { w with norms := tput none w.norms h.sender (some q) }
        SwarmAwaits w' → Gives (.norm src h q) s (fun t => t = (d 5).putSwarm w' ∧ tget none t.swarm.norms h.sender = some q)) ∧
      (∀ q, w.norm = false ∨ tget none w.norms h.sender ≠ none → Gives (.norm src h q) s (fun t => t = d 5)) ∧
      (∀ data, w.awaits h = false → Gives (.swarmPartial src h data) s (fun t => t = d 0)) ∧
      (∀ data, w.awaits h = true →
        s.serving w.ctx = [] ∨ s.stagingFits (s.adder w (w.globalBlock b j k)) (ceilDiv data.length 64) = false →
        Gives (.swarmPartial src h data) s (fun t => t = s)) ∧
      (∀ data codes own root, w.mode = 0 → w.awaits h = true → s.serving w.ctx ≠ [] →
        let c := s.adder w (w.globalBlock b j k)
        let rs := w.codeReach w.p b j k ++ w.blockReach b j k
        let u := ((d 0).stage c data).lookReach c rs
        StagingReady s c (ceilDiv data.length 64) → s.coreRoot c = some root → u.blockCodes root w b j k = .ok codes →
        u.blockContribs root w b j k = .ok own →
        let o := w.hop (w.pos == j) codes h.escMask (decodeBlock h.fmt h.thinned h.escMask codes data) own
        let v := u.countConv c o.sat 0
        (w.pos ≠ j →
          let m := w.encode codes o.blks o.present
          let w' := { w with escs := w.escs + o.escs, hop1 := (b, j, k) :: w.hop1 }
          SwarmAwaits w' → Gives (.swarmPartial src h data) s (fun t =>
            t = ((v.swarmSend w w.next ⟨0, w.wire + 1, w.thin != 0, b, j, w.hopNo j, k, m.mask⟩ m.data).putSwarm w').unstage c)) ∧
        (w.pos = j → w.slotOf b j k = none →
          let vals := o.blks.flatMap (·.vals)
          let x := v.putOn c w.ctx root (w.reducedAt b k) ((vals.take (w.blockCount b j k)).flatMap (fun v => leBytes 4 v.toNat))
          let y := x.s.writeCodes c root w b k vals
          let w' := { w with reducedB := (b, j, k) :: w.reducedB }
          x.stop = none → y.stop = none → SwarmAwaits w' →
          Gives (.swarmPartial src h data) s (fun t => t = (y.s.putSwarm w').unstage c))) ∧
      (∀ data, let c := s.adder w (w.globalBlock b j k)
        let x := s.queue (qStaging c)
        let n := ceilDiv data.length 64
        let v := (s.stage c data).unstage c
        StagingReady s c n → (v.queue (qStaging c)).words = [] ∧ (v.queue (qStaging c)).held = 0 ∧
          (v.queue (qStaging c)).credits = x.credits - n ∧ (v.queue (qStaging c)).returns = x.returns + n ∧
          (v.queue (qStaging c)).wseq = x.wseq + n ∧ (∀ q, q ≠ qStaging c → v.queue q = s.queue q) ∧
          (∀ a, ¬ ReadsAndMeetings a → v.reg a = s.reg a) ∧
          { v with
            regs := s.regs, queues := s.queues, mem := s.mem, badBytes := s.badBytes, badAcc := s.badAcc, softAcc := s.softAcc
            spadAcc := s.spadAcc, free := s.free } = s) ∧
      (∀ data codes root, w.mode ≠ 0 → w.awaits h = true → s.serving w.ctx ≠ [] →
        let c := s.adder w (w.globalBlock b j k)
        let u := ((d 0).stage c data).lookReach c (w.codeReach w.p b j k)
        StagingReady s c (ceilDiv data.length 64) → s.coreRoot c = some root → u.blockCodes root w b j k = .ok codes →
        let g := accKey b j k
        let sum := ((tget [] w.accs g).zip (decodeBlock h.fmt h.thinned h.escMask codes data)).map (fun p => if p.2.2 then fadd p.1 p.2.1 else p.1)
        let w' := { w with accs := tput [] w.accs g sum, arrived := (b, j, k, h.sender) :: w.arrived }
        (∃ q ∈ w.others, (b, j, k, q) ∉ w'.arrived) → SwarmAwaits w' →
        Gives (.swarmPartial src h data) s (fun t => t = (u.putSwarm w').unstage c)) ∧
      (∀ data, w.hasBlock h = false ∨ j ≠ w.pos ∨ w.sampled b j k = false ∨ (b, j, k) ∈ w.checked →
        Gives (.checkCopy src h data) s (fun t => t = d 1)) ∧
      (∀ data, w.hasBlock h = true → j = w.pos → w.sampled b j k = true → (b, j, k) ∉ w.checked →
        (w.takeSlot b j k = none → Gives (.checkCopy src h data) s (fun t => t = s)) ∧
        (∀ i c root, w.slotOf b j k = some i → w.slots[i]? = some c →
          let e := (d 1).putOn anchor w.ctx root at_ (padTo 4096 data)
          let w' := w.modSlot i (fun c => { c with from_ := h.sender :: c.from_ })
          (h.sender ∈ c.from_ → Gives (.checkCopy src h data) s (fun t => t = d 1)) ∧
          (h.sender ∉ c.from_ → s.coreRoot anchor = some root → e.stop = none → SwarmAwaits w' →
            Gives (.checkCopy src h data) s (fun t => t = e.s.putSwarm w')))) ∧
      (∀ e data, h.sender ≠ w.prev ∨ w.r ≤ j ∨ j = w.pos ∨ (e, j, k) ∈ w.chunks → Gives (.swarmGather src h e data) s (fun t => t = dg e)) ∧
      (∀ e c data root, h.sender = w.prev → j < w.r → j ≠ w.pos → (e, j, k) ∉ w.chunks → w.shHandle = 0 → w.shadowQ = [] →
        (w.chunksOf_ j).find? (fun c => c.1 == e && c.2.1 == k) = some c → s.coreRoot anchor = some root →
        let u := (dg e).putOn anchor w.ctx root c.2.2.1 (padTo c.2.2.2 data)
        let w' := { w with chunks := (e, j, k) :: w.chunks }
        let v := (u.s.putSwarm w').readUp anchor c.2.2.1 c.2.2.2
        u.stop = none → SwarmAwaits w' →
        (w.next = j → Gives (.swarmGather src h e data) s (fun t => t = u.s.putSwarm w')) ∧
        (∀ bs, w.next ≠ j → v.readVa root c.2.2.1 c.2.2.2 = .ok bs → Gives (.swarmGather src h e data) s (fun t =>
          t = v.swarmSend w w.next ⟨2, 0, false, e, j, 0, k, 0⟩ bs)))) ∧
    (Gives (.committed src h) s (fun t => { t with shadowOf := s.shadowOf, takeover := s.takeover } = d 6 ∧
      t.shadowOf.length = s.shadowOf.length ∧ t.takeover.length = s.takeover.length ∧
      (∀ (i : Nat) k, s.takeover[i]? = some k →
        t.takeover[i]? = some (if k.id = src ∧ k.by_ = s.ownId then { k with copy := 1 - h.step % 2 } else k)) ∧
      ∀ (i : Nat) r, s.shadowOf[i]? = some r → ∃ r', t.shadowOf[i]? = some r' ∧ r'.1 = r.1 ∧ (r.1 ≠ src → r' = r) ∧
        (r.1 = src → r'.2.current = 1 - h.step % 2 ∧ r'.2.version % 2 ^ 32 = h.step % 2 ^ 32 ∧ r.2.version ≤ r'.2.version ∧
          r'.2.version < r.2.version + 2 ^ 32 ∧ { r'.2 with current := r.2.current, version := r.2.version } = r.2))) ∧
    (∀ v, s.power ≠ .ready → Gives (.swarmCommitQuery src h v) s (fun t => t = s)) ∧
    (s.power = .ready →
      Gives (.swarmCommitQuery src h .question) s (fun t => t = (d 7).sendMsg src 4 (laneOf (s.ctx w.ctx).cls 5)
        ({ w with step := h.step, gen := h.gen }.header (SwMsg.plain 7) 32 ++
          (if s.swarmDone.any (fun n => n % 2 ^ 32 == h.step) = true ∨
            (w.live = true ∧ w.step % 2 ^ 32 = h.step ∧ ∀ q < w.r, q ∈ w.readys) then 1 else 0) :: zeros 31)) ∧
      ((∀ r ∈ s.shadowOf, (s.member r.1).state = 1) →
        (∀ v, w.frozen = false ∨ w.current src h = false → Gives (.swarmCommitQuery src h (.answer v)) s (fun t => t = d 7)) ∧
        (w.frozen = true → w.current src h = true →
          Gives (.swarmCommitQuery src h (.answer true)) s (fun t =>
            t = (d 7).putSwarm { w with asked := (h.sender, true) :: w.asked, readys := List.range w.r }) ∧
          ((∀ a ∈ w.asked, a.2 = false) → (∃ q ∈ s.survivors w, q ≠ h.sender ∧ ∀ a ∈ w.asked, a.1 ≠ q) →
            Gives (.swarmCommitQuery src h (.answer false)) s (fun t =>
              t = (d 7).putSwarm { w with asked := (h.sender, false) :: w.asked })))) ∧
      (∀ r, s.shadowOf = [r] → (s.member r.1).state ≠ 1 → r.2.version % 2 ^ 32 ≠ h.step → w.frozen = false →
        Gives (.swarmCommitQuery src h (.answer true)) s (fun t => t = (d 7).shadowCommit r.1 h.step)) ∧
      (∀ e, (w.current src h = false → Gives (.swarmCommitQuery src h (.mismatch e)) s (fun t => t = d 7)) ∧
        (w.current src h = true → Gives (.swarmCommitQuery src h (.mismatch e)) s (fun t => t = (d 7).fault w.ctx stCheckMismatch true
          ⟨islMantis 0, evCheckFail, stCheckMismatch, w.ctx, (s.ctx w.ctx).stepNo, noTile, w.gen,
            leBytes 4 b ++ leBytes 2 j ++ leBytes 4 k ++ leBytes 4 e ++ leBytes 2 src⟩))))

/-- What agent `unit` writes into `spans` of a scratchpad has landed as in `v` (R186, R187; log 88): every byte outside the spans is as in
`s`, no register differs but the counters of meetings, and where no access of another agent noted in `s` meets the spans, the bytes are
those of `u` and nothing is counted. -/
def Sys2Proof.Machine.LandedAs (s t v u : State) (unit : SpadUnit) (spans : List (Nat × Nat)) : Prop :=
  t.mem = v.mem ∧ t.badBytes = v.badBytes ∧ t.badAcc = v.badAcc ∧ t.softAcc = v.softAcc ∧ t.spadAcc = v.spadAcc ∧ t.free = v.free ∧
    t.regs = v.regs ∧ (∀ a, (∀ r ∈ spans, a < r.1 ∨ r.1 + r.2 ≤ a) → t.byte a = s.byte a) ∧
    (∀ r, (∀ k, r ≠ Reg.SPAD_ROW_COLLIDE k) → t.reg r = s.reg r) ∧
    ((∀ k, ∀ x ∈ s.accesses k, x.unit ≠ unit → ∀ r ∈ spans, x.meets r.1 r.2 = []) → t.mem = u.mem ∧ t.regs = s.regs)

/-- ROWFN, DRAIN and KSPLIT_COMBINE. -/
def Obligations.DrainsAndRowFunctions : Prop :=
  ∀ (s : State) (c gi : Nat) (pf : Bool) (n : Next), (∀ k, (s.core k).lines = [] ∧ (s.core k).again = []) →
    let l := (s.launchOf n.x).view n.g
    let p := l.passAt n.g
    let key := l.outKey n.g.tile
    let x := s.ctx n.x
    let slot := x.slotFor key
    let votes := s.assured && l.prog.isMatrix
    let saw (a : Acc) : Bool := n.g.nonfin || (!n.g.audit && !a.int && a.f.any nonFinite)
    let others (t : State) : Prop := (∀ k, k ≠ c → t.core k = s.core k) ∧ (∀ k, k ≠ c → t.accesses k = s.accesses k) ∧
      { t with
        cores := s.cores, regs := s.regs, ctxs := s.ctxs, mem := s.mem, badBytes := s.badBytes, badAcc := s.badAcc, softAcc := s.softAcc
        spadAcc := s.spadAcc, free := s.free } = s
    let claimed (t : State) (y key : Nat) : Prop := (t.ctx y).slotFor key = ⟨(s.ctx y).gen, 1, c⟩ ∧
      (∀ k, k ≠ key → (t.ctx y).slotFor k = (s.ctx y).slotFor k) ∧ (∀ z, z ≠ y → t.ctx z = s.ctx z)
    let useMask := l.masked && gatedFn (rfFn n.w)
    let masks := l.bufRead c n.g (fA ((l.prog.first opMatch).getD 0)) (l.tm * bitmapWords l.chunkOut * 8)
    let rowReads := (if rfBias n.w || readsVector (rfFn n.w) then [l.vecRead c n.g (rfBiasBr n.w) (l.param (rfPset n.w)).vfmt 1] else []) ++
      (if useMask then [masks] else [])
    (IssuesAt s c gi pf opRowfn n → (s.launchOf n.x).isNop n.g pf (n.g.sect pf).pc n.w = false → n.g.audit = false →
      s.anyBad rowReads = false →
      let q := (s.launchOf n.x).passAt n.g
      let outs := s.rowfnOuts c l q n
      let vals := outs.mapIdx (fun r o =>
        if useMask then o.vals.mapIdx (fun j v => if bitmapBit (s.got masks) r l.chunkOut j then v else f32zero) else o.vals)
      let b := convert (l.slotDesc (rfSlot n.w)) l.chunkOut
        (vals.mapIdx (fun r v => (v, if l.rowLive q n.g.mb r then some (l.liveK2 q n.g.jb) else none)))
      let a := bufAddr c (l.buf n.g (rfOut n.w))
      let a2 := bufAddr c (l.buf n.g (fAs (l.prog.mma2After pf (n.g.sect pf).pc)))
      let scaled := isScaled (l.slotDesc (rfSlot n.w)).fmt
      let spans := (a, b.vals.length) :: (if scaled then [(a2, b.scales.length)] else [])
      let acc := (s.core c).acc1
      let m := ((s.countNonfin c gi n.g (s.core c).acc0).noteAcc c ⟨.drain, false, rowReads, n.g.own n.x pf⟩).countConv c b.sat b.nonfin
      let w := if scaled then (m.landAt .drain a b.vals).landAt .drain a2 b.scales else m.landAt .drain a b.vals
      Gives (.rowfn c gi pf) s (fun t => others t ∧ t.ctxs = s.ctxs ∧ m.mem = s.mem ∧
        LandedAs m t (w.noteAcc c ⟨.drain, true, spans, n.g.own n.x pf⟩)
          (if scaled then (m.store a b.vals).store a2 b.scales else m.store a b.vals) .drain spans ∧
        t.core c = withGrant { s.core c with acc1 :=
            (if rfFn n.w ≠ fnSoftmax then acc
            else if acc.int then ⟨true, [], ((acc.rowsI l.tm l.tn).zip outs).flatMap (fun r => r.1.map (fun v => rescaleInt v r.2.c))⟩
            else ⟨false, ((acc.rowsF l.tm l.tn).zip outs).flatMap (fun r => r.1.map (fun v => fmul v r.2.c)), []⟩) } gi
          (fun g => stepSect pf opRowfn id { g with rows := outs.map (·.st), nonfin := saw (s.core c).acc0 }))) ∧
    (IssuesAt s c gi pf opDrain n → (s.launchOf n.x).isNop n.g pf (n.g.sect pf).pc n.w = false →
      let acc := (s.core c).acc (l.outSet n.g)
      let carries := l.isPair && decide ((l.passCoord p).j + 1 < l.passes.j)
      let parts := drPartial n.w || decide (1 < l.kbs) || l.midK p
      let sweeps := decide (1 < l.sweeps) && l.sweepOf n.g.tile == 0
      let reads := biasReads c l n.g n.w
      let note (u : State) : State := u.noteAcc c ⟨.drain, false, reads, n.g.own n.x pf⟩
      let discards (u : State) (seen : Bool) (t : State) : Prop :=
        Shows t (Reg.DRAIN_DISCARD_CNT c) Fld.DRAIN_DISCARD_CNT_COUNT (s.fld (Reg.DRAIN_DISCARD_CNT c) Fld.DRAIN_DISCARD_CNT_COUNT + 1) ∧
        Shows t Reg.FLT_EVT_SEQ Fld.FLT_EVT_SEQ_NEXT (s.evSeq + 1) ∧ (∀ k, k ≠ c → t.core k = s.core k) ∧
        OnlyQueue u { t with cores := u.cores } qEvent [Reg.DRAIN_DISCARD_CNT c, Reg.FLT_EVT_SEQ, Reg.SPQ_DROP_CNT qEvent] ∧
        t.core c = withGrant (s.core c) gi (fun g => stepSect pf opDrain id
          { g with mute := true, drained := true, won := true, nonfin := if seen then saw acc else g.nonfin })
      let lays (va : Nat) (bs : List Byte) (seen release noted : Bool) : Prop := ∀ u, s.putVa c n.x va bs = .ok u →
        let ks := distinct (n.g.kb :: tget [] x.released key)
        let full := release && ks.length == (l.liveKbs p).length
        Gives (.drain c gi pf) s (fun t => others t ∧ t.spadAcc = (if noted then note s else s).spadAcc ∧ t.free = s.free ∧
          t.mem = u.mem ∧ t.badBytes = u.badBytes ∧ t.badAcc = u.badAcc ∧ t.softAcc = u.softAcc ∧ (∀ y, y ≠ n.x → t.ctx y = s.ctx y) ∧
          (∀ r, r ≠ Reg.XLT_MISS_CNT c → (r = Reg.CELL_NONFIN_TILE_CNT c → seen = false) → t.reg r = s.reg r) ∧
          (release = true → tget [] (t.ctx n.x).released key = ks) ∧
          t.ctx n.x = { u.ctx n.x with
            released := if release then (t.ctx n.x).released else x.released
            combines := if full then key :: x.combines else x.combines } ∧
          t.core c = withGrant { s.core c with tlb := (t.core c).tlb } gi (fun g => stepSect pf opDrain id
            { g with mute := true, drained := true, won := true, nonfin := if seen then saw acc else g.nonfin,
                     stands := g.stands || release, combine := g.combine || full }))
      (n.g.gen ≠ x.gen → Gives (.drain c gi pf) s (discards s false)) ∧
      (n.g.gen = x.gen → votes = false → carries = true →
        lays (l.carryVa n.g.mb n.g.nb) (carryBytes l.tm l.tn (s.core c).acc1 ++ rowStateBytes l.tm n.g) true false false) ∧
      (n.g.gen = x.gen → votes = false → carries = false → parts = true → (l.hasFactor = true → s.anyBad reads = false) →
        lays (l.partVa n.g.mb n.g.nb n.g.kb) (s.partBytes c l n.g n.w) true (decide (1 < l.kbs)) l.hasFactor) ∧
      (n.g.gen = x.gen → votes = false → l.isPair = false → parts = false → sweeps = true → s.anyBad reads = false →
        lays (l.carryVa n.g.mb n.g.nb + 16384)
          (rowStateBytes l.tm { n.g with rows := sweepStates l n.g n.w (s.biased c l n.g n.w (s.drainRows c l n.g n.w)) }) true false true) ∧
      (n.g.gen = x.gen → carries = false → parts = false → sweeps = false →
        let b := s.outputOf c l n.g n.w (if 1 < l.sweeps then some n.g.rows else none)
          (if acc.int && !l.hasFactor then some (acc.rowsI l.tm l.tn) else none) (s.drainRows c l n.g n.w)
        let runs := l.outRuns c n.g n.w b
        let m := note ((s.countNonfin c gi n.g acc).countConv c b.sat b.nonfin)
        m.mem = s.mem ∧
        (slot.state = 1 → slot.core ≠ c → s.fenced slot.core = false → Gives (.drain c gi pf) s (fun t => t = s)) ∧
        (slot.state = 2 → votes = false → s.anyBad reads = false → Gives (.drain c gi pf) s (discards m true)) ∧
        (slot.state ≠ 2 → (slot.state = 1 → slot.core = c ∨ s.fenced slot.core = true) → s.anyBad reads = false →
          (votes = false → Gives (.drain c gi pf) s (fun t => others t ∧
            LandedAs m t (m.landRuns c .drain (n.g.own n.x false) runs) (m.putRuns runs) .drain (runs.map BitRun.bytes) ∧
            claimed t n.x key ∧ t.ctx n.x = { x with slots := (t.ctx n.x).slots } ∧
            t.core c = withGrant (s.core c) gi (fun g => stepSect pf opDrain id { g with drained := true, won := true, nonfin := saw acc }))) ∧
          (votes = true → x.votesOf n.g.tile = [] → Gives (.drain c gi pf) s (fun t => others t ∧ t.regs = m.regs ∧
            t.mem = s.mem ∧ t.badBytes = s.badBytes ∧ t.badAcc = s.badAcc ∧ t.softAcc = s.softAcc ∧ t.free = s.free ∧ t.spadAcc = m.spadAcc ∧
            (t.ctx n.x).votesOf n.g.tile = [⟨signature n.g.tile n.g.gen b.bytes, c, n.g.copy⟩] ∧
            (∀ k, k ≠ n.g.tile → (t.ctx n.x).votesOf k = x.votesOf k) ∧ t.ctx n.x = { x with votes := (t.ctx n.x).votes } ∧
            (∀ y, y ≠ n.x → t.ctx y = s.ctx y) ∧
            t.core c = withGrant (s.core c) gi (fun g => stepSect pf opDrain id
              { g with mute := true, drained := true, stands := true, won := false, nonfin := saw acc })))))) ∧
    (∀ g x ps, (s.core c).ctx = some x → (s.ctx x).run = .running → (s.core c).grants = [g] → g.combines (s.launchOf x) = true →
      s.partialsServed c (s.launchOf x) g = true →
      let l := (s.launchOf x).view g
      let w := (l.prog.first opDrain).getD 0
      let key := l.outKey g.tile
      let slot := (s.ctx x).slotFor key
      let reads := biasReads c l g w
      let first := decide (1 < l.sweeps) && l.sweepOf g.tile == 0
      g.gen = (s.ctx x).gen → s.anyBad reads = false → l.isPair = false → s.partials c l g = .ok ps →
      let acc := addParts l.intTile ps
      let left (f : Grant → Grant) (t : State) : Core := { s.core c with
        tlb := (t.core c).tlb
        grants := [f { g with
          drained := true, merged := true, issued := true, wdog := true
          cp := if g.relist then { g.cp with pc := g.cp.pc + 1, seq := g.cp.seq + 1 } else g.cp }] }
      (first = false → slot.state ≠ 2 → (slot.state = 1 → slot.core = c ∨ s.fenced slot.core = true) →
        let b := s.outputOf c l g w (if 1 < l.sweeps then some g.rows else none) (if acc.int then some (acc.rowsI l.tm l.tn) else none)
          (acc.rowsF l.tm l.tn)
        let runs := l.outRuns c g w b
        let m := ((s.lookPartials c l g).countConv c b.sat b.nonfin).noteAcc c ⟨.vector, false, reads, g.own x false⟩
        m.mem = s.mem ∧ (∀ r, r ≠ Reg.XLT_MISS_CNT c → ¬ ReadsAndMeetings r → m.reg r = (s.countConv c b.sat b.nonfin).reg r) ∧
        Gives (.ksplitCombine c) s (fun t => others t ∧
          LandedAs m t (m.landRuns c .vector (g.own x false) runs) (m.putRuns runs) .vector (runs.map BitRun.bytes) ∧ claimed t x key ∧
          t.ctx x = { s.ctx x with slots := (t.ctx x).slots, combines := (s.ctx x).combines.filter (fun k => k != key) } ∧
          t.core c = left (fun g => { g with won := true, mute := false }) t)) ∧
      (∀ u, first = true →
        s.putVa c x (l.carryVa g.mb g.nb + 16384)
          (rowStateBytes l.tm { g with rows := sweepStates l g w (s.biased c l g w (acc.values l.tm l.tn)) }) = .ok u →
        Gives (.ksplitCombine c) s (fun t => others t ∧ t.mem = u.mem ∧
          (∀ r, r ≠ Reg.XLT_MISS_CNT c → ¬ ReadsAndMeetings r → t.reg r = s.reg r) ∧
          t.ctx x = { u.ctx x with combines := (s.ctx x).combines.filter (fun k => k != key) } ∧ (∀ y, y ≠ x → t.ctx y = s.ctx y) ∧
          t.core c = left (fun g => { g with mute := true }) t))) ∧
    (∀ g x, (s.core c).ctx = some x → (s.ctx x).run = .running → (s.core c).grants = [g] → g.combines (s.launchOf x) = true →
      s.partialsServed c (s.launchOf x) g = false → Gives (.ksplitCombine c) s (fun t => t = s)) ∧
    (∀ x, (s.core c).ctx = some x → (s.ctx x).run ≠ .running ∨ (s.core c).grants = [] → Gives (.ksplitCombine c) s (fun t => t = s))

/-- PRUNE_REQUEST, and the choice of R99. -/
def Obligations.Pruning : Prop :=
  (∀ (s : State) (c x req : Nat), (s.core c).ctx = some x → (s.ctx x).run = .running →
    let sw := s.swarm.live && s.swarm.ctx == x
    (sw = true → s.swarm.phase = 5 ∧ req = s.swarm.prune + 64 * s.swarm.pruned) →
    let stops (t : State) (z : Stop) : State := t.stopBy c x noTile (s.ctx x).gen 0 req 0 z
    (s.coreRoot c = none → Gives (.pruneRequest c req) s (fun t => t = stops s (.xlt 5 req 0 0))) ∧
    (∀ root, s.coreRoot c = some root →
      let u := s.lookPrune c root req
      (∀ z, s.loadPrune root req = .error z → Gives (.pruneRequest c req) s (fun t => t = stops u z)) ∧
      (∀ q, s.loadPrune root req = .ok q →
        let v := u.lookReach c q.src.reachRead
        (∀ z, s.pruneWrites root q = .error z → Gives (.pruneRequest c req) s (fun t => t = stops v z)) ∧
        (∀ o z d, s.pruneWrites root q = .ok o → (v.countConv c o.sat o.nonfin).putWeevils c x root o.writes = d → d.stop = some z →
          Gives (.pruneRequest c req) s (fun t => t = stops (d.s.countOob c d.oob) z)) ∧
        (∀ o, s.pruneWrites root q = .ok o → let d := (v.countConv c o.sat o.nonfin).putWeevils c x root o.writes
          d.stop = none →
          Gives (.pruneRequest c req) s (fun t => ∃ w : Nat → State, w 0 = v.countConv c o.sat o.nonfin ∧
            (∀ i e, o.writes[i]? = some e → ((w i).putWeevil c x root e).stop = none ∧ w (i + 1) = ((w i).putWeevil c x root e).s) ∧
            let r := (w o.writes.length).countOob c d.oob
            t = (if sw then (r.putSwarm { s.swarm with pruned := s.swarm.pruned + 1 }).swarmAdvance else r) ∧
            (∀ y, y ≠ x → r.ctx y = s.ctx y) ∧ r.ctx x = { s.ctx x with wrote := (r.ctx x).wrote } ∧
            (∀ k, k ≠ c → r.core k = s.core k) ∧ r.core c = { s.core c with tlb := (r.core c).tlb } ∧
            (∀ g, g ≠ Reg.XLT_MISS_CNT c → g ≠ Reg.DESC_OOB_WR_CNT c → ¬ ReadsAndMeetings g →
              r.reg g = (s.countConv c o.sat o.nonfin).reg g) ∧
            { r with
              ctxs := s.ctxs, cores := s.cores, regs := s.regs, mem := s.mem, badBytes := s.badBytes, badAcc := s.badAcc
              softAcc := s.softAcc } = s))))) ∧
  (∀ (s : State) (c req : Nat), ((s.core c).ctx = none ∨ (∃ x, (s.core c).ctx = some x ∧ (s.ctx x).run ≠ .running) ∨
      (∃ x, (s.core c).ctx = some x ∧ s.swarm.live = true ∧ s.swarm.ctx = x ∧ (s.swarm.phase ≠ 5 ∨ req ≠ s.swarm.prune + 64 * s.swarm.pruned))) →
    Gives (.pruneRequest c req) s (fun t => t = s)) ∧
  (∀ (n : Nat) (xs : List F32),
    (keptOf n xs).length = min n xs.length ∧ (keptOf n xs).Pairwise (· < ·) ∧
    ∀ i j, i ∈ keptOf n xs → j < xs.length → j ∉ keptOf n xs →
      pruneKey (nth 0 xs j) < pruneKey (nth 0 xs i) ∨ (pruneKey (nth 0 xs j) = pruneKey (nth 0 xs i) ∧ i < j)) ∧
  (∀ (q : NmShape) (xs : List F32), 0 < q.m → (pruneRow q xs).vals.length = xs.length ∧
    (pruneRow q xs).groups.length = (xs.length + q.m - 1) / q.m ∧
    ∀ p, p < xs.length → nth 0 (pruneRow q xs).vals p =
      if (p % q.m) ∈ keptOf q.n ((xs.drop (p / q.m * q.m)).take q.m) then nth 0 xs p else f32zero)

/-- POWER_SAMPLE, LOCKSTEP_MISMATCH, MANTIS_HEARTBEAT, MANTIS_FAILOVER, BRIDGE_FAILURE, SCRUB_DONE, HBM_PATROL and PCH_NO_RESPONSE
complete. -/
def Obligations.ModuleEventsComplete : Prop :=
  ∀ s : State,
    (∀ vin iin pavg windowEnd t0 t1 stackTemps cyc, s.power = .ready → 4500 ≤ vin → vin ≤ 5700 → (∀ x ∈ t0, x < 115) → (∀ x ∈ t1, x < 115) →
      (∀ x ∈ stackTemps, x ≤ 100) →
      Gives (.powerSample vin iin pavg windowEnd t0 t1 stackTemps cyc none) s (fun t =>
        Shows t Reg.HMD_PWR_STAT Fld.HMD_PWR_STAT_VIN vin ∧ Shows t Reg.HMD_PWR_STAT Fld.HMD_PWR_STAT_IIN iin ∧
        Shows t Reg.HMD_PWR_STAT Fld.HMD_PWR_STAT_PIN pavg ∧ t.power = .ready)) ∧
    (∀ cause cyc, cause = 3 ∨ cause = 4 → s.fld Reg.HMD_TRIP_LOG Fld.HMD_TRIP_LOG_VALID = 0 →
      (s.power = .hold → Gives (.lockstepMismatch cause cyc) s (fun t =>
        t = s.putReg Reg.HMD_TRIP_LOG (2 ^ 63 + cause * 2 ^ 60 + cyc % 2 ^ 40))) ∧
      (s.power ≠ .off → s.power ≠ .hold → Gives (.lockstepMismatch cause cyc) s WithdrawnTo)) ∧
    (∀ m, s.live = true → m < 16 → s.mantisFenced m = false → Gives (.mantisHeartbeat m) s (fun t =>
      t = { s with hmd := { s.hmd with heard := m :: s.hmd.heard.filter (fun k => k != m) } })) ∧
    (∀ m k, s.live = true → m < 16 → s.mantisFenced m = false → k / 8 = m / 8 → k ≠ m → s.mantisFenced k = false →
      (∀ x, x < 16 → (s.ctx x).run ≠ .running) → Gives (.mantisFailover m) s (fun t => t.mantisFenced m = true ∧ t.power = s.power)) ∧
    (∀ retries trainFail, s.live = true → 8 ≤ retries ∨ trainFail = true → Gives (.bridgeFailure retries trainFail) s WithdrawnTo) ∧
    (s.hmd.scrub ≠ [] → Gives .scrubDone s (fun t => t.hmd.scrub = [] ∧ ∀ b ∈ t.wadi.bulkWr, b.landed = true)) ∧
    (∀ k off n, k < 12 → off < 2 ^ 36 → s.live = true → (k * 2 ^ 36 + off / 64 * 64) / 64 ∉ s.badAcc → (k * 2 ^ 36 + off / 64 * 64) / 64 ∉ s.softAcc →
      Gives (.hbmPatrol k off n) s (fun t => t = s.bump (Reg.HBM_ODECC_CNT k) Fld.HBM_ODECC_CNT_COUNT n)) ∧
    (∀ k, k < 12 → s.live = true → Gives (.pchNoResponse k) s WithdrawnTo)

/-- CORE_FENCE, SLICE_BOUNDARY, CORE_MOVE, STEP_LAUNCH, STEP_REPLAY and STEP_COMMIT complete. -/
def Obligations.SchedulingCompletes : Prop :=
  ∀ (s : State) (x : Nat), x < 16 →
    let quiet := ∀ k, k < 288 → (s.core k).lines = [] ∧ (s.core k).again = []
    let readable (l : Launch) (u : State) : Prop := l.kind = 0 → ∀ k ∈ s.serving x, (s.core k).resident x l.prog = true ∨
      ∃ b, (u.setRoot k x).readBy k (l.prog.addr + l.prog.opOff 0) (8 * l.prog.ops.length) = .ok b
    let starts (v : State) (l : Launch) (u : State) : Prop := s.ready = true ∧ (s.ctx x).live = true ∧ s.rebuilding (s.ctx x).group = false ∧
      s.lenderGone (s.ctx x).group = none ∧ s.needsGone x l = none ∧ (v.mend (fun s => s.prepareRun x l)).prepareRun x l = .ok u ∧
      s.windowBreach x l = none ∧ readable l u
    let runs (l : Launch) (t : State) : Prop := (t.ctx x).run = .running ∧ (t.ctx x).launch = some l
    (∀ c reason, quiet → s.live = true → c < 288 → reason = 1 ∨ reason = 2 → s.fenced c = false → (s.setFence c).tooFewCores = false →
      tget [] s.ant (c / 12) = [] → (s.core c).testReq = [] →
      Gives (.coreFence c reason) s (fun t => t.fenced c = true ∧ (t.core c).ctx = none ∧ t.power = s.power)) ∧
    (quiet → s.ready = true → (∀ y < 16, (s.ctx y).run ≠ .running) → (∀ k < 288, (s.core k).test = 0) →
      Gives .sliceBoundary s (fun t => (∀ c, c < 288 → s.usable c = true → s.headed c ≠ none → (t.core c).moveTo = none) ∧
        { t with cores := s.cores } = s)) ∧
    (∀ c, c < 288 → (s.core c).moving = true → (s.core c).grants = [] → (s.core c).ctx = none →
      ((s.core c).moveTo = none → Gives (.coreMove c) s (fun t => OnlyCore s t c ∧ (t.core c).moving = false ∧ (t.core c).cache = [])) ∧
      (quiet → (s.core c).moveTo = some x → (s.ctx x).live = true → s.canServe c x = true → (s.ctx x).run ≠ .running →
        Gives (.coreMove c) s (fun t => (t.core c).ctx = some x ∧ (t.core c).moving = false))) ∧
    (∀ l u d r rest, let m := s.mend (fun s => s.launchDesc r)
      let v := m.mend (fun s => s.loadStep x r d)
      starts v l u → s.wadi.testing = false → (s.ctx x).run = .idle → (s.group (s.ctx x).group).ending = false →
      (s.ctx x).queue = r :: rest → m.launchDesc r = .ok d → d.check = .ok () → r.bad = false → s.waitMet d = true → d.kind < 2 →
      v.loadStep x r d = .ok (l, none) → Gives (.stepLaunch x) s (fun t => runs l t ∧ (t.ctx x).queue = rest)) ∧
    (∀ l u, starts s l u → (s.ctx x).run = .aborted → (s.ctx x).launch = some l → l.swarmAddr = 0 → Gives (.stepReplay x) s (runs l)) ∧
    (∀ tokens l, (s.ctx x).launch = some l → (s.ctx x).run = .running → s.mayCommit x l = true → (s.preCommit x l).stop = none →
      (s.ctx x).remote = [] → (s.group (s.ctx x).group).mcasts = [] → (s.group (s.ctx x).group).ending = false → l.mcast = 0 → l.swarmAddr = 0 →
      (∀ k, (s.core k).test ≠ 3) → l.pred = none →
      Gives (.stepCommit x tokens) s (fun t => (t.ctx x).run = .idle ∧ (t.ctx x).launch = none ∧ (t.ctx x).stepNo = (s.ctx x).stepNo + 1))

/-- GRANT_REQUEST, GRANT_ARRIVAL, TILE_START, TILE_END and TILE_WDOG_EXPIRY complete. -/
def Obligations.TilesComplete : Prop :=
  ∀ (s : State) (c x : Nat), c < 288 → x < 16 → (s.core c).ctx = some x → (s.ctx x).run = .running → s.swarm.live = false →
    let l := s.launchOf x
    let quiet := ∀ j, j < 288 → (s.core j).lines = [] ∧ (s.core j).again = []
    (∀ n rest, (s.core c).grants = [] → l.kind = 0 → l.unrun = false → (s.core c).moving = false → s.fenced c = false → s.assured = false →
      (s.ctx x).reissue = [] → (s.ctx x).cur = n :: rest → n < (s.ctx x).base + l.perPass →
      Gives (.grantRequest c) s (fun t => (t.ctx x).cur = (n + 1) :: rest ∧ (∃ g : Grant, (t.core c).grants = [g] ∧ g.tile = n ∧ g.arrived = false))) ∧
    (∀ g, (s.core c).grants = [g] → l.isPair = false → g.audit = false → g.relist = false →
      (l.bins = none → g.arrived = false → (l.view { g with binRows := [] }).skips g.tile = false →
        Gives (.grantArrival c) s (fun t => ∃ h, (t.core c).grants = [h] ∧ h.arrived = true ∧ h.tile = g.tile)) ∧
      (g.arrived = true → g.running = false → (s.core c).moving = false → l.sweeps ≤ 1 →
        Gives (.tileStart c 0) s (fun t => (t.core c).grants = [{ g with running := true, set := 0 }] ∧ OnlyCore s t c)) ∧
      (g.complete l = true → g.stands = false → quiet → l.passCount * l.sweeps ≤ (s.ctx x).passIdx l + 1 →
        Gives (.tileEnd c 0) s (fun t => (t.core c).grants = [] ∧ g.tile ∈ (t.ctx x).done ∧
          Shows t (Reg.SEQ_TILE_CNT c) Fld.SEQ_TILE_CNT_COUNT (s.fld (Reg.SEQ_TILE_CNT c) Fld.SEQ_TILE_CNT_COUNT + 1))) ∧
      (g.wdog = true → g.complete l = false → g.drained = false → g.stands = false → g.gen = (s.ctx x).gen → quiet → tget [] s.ant (c / 12) = [] →
        tget 0 (s.ctx x).expiries g.tile = 0 →
        Gives (.tileWdogExpiry c 0) s (fun t => (t.core c).grants = [] ∧ tget 0 (t.ctx x).expiries g.tile = 1 ∧ (t.ctx x).run = .running)))

/-- STREAM_READ_RESPONSE, WINDOW_READ_RESPONSE, STRM_RESP_TIMEOUT, MEMORY_WRITE_ACK, LOAD_COMPLETE and STORE_COMPLETE complete. When a
controller serves a request is log 99. -/
def Obligations.StreamAnswersComplete : Prop :=
  ∀ (s : State) (c : Nat),
    let x := s.core c
    (∀ id ep r o, x.tracker id ep = some r → x.opOf r.piece.op = some o → x.busy = 0 → EngineStill s c →
      let p := r.piece
      let at_ := p.dst / 8
      let n := (p.dst % 8 + p.nbits + 7) / 8
      p.ant = false → p.meta_ = false → p.more = [] → 0 < p.nbits → (∀ i < n, isMemory (at_ + i) = true) →
      (∀ y ∈ s.accesses (spadCore at_), y.meets at_ n = []) →
      (p.win = 0 → s.mayServe r.pa (.read c r.id r.epoch) = true → s.firstUe (r.pa + p.sbit / 8) ((p.sbit % 8 + p.nbits + 7) / 8) = none →
        Gives (.streamReadResponse c id ep none) s (fun t => t.getBits (p.dst / 8) (p.dst % 8) p.nbits = s.getBits r.pa p.sbit p.nbits ∧
          (t.core c).rd = x.rd.filter (fun q => q.id != r.id))) ∧
      (∀ src data, p.win ≠ 0 → data.length = (unitsOf p.sbit p.nbits).2 →
        Gives (.windowReadResponse src c id ep ⟨stOk, data⟩) s (fun t =>
          t.getBits (p.dst / 8) (p.dst % 8) p.nbits = ofLE data / 2 ^ (p.sbit % 256) % 2 ^ p.nbits ∧
          (t.core c).rd = x.rd.filter (fun q => q.id != r.id)))) ∧
    (∀ id r o, id < 576 → x.rd.find? (fun r => r.id == id) = some r → x.opOf r.piece.op = some o → (s.ctx o.ctx).gen = o.gen →
      Gives (.strmRespTimeout c id) s (fun t => t = s.streamStop c o.ctx o.tile o.gen 5 o.stream r.pa r.piece.tag)) ∧
    (∀ w ws, x.wr = w :: ws → w.piece.win = 0 → s.swarm.live = false → s.noUrgent w.pa = true → EngineStill s c → (s.ctx w.ctx).gen = w.gen →
      0 < w.piece.nbits → (∀ i < (w.piece.sbit % 8 + w.piece.nbits + 7) / 8, isMemory (w.pa + w.piece.sbit / 8 + i) = true) →
      Gives (.memoryWriteAck c) s (fun t => (t.core c).wr = ws ∧
        t.getBits w.pa w.piece.sbit w.piece.nbits = w.piece.val % 2 ^ w.piece.nbits)) ∧
    (∀ o, x.ops = [o] → o.held = false → o.sent = true → x.lines = [] → x.again = [] → (∀ r ∈ x.rd, r.piece.op ≠ o.id) →
      (∀ k ∈ x.packs, k.op ≠ o.id) → s.antWaits c o.id = false →
      (o.write = false → o.mask = false → Gives (.loadComplete c) s (fun t => (t.core c).ops = [] ∧ OnlyCore s t c)) ∧
      (o.write = true → (∀ w ∈ x.wr, w.piece.op = o.id → w.piece.win ≠ 0) → (∀ g ∈ x.grants, g.drained = false) →
        Gives (.storeComplete c) s (fun t => (t.core c).ops = [] ∧ OnlyCore s t c)))

/-- CACHE_FILL, TABLE_WALK, ANT_ROW_ARRIVAL and STREAM_CANCEL complete. When a controller serves a request is log 99. -/
def Obligations.StreamFillsComplete : Prop :=
  ∀ (s : State) (c : Nat), c < 288 →
    let x := s.core c
    (∀ line, line ∈ x.misses → s.mayServe line (.fill c line) = true → s.firstUe line 128 = none → EngineStill s c →
      Gives (.cacheFill c line) s (fun t => (t.core c).misses = x.misses.filter (fun m => m != line) ∧ ∀ k, k ≠ c → t.core k = s.core k)) ∧
    (∀ w rest e, x.walks = w :: rest → w.stale = false → s.mayServe (s.walkAt c w.vpn) (.walk c w.vpn) = true → EngineStill s c →
      s.fld (Reg.XLT_ROOT c) Fld.XLT_ROOT_ENABLE = 1 →
      (∀ a ∈ s.walkReads (s.fld (Reg.XLT_ROOT c) Fld.XLT_ROOT_ROOT * 2 ^ 17) (w.vpn * 2 ^ 21), s.firstUe a 8 = none) →
      s.walk (s.fld (Reg.XLT_ROOT c) Fld.XLT_ROOT_ROOT * 2 ^ 17) (w.vpn * 2 ^ 21) = .ok e →
      Gives (.tableWalk c) s (fun t => (t.core c).tlb.head? = some ⟨s.fld (Reg.XLT_ROOT c) Fld.XLT_ROOT_CTX, w.vpn, e⟩ ∧
        t.mem = s.mem ∧ ∀ k, k ≠ c → t.core k = s.core k)) ∧
    (∀ row (e : AntEntry) (y : Taker) bs, tget [] s.ant (c / 12) = [e] → e.takers.filter (fun k => k.core == c && !e.landed.contains (k, row)) = [y] →
      e.rows.find? (fun r => r.1 == row) = some (row, bs) → (∀ i < bs.length, isMemory (y.base + 128 * row + i) = true) →
      (∀ z ∈ s.accesses (spadCore (y.base + 128 * row)), z.meets (y.base + 128 * row) bs.length = []) →
      Gives (.antRowArrival c row false) s (fun t => ∀ i < bs.length, t.byte (y.base + 128 * row + i) = nth 0 bs i)) ∧
    (tget [] s.ant (c / 12) = [] → (∀ k, k < 288 → (s.core k).lines = [] ∧ (s.core k).again = []) → (∀ r ∈ x.rd, ∃ o ∈ x.ops, o.id = r.piece.op) →
      (∀ r ∈ x.prog, ∃ o ∈ x.ops, o.id = r.op) → (∀ k ∈ x.packs, ∃ o ∈ x.ops, o.id = k.op) → x.busy = 0 →
      Gives (.streamCancel c) s (fun t => (t.core c).ops = [] ∧ (t.core c).rd = [] ∧ (t.core c).prog = none ∧
        Shows t (Reg.STRM_CANCEL_CNT c) Fld.STRM_CANCEL_CNT_COUNT (s.fld (Reg.STRM_CANCEL_CNT c) Fld.STRM_CANCEL_CNT_COUNT + 1)))

/-- ROWFN, DRAIN, KSPLIT_COMBINE and PRUNE_REQUEST complete. -/
def Obligations.RowsComplete : Prop :=
  (∀ (s : State) (c gi : Nat) (pf : Bool) (n : Next), (∀ k, (s.core k).lines = [] ∧ (s.core k).again = []) →
    let l := (s.launchOf n.x).view n.g
    let x := s.ctx n.x
    let slot := x.slotFor (l.outKey n.g.tile)
    (IssuesAt s c gi pf opRowfn n → (s.launchOf n.x).isNop n.g pf (n.g.sect pf).pc n.w = false → n.g.audit = false → l.masked = false →
      rfBias n.w = false → readsVector (rfFn n.w) = false → isScaled (l.slotDesc (rfSlot n.w)).fmt = false →
      let outs := s.rowfnOuts c l ((s.launchOf n.x).passAt n.g) n
      let a := bufAddr c (l.buf n.g (rfOut n.w))
      let b := convert (l.slotDesc (rfSlot n.w)) l.chunkOut (outs.mapIdx (fun r o =>
        (o.vals, if l.rowLive ((s.launchOf n.x).passAt n.g) n.g.mb r then some (l.liveK2 ((s.launchOf n.x).passAt n.g) n.g.jb) else none)))
      (∀ i < b.vals.length, isMemory (a + i) = true) →
      (∀ y ∈ s.accesses (spadCore a), y.unit ≠ .drain → y.meets a b.vals.length = []) →
      Gives (.rowfn c gi pf) s (fun t => (∀ i < b.vals.length, t.byte (a + i) = nth 0 b.vals i) ∧
        ∃ g, t.grantAt c gi = some g ∧ g.rows = outs.map (·.st) ∧ (g.sect pf).pc = (n.g.sect pf).pc + 1)) ∧
    (IssuesAt s c gi pf opDrain n → (s.launchOf n.x).isNop n.g pf (n.g.sect pf).pc n.w = false → n.g.gen = x.gen → s.assured = false →
      l.isPair = false → drPartial n.w = false → l.kbs ≤ 1 → l.midK (l.passAt n.g) = false → l.sweeps ≤ 1 →
      slot.state = 0 → s.anyBad (biasReads c l n.g n.w) = false →
      Gives (.drain c gi pf) s (fun t => (t.ctx n.x).slotFor (l.outKey n.g.tile) = ⟨x.gen, 1, c⟩ ∧
        ∃ g, t.grantAt c gi = some g ∧ g.drained = true ∧ g.won = true ∧ (g.sect pf).pc = (n.g.sect pf).pc + 1)) ∧
    (∀ g y ps, (s.core c).ctx = some y → (s.ctx y).run = .running → (s.core c).grants = [g] → g.combines (s.launchOf y) = true →
      s.partialsServed c (s.launchOf y) g = true → g.gen = (s.ctx y).gen → (s.launchOf y).isPair = false → (s.launchOf y).sweeps ≤ 1 →
      let v := (s.launchOf y).view g
      ((s.ctx y).slotFor (v.outKey g.tile)).state = 0 → s.anyBad (biasReads c v g ((v.prog.first opDrain).getD 0)) = false →
      s.partials c v g = .ok ps →
      Gives (.ksplitCombine c) s (fun t => (t.ctx y).slotFor (v.outKey g.tile) = ⟨(s.ctx y).gen, 1, c⟩ ∧ v.outKey g.tile ∉ (t.ctx y).combines ∧
        ∃ h, (t.core c).grants = [h] ∧ h.merged = true ∧ h.drained = true))) ∧
  (∀ (s : State) (c x req root : Nat) (q : PruneReq) (o : WeevilOut), (s.core c).ctx = some x → (s.ctx x).run = .running →
    s.swarm.live = false → s.coreRoot c = some root → s.loadPrune root req = .ok q → s.pruneWrites root q = .ok o →
    let d := (((s.lookPrune c root req).lookReach c q.src.reachRead).countConv c o.sat o.nonfin).putWeevils c x root o.writes
    d.stop = none → Gives (.pruneRequest c req) s (fun t => t.mem = d.s.mem ∧ (t.ctx x).run = .running))

/-- GATHER, SCATTER, MERGE, INTERSECT, DECOMPRESS, TOPK_ROW, SUM_CHECK, DECODE_ATTN, DECODE_ATTN_MERGE, ERG_RECORD_SEND and
ERG_OP_TIMEOUT complete. -/
def Obligations.ErgCompletes : Prop :=
  ∀ (s : State) (k : Nat) (e : ErgEnt) (q : List ErgEnt) (r : ErgRec) (root : Nat) (rs : List Reach),
    (∀ c j, (r.op, c) ∈ [(erGather, Instr.gather k), (erScatter, Instr.scatter k), (erMerge, Instr.merge k), (erIntersect, Instr.intersect k),
        (erDecompress, Instr.decompress k), (erTopk, Instr.topkRow k), (erSumCheck, Instr.sumCheck k)] → ErgRuns s k r.op e q r root j rs →
      let d := (s.lookReach (s.ctx e.ctx).anchor rs).ergWork e.ctx root k r j
      d.stop = none → Gives c s (fun t => t.mem = d.s.mem ∧ ErgEnds s k e q (fun c => { c with ergDone := e.idx :: c.ergDone }) t)) ∧
    (∀ qd o table a sigma, ErgRuns s k erAttn e q r root (.attn qd o table a sigma) [] →
      (s.ergWork e.ctx root k r (.attn qd o table a sigma)).stop = none →
      Gives (.decodeAttn k) s (fun t => t.mem = (s.ergWork e.ctx root k r (.attn qd o table a sigma)).s.mem ∧
        ErgEnds s k e q (fun c => { c with partials := (e.idx, k) :: c.partials }) t)) ∧
    (∀ x i qd o table a sigma, s.mergeable x = some (i, .attn qd o table a sigma) → (s.ctx x).run = .running → s.serving x ≠ [] →
      s.coreRoot (s.ctx x).anchor = some root →
      (((s.lookReach (s.ctx x).anchor o.reachWrite).correctAll (partialRanges a)).mergeRun (s.ctx x).anchor x root o a).stop = none →
      Gives (.decodeAttnMerge x) s (fun t => (t.ctx x).ergDone = i :: (s.ctx x).ergDone ∧ ∀ p ∈ (t.ctx x).partials, p.1 ≠ i)) ∧
    (∀ x j, (s.ctx x).run = .running → (s.launchOf x).kind = 1 → s.ergOf x (s.ctx x).ergSent = some (r, j) → r.op ≠ erAttn →
      (s.stack r.stack).queue.length < 16 →
      Gives (.ergRecordSend x) s (fun t => (t.ctx x).ergSent = (s.ctx x).ergSent + 1 ∧
        ∃ u, (⟨x, (s.ctx x).ergSent, (s.ctx x).gen, u⟩ : ErgEnt) ∈ t.ergLine r.stack)) ∧
    (k < 12 → s.live = true → s.ergFailed k = false → (s.stack k).queue = e :: q →
      Gives (.ergOpTimeout k) s (fun t => Shows t (Reg.ERG_STATUS k) Fld.ERG_STATUS_STATE 3 ∧ Shows t (Reg.ERG_STATUS k) Fld.ERG_STATUS_CAUSE 1))

/-- SWARM_DIGEST, SWARM_PARTIAL, CHECK_COPY, SWARM_GATHER, READY, NORM, COMMITTED and SWARM_COMMIT_QUERY complete. -/
def Obligations.SwarmCompletes : Prop :=
  ∀ (s : State) (src : Nat) (h : SwarmHdr),
    let w := s.swarm
    let b := h.bucket
    let j := h.shard
    let k := h.block
    let anchor := (s.ctx w.ctx).anchor
    (∀ v : Word, s.power = .ready → w.live = true → h.step = w.step % 2 ^ 32 → h.gen = w.gen → v.toNat = w.digest →
      Gives (.swarmDigest src h v) s (fun t => h.sender ∈ t.swarm.digests)) ∧
    (∀ v : Word, s.power = .ready → w.live = false →
      Gives (.swarmDigest src h v) s (fun t => ⟨src, h.step, h.gen, v.toNat⟩ ∈ t.digests)) ∧
    (w.current src h = true →
      (w.frozen = false → Gives (.ready src h) s (fun t => h.sender ∈ t.swarm.readys)) ∧
      (∀ q, w.norm = true → tget none w.norms h.sender = none → SwarmAwaits { w with norms := tput none w.norms h.sender (some q) } →
        Gives (.norm src h q) s (fun t => tget none t.swarm.norms h.sender = some q)) ∧
      (∀ data codes own root, w.mode = 0 → w.awaits h = true → s.serving w.ctx ≠ [] → w.pos ≠ j →
        let c := s.adder w (w.globalBlock b j k)
        let u := ((s.dropSwarm src 0 h).stage c data).lookReach c (w.codeReach w.p b j k ++ w.blockReach b j k)
        StagingReady s c (ceilDiv data.length 64) → s.coreRoot c = some root → u.blockCodes root w b j k = .ok codes →
        u.blockContribs root w b j k = .ok own →
        SwarmAwaits { w with escs := w.escs + (w.hop (w.pos == j) codes h.escMask (decodeBlock h.fmt h.thinned h.escMask codes data) own).escs
                             hop1 := (b, j, k) :: w.hop1 } →
        Gives (.swarmPartial src h data) s (fun t => (b, j, k) ∈ t.swarm.hop1)) ∧
      (∀ data i c root, w.hasBlock h = true → j = w.pos → w.sampled b j k = true → (b, j, k) ∉ w.checked → w.slotOf b j k = some i →
        w.slots[i]? = some c → h.sender ∉ c.from_ → s.coreRoot anchor = some root →
        let e := (s.dropSwarm src 1 h).putOn anchor w.ctx root (w.slotAt i + 4096 * ((h.sender + w.r - w.pos) % w.r - 1)) (padTo 4096 data)
        e.stop = none → SwarmAwaits (w.modSlot i (fun c => { c with from_ := h.sender :: c.from_ })) →
        Gives (.checkCopy src h data) s (fun t => t.mem = e.s.mem ∧ t.swarm = w.modSlot i (fun c => { c with from_ := h.sender :: c.from_ }))) ∧
      (∀ e c data root, h.sender = w.prev → j < w.r → j ≠ w.pos → (e, j, k) ∉ w.chunks → w.shHandle = 0 → w.shadowQ = [] → w.next = j →
        (w.chunksOf_ j).find? (fun c => c.1 == e && c.2.1 == k) = some c → s.coreRoot anchor = some root →
        let u := (s.dropSwarm src 2 { h with bucket := e }).putOn anchor w.ctx root c.2.2.1 (padTo c.2.2.2 data)
        u.stop = none → SwarmAwaits { w with chunks := (e, j, k) :: w.chunks } →
        Gives (.swarmGather src h e data) s (fun t => t.mem = u.s.mem ∧ (e, j, k) ∈ t.swarm.chunks))) ∧
    Gives (.committed src h) s (fun t => { t with shadowOf := s.shadowOf, takeover := s.takeover } = s.dropSwarm src 6 h ∧
      ∀ p ∈ t.shadowOf, p.1 = src → p.2.current = 1 - h.step % 2) ∧
    (s.power = .ready → Gives (.swarmCommitQuery src h .question) s (fun t => t = (s.dropSwarm src 7 h).sendMsg src 4 (laneOf (s.ctx w.ctx).cls 5)
      ({ w with step := h.step, gen := h.gen }.header (SwMsg.plain 7) 32 ++ pad32 [if s.hasCommitted h.step then 1 else 0])))

/-- R594: FAULT#. -/
def Obligations.FaultPin : Prop :=
  ∀ s : State,
    (s.faultPin = .highZ ↔ s.power = .off) ∧
    (s.power ≠ .off → (s.faultPin = .low ↔ s.fld Reg.START_STATUS Fld.START_STATUS_HOLD = 1 ∨ s.fld Reg.HMD_TRIP_LOG Fld.HMD_TRIP_LOG_VALID = 1)) ∧
    (WithdrawnTo s → s.faultPin = .low)
end

