-- ==== Sys2Proof/Laws/Tables.lean ====
section
/-!
SUPPORT. The laws of sparse tables and of the byte memory: what a read gives after a write, and that every write keeps the canonical form.
-/
namespace Sys2Proof.Machine

/-! Reads after writes. -/

theorem tget_terase_same {α : Type} (d : α) (m : Table α) (k : Nat) : tget d (terase m k) k = d := by
  induction m with
  | nil => rfl
  | cons p m ih =>
    unfold terase at *
    by_cases h : p.1 = k
    · simpa [List.filter_cons, h] using ih
    · simpa [List.filter_cons, h, tget] using ih

theorem tget_terase_ne {α : Type} (d : α) (m : Table α) {j k : Nat} (hjk : j ≠ k) :
    tget d (terase m k) j = tget d m j := by
  induction m with
  | nil => rfl
  | cons p m ih =>
    unfold terase at *
    by_cases h : p.1 = k
    · have : p.1 ≠ j := fun e => hjk (e.symm.trans h)
      simpa [List.filter_cons, h, tget, Ne.symm hjk] using ih
    · by_cases hj : p.1 = j
      · subst hj
        simp [hjk, tget]
      · simpa [List.filter_cons, h, tget, hj] using ih

theorem tget_tinsert_same {α : Type} (d : α) (m : Table α) (k : Nat) (v : α) : tget d (tinsert m k v) k = v := by
  induction m with
  | nil => simp [tinsert, tget]
  | cons p m ih =>
    unfold tinsert
    split
    · simp [tget]
    · split
      · simp [tget]
      · simp [tget, *]

theorem tget_tinsert_ne {α : Type} (d : α) (m : Table α) {j k : Nat} (v : α) (hjk : j ≠ k) :
    tget d (tinsert m k v) j = tget d m j := by
  induction m with
  | nil => simp [tinsert, tget, Ne.symm hjk]
  | cons p m ih =>
    unfold tinsert
    split
    · simp [tget, Ne.symm hjk]
    · split
      · have : p.1 ≠ j := by omega
        simp [tget, Ne.symm hjk, this]
      · simp only [tget, ih]

/-- A read at the key written gives the value written. -/
theorem tget_tput_same {α : Type} [DecidableEq α] (d : α) (m : Table α) (k : Nat) (v : α) :
    tget d (tput d m k v) k = v := by
  unfold tput
  split
  · rw [tget_terase_same]
    exact Eq.symm ‹_›
  · exact tget_tinsert_same d m k v

/-- A write leaves every other key as it is. -/
theorem tget_tput_ne {α : Type} [DecidableEq α] (d : α) (m : Table α) {j k : Nat} (v : α) (hjk : j ≠ k) :
    tget d (tput d m k v) j = tget d m j := by
  unfold tput
  split
  · exact tget_terase_ne d m hjk
  · exact tget_tinsert_ne d m v hjk

/-- Both at once. -/
theorem tget_tput {α : Type} [DecidableEq α] (d : α) (m : Table α) (j k : Nat) (v : α) :
    tget d (tput d m k v) j = if j = k then v else tget d m j := by
  split
  · subst_vars
    exact tget_tput_same ..
  · exact tget_tput_ne _ _ _ ‹_›

/-! The canonical form. -/

theorem tsorted_iff {α : Type} (m : Table α) : tsorted m = true ↔ (m.map Prod.fst).Pairwise (· < ·) := by
  induction m with
  | nil => simp [tsorted]
  | cons p m ih =>
    cases m with
    | nil => simp [tsorted]
    | cons q m =>
      obtain ⟨k, v⟩ := p
      obtain ⟨k', v'⟩ := q
      simp only [tsorted, Bool.and_eq_true, decide_eq_true_eq, ih, List.map_cons, List.pairwise_cons]
      constructor
      · rintro ⟨h, h2, h3⟩
        refine ⟨fun a ha => ?_, h2, h3⟩
        rcases List.mem_cons.mp ha with e | e
        · omega
        · exact Nat.lt_trans h (h2 a e)
      · rintro ⟨h, h2, h3⟩
        exact ⟨h k' (by simp), h2, h3⟩

theorem terase_sorted {α : Type} {m : Table α} (h : tsorted m = true) (k : Nat) : tsorted (terase m k) = true := by
  rw [tsorted_iff] at *
  exact h.sublist (List.Sublist.map _ List.filter_sublist)

theorem mem_tinsert {α : Type} {m : Table α} {k : Nat} {v : α} {p : Nat × α} (h : p ∈ tinsert m k v) : p = (k, v) ∨ p ∈ m := by
  induction m with
  | nil => simpa [tinsert] using h
  | cons q m ih =>
    unfold tinsert at h
    split at h
    · simpa using h
    · split at h
      · rcases List.mem_cons.mp h with e | e
        · exact .inl e
        · exact .inr (List.mem_cons_of_mem _ e)
      · rcases List.mem_cons.mp h with e | e
        · exact .inr (e ▸ List.mem_cons_self)
        · rcases ih e with e | e
          · exact .inl e
          · exact .inr (List.mem_cons_of_mem _ e)

theorem tinsert_sorted {α : Type} {m : Table α} (h : tsorted m = true) (k : Nat) (v : α) : tsorted (tinsert m k v) = true := by
  induction m with
  | nil => simp [tinsert, tsorted]
  | cons q m ih =>
    obtain ⟨k', v'⟩ := q
    rw [tsorted_iff, List.map_cons, List.pairwise_cons] at h
    obtain ⟨h1, h2⟩ := h
    have hm : tsorted m = true := (tsorted_iff m).mpr h2
    unfold tinsert
    split
    · rw [tsorted_iff]
      simp only [List.map_cons, List.pairwise_cons]
      refine ⟨fun a ha => ?_, h1, h2⟩
      rcases List.mem_cons.mp ha with e | e
      · omega
      · have := h1 a e
        omega
    · split
      · subst_vars
        rw [tsorted_iff]
        simp only [List.map_cons, List.pairwise_cons]
        exact ⟨h1, h2⟩
      · rw [tsorted_iff]
        simp only [List.map_cons, List.pairwise_cons]
        refine ⟨fun a ha => ?_, (tsorted_iff _).mp (ih hm)⟩
        obtain ⟨p, hp, rfl⟩ := List.mem_map.mp ha
        rcases mem_tinsert hp with e | e
        · subst e
          dsimp only
          omega
        · exact h1 _ (List.mem_map_of_mem e)

/-- The empty table is canonical. -/
theorem Table.wf_nil {α : Type} [DecidableEq α] (d : α) : Table.wf d ([] : Table α) = true := rfl

theorem mem_tput {α : Type} [DecidableEq α] {d : α} {m : Table α} {k : Nat} {v : α} {p : Nat × α} (h : p ∈ tput d m k v) :
    (p = (k, v) ∧ v ≠ d) ∨ p ∈ m := by
  unfold tput at h
  split at h
  · exact .inr (List.mem_filter.mp h).1
  · rcases mem_tinsert h with e | e
    · exact .inl ⟨e, ‹_›⟩
    · exact .inr e

theorem tput_sorted {α : Type} [DecidableEq α] (d : α) {m : Table α} (h : tsorted m = true) (k : Nat) (v : α) :
    tsorted (tput d m k v) = true := by
  unfold tput
  split
  · exact terase_sorted h k
  · exact tinsert_sorted h k v

/-- A write keeps the canonical form of a table. -/
theorem Table.wf_tput {α : Type} [DecidableEq α] {d : α} {m : Table α} (h : Table.wf d m = true) (k : Nat) (v : α) :
    Table.wf d (tput d m k v) = true := by
  unfold Table.wf at *
  simp only [Bool.and_eq_true, List.all_eq_true, Bool.not_eq_true', decide_eq_false_iff_not] at *
  refine ⟨tput_sorted d h.1 k v, fun p hp => ?_⟩
  rcases mem_tput hp with ⟨rfl, e⟩ | e
  · exact e
  · exact h.2 p e

/-- Leaving entries out keeps the canonical form of a table. -/
theorem Table.wf_filter {α : Type} [DecidableEq α] {d : α} {m : Table α} (h : Table.wf d m = true) (f : Nat × α → Bool) :
    Table.wf d (m.filter f) = true := by
  unfold Table.wf at *
  simp only [Bool.and_eq_true, List.all_eq_true, Bool.not_eq_true', decide_eq_false_iff_not] at *
  refine ⟨?_, fun p hp => h.2 p ((List.mem_filter.mp hp).1)⟩
  rw [tsorted_iff] at *
  exact h.1.sublist (List.Sublist.map _ List.filter_sublist)

/-! The byte memory. -/

theorem memOk_iff (m : List Host.Cell) : memOk m = true ↔ Memory.wf m = true ∧ ∀ c ∈ m, isMemory c.1 = true := by
  unfold memOk
  simp [Bool.and_eq_true, List.all_eq_true]

/-- One byte stored keeps the canonical form of the memory. -/
theorem memPut_wf {m : List Host.Cell} (h : Memory.wf m = true) (a : Nat) (b : Byte) : Memory.wf (memPut m a b) = true := by
  unfold memPut
  split
  · exact Table.wf_tput h a b
  · exact h

/-- Bytes stored keep the canonical form of the memory. -/
theorem memPuts_wf {m : List Host.Cell} (h : Memory.wf m = true) (a : Nat) (bs : List Byte) : Memory.wf (memPuts m a bs) = true := by
  induction bs generalizing m a with
  | nil => exact h
  | cons b bs ih => exact ih (memPut_wf h a b) (a + 1)

theorem memPut_memOk {m : List Host.Cell} (h : memOk m = true) (a : Nat) (b : Byte) : memOk (memPut m a b) = true := by
  rw [memOk_iff] at *
  refine ⟨memPut_wf h.1 a b, fun c hc => ?_⟩
  unfold memPut at hc
  split at hc
  · rcases mem_tput hc with ⟨rfl, _⟩ | e
    · assumption
    · exact h.2 c e
  · exact h.2 c hc

theorem memPuts_memOk {m : List Host.Cell} (h : memOk m = true) (a : Nat) (bs : List Byte) : memOk (memPuts m a bs) = true := by
  induction bs generalizing m a with
  | nil => exact h
  | cons b bs ih => exact ih (memPut_memOk h a b) (a + 1)

theorem memOk_filter {m : List Host.Cell} (h : memOk m = true) (f : Host.Cell → Bool) : memOk (m.filter f) = true := by
  rw [memOk_iff] at *
  exact ⟨Table.wf_filter h.1 f, fun c hc => h.2 c ((List.mem_filter.mp hc).1)⟩

/-- One register written keeps the canonical form of the register file. -/
theorem regsOk_put {m : Table Word} (h : regsOk m = true) (a : Nat) (v : Word) : regsOk (tput (resetWord a) m a v) = true := by
  unfold regsOk at *
  simp only [Bool.and_eq_true, List.all_eq_true, bne_iff_ne, ne_eq] at *
  refine ⟨tput_sorted _ h.1 a v, fun p hp => ?_⟩
  rcases mem_tput hp with ⟨rfl, e⟩ | e
  · exact e
  · exact h.2 p e

theorem regsOk_filter {m : Table Word} (h : regsOk m = true) (f : Nat × Word → Bool) : regsOk (m.filter f) = true := by
  unfold regsOk at *
  simp only [Bool.and_eq_true, List.all_eq_true, bne_iff_ne, ne_eq] at *
  refine ⟨?_, fun p hp => h.2 p ((List.mem_filter.mp hp).1)⟩
  rw [tsorted_iff] at *
  exact h.1.sublist (List.Sublist.map _ List.filter_sublist)

end Sys2Proof.Machine
end

