-- ==== Sys2Proof/Laws/State.lean ====
section
/-!
SUPPORT. What each plain update of a state leaves of every field, and what the accessors read after it.
-/
namespace Sys2Proof.Machine

@[simp] theorem State.putReg_pending (s : State) a v : (s.putReg a v).pending = s.pending := rfl
@[simp] theorem State.putReg_power (s : State) a v : (s.putReg a v).power = s.power := rfl
@[simp] theorem State.putReg_retry (s : State) a v : (s.putReg a v).retry = s.retry := rfl
@[simp] theorem State.putReg_mem (s : State) a v : (s.putReg a v).mem = s.mem := rfl
@[simp] theorem State.putReg_badBytes (s : State) a v : (s.putReg a v).badBytes = s.badBytes := rfl
@[simp] theorem State.putReg_badAcc (s : State) a v : (s.putReg a v).badAcc = s.badAcc := rfl
@[simp] theorem State.putReg_softAcc (s : State) a v : (s.putReg a v).softAcc = s.softAcc := rfl
@[simp] theorem State.putReg_flash0 (s : State) a v : (s.putReg a v).flash0 = s.flash0 := rfl
@[simp] theorem State.putReg_flash1 (s : State) a v : (s.putReg a v).flash1 = s.flash1 := rfl
@[simp] theorem State.putReg_ledger0 (s : State) a v : (s.putReg a v).ledger0 = s.ledger0 := rfl
@[simp] theorem State.putReg_ledger1 (s : State) a v : (s.putReg a v).ledger1 = s.ledger1 := rfl
@[simp] theorem State.putReg_start (s : State) a v : (s.putReg a v).start = s.start := rfl
@[simp] theorem State.putReg_cfg (s : State) a v : (s.putReg a v).cfg = s.cfg := rfl
@[simp] theorem State.putReg_hmd (s : State) a v : (s.putReg a v).hmd = s.hmd := rfl
@[simp] theorem State.putReg_wadi (s : State) a v : (s.putReg a v).wadi = s.wadi := rfl
@[simp] theorem State.putReg_queues (s : State) a v : (s.putReg a v).queues = s.queues := rfl
@[simp] theorem State.putReg_ports (s : State) a v : (s.putReg a v).ports = s.ports := rfl
@[simp] theorem State.putReg_routes (s : State) a v : (s.putReg a v).routes = s.routes := rfl
@[simp] theorem State.putReg_members (s : State) a v : (s.putReg a v).members = s.members := rfl
@[simp] theorem State.putReg_epoch (s : State) a v : (s.putReg a v).epoch = s.epoch := rfl
@[simp] theorem State.putReg_annNo (s : State) a v : (s.putReg a v).annNo = s.annNo := rfl
@[simp] theorem State.putReg_wins (s : State) a v : (s.putReg a v).wins = s.wins := rfl
@[simp] theorem State.putReg_handles (s : State) a v : (s.putReg a v).handles = s.handles := rfl
@[simp] theorem State.putReg_mcasts (s : State) a v : (s.putReg a v).mcasts = s.mcasts := rfl
@[simp] theorem State.putReg_groups (s : State) a v : (s.putReg a v).groups = s.groups := rfl
@[simp] theorem State.putReg_tasks (s : State) a v : (s.putReg a v).tasks = s.tasks := rfl
@[simp] theorem State.putReg_ctxs (s : State) a v : (s.putReg a v).ctxs = s.ctxs := rfl
@[simp] theorem State.putReg_cores (s : State) a v : (s.putReg a v).cores = s.cores := rfl
@[simp] theorem State.putReg_ant (s : State) a v : (s.putReg a v).ant = s.ant := rfl
@[simp] theorem State.putReg_spadAcc (s : State) a v : (s.putReg a v).spadAcc = s.spadAcc := rfl
@[simp] theorem State.putReg_stacks (s : State) a v : (s.putReg a v).stackTab = s.stackTab := rfl
@[simp] theorem State.putReg_swarm (s : State) a v : (s.putReg a v).swarm = s.swarm := rfl
@[simp] theorem State.putReg_swarmDone (s : State) a v : (s.putReg a v).swarmDone = s.swarmDone := rfl
@[simp] theorem State.putReg_digests (s : State) a v : (s.putReg a v).digests = s.digests := rfl
@[simp] theorem State.putReg_takeover (s : State) a v : (s.putReg a v).takeover = s.takeover := rfl
@[simp] theorem State.putReg_shadowOf (s : State) a v : (s.putReg a v).shadowOf = s.shadowOf := rfl
@[simp] theorem State.putReg_history (s : State) a v : (s.putReg a v).history = s.history := rfl
@[simp] theorem State.putReg_params (s : State) a v : (s.putReg a v).params = s.params := rfl
@[simp] theorem State.putReg_scan (s : State) a v : (s.putReg a v).scan = s.scan := rfl
@[simp] theorem State.putReg_scanPins (s : State) a v : (s.putReg a v).scanPins = s.scanPins := rfl
@[simp] theorem State.putReg_owners (s : State) a v : (s.putReg a v).owners = s.owners := rfl
@[simp] theorem State.putReg_free (s : State) a v : (s.putReg a v).free = s.free := rfl
@[simp] theorem State.putReg_out (s : State) a v : (s.putReg a v).out = s.out := rfl

@[simp] theorem State.setFld_pending (s : State) a f x : (s.setFld a f x).pending = s.pending := rfl
@[simp] theorem State.setFld_power (s : State) a f x : (s.setFld a f x).power = s.power := rfl
@[simp] theorem State.setFld_retry (s : State) a f x : (s.setFld a f x).retry = s.retry := rfl
@[simp] theorem State.setFld_mem (s : State) a f x : (s.setFld a f x).mem = s.mem := rfl
@[simp] theorem State.setFld_badBytes (s : State) a f x : (s.setFld a f x).badBytes = s.badBytes := rfl
@[simp] theorem State.setFld_badAcc (s : State) a f x : (s.setFld a f x).badAcc = s.badAcc := rfl
@[simp] theorem State.setFld_softAcc (s : State) a f x : (s.setFld a f x).softAcc = s.softAcc := rfl
@[simp] theorem State.setFld_flash0 (s : State) a f x : (s.setFld a f x).flash0 = s.flash0 := rfl
@[simp] theorem State.setFld_flash1 (s : State) a f x : (s.setFld a f x).flash1 = s.flash1 := rfl
@[simp] theorem State.setFld_ledger0 (s : State) a f x : (s.setFld a f x).ledger0 = s.ledger0 := rfl
@[simp] theorem State.setFld_ledger1 (s : State) a f x : (s.setFld a f x).ledger1 = s.ledger1 := rfl
@[simp] theorem State.setFld_start (s : State) a f x : (s.setFld a f x).start = s.start := rfl
@[simp] theorem State.setFld_cfg (s : State) a f x : (s.setFld a f x).cfg = s.cfg := rfl
@[simp] theorem State.setFld_hmd (s : State) a f x : (s.setFld a f x).hmd = s.hmd := rfl
@[simp] theorem State.setFld_wadi (s : State) a f x : (s.setFld a f x).wadi = s.wadi := rfl
@[simp] theorem State.setFld_queues (s : State) a f x : (s.setFld a f x).queues = s.queues := rfl
@[simp] theorem State.setFld_ports (s : State) a f x : (s.setFld a f x).ports = s.ports := rfl
@[simp] theorem State.setFld_routes (s : State) a f x : (s.setFld a f x).routes = s.routes := rfl
@[simp] theorem State.setFld_members (s : State) a f x : (s.setFld a f x).members = s.members := rfl
@[simp] theorem State.setFld_epoch (s : State) a f x : (s.setFld a f x).epoch = s.epoch := rfl
@[simp] theorem State.setFld_annNo (s : State) a f x : (s.setFld a f x).annNo = s.annNo := rfl
@[simp] theorem State.setFld_wins (s : State) a f x : (s.setFld a f x).wins = s.wins := rfl
@[simp] theorem State.setFld_handles (s : State) a f x : (s.setFld a f x).handles = s.handles := rfl
@[simp] theorem State.setFld_mcasts (s : State) a f x : (s.setFld a f x).mcasts = s.mcasts := rfl
@[simp] theorem State.setFld_groups (s : State) a f x : (s.setFld a f x).groups = s.groups := rfl
@[simp] theorem State.setFld_tasks (s : State) a f x : (s.setFld a f x).tasks = s.tasks := rfl
@[simp] theorem State.setFld_ctxs (s : State) a f x : (s.setFld a f x).ctxs = s.ctxs := rfl
@[simp] theorem State.setFld_cores (s : State) a f x : (s.setFld a f x).cores = s.cores := rfl
@[simp] theorem State.setFld_ant (s : State) a f x : (s.setFld a f x).ant = s.ant := rfl
@[simp] theorem State.setFld_spadAcc (s : State) a f x : (s.setFld a f x).spadAcc = s.spadAcc := rfl
@[simp] theorem State.setFld_stacks (s : State) a f x : (s.setFld a f x).stackTab = s.stackTab := rfl
@[simp] theorem State.setFld_swarm (s : State) a f x : (s.setFld a f x).swarm = s.swarm := rfl
@[simp] theorem State.setFld_swarmDone (s : State) a f x : (s.setFld a f x).swarmDone = s.swarmDone := rfl
@[simp] theorem State.setFld_digests (s : State) a f x : (s.setFld a f x).digests = s.digests := rfl
@[simp] theorem State.setFld_takeover (s : State) a f x : (s.setFld a f x).takeover = s.takeover := rfl
@[simp] theorem State.setFld_shadowOf (s : State) a f x : (s.setFld a f x).shadowOf = s.shadowOf := rfl
@[simp] theorem State.setFld_history (s : State) a f x : (s.setFld a f x).history = s.history := rfl
@[simp] theorem State.setFld_params (s : State) a f x : (s.setFld a f x).params = s.params := rfl
@[simp] theorem State.setFld_scan (s : State) a f x : (s.setFld a f x).scan = s.scan := rfl
@[simp] theorem State.setFld_scanPins (s : State) a f x : (s.setFld a f x).scanPins = s.scanPins := rfl
@[simp] theorem State.setFld_owners (s : State) a f x : (s.setFld a f x).owners = s.owners := rfl
@[simp] theorem State.setFld_free (s : State) a f x : (s.setFld a f x).free = s.free := rfl
@[simp] theorem State.setFld_out (s : State) a f x : (s.setFld a f x).out = s.out := rfl

@[simp] theorem State.bump_pending (s : State) a f n : (s.bump a f n).pending = s.pending := rfl
@[simp] theorem State.bump_power (s : State) a f n : (s.bump a f n).power = s.power := rfl
@[simp] theorem State.bump_retry (s : State) a f n : (s.bump a f n).retry = s.retry := rfl
@[simp] theorem State.bump_mem (s : State) a f n : (s.bump a f n).mem = s.mem := rfl
@[simp] theorem State.bump_badBytes (s : State) a f n : (s.bump a f n).badBytes = s.badBytes := rfl
@[simp] theorem State.bump_badAcc (s : State) a f n : (s.bump a f n).badAcc = s.badAcc := rfl
@[simp] theorem State.bump_softAcc (s : State) a f n : (s.bump a f n).softAcc = s.softAcc := rfl
@[simp] theorem State.bump_flash0 (s : State) a f n : (s.bump a f n).flash0 = s.flash0 := rfl
@[simp] theorem State.bump_flash1 (s : State) a f n : (s.bump a f n).flash1 = s.flash1 := rfl
@[simp] theorem State.bump_ledger0 (s : State) a f n : (s.bump a f n).ledger0 = s.ledger0 := rfl
@[simp] theorem State.bump_ledger1 (s : State) a f n : (s.bump a f n).ledger1 = s.ledger1 := rfl
@[simp] theorem State.bump_start (s : State) a f n : (s.bump a f n).start = s.start := rfl
@[simp] theorem State.bump_cfg (s : State) a f n : (s.bump a f n).cfg = s.cfg := rfl
@[simp] theorem State.bump_hmd (s : State) a f n : (s.bump a f n).hmd = s.hmd := rfl
@[simp] theorem State.bump_wadi (s : State) a f n : (s.bump a f n).wadi = s.wadi := rfl
@[simp] theorem State.bump_queues (s : State) a f n : (s.bump a f n).queues = s.queues := rfl
@[simp] theorem State.bump_ports (s : State) a f n : (s.bump a f n).ports = s.ports := rfl
@[simp] theorem State.bump_routes (s : State) a f n : (s.bump a f n).routes = s.routes := rfl
@[simp] theorem State.bump_members (s : State) a f n : (s.bump a f n).members = s.members := rfl
@[simp] theorem State.bump_epoch (s : State) a f n : (s.bump a f n).epoch = s.epoch := rfl
@[simp] theorem State.bump_annNo (s : State) a f n : (s.bump a f n).annNo = s.annNo := rfl
@[simp] theorem State.bump_wins (s : State) a f n : (s.bump a f n).wins = s.wins := rfl
@[simp] theorem State.bump_handles (s : State) a f n : (s.bump a f n).handles = s.handles := rfl
@[simp] theorem State.bump_mcasts (s : State) a f n : (s.bump a f n).mcasts = s.mcasts := rfl
@[simp] theorem State.bump_groups (s : State) a f n : (s.bump a f n).groups = s.groups := rfl
@[simp] theorem State.bump_tasks (s : State) a f n : (s.bump a f n).tasks = s.tasks := rfl
@[simp] theorem State.bump_ctxs (s : State) a f n : (s.bump a f n).ctxs = s.ctxs := rfl
@[simp] theorem State.bump_cores (s : State) a f n : (s.bump a f n).cores = s.cores := rfl
@[simp] theorem State.bump_ant (s : State) a f n : (s.bump a f n).ant = s.ant := rfl
@[simp] theorem State.bump_spadAcc (s : State) a f n : (s.bump a f n).spadAcc = s.spadAcc := rfl
@[simp] theorem State.bump_stacks (s : State) a f n : (s.bump a f n).stackTab = s.stackTab := rfl
@[simp] theorem State.bump_swarm (s : State) a f n : (s.bump a f n).swarm = s.swarm := rfl
@[simp] theorem State.bump_swarmDone (s : State) a f n : (s.bump a f n).swarmDone = s.swarmDone := rfl
@[simp] theorem State.bump_digests (s : State) a f n : (s.bump a f n).digests = s.digests := rfl
@[simp] theorem State.bump_takeover (s : State) a f n : (s.bump a f n).takeover = s.takeover := rfl
@[simp] theorem State.bump_shadowOf (s : State) a f n : (s.bump a f n).shadowOf = s.shadowOf := rfl
@[simp] theorem State.bump_history (s : State) a f n : (s.bump a f n).history = s.history := rfl
@[simp] theorem State.bump_params (s : State) a f n : (s.bump a f n).params = s.params := rfl
@[simp] theorem State.bump_scan (s : State) a f n : (s.bump a f n).scan = s.scan := rfl
@[simp] theorem State.bump_scanPins (s : State) a f n : (s.bump a f n).scanPins = s.scanPins := rfl
@[simp] theorem State.bump_owners (s : State) a f n : (s.bump a f n).owners = s.owners := rfl
@[simp] theorem State.bump_free (s : State) a f n : (s.bump a f n).free = s.free := rfl
@[simp] theorem State.bump_out (s : State) a f n : (s.bump a f n).out = s.out := rfl

@[simp] theorem State.bumpSat_pending (s : State) a f n : (s.bumpSat a f n).pending = s.pending := rfl
@[simp] theorem State.bumpSat_power (s : State) a f n : (s.bumpSat a f n).power = s.power := rfl
@[simp] theorem State.bumpSat_retry (s : State) a f n : (s.bumpSat a f n).retry = s.retry := rfl
@[simp] theorem State.bumpSat_mem (s : State) a f n : (s.bumpSat a f n).mem = s.mem := rfl
@[simp] theorem State.bumpSat_badBytes (s : State) a f n : (s.bumpSat a f n).badBytes = s.badBytes := rfl
@[simp] theorem State.bumpSat_badAcc (s : State) a f n : (s.bumpSat a f n).badAcc = s.badAcc := rfl
@[simp] theorem State.bumpSat_softAcc (s : State) a f n : (s.bumpSat a f n).softAcc = s.softAcc := rfl
@[simp] theorem State.bumpSat_flash0 (s : State) a f n : (s.bumpSat a f n).flash0 = s.flash0 := rfl
@[simp] theorem State.bumpSat_flash1 (s : State) a f n : (s.bumpSat a f n).flash1 = s.flash1 := rfl
@[simp] theorem State.bumpSat_ledger0 (s : State) a f n : (s.bumpSat a f n).ledger0 = s.ledger0 := rfl
@[simp] theorem State.bumpSat_ledger1 (s : State) a f n : (s.bumpSat a f n).ledger1 = s.ledger1 := rfl
@[simp] theorem State.bumpSat_start (s : State) a f n : (s.bumpSat a f n).start = s.start := rfl
@[simp] theorem State.bumpSat_cfg (s : State) a f n : (s.bumpSat a f n).cfg = s.cfg := rfl
@[simp] theorem State.bumpSat_hmd (s : State) a f n : (s.bumpSat a f n).hmd = s.hmd := rfl
@[simp] theorem State.bumpSat_wadi (s : State) a f n : (s.bumpSat a f n).wadi = s.wadi := rfl
@[simp] theorem State.bumpSat_queues (s : State) a f n : (s.bumpSat a f n).queues = s.queues := rfl
@[simp] theorem State.bumpSat_ports (s : State) a f n : (s.bumpSat a f n).ports = s.ports := rfl
@[simp] theorem State.bumpSat_routes (s : State) a f n : (s.bumpSat a f n).routes = s.routes := rfl
@[simp] theorem State.bumpSat_members (s : State) a f n : (s.bumpSat a f n).members = s.members := rfl
@[simp] theorem State.bumpSat_epoch (s : State) a f n : (s.bumpSat a f n).epoch = s.epoch := rfl
@[simp] theorem State.bumpSat_annNo (s : State) a f n : (s.bumpSat a f n).annNo = s.annNo := rfl
@[simp] theorem State.bumpSat_wins (s : State) a f n : (s.bumpSat a f n).wins = s.wins := rfl
@[simp] theorem State.bumpSat_handles (s : State) a f n : (s.bumpSat a f n).handles = s.handles := rfl
@[simp] theorem State.bumpSat_mcasts (s : State) a f n : (s.bumpSat a f n).mcasts = s.mcasts := rfl
@[simp] theorem State.bumpSat_groups (s : State) a f n : (s.bumpSat a f n).groups = s.groups := rfl
@[simp] theorem State.bumpSat_tasks (s : State) a f n : (s.bumpSat a f n).tasks = s.tasks := rfl
@[simp] theorem State.bumpSat_ctxs (s : State) a f n : (s.bumpSat a f n).ctxs = s.ctxs := rfl
@[simp] theorem State.bumpSat_cores (s : State) a f n : (s.bumpSat a f n).cores = s.cores := rfl
@[simp] theorem State.bumpSat_ant (s : State) a f n : (s.bumpSat a f n).ant = s.ant := rfl
@[simp] theorem State.bumpSat_spadAcc (s : State) a f n : (s.bumpSat a f n).spadAcc = s.spadAcc := rfl
@[simp] theorem State.bumpSat_stacks (s : State) a f n : (s.bumpSat a f n).stackTab = s.stackTab := rfl
@[simp] theorem State.bumpSat_swarm (s : State) a f n : (s.bumpSat a f n).swarm = s.swarm := rfl
@[simp] theorem State.bumpSat_swarmDone (s : State) a f n : (s.bumpSat a f n).swarmDone = s.swarmDone := rfl
@[simp] theorem State.bumpSat_digests (s : State) a f n : (s.bumpSat a f n).digests = s.digests := rfl
@[simp] theorem State.bumpSat_takeover (s : State) a f n : (s.bumpSat a f n).takeover = s.takeover := rfl
@[simp] theorem State.bumpSat_shadowOf (s : State) a f n : (s.bumpSat a f n).shadowOf = s.shadowOf := rfl
@[simp] theorem State.bumpSat_history (s : State) a f n : (s.bumpSat a f n).history = s.history := rfl
@[simp] theorem State.bumpSat_params (s : State) a f n : (s.bumpSat a f n).params = s.params := rfl
@[simp] theorem State.bumpSat_scan (s : State) a f n : (s.bumpSat a f n).scan = s.scan := rfl
@[simp] theorem State.bumpSat_scanPins (s : State) a f n : (s.bumpSat a f n).scanPins = s.scanPins := rfl
@[simp] theorem State.bumpSat_owners (s : State) a f n : (s.bumpSat a f n).owners = s.owners := rfl
@[simp] theorem State.bumpSat_free (s : State) a f n : (s.bumpSat a f n).free = s.free := rfl
@[simp] theorem State.bumpSat_out (s : State) a f n : (s.bumpSat a f n).out = s.out := rfl

@[simp] theorem State.store_pending (s : State) a bs : (s.store a bs).pending = s.pending := rfl
@[simp] theorem State.store_power (s : State) a bs : (s.store a bs).power = s.power := rfl
@[simp] theorem State.store_retry (s : State) a bs : (s.store a bs).retry = s.retry := rfl
@[simp] theorem State.store_regs (s : State) a bs : (s.store a bs).regs = s.regs := rfl
@[simp] theorem State.store_flash0 (s : State) a bs : (s.store a bs).flash0 = s.flash0 := rfl
@[simp] theorem State.store_flash1 (s : State) a bs : (s.store a bs).flash1 = s.flash1 := rfl
@[simp] theorem State.store_ledger0 (s : State) a bs : (s.store a bs).ledger0 = s.ledger0 := rfl
@[simp] theorem State.store_ledger1 (s : State) a bs : (s.store a bs).ledger1 = s.ledger1 := rfl
@[simp] theorem State.store_start (s : State) a bs : (s.store a bs).start = s.start := rfl
@[simp] theorem State.store_cfg (s : State) a bs : (s.store a bs).cfg = s.cfg := rfl
@[simp] theorem State.store_hmd (s : State) a bs : (s.store a bs).hmd = s.hmd := rfl
@[simp] theorem State.store_wadi (s : State) a bs : (s.store a bs).wadi = s.wadi := rfl
@[simp] theorem State.store_queues (s : State) a bs : (s.store a bs).queues = s.queues := rfl
@[simp] theorem State.store_ports (s : State) a bs : (s.store a bs).ports = s.ports := rfl
@[simp] theorem State.store_routes (s : State) a bs : (s.store a bs).routes = s.routes := rfl
@[simp] theorem State.store_members (s : State) a bs : (s.store a bs).members = s.members := rfl
@[simp] theorem State.store_epoch (s : State) a bs : (s.store a bs).epoch = s.epoch := rfl
@[simp] theorem State.store_annNo (s : State) a bs : (s.store a bs).annNo = s.annNo := rfl
@[simp] theorem State.store_wins (s : State) a bs : (s.store a bs).wins = s.wins := rfl
@[simp] theorem State.store_handles (s : State) a bs : (s.store a bs).handles = s.handles := rfl
@[simp] theorem State.store_mcasts (s : State) a bs : (s.store a bs).mcasts = s.mcasts := rfl
@[simp] theorem State.store_groups (s : State) a bs : (s.store a bs).groups = s.groups := rfl
@[simp] theorem State.store_tasks (s : State) a bs : (s.store a bs).tasks = s.tasks := rfl
@[simp] theorem State.store_ctxs (s : State) a bs : (s.store a bs).ctxs = s.ctxs := rfl
@[simp] theorem State.store_cores (s : State) a bs : (s.store a bs).cores = s.cores := rfl
@[simp] theorem State.store_ant (s : State) a bs : (s.store a bs).ant = s.ant := rfl
@[simp] theorem State.store_spadAcc (s : State) a bs : (s.store a bs).spadAcc = s.spadAcc := rfl
@[simp] theorem State.store_stacks (s : State) a bs : (s.store a bs).stackTab = s.stackTab := rfl
@[simp] theorem State.store_swarm (s : State) a bs : (s.store a bs).swarm = s.swarm := rfl
@[simp] theorem State.store_swarmDone (s : State) a bs : (s.store a bs).swarmDone = s.swarmDone := rfl
@[simp] theorem State.store_digests (s : State) a bs : (s.store a bs).digests = s.digests := rfl
@[simp] theorem State.store_takeover (s : State) a bs : (s.store a bs).takeover = s.takeover := rfl
@[simp] theorem State.store_shadowOf (s : State) a bs : (s.store a bs).shadowOf = s.shadowOf := rfl
@[simp] theorem State.store_history (s : State) a bs : (s.store a bs).history = s.history := rfl
@[simp] theorem State.store_params (s : State) a bs : (s.store a bs).params = s.params := rfl
@[simp] theorem State.store_scan (s : State) a bs : (s.store a bs).scan = s.scan := rfl
@[simp] theorem State.store_scanPins (s : State) a bs : (s.store a bs).scanPins = s.scanPins := rfl
@[simp] theorem State.store_owners (s : State) a bs : (s.store a bs).owners = s.owners := rfl
@[simp] theorem State.store_free (s : State) a bs : (s.store a bs).free = s.free := rfl
@[simp] theorem State.store_out (s : State) a bs : (s.store a bs).out = s.out := rfl

@[simp] theorem State.wipe_pending (s : State) a n : (s.wipe a n).pending = s.pending := rfl
@[simp] theorem State.wipe_power (s : State) a n : (s.wipe a n).power = s.power := rfl
@[simp] theorem State.wipe_retry (s : State) a n : (s.wipe a n).retry = s.retry := rfl
@[simp] theorem State.wipe_regs (s : State) a n : (s.wipe a n).regs = s.regs := rfl
@[simp] theorem State.wipe_flash0 (s : State) a n : (s.wipe a n).flash0 = s.flash0 := rfl
@[simp] theorem State.wipe_flash1 (s : State) a n : (s.wipe a n).flash1 = s.flash1 := rfl
@[simp] theorem State.wipe_ledger0 (s : State) a n : (s.wipe a n).ledger0 = s.ledger0 := rfl
@[simp] theorem State.wipe_ledger1 (s : State) a n : (s.wipe a n).ledger1 = s.ledger1 := rfl
@[simp] theorem State.wipe_start (s : State) a n : (s.wipe a n).start = s.start := rfl
@[simp] theorem State.wipe_cfg (s : State) a n : (s.wipe a n).cfg = s.cfg := rfl
@[simp] theorem State.wipe_hmd (s : State) a n : (s.wipe a n).hmd = s.hmd := rfl
@[simp] theorem State.wipe_wadi (s : State) a n : (s.wipe a n).wadi = s.wadi := rfl
@[simp] theorem State.wipe_queues (s : State) a n : (s.wipe a n).queues = s.queues := rfl
@[simp] theorem State.wipe_ports (s : State) a n : (s.wipe a n).ports = s.ports := rfl
@[simp] theorem State.wipe_routes (s : State) a n : (s.wipe a n).routes = s.routes := rfl
@[simp] theorem State.wipe_members (s : State) a n : (s.wipe a n).members = s.members := rfl
@[simp] theorem State.wipe_epoch (s : State) a n : (s.wipe a n).epoch = s.epoch := rfl
@[simp] theorem State.wipe_annNo (s : State) a n : (s.wipe a n).annNo = s.annNo := rfl
@[simp] theorem State.wipe_wins (s : State) a n : (s.wipe a n).wins = s.wins := rfl
@[simp] theorem State.wipe_handles (s : State) a n : (s.wipe a n).handles = s.handles := rfl
@[simp] theorem State.wipe_mcasts (s : State) a n : (s.wipe a n).mcasts = s.mcasts := rfl
@[simp] theorem State.wipe_groups (s : State) a n : (s.wipe a n).groups = s.groups := rfl
@[simp] theorem State.wipe_tasks (s : State) a n : (s.wipe a n).tasks = s.tasks := rfl
@[simp] theorem State.wipe_ctxs (s : State) a n : (s.wipe a n).ctxs = s.ctxs := rfl
@[simp] theorem State.wipe_cores (s : State) a n : (s.wipe a n).cores = s.cores := rfl
@[simp] theorem State.wipe_ant (s : State) a n : (s.wipe a n).ant = s.ant := rfl
@[simp] theorem State.wipe_spadAcc (s : State) a n : (s.wipe a n).spadAcc = s.spadAcc := rfl
@[simp] theorem State.wipe_stacks (s : State) a n : (s.wipe a n).stackTab = s.stackTab := rfl
@[simp] theorem State.wipe_swarm (s : State) a n : (s.wipe a n).swarm = s.swarm := rfl
@[simp] theorem State.wipe_swarmDone (s : State) a n : (s.wipe a n).swarmDone = s.swarmDone := rfl
@[simp] theorem State.wipe_digests (s : State) a n : (s.wipe a n).digests = s.digests := rfl
@[simp] theorem State.wipe_takeover (s : State) a n : (s.wipe a n).takeover = s.takeover := rfl
@[simp] theorem State.wipe_shadowOf (s : State) a n : (s.wipe a n).shadowOf = s.shadowOf := rfl
@[simp] theorem State.wipe_history (s : State) a n : (s.wipe a n).history = s.history := rfl
@[simp] theorem State.wipe_params (s : State) a n : (s.wipe a n).params = s.params := rfl
@[simp] theorem State.wipe_scan (s : State) a n : (s.wipe a n).scan = s.scan := rfl
@[simp] theorem State.wipe_scanPins (s : State) a n : (s.wipe a n).scanPins = s.scanPins := rfl
@[simp] theorem State.wipe_owners (s : State) a n : (s.wipe a n).owners = s.owners := rfl
@[simp] theorem State.wipe_free (s : State) a n : (s.wipe a n).free = s.free := rfl
@[simp] theorem State.wipe_out (s : State) a n : (s.wipe a n).out = s.out := rfl

@[simp] theorem State.putQ_pending (s : State) q x : (s.putQ q x).pending = s.pending := rfl
@[simp] theorem State.putQ_power (s : State) q x : (s.putQ q x).power = s.power := rfl
@[simp] theorem State.putQ_retry (s : State) q x : (s.putQ q x).retry = s.retry := rfl
@[simp] theorem State.putQ_regs (s : State) q x : (s.putQ q x).regs = s.regs := rfl
@[simp] theorem State.putQ_mem (s : State) q x : (s.putQ q x).mem = s.mem := rfl
@[simp] theorem State.putQ_badBytes (s : State) q x : (s.putQ q x).badBytes = s.badBytes := rfl
@[simp] theorem State.putQ_badAcc (s : State) q x : (s.putQ q x).badAcc = s.badAcc := rfl
@[simp] theorem State.putQ_softAcc (s : State) q x : (s.putQ q x).softAcc = s.softAcc := rfl
@[simp] theorem State.putQ_flash0 (s : State) q x : (s.putQ q x).flash0 = s.flash0 := rfl
@[simp] theorem State.putQ_flash1 (s : State) q x : (s.putQ q x).flash1 = s.flash1 := rfl
@[simp] theorem State.putQ_ledger0 (s : State) q x : (s.putQ q x).ledger0 = s.ledger0 := rfl
@[simp] theorem State.putQ_ledger1 (s : State) q x : (s.putQ q x).ledger1 = s.ledger1 := rfl
@[simp] theorem State.putQ_start (s : State) q x : (s.putQ q x).start = s.start := rfl
@[simp] theorem State.putQ_cfg (s : State) q x : (s.putQ q x).cfg = s.cfg := rfl
@[simp] theorem State.putQ_hmd (s : State) q x : (s.putQ q x).hmd = s.hmd := rfl
@[simp] theorem State.putQ_wadi (s : State) q x : (s.putQ q x).wadi = s.wadi := rfl
@[simp] theorem State.putQ_ports (s : State) q x : (s.putQ q x).ports = s.ports := rfl
@[simp] theorem State.putQ_routes (s : State) q x : (s.putQ q x).routes = s.routes := rfl
@[simp] theorem State.putQ_members (s : State) q x : (s.putQ q x).members = s.members := rfl
@[simp] theorem State.putQ_epoch (s : State) q x : (s.putQ q x).epoch = s.epoch := rfl
@[simp] theorem State.putQ_annNo (s : State) q x : (s.putQ q x).annNo = s.annNo := rfl
@[simp] theorem State.putQ_wins (s : State) q x : (s.putQ q x).wins = s.wins := rfl
@[simp] theorem State.putQ_handles (s : State) q x : (s.putQ q x).handles = s.handles := rfl
@[simp] theorem State.putQ_mcasts (s : State) q x : (s.putQ q x).mcasts = s.mcasts := rfl
@[simp] theorem State.putQ_groups (s : State) q x : (s.putQ q x).groups = s.groups := rfl
@[simp] theorem State.putQ_tasks (s : State) q x : (s.putQ q x).tasks = s.tasks := rfl
@[simp] theorem State.putQ_ctxs (s : State) q x : (s.putQ q x).ctxs = s.ctxs := rfl
@[simp] theorem State.putQ_cores (s : State) q x : (s.putQ q x).cores = s.cores := rfl
@[simp] theorem State.putQ_ant (s : State) q x : (s.putQ q x).ant = s.ant := rfl
@[simp] theorem State.putQ_spadAcc (s : State) q x : (s.putQ q x).spadAcc = s.spadAcc := rfl
@[simp] theorem State.putQ_stacks (s : State) q x : (s.putQ q x).stackTab = s.stackTab := rfl
@[simp] theorem State.putQ_swarm (s : State) q x : (s.putQ q x).swarm = s.swarm := rfl
@[simp] theorem State.putQ_swarmDone (s : State) q x : (s.putQ q x).swarmDone = s.swarmDone := rfl
@[simp] theorem State.putQ_digests (s : State) q x : (s.putQ q x).digests = s.digests := rfl
@[simp] theorem State.putQ_takeover (s : State) q x : (s.putQ q x).takeover = s.takeover := rfl
@[simp] theorem State.putQ_shadowOf (s : State) q x : (s.putQ q x).shadowOf = s.shadowOf := rfl
@[simp] theorem State.putQ_history (s : State) q x : (s.putQ q x).history = s.history := rfl
@[simp] theorem State.putQ_params (s : State) q x : (s.putQ q x).params = s.params := rfl
@[simp] theorem State.putQ_scan (s : State) q x : (s.putQ q x).scan = s.scan := rfl
@[simp] theorem State.putQ_scanPins (s : State) q x : (s.putQ q x).scanPins = s.scanPins := rfl
@[simp] theorem State.putQ_owners (s : State) q x : (s.putQ q x).owners = s.owners := rfl
@[simp] theorem State.putQ_free (s : State) q x : (s.putQ q x).free = s.free := rfl
@[simp] theorem State.putQ_out (s : State) q x : (s.putQ q x).out = s.out := rfl

@[simp] theorem State.putPort_pending (s : State) p x : (s.putPort p x).pending = s.pending := rfl
@[simp] theorem State.putPort_power (s : State) p x : (s.putPort p x).power = s.power := rfl
@[simp] theorem State.putPort_retry (s : State) p x : (s.putPort p x).retry = s.retry := rfl
@[simp] theorem State.putPort_regs (s : State) p x : (s.putPort p x).regs = s.regs := rfl
@[simp] theorem State.putPort_mem (s : State) p x : (s.putPort p x).mem = s.mem := rfl
@[simp] theorem State.putPort_badBytes (s : State) p x : (s.putPort p x).badBytes = s.badBytes := rfl
@[simp] theorem State.putPort_badAcc (s : State) p x : (s.putPort p x).badAcc = s.badAcc := rfl
@[simp] theorem State.putPort_softAcc (s : State) p x : (s.putPort p x).softAcc = s.softAcc := rfl
@[simp] theorem State.putPort_flash0 (s : State) p x : (s.putPort p x).flash0 = s.flash0 := rfl
@[simp] theorem State.putPort_flash1 (s : State) p x : (s.putPort p x).flash1 = s.flash1 := rfl
@[simp] theorem State.putPort_ledger0 (s : State) p x : (s.putPort p x).ledger0 = s.ledger0 := rfl
@[simp] theorem State.putPort_ledger1 (s : State) p x : (s.putPort p x).ledger1 = s.ledger1 := rfl
@[simp] theorem State.putPort_start (s : State) p x : (s.putPort p x).start = s.start := rfl
@[simp] theorem State.putPort_cfg (s : State) p x : (s.putPort p x).cfg = s.cfg := rfl
@[simp] theorem State.putPort_hmd (s : State) p x : (s.putPort p x).hmd = s.hmd := rfl
@[simp] theorem State.putPort_wadi (s : State) p x : (s.putPort p x).wadi = s.wadi := rfl
@[simp] theorem State.putPort_queues (s : State) p x : (s.putPort p x).queues = s.queues := rfl
@[simp] theorem State.putPort_routes (s : State) p x : (s.putPort p x).routes = s.routes := rfl
@[simp] theorem State.putPort_members (s : State) p x : (s.putPort p x).members = s.members := rfl
@[simp] theorem State.putPort_epoch (s : State) p x : (s.putPort p x).epoch = s.epoch := rfl
@[simp] theorem State.putPort_annNo (s : State) p x : (s.putPort p x).annNo = s.annNo := rfl
@[simp] theorem State.putPort_wins (s : State) p x : (s.putPort p x).wins = s.wins := rfl
@[simp] theorem State.putPort_handles (s : State) p x : (s.putPort p x).handles = s.handles := rfl
@[simp] theorem State.putPort_mcasts (s : State) p x : (s.putPort p x).mcasts = s.mcasts := rfl
@[simp] theorem State.putPort_groups (s : State) p x : (s.putPort p x).groups = s.groups := rfl
@[simp] theorem State.putPort_tasks (s : State) p x : (s.putPort p x).tasks = s.tasks := rfl
@[simp] theorem State.putPort_ctxs (s : State) p x : (s.putPort p x).ctxs = s.ctxs := rfl
@[simp] theorem State.putPort_cores (s : State) p x : (s.putPort p x).cores = s.cores := rfl
@[simp] theorem State.putPort_ant (s : State) p x : (s.putPort p x).ant = s.ant := rfl
@[simp] theorem State.putPort_spadAcc (s : State) p x : (s.putPort p x).spadAcc = s.spadAcc := rfl
@[simp] theorem State.putPort_stacks (s : State) p x : (s.putPort p x).stackTab = s.stackTab := rfl
@[simp] theorem State.putPort_swarm (s : State) p x : (s.putPort p x).swarm = s.swarm := rfl
@[simp] theorem State.putPort_swarmDone (s : State) p x : (s.putPort p x).swarmDone = s.swarmDone := rfl
@[simp] theorem State.putPort_digests (s : State) p x : (s.putPort p x).digests = s.digests := rfl
@[simp] theorem State.putPort_takeover (s : State) p x : (s.putPort p x).takeover = s.takeover := rfl
@[simp] theorem State.putPort_shadowOf (s : State) p x : (s.putPort p x).shadowOf = s.shadowOf := rfl
@[simp] theorem State.putPort_history (s : State) p x : (s.putPort p x).history = s.history := rfl
@[simp] theorem State.putPort_params (s : State) p x : (s.putPort p x).params = s.params := rfl
@[simp] theorem State.putPort_scan (s : State) p x : (s.putPort p x).scan = s.scan := rfl
@[simp] theorem State.putPort_scanPins (s : State) p x : (s.putPort p x).scanPins = s.scanPins := rfl
@[simp] theorem State.putPort_owners (s : State) p x : (s.putPort p x).owners = s.owners := rfl
@[simp] theorem State.putPort_free (s : State) p x : (s.putPort p x).free = s.free := rfl
@[simp] theorem State.putPort_out (s : State) p x : (s.putPort p x).out = s.out := rfl

@[simp] theorem State.putMember_pending (s : State) i x : (s.putMember i x).pending = s.pending := rfl
@[simp] theorem State.putMember_power (s : State) i x : (s.putMember i x).power = s.power := rfl
@[simp] theorem State.putMember_retry (s : State) i x : (s.putMember i x).retry = s.retry := rfl
@[simp] theorem State.putMember_regs (s : State) i x : (s.putMember i x).regs = s.regs := rfl
@[simp] theorem State.putMember_mem (s : State) i x : (s.putMember i x).mem = s.mem := rfl
@[simp] theorem State.putMember_badBytes (s : State) i x : (s.putMember i x).badBytes = s.badBytes := rfl
@[simp] theorem State.putMember_badAcc (s : State) i x : (s.putMember i x).badAcc = s.badAcc := rfl
@[simp] theorem State.putMember_softAcc (s : State) i x : (s.putMember i x).softAcc = s.softAcc := rfl
@[simp] theorem State.putMember_flash0 (s : State) i x : (s.putMember i x).flash0 = s.flash0 := rfl
@[simp] theorem State.putMember_flash1 (s : State) i x : (s.putMember i x).flash1 = s.flash1 := rfl
@[simp] theorem State.putMember_ledger0 (s : State) i x : (s.putMember i x).ledger0 = s.ledger0 := rfl
@[simp] theorem State.putMember_ledger1 (s : State) i x : (s.putMember i x).ledger1 = s.ledger1 := rfl
@[simp] theorem State.putMember_start (s : State) i x : (s.putMember i x).start = s.start := rfl
@[simp] theorem State.putMember_cfg (s : State) i x : (s.putMember i x).cfg = s.cfg := rfl
@[simp] theorem State.putMember_hmd (s : State) i x : (s.putMember i x).hmd = s.hmd := rfl
@[simp] theorem State.putMember_wadi (s : State) i x : (s.putMember i x).wadi = s.wadi := rfl
@[simp] theorem State.putMember_queues (s : State) i x : (s.putMember i x).queues = s.queues := rfl
@[simp] theorem State.putMember_ports (s : State) i x : (s.putMember i x).ports = s.ports := rfl
@[simp] theorem State.putMember_routes (s : State) i x : (s.putMember i x).routes = s.routes := rfl
@[simp] theorem State.putMember_epoch (s : State) i x : (s.putMember i x).epoch = s.epoch := rfl
@[simp] theorem State.putMember_annNo (s : State) i x : (s.putMember i x).annNo = s.annNo := rfl
@[simp] theorem State.putMember_wins (s : State) i x : (s.putMember i x).wins = s.wins := rfl
@[simp] theorem State.putMember_handles (s : State) i x : (s.putMember i x).handles = s.handles := rfl
@[simp] theorem State.putMember_mcasts (s : State) i x : (s.putMember i x).mcasts = s.mcasts := rfl
@[simp] theorem State.putMember_groups (s : State) i x : (s.putMember i x).groups = s.groups := rfl
@[simp] theorem State.putMember_tasks (s : State) i x : (s.putMember i x).tasks = s.tasks := rfl
@[simp] theorem State.putMember_ctxs (s : State) i x : (s.putMember i x).ctxs = s.ctxs := rfl
@[simp] theorem State.putMember_cores (s : State) i x : (s.putMember i x).cores = s.cores := rfl
@[simp] theorem State.putMember_ant (s : State) i x : (s.putMember i x).ant = s.ant := rfl
@[simp] theorem State.putMember_spadAcc (s : State) i x : (s.putMember i x).spadAcc = s.spadAcc := rfl
@[simp] theorem State.putMember_stacks (s : State) i x : (s.putMember i x).stackTab = s.stackTab := rfl
@[simp] theorem State.putMember_swarm (s : State) i x : (s.putMember i x).swarm = s.swarm := rfl
@[simp] theorem State.putMember_swarmDone (s : State) i x : (s.putMember i x).swarmDone = s.swarmDone := rfl
@[simp] theorem State.putMember_digests (s : State) i x : (s.putMember i x).digests = s.digests := rfl
@[simp] theorem State.putMember_takeover (s : State) i x : (s.putMember i x).takeover = s.takeover := rfl
@[simp] theorem State.putMember_shadowOf (s : State) i x : (s.putMember i x).shadowOf = s.shadowOf := rfl
@[simp] theorem State.putMember_history (s : State) i x : (s.putMember i x).history = s.history := rfl
@[simp] theorem State.putMember_params (s : State) i x : (s.putMember i x).params = s.params := rfl
@[simp] theorem State.putMember_scan (s : State) i x : (s.putMember i x).scan = s.scan := rfl
@[simp] theorem State.putMember_scanPins (s : State) i x : (s.putMember i x).scanPins = s.scanPins := rfl
@[simp] theorem State.putMember_owners (s : State) i x : (s.putMember i x).owners = s.owners := rfl
@[simp] theorem State.putMember_free (s : State) i x : (s.putMember i x).free = s.free := rfl
@[simp] theorem State.putMember_out (s : State) i x : (s.putMember i x).out = s.out := rfl

@[simp] theorem State.putWin_pending (s : State) e x : (s.putWin e x).pending = s.pending := rfl
@[simp] theorem State.putWin_power (s : State) e x : (s.putWin e x).power = s.power := rfl
@[simp] theorem State.putWin_retry (s : State) e x : (s.putWin e x).retry = s.retry := rfl
@[simp] theorem State.putWin_regs (s : State) e x : (s.putWin e x).regs = s.regs := rfl
@[simp] theorem State.putWin_mem (s : State) e x : (s.putWin e x).mem = s.mem := rfl
@[simp] theorem State.putWin_badBytes (s : State) e x : (s.putWin e x).badBytes = s.badBytes := rfl
@[simp] theorem State.putWin_badAcc (s : State) e x : (s.putWin e x).badAcc = s.badAcc := rfl
@[simp] theorem State.putWin_softAcc (s : State) e x : (s.putWin e x).softAcc = s.softAcc := rfl
@[simp] theorem State.putWin_flash0 (s : State) e x : (s.putWin e x).flash0 = s.flash0 := rfl
@[simp] theorem State.putWin_flash1 (s : State) e x : (s.putWin e x).flash1 = s.flash1 := rfl
@[simp] theorem State.putWin_ledger0 (s : State) e x : (s.putWin e x).ledger0 = s.ledger0 := rfl
@[simp] theorem State.putWin_ledger1 (s : State) e x : (s.putWin e x).ledger1 = s.ledger1 := rfl
@[simp] theorem State.putWin_start (s : State) e x : (s.putWin e x).start = s.start := rfl
@[simp] theorem State.putWin_cfg (s : State) e x : (s.putWin e x).cfg = s.cfg := rfl
@[simp] theorem State.putWin_hmd (s : State) e x : (s.putWin e x).hmd = s.hmd := rfl
@[simp] theorem State.putWin_wadi (s : State) e x : (s.putWin e x).wadi = s.wadi := rfl
@[simp] theorem State.putWin_queues (s : State) e x : (s.putWin e x).queues = s.queues := rfl
@[simp] theorem State.putWin_ports (s : State) e x : (s.putWin e x).ports = s.ports := rfl
@[simp] theorem State.putWin_routes (s : State) e x : (s.putWin e x).routes = s.routes := rfl
@[simp] theorem State.putWin_members (s : State) e x : (s.putWin e x).members = s.members := rfl
@[simp] theorem State.putWin_epoch (s : State) e x : (s.putWin e x).epoch = s.epoch := rfl
@[simp] theorem State.putWin_annNo (s : State) e x : (s.putWin e x).annNo = s.annNo := rfl
@[simp] theorem State.putWin_handles (s : State) e x : (s.putWin e x).handles = s.handles := rfl
@[simp] theorem State.putWin_mcasts (s : State) e x : (s.putWin e x).mcasts = s.mcasts := rfl
@[simp] theorem State.putWin_groups (s : State) e x : (s.putWin e x).groups = s.groups := rfl
@[simp] theorem State.putWin_tasks (s : State) e x : (s.putWin e x).tasks = s.tasks := rfl
@[simp] theorem State.putWin_ctxs (s : State) e x : (s.putWin e x).ctxs = s.ctxs := rfl
@[simp] theorem State.putWin_cores (s : State) e x : (s.putWin e x).cores = s.cores := rfl
@[simp] theorem State.putWin_ant (s : State) e x : (s.putWin e x).ant = s.ant := rfl
@[simp] theorem State.putWin_spadAcc (s : State) e x : (s.putWin e x).spadAcc = s.spadAcc := rfl
@[simp] theorem State.putWin_stacks (s : State) e x : (s.putWin e x).stackTab = s.stackTab := rfl
@[simp] theorem State.putWin_swarm (s : State) e x : (s.putWin e x).swarm = s.swarm := rfl
@[simp] theorem State.putWin_swarmDone (s : State) e x : (s.putWin e x).swarmDone = s.swarmDone := rfl
@[simp] theorem State.putWin_digests (s : State) e x : (s.putWin e x).digests = s.digests := rfl
@[simp] theorem State.putWin_takeover (s : State) e x : (s.putWin e x).takeover = s.takeover := rfl
@[simp] theorem State.putWin_shadowOf (s : State) e x : (s.putWin e x).shadowOf = s.shadowOf := rfl
@[simp] theorem State.putWin_history (s : State) e x : (s.putWin e x).history = s.history := rfl
@[simp] theorem State.putWin_params (s : State) e x : (s.putWin e x).params = s.params := rfl
@[simp] theorem State.putWin_scan (s : State) e x : (s.putWin e x).scan = s.scan := rfl
@[simp] theorem State.putWin_scanPins (s : State) e x : (s.putWin e x).scanPins = s.scanPins := rfl
@[simp] theorem State.putWin_owners (s : State) e x : (s.putWin e x).owners = s.owners := rfl
@[simp] theorem State.putWin_free (s : State) e x : (s.putWin e x).free = s.free := rfl
@[simp] theorem State.putWin_out (s : State) e x : (s.putWin e x).out = s.out := rfl

@[simp] theorem State.putHandle_pending (s : State) h x : (s.putHandle h x).pending = s.pending := rfl
@[simp] theorem State.putHandle_power (s : State) h x : (s.putHandle h x).power = s.power := rfl
@[simp] theorem State.putHandle_retry (s : State) h x : (s.putHandle h x).retry = s.retry := rfl
@[simp] theorem State.putHandle_regs (s : State) h x : (s.putHandle h x).regs = s.regs := rfl
@[simp] theorem State.putHandle_mem (s : State) h x : (s.putHandle h x).mem = s.mem := rfl
@[simp] theorem State.putHandle_badBytes (s : State) h x : (s.putHandle h x).badBytes = s.badBytes := rfl
@[simp] theorem State.putHandle_badAcc (s : State) h x : (s.putHandle h x).badAcc = s.badAcc := rfl
@[simp] theorem State.putHandle_softAcc (s : State) h x : (s.putHandle h x).softAcc = s.softAcc := rfl
@[simp] theorem State.putHandle_flash0 (s : State) h x : (s.putHandle h x).flash0 = s.flash0 := rfl
@[simp] theorem State.putHandle_flash1 (s : State) h x : (s.putHandle h x).flash1 = s.flash1 := rfl
@[simp] theorem State.putHandle_ledger0 (s : State) h x : (s.putHandle h x).ledger0 = s.ledger0 := rfl
@[simp] theorem State.putHandle_ledger1 (s : State) h x : (s.putHandle h x).ledger1 = s.ledger1 := rfl
@[simp] theorem State.putHandle_start (s : State) h x : (s.putHandle h x).start = s.start := rfl
@[simp] theorem State.putHandle_cfg (s : State) h x : (s.putHandle h x).cfg = s.cfg := rfl
@[simp] theorem State.putHandle_hmd (s : State) h x : (s.putHandle h x).hmd = s.hmd := rfl
@[simp] theorem State.putHandle_wadi (s : State) h x : (s.putHandle h x).wadi = s.wadi := rfl
@[simp] theorem State.putHandle_queues (s : State) h x : (s.putHandle h x).queues = s.queues := rfl
@[simp] theorem State.putHandle_ports (s : State) h x : (s.putHandle h x).ports = s.ports := rfl
@[simp] theorem State.putHandle_routes (s : State) h x : (s.putHandle h x).routes = s.routes := rfl
@[simp] theorem State.putHandle_members (s : State) h x : (s.putHandle h x).members = s.members := rfl
@[simp] theorem State.putHandle_epoch (s : State) h x : (s.putHandle h x).epoch = s.epoch := rfl
@[simp] theorem State.putHandle_annNo (s : State) h x : (s.putHandle h x).annNo = s.annNo := rfl
@[simp] theorem State.putHandle_wins (s : State) h x : (s.putHandle h x).wins = s.wins := rfl
@[simp] theorem State.putHandle_mcasts (s : State) h x : (s.putHandle h x).mcasts = s.mcasts := rfl
@[simp] theorem State.putHandle_groups (s : State) h x : (s.putHandle h x).groups = s.groups := rfl
@[simp] theorem State.putHandle_tasks (s : State) h x : (s.putHandle h x).tasks = s.tasks := rfl
@[simp] theorem State.putHandle_ctxs (s : State) h x : (s.putHandle h x).ctxs = s.ctxs := rfl
@[simp] theorem State.putHandle_cores (s : State) h x : (s.putHandle h x).cores = s.cores := rfl
@[simp] theorem State.putHandle_ant (s : State) h x : (s.putHandle h x).ant = s.ant := rfl
@[simp] theorem State.putHandle_spadAcc (s : State) h x : (s.putHandle h x).spadAcc = s.spadAcc := rfl
@[simp] theorem State.putHandle_stacks (s : State) h x : (s.putHandle h x).stackTab = s.stackTab := rfl
@[simp] theorem State.putHandle_swarm (s : State) h x : (s.putHandle h x).swarm = s.swarm := rfl
@[simp] theorem State.putHandle_swarmDone (s : State) h x : (s.putHandle h x).swarmDone = s.swarmDone := rfl
@[simp] theorem State.putHandle_digests (s : State) h x : (s.putHandle h x).digests = s.digests := rfl
@[simp] theorem State.putHandle_takeover (s : State) h x : (s.putHandle h x).takeover = s.takeover := rfl
@[simp] theorem State.putHandle_shadowOf (s : State) h x : (s.putHandle h x).shadowOf = s.shadowOf := rfl
@[simp] theorem State.putHandle_history (s : State) h x : (s.putHandle h x).history = s.history := rfl
@[simp] theorem State.putHandle_params (s : State) h x : (s.putHandle h x).params = s.params := rfl
@[simp] theorem State.putHandle_scan (s : State) h x : (s.putHandle h x).scan = s.scan := rfl
@[simp] theorem State.putHandle_scanPins (s : State) h x : (s.putHandle h x).scanPins = s.scanPins := rfl
@[simp] theorem State.putHandle_owners (s : State) h x : (s.putHandle h x).owners = s.owners := rfl
@[simp] theorem State.putHandle_free (s : State) h x : (s.putHandle h x).free = s.free := rfl
@[simp] theorem State.putHandle_out (s : State) h x : (s.putHandle h x).out = s.out := rfl

@[simp] theorem State.putMcast_pending (s : State) g x : (s.putMcast g x).pending = s.pending := rfl
@[simp] theorem State.putMcast_power (s : State) g x : (s.putMcast g x).power = s.power := rfl
@[simp] theorem State.putMcast_retry (s : State) g x : (s.putMcast g x).retry = s.retry := rfl
@[simp] theorem State.putMcast_regs (s : State) g x : (s.putMcast g x).regs = s.regs := rfl
@[simp] theorem State.putMcast_mem (s : State) g x : (s.putMcast g x).mem = s.mem := rfl
@[simp] theorem State.putMcast_badBytes (s : State) g x : (s.putMcast g x).badBytes = s.badBytes := rfl
@[simp] theorem State.putMcast_badAcc (s : State) g x : (s.putMcast g x).badAcc = s.badAcc := rfl
@[simp] theorem State.putMcast_softAcc (s : State) g x : (s.putMcast g x).softAcc = s.softAcc := rfl
@[simp] theorem State.putMcast_flash0 (s : State) g x : (s.putMcast g x).flash0 = s.flash0 := rfl
@[simp] theorem State.putMcast_flash1 (s : State) g x : (s.putMcast g x).flash1 = s.flash1 := rfl
@[simp] theorem State.putMcast_ledger0 (s : State) g x : (s.putMcast g x).ledger0 = s.ledger0 := rfl
@[simp] theorem State.putMcast_ledger1 (s : State) g x : (s.putMcast g x).ledger1 = s.ledger1 := rfl
@[simp] theorem State.putMcast_start (s : State) g x : (s.putMcast g x).start = s.start := rfl
@[simp] theorem State.putMcast_cfg (s : State) g x : (s.putMcast g x).cfg = s.cfg := rfl
@[simp] theorem State.putMcast_hmd (s : State) g x : (s.putMcast g x).hmd = s.hmd := rfl
@[simp] theorem State.putMcast_wadi (s : State) g x : (s.putMcast g x).wadi = s.wadi := rfl
@[simp] theorem State.putMcast_queues (s : State) g x : (s.putMcast g x).queues = s.queues := rfl
@[simp] theorem State.putMcast_ports (s : State) g x : (s.putMcast g x).ports = s.ports := rfl
@[simp] theorem State.putMcast_routes (s : State) g x : (s.putMcast g x).routes = s.routes := rfl
@[simp] theorem State.putMcast_members (s : State) g x : (s.putMcast g x).members = s.members := rfl
@[simp] theorem State.putMcast_epoch (s : State) g x : (s.putMcast g x).epoch = s.epoch := rfl
@[simp] theorem State.putMcast_annNo (s : State) g x : (s.putMcast g x).annNo = s.annNo := rfl
@[simp] theorem State.putMcast_wins (s : State) g x : (s.putMcast g x).wins = s.wins := rfl
@[simp] theorem State.putMcast_handles (s : State) g x : (s.putMcast g x).handles = s.handles := rfl
@[simp] theorem State.putMcast_groups (s : State) g x : (s.putMcast g x).groups = s.groups := rfl
@[simp] theorem State.putMcast_tasks (s : State) g x : (s.putMcast g x).tasks = s.tasks := rfl
@[simp] theorem State.putMcast_ctxs (s : State) g x : (s.putMcast g x).ctxs = s.ctxs := rfl
@[simp] theorem State.putMcast_cores (s : State) g x : (s.putMcast g x).cores = s.cores := rfl
@[simp] theorem State.putMcast_ant (s : State) g x : (s.putMcast g x).ant = s.ant := rfl
@[simp] theorem State.putMcast_spadAcc (s : State) g x : (s.putMcast g x).spadAcc = s.spadAcc := rfl
@[simp] theorem State.putMcast_stacks (s : State) g x : (s.putMcast g x).stackTab = s.stackTab := rfl
@[simp] theorem State.putMcast_swarm (s : State) g x : (s.putMcast g x).swarm = s.swarm := rfl
@[simp] theorem State.putMcast_swarmDone (s : State) g x : (s.putMcast g x).swarmDone = s.swarmDone := rfl
@[simp] theorem State.putMcast_digests (s : State) g x : (s.putMcast g x).digests = s.digests := rfl
@[simp] theorem State.putMcast_takeover (s : State) g x : (s.putMcast g x).takeover = s.takeover := rfl
@[simp] theorem State.putMcast_shadowOf (s : State) g x : (s.putMcast g x).shadowOf = s.shadowOf := rfl
@[simp] theorem State.putMcast_history (s : State) g x : (s.putMcast g x).history = s.history := rfl
@[simp] theorem State.putMcast_params (s : State) g x : (s.putMcast g x).params = s.params := rfl
@[simp] theorem State.putMcast_scan (s : State) g x : (s.putMcast g x).scan = s.scan := rfl
@[simp] theorem State.putMcast_scanPins (s : State) g x : (s.putMcast g x).scanPins = s.scanPins := rfl
@[simp] theorem State.putMcast_owners (s : State) g x : (s.putMcast g x).owners = s.owners := rfl
@[simp] theorem State.putMcast_free (s : State) g x : (s.putMcast g x).free = s.free := rfl
@[simp] theorem State.putMcast_out (s : State) g x : (s.putMcast g x).out = s.out := rfl

@[simp] theorem State.putGroup_pending (s : State) g x : (s.putGroup g x).pending = s.pending := rfl
@[simp] theorem State.putGroup_power (s : State) g x : (s.putGroup g x).power = s.power := rfl
@[simp] theorem State.putGroup_retry (s : State) g x : (s.putGroup g x).retry = s.retry := rfl
@[simp] theorem State.putGroup_regs (s : State) g x : (s.putGroup g x).regs = s.regs := rfl
@[simp] theorem State.putGroup_mem (s : State) g x : (s.putGroup g x).mem = s.mem := rfl
@[simp] theorem State.putGroup_badBytes (s : State) g x : (s.putGroup g x).badBytes = s.badBytes := rfl
@[simp] theorem State.putGroup_badAcc (s : State) g x : (s.putGroup g x).badAcc = s.badAcc := rfl
@[simp] theorem State.putGroup_softAcc (s : State) g x : (s.putGroup g x).softAcc = s.softAcc := rfl
@[simp] theorem State.putGroup_flash0 (s : State) g x : (s.putGroup g x).flash0 = s.flash0 := rfl
@[simp] theorem State.putGroup_flash1 (s : State) g x : (s.putGroup g x).flash1 = s.flash1 := rfl
@[simp] theorem State.putGroup_ledger0 (s : State) g x : (s.putGroup g x).ledger0 = s.ledger0 := rfl
@[simp] theorem State.putGroup_ledger1 (s : State) g x : (s.putGroup g x).ledger1 = s.ledger1 := rfl
@[simp] theorem State.putGroup_start (s : State) g x : (s.putGroup g x).start = s.start := rfl
@[simp] theorem State.putGroup_cfg (s : State) g x : (s.putGroup g x).cfg = s.cfg := rfl
@[simp] theorem State.putGroup_hmd (s : State) g x : (s.putGroup g x).hmd = s.hmd := rfl
@[simp] theorem State.putGroup_wadi (s : State) g x : (s.putGroup g x).wadi = s.wadi := rfl
@[simp] theorem State.putGroup_queues (s : State) g x : (s.putGroup g x).queues = s.queues := rfl
@[simp] theorem State.putGroup_ports (s : State) g x : (s.putGroup g x).ports = s.ports := rfl
@[simp] theorem State.putGroup_routes (s : State) g x : (s.putGroup g x).routes = s.routes := rfl
@[simp] theorem State.putGroup_members (s : State) g x : (s.putGroup g x).members = s.members := rfl
@[simp] theorem State.putGroup_epoch (s : State) g x : (s.putGroup g x).epoch = s.epoch := rfl
@[simp] theorem State.putGroup_annNo (s : State) g x : (s.putGroup g x).annNo = s.annNo := rfl
@[simp] theorem State.putGroup_wins (s : State) g x : (s.putGroup g x).wins = s.wins := rfl
@[simp] theorem State.putGroup_handles (s : State) g x : (s.putGroup g x).handles = s.handles := rfl
@[simp] theorem State.putGroup_mcasts (s : State) g x : (s.putGroup g x).mcasts = s.mcasts := rfl
@[simp] theorem State.putGroup_tasks (s : State) g x : (s.putGroup g x).tasks = s.tasks := rfl
@[simp] theorem State.putGroup_ctxs (s : State) g x : (s.putGroup g x).ctxs = s.ctxs := rfl
@[simp] theorem State.putGroup_cores (s : State) g x : (s.putGroup g x).cores = s.cores := rfl
@[simp] theorem State.putGroup_ant (s : State) g x : (s.putGroup g x).ant = s.ant := rfl
@[simp] theorem State.putGroup_spadAcc (s : State) g x : (s.putGroup g x).spadAcc = s.spadAcc := rfl
@[simp] theorem State.putGroup_stacks (s : State) g x : (s.putGroup g x).stackTab = s.stackTab := rfl
@[simp] theorem State.putGroup_swarm (s : State) g x : (s.putGroup g x).swarm = s.swarm := rfl
@[simp] theorem State.putGroup_swarmDone (s : State) g x : (s.putGroup g x).swarmDone = s.swarmDone := rfl
@[simp] theorem State.putGroup_digests (s : State) g x : (s.putGroup g x).digests = s.digests := rfl
@[simp] theorem State.putGroup_takeover (s : State) g x : (s.putGroup g x).takeover = s.takeover := rfl
@[simp] theorem State.putGroup_shadowOf (s : State) g x : (s.putGroup g x).shadowOf = s.shadowOf := rfl
@[simp] theorem State.putGroup_history (s : State) g x : (s.putGroup g x).history = s.history := rfl
@[simp] theorem State.putGroup_params (s : State) g x : (s.putGroup g x).params = s.params := rfl
@[simp] theorem State.putGroup_scan (s : State) g x : (s.putGroup g x).scan = s.scan := rfl
@[simp] theorem State.putGroup_scanPins (s : State) g x : (s.putGroup g x).scanPins = s.scanPins := rfl
@[simp] theorem State.putGroup_owners (s : State) g x : (s.putGroup g x).owners = s.owners := rfl
@[simp] theorem State.putGroup_free (s : State) g x : (s.putGroup g x).free = s.free := rfl
@[simp] theorem State.putGroup_out (s : State) g x : (s.putGroup g x).out = s.out := rfl

@[simp] theorem State.putCtx_pending (s : State) x c : (s.putCtx x c).pending = s.pending := rfl
@[simp] theorem State.putCtx_power (s : State) x c : (s.putCtx x c).power = s.power := rfl
@[simp] theorem State.putCtx_retry (s : State) x c : (s.putCtx x c).retry = s.retry := rfl
@[simp] theorem State.putCtx_regs (s : State) x c : (s.putCtx x c).regs = s.regs := rfl
@[simp] theorem State.putCtx_mem (s : State) x c : (s.putCtx x c).mem = s.mem := rfl
@[simp] theorem State.putCtx_badBytes (s : State) x c : (s.putCtx x c).badBytes = s.badBytes := rfl
@[simp] theorem State.putCtx_badAcc (s : State) x c : (s.putCtx x c).badAcc = s.badAcc := rfl
@[simp] theorem State.putCtx_softAcc (s : State) x c : (s.putCtx x c).softAcc = s.softAcc := rfl
@[simp] theorem State.putCtx_flash0 (s : State) x c : (s.putCtx x c).flash0 = s.flash0 := rfl
@[simp] theorem State.putCtx_flash1 (s : State) x c : (s.putCtx x c).flash1 = s.flash1 := rfl
@[simp] theorem State.putCtx_ledger0 (s : State) x c : (s.putCtx x c).ledger0 = s.ledger0 := rfl
@[simp] theorem State.putCtx_ledger1 (s : State) x c : (s.putCtx x c).ledger1 = s.ledger1 := rfl
@[simp] theorem State.putCtx_start (s : State) x c : (s.putCtx x c).start = s.start := rfl
@[simp] theorem State.putCtx_cfg (s : State) x c : (s.putCtx x c).cfg = s.cfg := rfl
@[simp] theorem State.putCtx_hmd (s : State) x c : (s.putCtx x c).hmd = s.hmd := rfl
@[simp] theorem State.putCtx_wadi (s : State) x c : (s.putCtx x c).wadi = s.wadi := rfl
@[simp] theorem State.putCtx_queues (s : State) x c : (s.putCtx x c).queues = s.queues := rfl
@[simp] theorem State.putCtx_ports (s : State) x c : (s.putCtx x c).ports = s.ports := rfl
@[simp] theorem State.putCtx_routes (s : State) x c : (s.putCtx x c).routes = s.routes := rfl
@[simp] theorem State.putCtx_members (s : State) x c : (s.putCtx x c).members = s.members := rfl
@[simp] theorem State.putCtx_epoch (s : State) x c : (s.putCtx x c).epoch = s.epoch := rfl
@[simp] theorem State.putCtx_annNo (s : State) x c : (s.putCtx x c).annNo = s.annNo := rfl
@[simp] theorem State.putCtx_wins (s : State) x c : (s.putCtx x c).wins = s.wins := rfl
@[simp] theorem State.putCtx_handles (s : State) x c : (s.putCtx x c).handles = s.handles := rfl
@[simp] theorem State.putCtx_mcasts (s : State) x c : (s.putCtx x c).mcasts = s.mcasts := rfl
@[simp] theorem State.putCtx_groups (s : State) x c : (s.putCtx x c).groups = s.groups := rfl
@[simp] theorem State.putCtx_tasks (s : State) x c : (s.putCtx x c).tasks = s.tasks := rfl
@[simp] theorem State.putCtx_cores (s : State) x c : (s.putCtx x c).cores = s.cores := rfl
@[simp] theorem State.putCtx_ant (s : State) x c : (s.putCtx x c).ant = s.ant := rfl
@[simp] theorem State.putCtx_spadAcc (s : State) x c : (s.putCtx x c).spadAcc = s.spadAcc := rfl
@[simp] theorem State.putCtx_stacks (s : State) x c : (s.putCtx x c).stackTab = s.stackTab := rfl
@[simp] theorem State.putCtx_swarm (s : State) x c : (s.putCtx x c).swarm = s.swarm := rfl
@[simp] theorem State.putCtx_swarmDone (s : State) x c : (s.putCtx x c).swarmDone = s.swarmDone := rfl
@[simp] theorem State.putCtx_digests (s : State) x c : (s.putCtx x c).digests = s.digests := rfl
@[simp] theorem State.putCtx_takeover (s : State) x c : (s.putCtx x c).takeover = s.takeover := rfl
@[simp] theorem State.putCtx_shadowOf (s : State) x c : (s.putCtx x c).shadowOf = s.shadowOf := rfl
@[simp] theorem State.putCtx_history (s : State) x c : (s.putCtx x c).history = s.history := rfl
@[simp] theorem State.putCtx_params (s : State) x c : (s.putCtx x c).params = s.params := rfl
@[simp] theorem State.putCtx_scan (s : State) x c : (s.putCtx x c).scan = s.scan := rfl
@[simp] theorem State.putCtx_scanPins (s : State) x c : (s.putCtx x c).scanPins = s.scanPins := rfl
@[simp] theorem State.putCtx_owners (s : State) x c : (s.putCtx x c).owners = s.owners := rfl
@[simp] theorem State.putCtx_free (s : State) x c : (s.putCtx x c).free = s.free := rfl
@[simp] theorem State.putCtx_out (s : State) x c : (s.putCtx x c).out = s.out := rfl

@[simp] theorem State.putCore_pending (s : State) c x : (s.putCore c x).pending = s.pending := rfl
@[simp] theorem State.putCore_power (s : State) c x : (s.putCore c x).power = s.power := rfl
@[simp] theorem State.putCore_retry (s : State) c x : (s.putCore c x).retry = s.retry := rfl
@[simp] theorem State.putCore_regs (s : State) c x : (s.putCore c x).regs = s.regs := rfl
@[simp] theorem State.putCore_mem (s : State) c x : (s.putCore c x).mem = s.mem := rfl
@[simp] theorem State.putCore_badBytes (s : State) c x : (s.putCore c x).badBytes = s.badBytes := rfl
@[simp] theorem State.putCore_badAcc (s : State) c x : (s.putCore c x).badAcc = s.badAcc := rfl
@[simp] theorem State.putCore_softAcc (s : State) c x : (s.putCore c x).softAcc = s.softAcc := rfl
@[simp] theorem State.putCore_flash0 (s : State) c x : (s.putCore c x).flash0 = s.flash0 := rfl
@[simp] theorem State.putCore_flash1 (s : State) c x : (s.putCore c x).flash1 = s.flash1 := rfl
@[simp] theorem State.putCore_ledger0 (s : State) c x : (s.putCore c x).ledger0 = s.ledger0 := rfl
@[simp] theorem State.putCore_ledger1 (s : State) c x : (s.putCore c x).ledger1 = s.ledger1 := rfl
@[simp] theorem State.putCore_start (s : State) c x : (s.putCore c x).start = s.start := rfl
@[simp] theorem State.putCore_cfg (s : State) c x : (s.putCore c x).cfg = s.cfg := rfl
@[simp] theorem State.putCore_hmd (s : State) c x : (s.putCore c x).hmd = s.hmd := rfl
@[simp] theorem State.putCore_wadi (s : State) c x : (s.putCore c x).wadi = s.wadi := rfl
@[simp] theorem State.putCore_queues (s : State) c x : (s.putCore c x).queues = s.queues := rfl
@[simp] theorem State.putCore_ports (s : State) c x : (s.putCore c x).ports = s.ports := rfl
@[simp] theorem State.putCore_routes (s : State) c x : (s.putCore c x).routes = s.routes := rfl
@[simp] theorem State.putCore_members (s : State) c x : (s.putCore c x).members = s.members := rfl
@[simp] theorem State.putCore_epoch (s : State) c x : (s.putCore c x).epoch = s.epoch := rfl
@[simp] theorem State.putCore_annNo (s : State) c x : (s.putCore c x).annNo = s.annNo := rfl
@[simp] theorem State.putCore_wins (s : State) c x : (s.putCore c x).wins = s.wins := rfl
@[simp] theorem State.putCore_handles (s : State) c x : (s.putCore c x).handles = s.handles := rfl
@[simp] theorem State.putCore_mcasts (s : State) c x : (s.putCore c x).mcasts = s.mcasts := rfl
@[simp] theorem State.putCore_groups (s : State) c x : (s.putCore c x).groups = s.groups := rfl
@[simp] theorem State.putCore_tasks (s : State) c x : (s.putCore c x).tasks = s.tasks := rfl
@[simp] theorem State.putCore_ctxs (s : State) c x : (s.putCore c x).ctxs = s.ctxs := rfl
@[simp] theorem State.putCore_ant (s : State) c x : (s.putCore c x).ant = s.ant := rfl
@[simp] theorem State.putCore_spadAcc (s : State) c x : (s.putCore c x).spadAcc = s.spadAcc := rfl
@[simp] theorem State.putCore_stacks (s : State) c x : (s.putCore c x).stackTab = s.stackTab := rfl
@[simp] theorem State.putCore_swarm (s : State) c x : (s.putCore c x).swarm = s.swarm := rfl
@[simp] theorem State.putCore_swarmDone (s : State) c x : (s.putCore c x).swarmDone = s.swarmDone := rfl
@[simp] theorem State.putCore_digests (s : State) c x : (s.putCore c x).digests = s.digests := rfl
@[simp] theorem State.putCore_takeover (s : State) c x : (s.putCore c x).takeover = s.takeover := rfl
@[simp] theorem State.putCore_shadowOf (s : State) c x : (s.putCore c x).shadowOf = s.shadowOf := rfl
@[simp] theorem State.putCore_history (s : State) c x : (s.putCore c x).history = s.history := rfl
@[simp] theorem State.putCore_params (s : State) c x : (s.putCore c x).params = s.params := rfl
@[simp] theorem State.putCore_scan (s : State) c x : (s.putCore c x).scan = s.scan := rfl
@[simp] theorem State.putCore_scanPins (s : State) c x : (s.putCore c x).scanPins = s.scanPins := rfl
@[simp] theorem State.putCore_owners (s : State) c x : (s.putCore c x).owners = s.owners := rfl
@[simp] theorem State.putCore_free (s : State) c x : (s.putCore c x).free = s.free := rfl
@[simp] theorem State.putCore_out (s : State) c x : (s.putCore c x).out = s.out := rfl

@[simp] theorem State.putStack_pending (s : State) t x : (s.putStack t x).pending = s.pending := rfl
@[simp] theorem State.putStack_power (s : State) t x : (s.putStack t x).power = s.power := rfl
@[simp] theorem State.putStack_retry (s : State) t x : (s.putStack t x).retry = s.retry := rfl
@[simp] theorem State.putStack_regs (s : State) t x : (s.putStack t x).regs = s.regs := rfl
@[simp] theorem State.putStack_mem (s : State) t x : (s.putStack t x).mem = s.mem := rfl
@[simp] theorem State.putStack_badBytes (s : State) t x : (s.putStack t x).badBytes = s.badBytes := rfl
@[simp] theorem State.putStack_badAcc (s : State) t x : (s.putStack t x).badAcc = s.badAcc := rfl
@[simp] theorem State.putStack_softAcc (s : State) t x : (s.putStack t x).softAcc = s.softAcc := rfl
@[simp] theorem State.putStack_flash0 (s : State) t x : (s.putStack t x).flash0 = s.flash0 := rfl
@[simp] theorem State.putStack_flash1 (s : State) t x : (s.putStack t x).flash1 = s.flash1 := rfl
@[simp] theorem State.putStack_ledger0 (s : State) t x : (s.putStack t x).ledger0 = s.ledger0 := rfl
@[simp] theorem State.putStack_ledger1 (s : State) t x : (s.putStack t x).ledger1 = s.ledger1 := rfl
@[simp] theorem State.putStack_start (s : State) t x : (s.putStack t x).start = s.start := rfl
@[simp] theorem State.putStack_cfg (s : State) t x : (s.putStack t x).cfg = s.cfg := rfl
@[simp] theorem State.putStack_hmd (s : State) t x : (s.putStack t x).hmd = s.hmd := rfl
@[simp] theorem State.putStack_wadi (s : State) t x : (s.putStack t x).wadi = s.wadi := rfl
@[simp] theorem State.putStack_queues (s : State) t x : (s.putStack t x).queues = s.queues := rfl
@[simp] theorem State.putStack_ports (s : State) t x : (s.putStack t x).ports = s.ports := rfl
@[simp] theorem State.putStack_routes (s : State) t x : (s.putStack t x).routes = s.routes := rfl
@[simp] theorem State.putStack_members (s : State) t x : (s.putStack t x).members = s.members := rfl
@[simp] theorem State.putStack_epoch (s : State) t x : (s.putStack t x).epoch = s.epoch := rfl
@[simp] theorem State.putStack_annNo (s : State) t x : (s.putStack t x).annNo = s.annNo := rfl
@[simp] theorem State.putStack_wins (s : State) t x : (s.putStack t x).wins = s.wins := rfl
@[simp] theorem State.putStack_handles (s : State) t x : (s.putStack t x).handles = s.handles := rfl
@[simp] theorem State.putStack_mcasts (s : State) t x : (s.putStack t x).mcasts = s.mcasts := rfl
@[simp] theorem State.putStack_groups (s : State) t x : (s.putStack t x).groups = s.groups := rfl
@[simp] theorem State.putStack_tasks (s : State) t x : (s.putStack t x).tasks = s.tasks := rfl
@[simp] theorem State.putStack_ctxs (s : State) t x : (s.putStack t x).ctxs = s.ctxs := rfl
@[simp] theorem State.putStack_cores (s : State) t x : (s.putStack t x).cores = s.cores := rfl
@[simp] theorem State.putStack_ant (s : State) t x : (s.putStack t x).ant = s.ant := rfl
@[simp] theorem State.putStack_spadAcc (s : State) t x : (s.putStack t x).spadAcc = s.spadAcc := rfl
@[simp] theorem State.putStack_swarm (s : State) t x : (s.putStack t x).swarm = s.swarm := rfl
@[simp] theorem State.putStack_swarmDone (s : State) t x : (s.putStack t x).swarmDone = s.swarmDone := rfl
@[simp] theorem State.putStack_digests (s : State) t x : (s.putStack t x).digests = s.digests := rfl
@[simp] theorem State.putStack_takeover (s : State) t x : (s.putStack t x).takeover = s.takeover := rfl
@[simp] theorem State.putStack_shadowOf (s : State) t x : (s.putStack t x).shadowOf = s.shadowOf := rfl
@[simp] theorem State.putStack_history (s : State) t x : (s.putStack t x).history = s.history := rfl
@[simp] theorem State.putStack_params (s : State) t x : (s.putStack t x).params = s.params := rfl
@[simp] theorem State.putStack_scan (s : State) t x : (s.putStack t x).scan = s.scan := rfl
@[simp] theorem State.putStack_scanPins (s : State) t x : (s.putStack t x).scanPins = s.scanPins := rfl
@[simp] theorem State.putStack_owners (s : State) t x : (s.putStack t x).owners = s.owners := rfl
@[simp] theorem State.putStack_free (s : State) t x : (s.putStack t x).free = s.free := rfl
@[simp] theorem State.putStack_out (s : State) t x : (s.putStack t x).out = s.out := rfl

@[simp] theorem State.withWadi_pending (s : State) f : (s.withWadi f).pending = s.pending := rfl
@[simp] theorem State.withWadi_power (s : State) f : (s.withWadi f).power = s.power := rfl
@[simp] theorem State.withWadi_retry (s : State) f : (s.withWadi f).retry = s.retry := rfl
@[simp] theorem State.withWadi_regs (s : State) f : (s.withWadi f).regs = s.regs := rfl
@[simp] theorem State.withWadi_mem (s : State) f : (s.withWadi f).mem = s.mem := rfl
@[simp] theorem State.withWadi_badBytes (s : State) f : (s.withWadi f).badBytes = s.badBytes := rfl
@[simp] theorem State.withWadi_badAcc (s : State) f : (s.withWadi f).badAcc = s.badAcc := rfl
@[simp] theorem State.withWadi_softAcc (s : State) f : (s.withWadi f).softAcc = s.softAcc := rfl
@[simp] theorem State.withWadi_flash0 (s : State) f : (s.withWadi f).flash0 = s.flash0 := rfl
@[simp] theorem State.withWadi_flash1 (s : State) f : (s.withWadi f).flash1 = s.flash1 := rfl
@[simp] theorem State.withWadi_ledger0 (s : State) f : (s.withWadi f).ledger0 = s.ledger0 := rfl
@[simp] theorem State.withWadi_ledger1 (s : State) f : (s.withWadi f).ledger1 = s.ledger1 := rfl
@[simp] theorem State.withWadi_start (s : State) f : (s.withWadi f).start = s.start := rfl
@[simp] theorem State.withWadi_cfg (s : State) f : (s.withWadi f).cfg = s.cfg := rfl
@[simp] theorem State.withWadi_hmd (s : State) f : (s.withWadi f).hmd = s.hmd := rfl
@[simp] theorem State.withWadi_queues (s : State) f : (s.withWadi f).queues = s.queues := rfl
@[simp] theorem State.withWadi_ports (s : State) f : (s.withWadi f).ports = s.ports := rfl
@[simp] theorem State.withWadi_routes (s : State) f : (s.withWadi f).routes = s.routes := rfl
@[simp] theorem State.withWadi_members (s : State) f : (s.withWadi f).members = s.members := rfl
@[simp] theorem State.withWadi_epoch (s : State) f : (s.withWadi f).epoch = s.epoch := rfl
@[simp] theorem State.withWadi_annNo (s : State) f : (s.withWadi f).annNo = s.annNo := rfl
@[simp] theorem State.withWadi_wins (s : State) f : (s.withWadi f).wins = s.wins := rfl
@[simp] theorem State.withWadi_handles (s : State) f : (s.withWadi f).handles = s.handles := rfl
@[simp] theorem State.withWadi_mcasts (s : State) f : (s.withWadi f).mcasts = s.mcasts := rfl
@[simp] theorem State.withWadi_groups (s : State) f : (s.withWadi f).groups = s.groups := rfl
@[simp] theorem State.withWadi_tasks (s : State) f : (s.withWadi f).tasks = s.tasks := rfl
@[simp] theorem State.withWadi_ctxs (s : State) f : (s.withWadi f).ctxs = s.ctxs := rfl
@[simp] theorem State.withWadi_cores (s : State) f : (s.withWadi f).cores = s.cores := rfl
@[simp] theorem State.withWadi_ant (s : State) f : (s.withWadi f).ant = s.ant := rfl
@[simp] theorem State.withWadi_spadAcc (s : State) f : (s.withWadi f).spadAcc = s.spadAcc := rfl
@[simp] theorem State.withWadi_stacks (s : State) f : (s.withWadi f).stackTab = s.stackTab := rfl
@[simp] theorem State.withWadi_swarm (s : State) f : (s.withWadi f).swarm = s.swarm := rfl
@[simp] theorem State.withWadi_swarmDone (s : State) f : (s.withWadi f).swarmDone = s.swarmDone := rfl
@[simp] theorem State.withWadi_digests (s : State) f : (s.withWadi f).digests = s.digests := rfl
@[simp] theorem State.withWadi_takeover (s : State) f : (s.withWadi f).takeover = s.takeover := rfl
@[simp] theorem State.withWadi_shadowOf (s : State) f : (s.withWadi f).shadowOf = s.shadowOf := rfl
@[simp] theorem State.withWadi_history (s : State) f : (s.withWadi f).history = s.history := rfl
@[simp] theorem State.withWadi_params (s : State) f : (s.withWadi f).params = s.params := rfl
@[simp] theorem State.withWadi_scan (s : State) f : (s.withWadi f).scan = s.scan := rfl
@[simp] theorem State.withWadi_scanPins (s : State) f : (s.withWadi f).scanPins = s.scanPins := rfl
@[simp] theorem State.withWadi_owners (s : State) f : (s.withWadi f).owners = s.owners := rfl
@[simp] theorem State.withWadi_free (s : State) f : (s.withWadi f).free = s.free := rfl
@[simp] theorem State.withWadi_out (s : State) f : (s.withWadi f).out = s.out := rfl

@[simp] theorem State.used_pending (s : State) : (s.used).pending = s.pending := rfl
@[simp] theorem State.used_power (s : State) : (s.used).power = s.power := rfl
@[simp] theorem State.used_retry (s : State) : (s.used).retry = s.retry := rfl
@[simp] theorem State.used_regs (s : State) : (s.used).regs = s.regs := rfl
@[simp] theorem State.used_mem (s : State) : (s.used).mem = s.mem := rfl
@[simp] theorem State.used_badBytes (s : State) : (s.used).badBytes = s.badBytes := rfl
@[simp] theorem State.used_badAcc (s : State) : (s.used).badAcc = s.badAcc := rfl
@[simp] theorem State.used_softAcc (s : State) : (s.used).softAcc = s.softAcc := rfl
@[simp] theorem State.used_flash0 (s : State) : (s.used).flash0 = s.flash0 := rfl
@[simp] theorem State.used_flash1 (s : State) : (s.used).flash1 = s.flash1 := rfl
@[simp] theorem State.used_ledger0 (s : State) : (s.used).ledger0 = s.ledger0 := rfl
@[simp] theorem State.used_ledger1 (s : State) : (s.used).ledger1 = s.ledger1 := rfl
@[simp] theorem State.used_start (s : State) : (s.used).start = s.start := rfl
@[simp] theorem State.used_cfg (s : State) : (s.used).cfg = s.cfg := rfl
@[simp] theorem State.used_hmd (s : State) : (s.used).hmd = s.hmd := rfl
@[simp] theorem State.used_wadi (s : State) : (s.used).wadi = s.wadi := rfl
@[simp] theorem State.used_queues (s : State) : (s.used).queues = s.queues := rfl
@[simp] theorem State.used_ports (s : State) : (s.used).ports = s.ports := rfl
@[simp] theorem State.used_routes (s : State) : (s.used).routes = s.routes := rfl
@[simp] theorem State.used_members (s : State) : (s.used).members = s.members := rfl
@[simp] theorem State.used_epoch (s : State) : (s.used).epoch = s.epoch := rfl
@[simp] theorem State.used_annNo (s : State) : (s.used).annNo = s.annNo := rfl
@[simp] theorem State.used_wins (s : State) : (s.used).wins = s.wins := rfl
@[simp] theorem State.used_handles (s : State) : (s.used).handles = s.handles := rfl
@[simp] theorem State.used_mcasts (s : State) : (s.used).mcasts = s.mcasts := rfl
@[simp] theorem State.used_groups (s : State) : (s.used).groups = s.groups := rfl
@[simp] theorem State.used_tasks (s : State) : (s.used).tasks = s.tasks := rfl
@[simp] theorem State.used_ctxs (s : State) : (s.used).ctxs = s.ctxs := rfl
@[simp] theorem State.used_cores (s : State) : (s.used).cores = s.cores := rfl
@[simp] theorem State.used_ant (s : State) : (s.used).ant = s.ant := rfl
@[simp] theorem State.used_spadAcc (s : State) : (s.used).spadAcc = s.spadAcc := rfl
@[simp] theorem State.used_stacks (s : State) : (s.used).stackTab = s.stackTab := rfl
@[simp] theorem State.used_swarm (s : State) : (s.used).swarm = s.swarm := rfl
@[simp] theorem State.used_swarmDone (s : State) : (s.used).swarmDone = s.swarmDone := rfl
@[simp] theorem State.used_digests (s : State) : (s.used).digests = s.digests := rfl
@[simp] theorem State.used_takeover (s : State) : (s.used).takeover = s.takeover := rfl
@[simp] theorem State.used_shadowOf (s : State) : (s.used).shadowOf = s.shadowOf := rfl
@[simp] theorem State.used_history (s : State) : (s.used).history = s.history := rfl
@[simp] theorem State.used_params (s : State) : (s.used).params = s.params := rfl
@[simp] theorem State.used_scan (s : State) : (s.used).scan = s.scan := rfl
@[simp] theorem State.used_scanPins (s : State) : (s.used).scanPins = s.scanPins := rfl
@[simp] theorem State.used_owners (s : State) : (s.used).owners = s.owners := rfl
@[simp] theorem State.used_out (s : State) : (s.used).out = s.out := rfl

@[simp] theorem State.emit_pending (s : State) o : (s.emit o).pending = s.pending := rfl
@[simp] theorem State.emit_power (s : State) o : (s.emit o).power = s.power := rfl
@[simp] theorem State.emit_retry (s : State) o : (s.emit o).retry = s.retry := rfl
@[simp] theorem State.emit_regs (s : State) o : (s.emit o).regs = s.regs := rfl
@[simp] theorem State.emit_mem (s : State) o : (s.emit o).mem = s.mem := rfl
@[simp] theorem State.emit_badBytes (s : State) o : (s.emit o).badBytes = s.badBytes := rfl
@[simp] theorem State.emit_badAcc (s : State) o : (s.emit o).badAcc = s.badAcc := rfl
@[simp] theorem State.emit_softAcc (s : State) o : (s.emit o).softAcc = s.softAcc := rfl
@[simp] theorem State.emit_flash0 (s : State) o : (s.emit o).flash0 = s.flash0 := rfl
@[simp] theorem State.emit_flash1 (s : State) o : (s.emit o).flash1 = s.flash1 := rfl
@[simp] theorem State.emit_ledger0 (s : State) o : (s.emit o).ledger0 = s.ledger0 := rfl
@[simp] theorem State.emit_ledger1 (s : State) o : (s.emit o).ledger1 = s.ledger1 := rfl
@[simp] theorem State.emit_start (s : State) o : (s.emit o).start = s.start := rfl
@[simp] theorem State.emit_cfg (s : State) o : (s.emit o).cfg = s.cfg := rfl
@[simp] theorem State.emit_hmd (s : State) o : (s.emit o).hmd = s.hmd := rfl
@[simp] theorem State.emit_wadi (s : State) o : (s.emit o).wadi = s.wadi := rfl
@[simp] theorem State.emit_queues (s : State) o : (s.emit o).queues = s.queues := rfl
@[simp] theorem State.emit_ports (s : State) o : (s.emit o).ports = s.ports := rfl
@[simp] theorem State.emit_routes (s : State) o : (s.emit o).routes = s.routes := rfl
@[simp] theorem State.emit_members (s : State) o : (s.emit o).members = s.members := rfl
@[simp] theorem State.emit_epoch (s : State) o : (s.emit o).epoch = s.epoch := rfl
@[simp] theorem State.emit_annNo (s : State) o : (s.emit o).annNo = s.annNo := rfl
@[simp] theorem State.emit_wins (s : State) o : (s.emit o).wins = s.wins := rfl
@[simp] theorem State.emit_handles (s : State) o : (s.emit o).handles = s.handles := rfl
@[simp] theorem State.emit_mcasts (s : State) o : (s.emit o).mcasts = s.mcasts := rfl
@[simp] theorem State.emit_groups (s : State) o : (s.emit o).groups = s.groups := rfl
@[simp] theorem State.emit_tasks (s : State) o : (s.emit o).tasks = s.tasks := rfl
@[simp] theorem State.emit_ctxs (s : State) o : (s.emit o).ctxs = s.ctxs := rfl
@[simp] theorem State.emit_cores (s : State) o : (s.emit o).cores = s.cores := rfl
@[simp] theorem State.emit_ant (s : State) o : (s.emit o).ant = s.ant := rfl
@[simp] theorem State.emit_spadAcc (s : State) o : (s.emit o).spadAcc = s.spadAcc := rfl
@[simp] theorem State.emit_stacks (s : State) o : (s.emit o).stackTab = s.stackTab := rfl
@[simp] theorem State.emit_swarm (s : State) o : (s.emit o).swarm = s.swarm := rfl
@[simp] theorem State.emit_swarmDone (s : State) o : (s.emit o).swarmDone = s.swarmDone := rfl
@[simp] theorem State.emit_digests (s : State) o : (s.emit o).digests = s.digests := rfl
@[simp] theorem State.emit_takeover (s : State) o : (s.emit o).takeover = s.takeover := rfl
@[simp] theorem State.emit_shadowOf (s : State) o : (s.emit o).shadowOf = s.shadowOf := rfl
@[simp] theorem State.emit_history (s : State) o : (s.emit o).history = s.history := rfl
@[simp] theorem State.emit_params (s : State) o : (s.emit o).params = s.params := rfl
@[simp] theorem State.emit_scan (s : State) o : (s.emit o).scan = s.scan := rfl
@[simp] theorem State.emit_scanPins (s : State) o : (s.emit o).scanPins = s.scanPins := rfl
@[simp] theorem State.emit_owners (s : State) o : (s.emit o).owners = s.owners := rfl
@[simp] theorem State.emit_free (s : State) o : (s.emit o).free = s.free := rfl

@[simp] theorem State.putQ_queue_same (s : State) (k : Nat) x : (s.putQ k x).queue k = x := tget_tput_same _ _ _ _
theorem State.putQ_queue (s : State) (j k : Nat) x : (s.putQ k x).queue j = if j = k then x else s.queue j := tget_tput _ _ _ _ _
@[simp] theorem State.putPort_port_same (s : State) (k : Nat) x : (s.putPort k x).port k = x := tget_tput_same _ _ _ _
theorem State.putPort_port (s : State) (j k : Nat) x : (s.putPort k x).port j = if j = k then x else s.port j := tget_tput _ _ _ _ _
@[simp] theorem State.putMember_member_same (s : State) (k : Nat) x : (s.putMember k x).member k = x := tget_tput_same _ _ _ _
theorem State.putMember_member (s : State) (j k : Nat) x : (s.putMember k x).member j = if j = k then x else s.member j := tget_tput _ _ _ _ _
@[simp] theorem State.putWin_win_same (s : State) (k : Nat) x : (s.putWin k x).win k = x := tget_tput_same _ _ _ _
theorem State.putWin_win (s : State) (j k : Nat) x : (s.putWin k x).win j = if j = k then x else s.win j := tget_tput _ _ _ _ _
@[simp] theorem State.putHandle_handle_same (s : State) (k : Nat) x : (s.putHandle k x).handle k = x := tget_tput_same _ _ _ _
theorem State.putHandle_handle (s : State) (j k : Nat) x : (s.putHandle k x).handle j = if j = k then x else s.handle j := tget_tput _ _ _ _ _
@[simp] theorem State.putMcast_mcast_same (s : State) (k : Nat) x : (s.putMcast k x).mcast k = x := tget_tput_same _ _ _ _
theorem State.putMcast_mcast (s : State) (j k : Nat) x : (s.putMcast k x).mcast j = if j = k then x else s.mcast j := tget_tput _ _ _ _ _
@[simp] theorem State.putGroup_group_same (s : State) (k : Nat) x : (s.putGroup k x).group k = x := tget_tput_same _ _ _ _
theorem State.putGroup_group (s : State) (j k : Nat) x : (s.putGroup k x).group j = if j = k then x else s.group j := tget_tput _ _ _ _ _
@[simp] theorem State.putCtx_ctx_same (s : State) (k : Nat) x : (s.putCtx k x).ctx k = x := tget_tput_same _ _ _ _
theorem State.putCtx_ctx (s : State) (j k : Nat) x : (s.putCtx k x).ctx j = if j = k then x else s.ctx j := tget_tput _ _ _ _ _
@[simp] theorem State.putCore_core_same (s : State) (k : Nat) x : (s.putCore k x).core k = x := tget_tput_same _ _ _ _
theorem State.putCore_core (s : State) (j k : Nat) x : (s.putCore k x).core j = if j = k then x else s.core j := tget_tput _ _ _ _ _
@[simp] theorem State.putStack_stack_same (s : State) (k : Nat) x : (s.putStack k x).stack k = x := tget_tput_same _ _ _ _
theorem State.putStack_stack (s : State) (j k : Nat) x : (s.putStack k x).stack j = if j = k then x else s.stack j := tget_tput _ _ _ _ _

@[simp] theorem State.putReg_queue (s : State) a v (k : Nat) : (s.putReg a v).queue k = s.queue k := rfl
@[simp] theorem State.putReg_port (s : State) a v (k : Nat) : (s.putReg a v).port k = s.port k := rfl
@[simp] theorem State.putReg_member (s : State) a v (k : Nat) : (s.putReg a v).member k = s.member k := rfl
@[simp] theorem State.putReg_win (s : State) a v (k : Nat) : (s.putReg a v).win k = s.win k := rfl
@[simp] theorem State.putReg_handle (s : State) a v (k : Nat) : (s.putReg a v).handle k = s.handle k := rfl
@[simp] theorem State.putReg_mcast (s : State) a v (k : Nat) : (s.putReg a v).mcast k = s.mcast k := rfl
@[simp] theorem State.putReg_group (s : State) a v (k : Nat) : (s.putReg a v).group k = s.group k := rfl
@[simp] theorem State.putReg_ctx (s : State) a v (k : Nat) : (s.putReg a v).ctx k = s.ctx k := rfl
@[simp] theorem State.putReg_core (s : State) a v (k : Nat) : (s.putReg a v).core k = s.core k := rfl
@[simp] theorem State.putReg_stack (s : State) a v (k : Nat) : (s.putReg a v).stack k = s.stack k := rfl
@[simp] theorem State.putReg_byte (s : State) a v (k : Nat) : (s.putReg a v).byte k = s.byte k := rfl
@[simp] theorem State.setFld_queue (s : State) a f x (k : Nat) : (s.setFld a f x).queue k = s.queue k := rfl
@[simp] theorem State.setFld_port (s : State) a f x (k : Nat) : (s.setFld a f x).port k = s.port k := rfl
@[simp] theorem State.setFld_member (s : State) a f x (k : Nat) : (s.setFld a f x).member k = s.member k := rfl
@[simp] theorem State.setFld_win (s : State) a f x (k : Nat) : (s.setFld a f x).win k = s.win k := rfl
@[simp] theorem State.setFld_handle (s : State) a f x (k : Nat) : (s.setFld a f x).handle k = s.handle k := rfl
@[simp] theorem State.setFld_mcast (s : State) a f x (k : Nat) : (s.setFld a f x).mcast k = s.mcast k := rfl
@[simp] theorem State.setFld_group (s : State) a f x (k : Nat) : (s.setFld a f x).group k = s.group k := rfl
@[simp] theorem State.setFld_ctx (s : State) a f x (k : Nat) : (s.setFld a f x).ctx k = s.ctx k := rfl
@[simp] theorem State.setFld_core (s : State) a f x (k : Nat) : (s.setFld a f x).core k = s.core k := rfl
@[simp] theorem State.setFld_stack (s : State) a f x (k : Nat) : (s.setFld a f x).stack k = s.stack k := rfl
@[simp] theorem State.setFld_byte (s : State) a f x (k : Nat) : (s.setFld a f x).byte k = s.byte k := rfl
@[simp] theorem State.bump_queue (s : State) a f n (k : Nat) : (s.bump a f n).queue k = s.queue k := rfl
@[simp] theorem State.bump_port (s : State) a f n (k : Nat) : (s.bump a f n).port k = s.port k := rfl
@[simp] theorem State.bump_member (s : State) a f n (k : Nat) : (s.bump a f n).member k = s.member k := rfl
@[simp] theorem State.bump_win (s : State) a f n (k : Nat) : (s.bump a f n).win k = s.win k := rfl
@[simp] theorem State.bump_handle (s : State) a f n (k : Nat) : (s.bump a f n).handle k = s.handle k := rfl
@[simp] theorem State.bump_mcast (s : State) a f n (k : Nat) : (s.bump a f n).mcast k = s.mcast k := rfl
@[simp] theorem State.bump_group (s : State) a f n (k : Nat) : (s.bump a f n).group k = s.group k := rfl
@[simp] theorem State.bump_ctx (s : State) a f n (k : Nat) : (s.bump a f n).ctx k = s.ctx k := rfl
@[simp] theorem State.bump_core (s : State) a f n (k : Nat) : (s.bump a f n).core k = s.core k := rfl
@[simp] theorem State.bump_stack (s : State) a f n (k : Nat) : (s.bump a f n).stack k = s.stack k := rfl
@[simp] theorem State.bump_byte (s : State) a f n (k : Nat) : (s.bump a f n).byte k = s.byte k := rfl
@[simp] theorem State.bumpSat_queue (s : State) a f n (k : Nat) : (s.bumpSat a f n).queue k = s.queue k := rfl
@[simp] theorem State.bumpSat_port (s : State) a f n (k : Nat) : (s.bumpSat a f n).port k = s.port k := rfl
@[simp] theorem State.bumpSat_member (s : State) a f n (k : Nat) : (s.bumpSat a f n).member k = s.member k := rfl
@[simp] theorem State.bumpSat_win (s : State) a f n (k : Nat) : (s.bumpSat a f n).win k = s.win k := rfl
@[simp] theorem State.bumpSat_handle (s : State) a f n (k : Nat) : (s.bumpSat a f n).handle k = s.handle k := rfl
@[simp] theorem State.bumpSat_mcast (s : State) a f n (k : Nat) : (s.bumpSat a f n).mcast k = s.mcast k := rfl
@[simp] theorem State.bumpSat_group (s : State) a f n (k : Nat) : (s.bumpSat a f n).group k = s.group k := rfl
@[simp] theorem State.bumpSat_ctx (s : State) a f n (k : Nat) : (s.bumpSat a f n).ctx k = s.ctx k := rfl
@[simp] theorem State.bumpSat_core (s : State) a f n (k : Nat) : (s.bumpSat a f n).core k = s.core k := rfl
@[simp] theorem State.bumpSat_stack (s : State) a f n (k : Nat) : (s.bumpSat a f n).stack k = s.stack k := rfl
@[simp] theorem State.bumpSat_byte (s : State) a f n (k : Nat) : (s.bumpSat a f n).byte k = s.byte k := rfl
@[simp] theorem State.store_queue (s : State) a bs (k : Nat) : (s.store a bs).queue k = s.queue k := rfl
@[simp] theorem State.store_port (s : State) a bs (k : Nat) : (s.store a bs).port k = s.port k := rfl
@[simp] theorem State.store_member (s : State) a bs (k : Nat) : (s.store a bs).member k = s.member k := rfl
@[simp] theorem State.store_win (s : State) a bs (k : Nat) : (s.store a bs).win k = s.win k := rfl
@[simp] theorem State.store_handle (s : State) a bs (k : Nat) : (s.store a bs).handle k = s.handle k := rfl
@[simp] theorem State.store_mcast (s : State) a bs (k : Nat) : (s.store a bs).mcast k = s.mcast k := rfl
@[simp] theorem State.store_group (s : State) a bs (k : Nat) : (s.store a bs).group k = s.group k := rfl
@[simp] theorem State.store_ctx (s : State) a bs (k : Nat) : (s.store a bs).ctx k = s.ctx k := rfl
@[simp] theorem State.store_core (s : State) a bs (k : Nat) : (s.store a bs).core k = s.core k := rfl
@[simp] theorem State.store_stack (s : State) a bs (k : Nat) : (s.store a bs).stack k = s.stack k := rfl
@[simp] theorem State.store_reg (s : State) a bs (k : Nat) : (s.store a bs).reg k = s.reg k := rfl
@[simp] theorem State.store_fld (s : State) a bs (k : Nat) (d : Fld) : (s.store a bs).fld k d = s.fld k d := rfl
@[simp] theorem State.wipe_queue (s : State) a n (k : Nat) : (s.wipe a n).queue k = s.queue k := rfl
@[simp] theorem State.wipe_port (s : State) a n (k : Nat) : (s.wipe a n).port k = s.port k := rfl
@[simp] theorem State.wipe_member (s : State) a n (k : Nat) : (s.wipe a n).member k = s.member k := rfl
@[simp] theorem State.wipe_win (s : State) a n (k : Nat) : (s.wipe a n).win k = s.win k := rfl
@[simp] theorem State.wipe_handle (s : State) a n (k : Nat) : (s.wipe a n).handle k = s.handle k := rfl
@[simp] theorem State.wipe_mcast (s : State) a n (k : Nat) : (s.wipe a n).mcast k = s.mcast k := rfl
@[simp] theorem State.wipe_group (s : State) a n (k : Nat) : (s.wipe a n).group k = s.group k := rfl
@[simp] theorem State.wipe_ctx (s : State) a n (k : Nat) : (s.wipe a n).ctx k = s.ctx k := rfl
@[simp] theorem State.wipe_core (s : State) a n (k : Nat) : (s.wipe a n).core k = s.core k := rfl
@[simp] theorem State.wipe_stack (s : State) a n (k : Nat) : (s.wipe a n).stack k = s.stack k := rfl
@[simp] theorem State.wipe_reg (s : State) a n (k : Nat) : (s.wipe a n).reg k = s.reg k := rfl
@[simp] theorem State.wipe_fld (s : State) a n (k : Nat) (d : Fld) : (s.wipe a n).fld k d = s.fld k d := rfl
@[simp] theorem State.putQ_port (s : State) q x (k : Nat) : (s.putQ q x).port k = s.port k := rfl
@[simp] theorem State.putQ_member (s : State) q x (k : Nat) : (s.putQ q x).member k = s.member k := rfl
@[simp] theorem State.putQ_win (s : State) q x (k : Nat) : (s.putQ q x).win k = s.win k := rfl
@[simp] theorem State.putQ_handle (s : State) q x (k : Nat) : (s.putQ q x).handle k = s.handle k := rfl
@[simp] theorem State.putQ_mcast (s : State) q x (k : Nat) : (s.putQ q x).mcast k = s.mcast k := rfl
@[simp] theorem State.putQ_group (s : State) q x (k : Nat) : (s.putQ q x).group k = s.group k := rfl
@[simp] theorem State.putQ_ctx (s : State) q x (k : Nat) : (s.putQ q x).ctx k = s.ctx k := rfl
@[simp] theorem State.putQ_core (s : State) q x (k : Nat) : (s.putQ q x).core k = s.core k := rfl
@[simp] theorem State.putQ_stack (s : State) q x (k : Nat) : (s.putQ q x).stack k = s.stack k := rfl
@[simp] theorem State.putQ_reg (s : State) q x (k : Nat) : (s.putQ q x).reg k = s.reg k := rfl
@[simp] theorem State.putQ_fld (s : State) q x (k : Nat) (d : Fld) : (s.putQ q x).fld k d = s.fld k d := rfl
@[simp] theorem State.putQ_byte (s : State) q x (k : Nat) : (s.putQ q x).byte k = s.byte k := rfl
@[simp] theorem State.putPort_queue (s : State) p x (k : Nat) : (s.putPort p x).queue k = s.queue k := rfl
@[simp] theorem State.putPort_member (s : State) p x (k : Nat) : (s.putPort p x).member k = s.member k := rfl
@[simp] theorem State.putPort_win (s : State) p x (k : Nat) : (s.putPort p x).win k = s.win k := rfl
@[simp] theorem State.putPort_handle (s : State) p x (k : Nat) : (s.putPort p x).handle k = s.handle k := rfl
@[simp] theorem State.putPort_mcast (s : State) p x (k : Nat) : (s.putPort p x).mcast k = s.mcast k := rfl
@[simp] theorem State.putPort_group (s : State) p x (k : Nat) : (s.putPort p x).group k = s.group k := rfl
@[simp] theorem State.putPort_ctx (s : State) p x (k : Nat) : (s.putPort p x).ctx k = s.ctx k := rfl
@[simp] theorem State.putPort_core (s : State) p x (k : Nat) : (s.putPort p x).core k = s.core k := rfl
@[simp] theorem State.putPort_stack (s : State) p x (k : Nat) : (s.putPort p x).stack k = s.stack k := rfl
@[simp] theorem State.putPort_reg (s : State) p x (k : Nat) : (s.putPort p x).reg k = s.reg k := rfl
@[simp] theorem State.putPort_fld (s : State) p x (k : Nat) (d : Fld) : (s.putPort p x).fld k d = s.fld k d := rfl
@[simp] theorem State.putPort_byte (s : State) p x (k : Nat) : (s.putPort p x).byte k = s.byte k := rfl
@[simp] theorem State.putMember_queue (s : State) i x (k : Nat) : (s.putMember i x).queue k = s.queue k := rfl
@[simp] theorem State.putMember_port (s : State) i x (k : Nat) : (s.putMember i x).port k = s.port k := rfl
@[simp] theorem State.putMember_win (s : State) i x (k : Nat) : (s.putMember i x).win k = s.win k := rfl
@[simp] theorem State.putMember_handle (s : State) i x (k : Nat) : (s.putMember i x).handle k = s.handle k := rfl
@[simp] theorem State.putMember_mcast (s : State) i x (k : Nat) : (s.putMember i x).mcast k = s.mcast k := rfl
@[simp] theorem State.putMember_group (s : State) i x (k : Nat) : (s.putMember i x).group k = s.group k := rfl
@[simp] theorem State.putMember_ctx (s : State) i x (k : Nat) : (s.putMember i x).ctx k = s.ctx k := rfl
@[simp] theorem State.putMember_core (s : State) i x (k : Nat) : (s.putMember i x).core k = s.core k := rfl
@[simp] theorem State.putMember_stack (s : State) i x (k : Nat) : (s.putMember i x).stack k = s.stack k := rfl
@[simp] theorem State.putMember_reg (s : State) i x (k : Nat) : (s.putMember i x).reg k = s.reg k := rfl
@[simp] theorem State.putMember_fld (s : State) i x (k : Nat) (d : Fld) : (s.putMember i x).fld k d = s.fld k d := rfl
@[simp] theorem State.putMember_byte (s : State) i x (k : Nat) : (s.putMember i x).byte k = s.byte k := rfl
@[simp] theorem State.putWin_queue (s : State) e x (k : Nat) : (s.putWin e x).queue k = s.queue k := rfl
@[simp] theorem State.putWin_port (s : State) e x (k : Nat) : (s.putWin e x).port k = s.port k := rfl
@[simp] theorem State.putWin_member (s : State) e x (k : Nat) : (s.putWin e x).member k = s.member k := rfl
@[simp] theorem State.putWin_handle (s : State) e x (k : Nat) : (s.putWin e x).handle k = s.handle k := rfl
@[simp] theorem State.putWin_mcast (s : State) e x (k : Nat) : (s.putWin e x).mcast k = s.mcast k := rfl
@[simp] theorem State.putWin_group (s : State) e x (k : Nat) : (s.putWin e x).group k = s.group k := rfl
@[simp] theorem State.putWin_ctx (s : State) e x (k : Nat) : (s.putWin e x).ctx k = s.ctx k := rfl
@[simp] theorem State.putWin_core (s : State) e x (k : Nat) : (s.putWin e x).core k = s.core k := rfl
@[simp] theorem State.putWin_stack (s : State) e x (k : Nat) : (s.putWin e x).stack k = s.stack k := rfl
@[simp] theorem State.putWin_reg (s : State) e x (k : Nat) : (s.putWin e x).reg k = s.reg k := rfl
@[simp] theorem State.putWin_fld (s : State) e x (k : Nat) (d : Fld) : (s.putWin e x).fld k d = s.fld k d := rfl
@[simp] theorem State.putWin_byte (s : State) e x (k : Nat) : (s.putWin e x).byte k = s.byte k := rfl
@[simp] theorem State.putHandle_queue (s : State) h x (k : Nat) : (s.putHandle h x).queue k = s.queue k := rfl
@[simp] theorem State.putHandle_port (s : State) h x (k : Nat) : (s.putHandle h x).port k = s.port k := rfl
@[simp] theorem State.putHandle_member (s : State) h x (k : Nat) : (s.putHandle h x).member k = s.member k := rfl
@[simp] theorem State.putHandle_win (s : State) h x (k : Nat) : (s.putHandle h x).win k = s.win k := rfl
@[simp] theorem State.putHandle_mcast (s : State) h x (k : Nat) : (s.putHandle h x).mcast k = s.mcast k := rfl
@[simp] theorem State.putHandle_group (s : State) h x (k : Nat) : (s.putHandle h x).group k = s.group k := rfl
@[simp] theorem State.putHandle_ctx (s : State) h x (k : Nat) : (s.putHandle h x).ctx k = s.ctx k := rfl
@[simp] theorem State.putHandle_core (s : State) h x (k : Nat) : (s.putHandle h x).core k = s.core k := rfl
@[simp] theorem State.putHandle_stack (s : State) h x (k : Nat) : (s.putHandle h x).stack k = s.stack k := rfl
@[simp] theorem State.putHandle_reg (s : State) h x (k : Nat) : (s.putHandle h x).reg k = s.reg k := rfl
@[simp] theorem State.putHandle_fld (s : State) h x (k : Nat) (d : Fld) : (s.putHandle h x).fld k d = s.fld k d := rfl
@[simp] theorem State.putHandle_byte (s : State) h x (k : Nat) : (s.putHandle h x).byte k = s.byte k := rfl
@[simp] theorem State.putMcast_queue (s : State) g x (k : Nat) : (s.putMcast g x).queue k = s.queue k := rfl
@[simp] theorem State.putMcast_port (s : State) g x (k : Nat) : (s.putMcast g x).port k = s.port k := rfl
@[simp] theorem State.putMcast_member (s : State) g x (k : Nat) : (s.putMcast g x).member k = s.member k := rfl
@[simp] theorem State.putMcast_win (s : State) g x (k : Nat) : (s.putMcast g x).win k = s.win k := rfl
@[simp] theorem State.putMcast_handle (s : State) g x (k : Nat) : (s.putMcast g x).handle k = s.handle k := rfl
@[simp] theorem State.putMcast_group (s : State) g x (k : Nat) : (s.putMcast g x).group k = s.group k := rfl
@[simp] theorem State.putMcast_ctx (s : State) g x (k : Nat) : (s.putMcast g x).ctx k = s.ctx k := rfl
@[simp] theorem State.putMcast_core (s : State) g x (k : Nat) : (s.putMcast g x).core k = s.core k := rfl
@[simp] theorem State.putMcast_stack (s : State) g x (k : Nat) : (s.putMcast g x).stack k = s.stack k := rfl
@[simp] theorem State.putMcast_reg (s : State) g x (k : Nat) : (s.putMcast g x).reg k = s.reg k := rfl
@[simp] theorem State.putMcast_fld (s : State) g x (k : Nat) (d : Fld) : (s.putMcast g x).fld k d = s.fld k d := rfl
@[simp] theorem State.putMcast_byte (s : State) g x (k : Nat) : (s.putMcast g x).byte k = s.byte k := rfl
@[simp] theorem State.putGroup_queue (s : State) g x (k : Nat) : (s.putGroup g x).queue k = s.queue k := rfl
@[simp] theorem State.putGroup_port (s : State) g x (k : Nat) : (s.putGroup g x).port k = s.port k := rfl
@[simp] theorem State.putGroup_member (s : State) g x (k : Nat) : (s.putGroup g x).member k = s.member k := rfl
@[simp] theorem State.putGroup_win (s : State) g x (k : Nat) : (s.putGroup g x).win k = s.win k := rfl
@[simp] theorem State.putGroup_handle (s : State) g x (k : Nat) : (s.putGroup g x).handle k = s.handle k := rfl
@[simp] theorem State.putGroup_mcast (s : State) g x (k : Nat) : (s.putGroup g x).mcast k = s.mcast k := rfl
@[simp] theorem State.putGroup_ctx (s : State) g x (k : Nat) : (s.putGroup g x).ctx k = s.ctx k := rfl
@[simp] theorem State.putGroup_core (s : State) g x (k : Nat) : (s.putGroup g x).core k = s.core k := rfl
@[simp] theorem State.putGroup_stack (s : State) g x (k : Nat) : (s.putGroup g x).stack k = s.stack k := rfl
@[simp] theorem State.putGroup_reg (s : State) g x (k : Nat) : (s.putGroup g x).reg k = s.reg k := rfl
@[simp] theorem State.putGroup_fld (s : State) g x (k : Nat) (d : Fld) : (s.putGroup g x).fld k d = s.fld k d := rfl
@[simp] theorem State.putGroup_byte (s : State) g x (k : Nat) : (s.putGroup g x).byte k = s.byte k := rfl
@[simp] theorem State.putCtx_queue (s : State) x c (k : Nat) : (s.putCtx x c).queue k = s.queue k := rfl
@[simp] theorem State.putCtx_port (s : State) x c (k : Nat) : (s.putCtx x c).port k = s.port k := rfl
@[simp] theorem State.putCtx_member (s : State) x c (k : Nat) : (s.putCtx x c).member k = s.member k := rfl
@[simp] theorem State.putCtx_win (s : State) x c (k : Nat) : (s.putCtx x c).win k = s.win k := rfl
@[simp] theorem State.putCtx_handle (s : State) x c (k : Nat) : (s.putCtx x c).handle k = s.handle k := rfl
@[simp] theorem State.putCtx_mcast (s : State) x c (k : Nat) : (s.putCtx x c).mcast k = s.mcast k := rfl
@[simp] theorem State.putCtx_group (s : State) x c (k : Nat) : (s.putCtx x c).group k = s.group k := rfl
@[simp] theorem State.putCtx_core (s : State) x c (k : Nat) : (s.putCtx x c).core k = s.core k := rfl
@[simp] theorem State.putCtx_stack (s : State) x c (k : Nat) : (s.putCtx x c).stack k = s.stack k := rfl
@[simp] theorem State.putCtx_reg (s : State) x c (k : Nat) : (s.putCtx x c).reg k = s.reg k := rfl
@[simp] theorem State.putCtx_fld (s : State) x c (k : Nat) (d : Fld) : (s.putCtx x c).fld k d = s.fld k d := rfl
@[simp] theorem State.putCtx_byte (s : State) x c (k : Nat) : (s.putCtx x c).byte k = s.byte k := rfl
@[simp] theorem State.putCore_queue (s : State) c x (k : Nat) : (s.putCore c x).queue k = s.queue k := rfl
@[simp] theorem State.putCore_port (s : State) c x (k : Nat) : (s.putCore c x).port k = s.port k := rfl
@[simp] theorem State.putCore_member (s : State) c x (k : Nat) : (s.putCore c x).member k = s.member k := rfl
@[simp] theorem State.putCore_win (s : State) c x (k : Nat) : (s.putCore c x).win k = s.win k := rfl
@[simp] theorem State.putCore_handle (s : State) c x (k : Nat) : (s.putCore c x).handle k = s.handle k := rfl
@[simp] theorem State.putCore_mcast (s : State) c x (k : Nat) : (s.putCore c x).mcast k = s.mcast k := rfl
@[simp] theorem State.putCore_group (s : State) c x (k : Nat) : (s.putCore c x).group k = s.group k := rfl
@[simp] theorem State.putCore_ctx (s : State) c x (k : Nat) : (s.putCore c x).ctx k = s.ctx k := rfl
@[simp] theorem State.putCore_stack (s : State) c x (k : Nat) : (s.putCore c x).stack k = s.stack k := rfl
@[simp] theorem State.putCore_reg (s : State) c x (k : Nat) : (s.putCore c x).reg k = s.reg k := rfl
@[simp] theorem State.putCore_fld (s : State) c x (k : Nat) (d : Fld) : (s.putCore c x).fld k d = s.fld k d := rfl
@[simp] theorem State.putCore_byte (s : State) c x (k : Nat) : (s.putCore c x).byte k = s.byte k := rfl
@[simp] theorem State.putStack_queue (s : State) t x (k : Nat) : (s.putStack t x).queue k = s.queue k := rfl
@[simp] theorem State.putStack_port (s : State) t x (k : Nat) : (s.putStack t x).port k = s.port k := rfl
@[simp] theorem State.putStack_member (s : State) t x (k : Nat) : (s.putStack t x).member k = s.member k := rfl
@[simp] theorem State.putStack_win (s : State) t x (k : Nat) : (s.putStack t x).win k = s.win k := rfl
@[simp] theorem State.putStack_handle (s : State) t x (k : Nat) : (s.putStack t x).handle k = s.handle k := rfl
@[simp] theorem State.putStack_mcast (s : State) t x (k : Nat) : (s.putStack t x).mcast k = s.mcast k := rfl
@[simp] theorem State.putStack_group (s : State) t x (k : Nat) : (s.putStack t x).group k = s.group k := rfl
@[simp] theorem State.putStack_ctx (s : State) t x (k : Nat) : (s.putStack t x).ctx k = s.ctx k := rfl
@[simp] theorem State.putStack_core (s : State) t x (k : Nat) : (s.putStack t x).core k = s.core k := rfl
@[simp] theorem State.putStack_reg (s : State) t x (k : Nat) : (s.putStack t x).reg k = s.reg k := rfl
@[simp] theorem State.putStack_fld (s : State) t x (k : Nat) (d : Fld) : (s.putStack t x).fld k d = s.fld k d := rfl
@[simp] theorem State.putStack_byte (s : State) t x (k : Nat) : (s.putStack t x).byte k = s.byte k := rfl
@[simp] theorem State.withWadi_queue (s : State) f (k : Nat) : (s.withWadi f).queue k = s.queue k := rfl
@[simp] theorem State.withWadi_port (s : State) f (k : Nat) : (s.withWadi f).port k = s.port k := rfl
@[simp] theorem State.withWadi_member (s : State) f (k : Nat) : (s.withWadi f).member k = s.member k := rfl
@[simp] theorem State.withWadi_win (s : State) f (k : Nat) : (s.withWadi f).win k = s.win k := rfl
@[simp] theorem State.withWadi_handle (s : State) f (k : Nat) : (s.withWadi f).handle k = s.handle k := rfl
@[simp] theorem State.withWadi_mcast (s : State) f (k : Nat) : (s.withWadi f).mcast k = s.mcast k := rfl
@[simp] theorem State.withWadi_group (s : State) f (k : Nat) : (s.withWadi f).group k = s.group k := rfl
@[simp] theorem State.withWadi_ctx (s : State) f (k : Nat) : (s.withWadi f).ctx k = s.ctx k := rfl
@[simp] theorem State.withWadi_core (s : State) f (k : Nat) : (s.withWadi f).core k = s.core k := rfl
@[simp] theorem State.withWadi_stack (s : State) f (k : Nat) : (s.withWadi f).stack k = s.stack k := rfl
@[simp] theorem State.withWadi_reg (s : State) f (k : Nat) : (s.withWadi f).reg k = s.reg k := rfl
@[simp] theorem State.withWadi_fld (s : State) f (k : Nat) (d : Fld) : (s.withWadi f).fld k d = s.fld k d := rfl
@[simp] theorem State.withWadi_byte (s : State) f (k : Nat) : (s.withWadi f).byte k = s.byte k := rfl
@[simp] theorem State.used_queue (s : State) (k : Nat) : (s.used).queue k = s.queue k := rfl
@[simp] theorem State.used_port (s : State) (k : Nat) : (s.used).port k = s.port k := rfl
@[simp] theorem State.used_member (s : State) (k : Nat) : (s.used).member k = s.member k := rfl
@[simp] theorem State.used_win (s : State) (k : Nat) : (s.used).win k = s.win k := rfl
@[simp] theorem State.used_handle (s : State) (k : Nat) : (s.used).handle k = s.handle k := rfl
@[simp] theorem State.used_mcast (s : State) (k : Nat) : (s.used).mcast k = s.mcast k := rfl
@[simp] theorem State.used_group (s : State) (k : Nat) : (s.used).group k = s.group k := rfl
@[simp] theorem State.used_ctx (s : State) (k : Nat) : (s.used).ctx k = s.ctx k := rfl
@[simp] theorem State.used_core (s : State) (k : Nat) : (s.used).core k = s.core k := rfl
@[simp] theorem State.used_stack (s : State) (k : Nat) : (s.used).stack k = s.stack k := rfl
@[simp] theorem State.used_reg (s : State) (k : Nat) : (s.used).reg k = s.reg k := rfl
@[simp] theorem State.used_fld (s : State) (k : Nat) (d : Fld) : (s.used).fld k d = s.fld k d := rfl
@[simp] theorem State.used_byte (s : State) (k : Nat) : (s.used).byte k = s.byte k := rfl
@[simp] theorem State.emit_queue (s : State) o (k : Nat) : (s.emit o).queue k = s.queue k := rfl
@[simp] theorem State.emit_port (s : State) o (k : Nat) : (s.emit o).port k = s.port k := rfl
@[simp] theorem State.emit_member (s : State) o (k : Nat) : (s.emit o).member k = s.member k := rfl
@[simp] theorem State.emit_win (s : State) o (k : Nat) : (s.emit o).win k = s.win k := rfl
@[simp] theorem State.emit_handle (s : State) o (k : Nat) : (s.emit o).handle k = s.handle k := rfl
@[simp] theorem State.emit_mcast (s : State) o (k : Nat) : (s.emit o).mcast k = s.mcast k := rfl
@[simp] theorem State.emit_group (s : State) o (k : Nat) : (s.emit o).group k = s.group k := rfl
@[simp] theorem State.emit_ctx (s : State) o (k : Nat) : (s.emit o).ctx k = s.ctx k := rfl
@[simp] theorem State.emit_core (s : State) o (k : Nat) : (s.emit o).core k = s.core k := rfl
@[simp] theorem State.emit_stack (s : State) o (k : Nat) : (s.emit o).stack k = s.stack k := rfl
@[simp] theorem State.emit_reg (s : State) o (k : Nat) : (s.emit o).reg k = s.reg k := rfl
@[simp] theorem State.emit_fld (s : State) o (k : Nat) (d : Fld) : (s.emit o).fld k d = s.fld k d := rfl
@[simp] theorem State.emit_byte (s : State) o (k : Nat) : (s.emit o).byte k = s.byte k := rfl
@[simp] theorem State.setFence_pending (s : State) c : (s.setFence c).pending = s.pending := State.putReg_pending _ _ _
@[simp] theorem State.setFence_power (s : State) c : (s.setFence c).power = s.power := State.putReg_power _ _ _
@[simp] theorem State.setFence_retry (s : State) c : (s.setFence c).retry = s.retry := State.putReg_retry _ _ _
@[simp] theorem State.setFence_mem (s : State) c : (s.setFence c).mem = s.mem := State.putReg_mem _ _ _
@[simp] theorem State.setFence_badBytes (s : State) c : (s.setFence c).badBytes = s.badBytes := State.putReg_badBytes _ _ _
@[simp] theorem State.setFence_badAcc (s : State) c : (s.setFence c).badAcc = s.badAcc := State.putReg_badAcc _ _ _
@[simp] theorem State.setFence_softAcc (s : State) c : (s.setFence c).softAcc = s.softAcc := State.putReg_softAcc _ _ _
@[simp] theorem State.setFence_flash0 (s : State) c : (s.setFence c).flash0 = s.flash0 := State.putReg_flash0 _ _ _
@[simp] theorem State.setFence_flash1 (s : State) c : (s.setFence c).flash1 = s.flash1 := State.putReg_flash1 _ _ _
@[simp] theorem State.setFence_ledger0 (s : State) c : (s.setFence c).ledger0 = s.ledger0 := State.putReg_ledger0 _ _ _
@[simp] theorem State.setFence_ledger1 (s : State) c : (s.setFence c).ledger1 = s.ledger1 := State.putReg_ledger1 _ _ _
@[simp] theorem State.setFence_start (s : State) c : (s.setFence c).start = s.start := State.putReg_start _ _ _
@[simp] theorem State.setFence_cfg (s : State) c : (s.setFence c).cfg = s.cfg := State.putReg_cfg _ _ _
@[simp] theorem State.setFence_hmd (s : State) c : (s.setFence c).hmd = s.hmd := State.putReg_hmd _ _ _
@[simp] theorem State.setFence_wadi (s : State) c : (s.setFence c).wadi = s.wadi := State.putReg_wadi _ _ _
@[simp] theorem State.setFence_queues (s : State) c : (s.setFence c).queues = s.queues := State.putReg_queues _ _ _
@[simp] theorem State.setFence_ports (s : State) c : (s.setFence c).ports = s.ports := State.putReg_ports _ _ _
@[simp] theorem State.setFence_routes (s : State) c : (s.setFence c).routes = s.routes := State.putReg_routes _ _ _
@[simp] theorem State.setFence_members (s : State) c : (s.setFence c).members = s.members := State.putReg_members _ _ _
@[simp] theorem State.setFence_epoch (s : State) c : (s.setFence c).epoch = s.epoch := State.putReg_epoch _ _ _
@[simp] theorem State.setFence_annNo (s : State) c : (s.setFence c).annNo = s.annNo := State.putReg_annNo _ _ _
@[simp] theorem State.setFence_wins (s : State) c : (s.setFence c).wins = s.wins := State.putReg_wins _ _ _
@[simp] theorem State.setFence_handles (s : State) c : (s.setFence c).handles = s.handles := State.putReg_handles _ _ _
@[simp] theorem State.setFence_mcasts (s : State) c : (s.setFence c).mcasts = s.mcasts := State.putReg_mcasts _ _ _
@[simp] theorem State.setFence_groups (s : State) c : (s.setFence c).groups = s.groups := State.putReg_groups _ _ _
@[simp] theorem State.setFence_tasks (s : State) c : (s.setFence c).tasks = s.tasks := State.putReg_tasks _ _ _
@[simp] theorem State.setFence_ctxs (s : State) c : (s.setFence c).ctxs = s.ctxs := State.putReg_ctxs _ _ _
@[simp] theorem State.setFence_cores (s : State) c : (s.setFence c).cores = s.cores := State.putReg_cores _ _ _
@[simp] theorem State.setFence_ant (s : State) c : (s.setFence c).ant = s.ant := State.putReg_ant _ _ _
@[simp] theorem State.setFence_spadAcc (s : State) c : (s.setFence c).spadAcc = s.spadAcc := State.putReg_spadAcc _ _ _
@[simp] theorem State.setFence_stacks (s : State) c : (s.setFence c).stackTab = s.stackTab := State.putReg_stacks _ _ _
@[simp] theorem State.setFence_swarm (s : State) c : (s.setFence c).swarm = s.swarm := State.putReg_swarm _ _ _
@[simp] theorem State.setFence_swarmDone (s : State) c : (s.setFence c).swarmDone = s.swarmDone := State.putReg_swarmDone _ _ _
@[simp] theorem State.setFence_digests (s : State) c : (s.setFence c).digests = s.digests := State.putReg_digests _ _ _
@[simp] theorem State.setFence_takeover (s : State) c : (s.setFence c).takeover = s.takeover := State.putReg_takeover _ _ _
@[simp] theorem State.setFence_shadowOf (s : State) c : (s.setFence c).shadowOf = s.shadowOf := State.putReg_shadowOf _ _ _
@[simp] theorem State.setFence_history (s : State) c : (s.setFence c).history = s.history := State.putReg_history _ _ _
@[simp] theorem State.setFence_params (s : State) c : (s.setFence c).params = s.params := State.putReg_params _ _ _
@[simp] theorem State.setFence_scan (s : State) c : (s.setFence c).scan = s.scan := State.putReg_scan _ _ _
@[simp] theorem State.setFence_scanPins (s : State) c : (s.setFence c).scanPins = s.scanPins := State.putReg_scanPins _ _ _
@[simp] theorem State.setFence_owners (s : State) c : (s.setFence c).owners = s.owners := State.putReg_owners _ _ _
@[simp] theorem State.setFence_free (s : State) c : (s.setFence c).free = s.free := State.putReg_free _ _ _
@[simp] theorem State.setFence_out (s : State) c : (s.setFence c).out = s.out := State.putReg_out _ _ _
@[simp] theorem State.setFence_queue (s : State) c (k : Nat) : (s.setFence c).queue k = s.queue k := State.putReg_queue _ _ _ _
@[simp] theorem State.setFence_port (s : State) c (k : Nat) : (s.setFence c).port k = s.port k := State.putReg_port _ _ _ _
@[simp] theorem State.setFence_member (s : State) c (k : Nat) : (s.setFence c).member k = s.member k := State.putReg_member _ _ _ _
@[simp] theorem State.setFence_win (s : State) c (k : Nat) : (s.setFence c).win k = s.win k := State.putReg_win _ _ _ _
@[simp] theorem State.setFence_handle (s : State) c (k : Nat) : (s.setFence c).handle k = s.handle k := State.putReg_handle _ _ _ _
@[simp] theorem State.setFence_mcast (s : State) c (k : Nat) : (s.setFence c).mcast k = s.mcast k := State.putReg_mcast _ _ _ _
@[simp] theorem State.setFence_group (s : State) c (k : Nat) : (s.setFence c).group k = s.group k := State.putReg_group _ _ _ _
@[simp] theorem State.setFence_ctx (s : State) c (k : Nat) : (s.setFence c).ctx k = s.ctx k := State.putReg_ctx _ _ _ _
@[simp] theorem State.setFence_core (s : State) c (k : Nat) : (s.setFence c).core k = s.core k := State.putReg_core _ _ _ _
@[simp] theorem State.setFence_stack (s : State) c (k : Nat) : (s.setFence c).stack k = s.stack k := State.putReg_stack _ _ _ _
@[simp] theorem State.setFence_byte (s : State) c (k : Nat) : (s.setFence c).byte k = s.byte k := State.putReg_byte _ _ _ _

@[simp] theorem State.noteAcc_pending (s : State) c x : (s.noteAcc c x).pending = s.pending := rfl
@[simp] theorem State.noteAcc_power (s : State) c x : (s.noteAcc c x).power = s.power := rfl
@[simp] theorem State.noteAcc_retry (s : State) c x : (s.noteAcc c x).retry = s.retry := rfl
@[simp] theorem State.noteAcc_regs (s : State) c x : (s.noteAcc c x).regs = s.regs := rfl
@[simp] theorem State.noteAcc_mem (s : State) c x : (s.noteAcc c x).mem = s.mem := rfl
@[simp] theorem State.noteAcc_badBytes (s : State) c x : (s.noteAcc c x).badBytes = s.badBytes := rfl
@[simp] theorem State.noteAcc_badAcc (s : State) c x : (s.noteAcc c x).badAcc = s.badAcc := rfl
@[simp] theorem State.noteAcc_softAcc (s : State) c x : (s.noteAcc c x).softAcc = s.softAcc := rfl
@[simp] theorem State.noteAcc_flash0 (s : State) c x : (s.noteAcc c x).flash0 = s.flash0 := rfl
@[simp] theorem State.noteAcc_flash1 (s : State) c x : (s.noteAcc c x).flash1 = s.flash1 := rfl
@[simp] theorem State.noteAcc_ledger0 (s : State) c x : (s.noteAcc c x).ledger0 = s.ledger0 := rfl
@[simp] theorem State.noteAcc_ledger1 (s : State) c x : (s.noteAcc c x).ledger1 = s.ledger1 := rfl
@[simp] theorem State.noteAcc_start (s : State) c x : (s.noteAcc c x).start = s.start := rfl
@[simp] theorem State.noteAcc_cfg (s : State) c x : (s.noteAcc c x).cfg = s.cfg := rfl
@[simp] theorem State.noteAcc_hmd (s : State) c x : (s.noteAcc c x).hmd = s.hmd := rfl
@[simp] theorem State.noteAcc_wadi (s : State) c x : (s.noteAcc c x).wadi = s.wadi := rfl
@[simp] theorem State.noteAcc_queues (s : State) c x : (s.noteAcc c x).queues = s.queues := rfl
@[simp] theorem State.noteAcc_ports (s : State) c x : (s.noteAcc c x).ports = s.ports := rfl
@[simp] theorem State.noteAcc_routes (s : State) c x : (s.noteAcc c x).routes = s.routes := rfl
@[simp] theorem State.noteAcc_members (s : State) c x : (s.noteAcc c x).members = s.members := rfl
@[simp] theorem State.noteAcc_epoch (s : State) c x : (s.noteAcc c x).epoch = s.epoch := rfl
@[simp] theorem State.noteAcc_annNo (s : State) c x : (s.noteAcc c x).annNo = s.annNo := rfl
@[simp] theorem State.noteAcc_wins (s : State) c x : (s.noteAcc c x).wins = s.wins := rfl
@[simp] theorem State.noteAcc_handles (s : State) c x : (s.noteAcc c x).handles = s.handles := rfl
@[simp] theorem State.noteAcc_mcasts (s : State) c x : (s.noteAcc c x).mcasts = s.mcasts := rfl
@[simp] theorem State.noteAcc_groups (s : State) c x : (s.noteAcc c x).groups = s.groups := rfl
@[simp] theorem State.noteAcc_tasks (s : State) c x : (s.noteAcc c x).tasks = s.tasks := rfl
@[simp] theorem State.noteAcc_ctxs (s : State) c x : (s.noteAcc c x).ctxs = s.ctxs := rfl
@[simp] theorem State.noteAcc_ant (s : State) c x : (s.noteAcc c x).ant = s.ant := rfl
@[simp] theorem State.noteAcc_stacks (s : State) c x : (s.noteAcc c x).stackTab = s.stackTab := rfl
@[simp] theorem State.noteAcc_swarm (s : State) c x : (s.noteAcc c x).swarm = s.swarm := rfl
@[simp] theorem State.noteAcc_swarmDone (s : State) c x : (s.noteAcc c x).swarmDone = s.swarmDone := rfl
@[simp] theorem State.noteAcc_digests (s : State) c x : (s.noteAcc c x).digests = s.digests := rfl
@[simp] theorem State.noteAcc_takeover (s : State) c x : (s.noteAcc c x).takeover = s.takeover := rfl
@[simp] theorem State.noteAcc_shadowOf (s : State) c x : (s.noteAcc c x).shadowOf = s.shadowOf := rfl
@[simp] theorem State.noteAcc_history (s : State) c x : (s.noteAcc c x).history = s.history := rfl
@[simp] theorem State.noteAcc_params (s : State) c x : (s.noteAcc c x).params = s.params := rfl
@[simp] theorem State.noteAcc_scan (s : State) c x : (s.noteAcc c x).scan = s.scan := rfl
@[simp] theorem State.noteAcc_scanPins (s : State) c x : (s.noteAcc c x).scanPins = s.scanPins := rfl
@[simp] theorem State.noteAcc_owners (s : State) c x : (s.noteAcc c x).owners = s.owners := rfl
@[simp] theorem State.noteAcc_free (s : State) c x : (s.noteAcc c x).free = s.free := rfl
@[simp] theorem State.noteAcc_out (s : State) c x : (s.noteAcc c x).out = s.out := rfl
@[simp] theorem State.noteAcc_queue (s : State) c x (k : Nat) : (s.noteAcc c x).queue k = s.queue k := rfl
@[simp] theorem State.noteAcc_port (s : State) c x (k : Nat) : (s.noteAcc c x).port k = s.port k := rfl
@[simp] theorem State.noteAcc_member (s : State) c x (k : Nat) : (s.noteAcc c x).member k = s.member k := rfl
@[simp] theorem State.noteAcc_win (s : State) c x (k : Nat) : (s.noteAcc c x).win k = s.win k := rfl
@[simp] theorem State.noteAcc_handle (s : State) c x (k : Nat) : (s.noteAcc c x).handle k = s.handle k := rfl
@[simp] theorem State.noteAcc_mcast (s : State) c x (k : Nat) : (s.noteAcc c x).mcast k = s.mcast k := rfl
@[simp] theorem State.noteAcc_group (s : State) c x (k : Nat) : (s.noteAcc c x).group k = s.group k := rfl
@[simp] theorem State.noteAcc_ctx (s : State) c x (k : Nat) : (s.noteAcc c x).ctx k = s.ctx k := rfl
@[simp] theorem State.noteAcc_stack (s : State) c x (k : Nat) : (s.noteAcc c x).stack k = s.stack k := rfl
@[simp] theorem State.noteAcc_reg (s : State) c x (k : Nat) : (s.noteAcc c x).reg k = s.reg k := rfl
@[simp] theorem State.noteAcc_fld (s : State) c x (k : Nat) (d : Fld) : (s.noteAcc c x).fld k d = s.fld k d := rfl
@[simp] theorem State.noteAcc_byte (s : State) c x (k : Nat) : (s.noteAcc c x).byte k = s.byte k := rfl
@[simp] theorem State.noteAcc_cores (s : State) c x : (s.noteAcc c x).cores = s.cores := rfl
@[simp] theorem State.noteAcc_core (s : State) c x (k : Nat) : (s.noteAcc c x).core k = s.core k := rfl

end Sys2Proof.Machine
end

