-- ==== Sys2Proof/Laws/Fields.lean ====
section
/-!
SUPPORT. What a field of a register reads after a write, and what a byte of memory reads after a store.
-/
namespace Sys2Proof.Machine

theorem testBit_withBits (v hi lo x i : Nat) (h : lo ≤ hi) :
    (withBits v hi lo x).testBit i = if lo ≤ i ∧ i ≤ hi then x.testBit (i - lo) else v.testBit i := by
  unfold withBits
  have hlt : x % 2 ^ (hi + 1 - lo) * 2 ^ lo + v % 2 ^ lo < 2 ^ (hi + 1) := by
    have e : 2 ^ (hi + 1) = 2 ^ (hi + 1 - lo) * 2 ^ lo := by
      rw [← Nat.pow_add]
      congr 1
      omega
    have h1 : x % 2 ^ (hi + 1 - lo) + 1 ≤ 2 ^ (hi + 1 - lo) := Nat.mod_lt _ (Nat.two_pow_pos _)
    have h2 : v % 2 ^ lo < 2 ^ lo := Nat.mod_lt _ (Nat.two_pow_pos _)
    have h3 := Nat.mul_le_mul_right (2 ^ lo) h1
    rw [Nat.add_mul] at h3
    omega
  rw [Nat.add_assoc, Nat.mul_comm (v / 2 ^ (hi + 1)), Nat.testBit_two_pow_mul_add _ hlt,
    Nat.mul_comm (x % 2 ^ (hi + 1 - lo)), Nat.testBit_two_pow_mul_add _ (Nat.mod_lt _ (Nat.two_pow_pos _))]
  split
  · rename_i hi1
    split
    · rename_i h2
      rw [if_neg (by omega), Nat.testBit_mod_two_pow]
      simp [h2]
    · rename_i h2
      rw [if_pos (by omega), Nat.testBit_mod_two_pow]
      simp
      omega
  · rename_i hi1
    rw [if_neg (by omega), Nat.testBit_div_two_pow]
    congr 1
    omega

theorem testBit_bitsOf (v hi lo i : Nat) : (bitsOf v hi lo).testBit i = (decide (i < hi + 1 - lo) && v.testBit (lo + i)) := by
  unfold bitsOf
  rw [Nat.testBit_mod_two_pow, Nat.testBit_div_two_pow, Nat.add_comm lo i]

theorem bitsOf_withBits_same (v hi lo x : Nat) (h : lo ≤ hi) :
    bitsOf (withBits v hi lo x) hi lo = x % 2 ^ (hi + 1 - lo) := by
  apply Nat.eq_of_testBit_eq
  intro i
  rw [testBit_bitsOf, testBit_withBits _ _ _ _ _ h, Nat.testBit_mod_two_pow]
  by_cases hi2 : i < hi + 1 - lo
  · rw [if_pos (by omega), Nat.add_sub_cancel_left]
  · simp [hi2]

theorem bitsOf_withBits_apart (v hi lo hi' lo' x : Nat) (h : lo' ≤ hi') (ha : hi < lo' ∨ hi' < lo) :
    bitsOf (withBits v hi' lo' x) hi lo = bitsOf v hi lo := by
  apply Nat.eq_of_testBit_eq
  intro i
  rw [testBit_bitsOf, testBit_bitsOf, testBit_withBits _ _ _ _ _ h]
  by_cases hi2 : i < hi + 1 - lo
  · rw [if_neg (by omega)]
  · simp [hi2]

theorem bitsOf_mod (v hi lo : Nat) (h : hi < 64) : bitsOf (v % 2 ^ 64) hi lo = bitsOf v hi lo := by
  apply Nat.eq_of_testBit_eq
  intro i
  rw [testBit_bitsOf, testBit_bitsOf, Nat.testBit_mod_two_pow]
  by_cases hi2 : i < hi + 1 - lo
  · have : lo + i < 64 := by omega
    simp [this]
  · simp [hi2]

theorem tget_tput_other {α : Type} [DecidableEq α] (d e : α) (m : Table α) {j k : Nat} (v : α) (h : j ≠ k) :
    tget d (tput e m k v) j = tget d m j := by
  unfold tput
  split
  · exact tget_terase_ne d m h
  · exact tget_tinsert_ne d m v h

theorem State.reg_putReg (s : State) (a b v : Nat) : (s.putReg a v).reg b = if b = a then v % 2 ^ 64 else s.reg b := by
  unfold State.reg State.putReg
  by_cases h : b = a
  · subst h
    simp only [tget_tput_same, if_true, BitVec.toNat_ofNat]
  · simp only [if_neg h, tget_tput_other _ _ _ _ h]

theorem State.reg_lt (s : State) (a : Nat) : s.reg a < 2 ^ 64 := BitVec.isLt _

theorem State.fld_lt (s : State) (a : Nat) (f : Fld) : s.fld a f < 2 ^ (f.hi + 1 - f.lo) := Nat.mod_lt _ (Nat.two_pow_pos _)

theorem State.fld_putReg_ne (s : State) {a b : Nat} (v : Nat) (f : Fld) (h : b ≠ a) : (s.putReg a v).fld b f = s.fld b f := by
  unfold State.fld
  rw [State.reg_putReg, if_neg h]

theorem State.reg_setFld_ne (s : State) {a b : Nat} (f : Fld) (x : Nat) (h : b ≠ a) : (s.setFld a f x).reg b = s.reg b := by
  unfold State.setFld
  rw [State.reg_putReg, if_neg h]

theorem State.fld_setFld_ne (s : State) {a b : Nat} (f g : Fld) (x : Nat) (h : b ≠ a) : (s.setFld a f x).fld b g = s.fld b g := by
  unfold State.setFld
  exact s.fld_putReg_ne _ _ h

theorem State.fld_setFld_same (s : State) (a : Nat) (f : Fld) (x : Nat) (h : f.lo ≤ f.hi) (h2 : f.hi < 64) :
    (s.setFld a f x).fld a f = x % 2 ^ (f.hi + 1 - f.lo) := by
  unfold State.fld State.setFld
  rw [State.reg_putReg, if_pos rfl, bitsOf_mod _ _ _ h2, bitsOf_withBits_same _ _ _ _ h]

theorem State.fld_setFld_apart (s : State) (a : Nat) (f g : Fld) (x : Nat) (h : f.lo ≤ f.hi) (hg : g.hi < 64)
    (ha : g.hi < f.lo ∨ f.hi < g.lo) : (s.setFld a f x).fld a g = s.fld a g := by
  unfold State.fld State.setFld
  rw [State.reg_putReg, if_pos rfl, bitsOf_mod _ _ _ hg, bitsOf_withBits_apart _ _ _ _ _ _ h ha]

/-! Memory. -/

theorem byte_memPut (m : List Host.Cell) (a : Nat) (b : Byte) (c : Nat) :
    tget 0 (memPut m a b) c = if c = a ∧ isMemory a then b else tget 0 m c := by
  unfold memPut
  by_cases h : isMemory a
  · simp only [h, if_true, and_true, tget_tput]
  · simp [h]

theorem byte_memPuts (m : List Host.Cell) (a : Nat) (bs : List Byte) (c : Nat) :
    tget 0 (memPuts m a bs) c = if a ≤ c ∧ c < a + bs.length ∧ isMemory c then bs.getD (c - a) 0 else tget 0 m c := by
  induction bs generalizing m a with
  | nil => simp [memPuts]; omega
  | cons b bs ih =>
    rw [memPuts, ih, byte_memPut]
    by_cases hc : c = a
    · subst hc
      rw [if_neg (by omega)]
      by_cases hm : isMemory c <;> simp [hm]
    · by_cases h1 : a + 1 ≤ c ∧ c < a + 1 + bs.length ∧ isMemory c
      · rw [if_pos h1, if_pos ⟨by omega, by simp; omega, h1.2.2⟩]
        have : c - a = c - (a + 1) + 1 := by omega
        rw [this, List.getD_cons_succ]
      · rw [if_neg h1, if_neg (by simp [hc]), if_neg]
        rintro ⟨h2, h3, h4⟩
        exact h1 ⟨by omega, by simp at h3; omega, h4⟩

/-- What every byte reads after a store. -/
theorem State.byte_store (s : State) (a : Nat) (bs : List Byte) (c : Nat) :
    (s.store a bs).byte c = if a ≤ c ∧ c < a + bs.length ∧ isMemory c then bs.getD (c - a) 0 else s.byte c :=
  byte_memPuts _ _ _ _

end Sys2Proof.Machine
end

