-- ==== Sys2Proof/Laws/Shapes.lean ====
section
/-!
SUPPORT. Which parts of the state the shared operations can touch: an event, and a frame that leaves.
-/
namespace Sys2Proof.Machine

theorem OnlyRaised.refl (s : State) : OnlyRaised s s := rfl

theorem OnlyRaised.trans {a b c : State} (h : OnlyRaised a b) (k : OnlyRaised b c) : OnlyRaised a c := by
  unfold OnlyRaised at *
  rw [k, h]

theorem setFld_raised (s : State) (a : Nat) (f : Fld) (x : Nat) : OnlyRaised s (s.setFld a f x) := rfl
theorem putReg_raised (s : State) (a x : Nat) : OnlyRaised s (s.putReg a x) := rfl
theorem store_raised (s : State) (a : Nat) (bs : List Byte) : OnlyRaised s (s.store a bs) := rfl
theorem putQ_raised (s : State) (q : Nat) (x : Queue) : OnlyRaised s (s.putQ q x) := rfl
theorem used_raised (s : State) : OnlyRaised s s.used := rfl

/-- What moving words to and from a spill region touches: memory with its check bits, the accesses noted at the scratchpads, free
values, and the counters of corrected reads and of meetings. -/
def Touched (s t : State) : Prop :=
  (∀ a, ¬ ReadsAndMeetings a → t.reg a = s.reg a) ∧
    t = { s with
      regs := t.regs, mem := t.mem, badBytes := t.badBytes, badAcc := t.badAcc, softAcc := t.softAcc, spadAcc := t.spadAcc
      free := t.free }

theorem Touched.refl (s : State) : Touched s s := ⟨fun _ _ => rfl, rfl⟩

theorem Touched.trans {a b c : State} (h : Touched a b) (k : Touched b c) : Touched a c :=
  ⟨fun i hi => (k.1 i hi).trans (h.1 i hi), by rw [k.2, h.2]⟩

theorem Touched.raised {s t : State} (h : Touched s t) : OnlyRaised s t := by
  unfold OnlyRaised
  rw [h.2]

theorem Touched.queue {s t : State} (h : Touched s t) (q : Nat) : t.queue q = s.queue q := by
  rw [h.2]
  rfl

theorem Touched.foldl {α : Type} {s t : State} {f : State → α → State} {l : List α} (hf : ∀ u a, Touched s u → Touched s (f u a))
    (h : Touched s t) : Touched s (l.foldl f t) := by
  induction l generalizing t with
  | nil => exact h
  | cons a l ih => exact ih (hf t a h)

theorem store_touched (s : State) (a : Nat) (bs : List Byte) : Touched s (s.store a bs) := ⟨fun _ _ => rfl, rfl⟩
theorem noteAcc_touched (s : State) (c : Nat) (x : SpadAcc) : Touched s (s.noteAcc c x) := ⟨fun _ _ => rfl, rfl⟩
theorem soft_touched (s : State) (l : List Nat) : Touched s { s with softAcc := l } := ⟨fun _ _ => rfl, rfl⟩
theorem used_touched (s : State) : Touched s s.used := ⟨fun _ _ => rfl, rfl⟩
theorem bump_touched (s : State) (a : Nat) (f : Fld) (n : Nat) (h : ReadsAndMeetings a) : Touched s (s.bump a f n) :=
  ⟨fun _ hi => State.reg_setFld_ne _ _ _ (fun e => hi (e ▸ h)), rfl⟩

theorem meet_touched (s : State) (c : Nat) (u : SpadUnit) (a : Nat) (p : State × List Byte) (x : SpadAcc) (hc : c < 288)
    (h : Touched s p.1) : Touched s (State.meet c u a p x).1 := by
  have b (f : Fld) (n : Nat) : Touched s ((p.1.bump (Reg.SPAD_ROW_COLLIDE c) f n).used) :=
    (h.trans (bump_touched _ _ _ _ (Or.inr ⟨c, hc, rfl⟩))).trans (used_touched _)
  unfold State.meet
  dsimp only
  split
  · exact h
  · split
    · exact h.trans (used_touched _)
    · split
      · exact b _ _
      · exact b _ _

theorem spadCore_lt {a : Nat} (h : inSpad a = true) : spadCore a < 288 := by
  simp only [inSpad, spadCore, spadBase, Bool.and_eq_true, decide_eq_true_eq] at *
  omega

theorem landAt_touched (s : State) (u : SpadUnit) (a : Nat) (bs : List Byte) (h : inSpad a = true) : Touched s (s.landAt u a bs) := by
  unfold State.landAt
  have m (l : List SpadAcc) : ∀ p : State × List Byte, Touched s p.1 → Touched s (l.foldl (State.meet (spadCore a) u a) p).1 := by
    induction l with
    | nil => exact fun _ k => k
    | cons x l ih => exact fun p k => ih _ (meet_touched s _ _ _ _ _ (spadCore_lt h) k)
  exact (m _ (s, bs) (Touched.refl s)).trans (store_touched _ _ _)

theorem storeOut_touched (s : State) (a : Nat) (bs : List Byte) : Touched s (s.storeOut a bs) := by
  unfold State.storeOut
  split
  · exact (landAt_touched _ _ _ _ (by assumption)).trans (noteAcc_touched _ _ _)
  · exact store_touched _ _ _

theorem spill_touched (s : State) (c : QCfg) (old new : Queue) : Touched s (s.spill c old new) := by
  refine Touched.foldl (fun u w k => ?_) (Touched.refl s)
  split
  · exact (k.trans (storeOut_touched _ _ _)).trans (storeOut_touched _ _ _)
  · exact k

theorem stackOf_lt {a : Nat} (h : inHbm a = true ∨ inSram a = true) : stackOf a < 12 := by
  unfold stackOf
  split
  · rename_i k
    have k : a < 12 * 0x1000000000 := of_decide_eq_true k
    omega
  · rename_i k
    have k := h.resolve_left k
    simp only [inSram, Bool.and_eq_true, decide_eq_true_eq] at k
    omega

theorem correct_touched (s : State) (a n : Nat) : Touched s (s.correct a n) := by
  refine Touched.foldl (fun u x k => k.trans ?_) (Touched.refl s)
  unfold State.correctAcc
  dsimp only
  split
  · exact (bump_touched _ _ _ _ (Or.inl ⟨_, stackOf_lt (Or.inl (by assumption)), Or.inl rfl⟩)).trans (soft_touched _ _)
  · split
    · exact (bump_touched _ _ _ _ (Or.inl ⟨_, stackOf_lt (Or.inr (by assumption)), Or.inr rfl⟩)).trans (soft_touched _ _)
    · exact soft_touched _ _

/-- Correction writes back what the byte held (R342). -/
theorem correct_byte (s : State) (a n i : Nat) : (s.correct a n).byte i = s.byte i := by
  unfold State.correct
  generalize s.softAcc.filter _ = l
  induction l generalizing s with
  | nil => rfl
  | cons x l ih =>
    rw [List.foldl_cons, ih]
    unfold State.correctAcc
    dsimp only
    split
    · exact congrArg (fun m => tget 0 m i) (State.bump_mem s (Reg.HBM_ECC_CNT (stackOf (x * 64))) Fld.HBM_ECC_CNT_CE 1)
    · split
      · exact congrArg (fun m => tget 0 m i) (State.bump_mem s (Reg.ERG_SRAM_ECC (stackOf (x * 64))) Fld.ERG_SRAM_ECC_CE 1)
      · rfl

theorem correctSpill_touched (s : State) (c : QCfg) (w : QWord) : Touched s (s.correctSpill c w) := by
  unfold State.correctSpill
  cases w.slot with
  | none => exact Touched.refl s
  | some i =>
    dsimp only [Option.elim]
    split
    · exact (correct_touched _ _ _).trans (correct_touched _ _ _)
    · exact Touched.refl s

theorem correctSpill_byte (s : State) (c : QCfg) (w : QWord) (i : Nat) : (s.correctSpill c w).byte i = s.byte i := by
  unfold State.correctSpill
  cases w.slot with
  | none => rfl
  | some k =>
    dsimp only [Option.elim]
    split
    · rw [correct_byte, correct_byte]
    · rfl

theorem liftWords_touched (s : State) (q : Nat) (x : Queue) : Touched s (s.liftWords q x) :=
  Touched.foldl (fun _ _ k => k.trans (correctSpill_touched _ _ _)) (Touched.refl s)

theorem liftWords_byte (s : State) (q : Nat) (x : Queue) (i : Nat) : (s.liftWords q x).byte i = s.byte i := by
  unfold State.liftWords
  generalize (x.words.take 8).filter _ = l
  suffices h : ∀ t : State, (l.foldl (fun t w => t.correctSpill (s.qcfg q) w) t).byte i = t.byte i from h s
  induction l with
  | nil => exact fun _ => rfl
  | cons w l ih => exact fun t => (ih _).trans (correctSpill_byte _ _ _ _)

theorem setQueue_raised (s : State) (q : Nat) (x : Queue) : OnlyRaised s (s.setQueue q x) :=
  ((liftWords_touched s q x).trans (spill_touched _ _ _ _)).raised.trans (putQ_raised _ _ _)

theorem pushItem_only (s : State) (q : Nat) (item : List Byte) : OnlyRaised s (s.pushItem q item) := by
  unfold State.pushItem
  split
  · unfold State.pushed State.countDrops State.bump
    exact ((setQueue_raised _ _ _).trans (setFld_raised _ _ _ _)).trans (setFld_raised _ _ _ _)
  · exact OnlyRaised.refl s

theorem raise_eq (s : State) (e : Ev) : s.raise e =
    ((s.setFld Reg.FLT_EVT_SEQ Fld.FLT_EVT_SEQ_NEXT (s.evSeq + 1)).pushItem qEvent
      (e.record s.evSeq (Config.cycles e.isl (s.setFld Reg.FLT_EVT_SEQ Fld.FLT_EVT_SEQ_NEXT (s.evSeq + 1)).free).toNat)).used := by
  unfold State.raise
  rfl

/-- An event touches registers, memory, queues and free values at most. -/
theorem raise_only (s : State) (e : Ev) : OnlyRaised s (s.raise e) := by
  rw [raise_eq]
  exact ((setFld_raised s _ _ _).trans (pushItem_only _ _ _)).trans (used_raised _)

theorem OnlySent.refl (s : State) : OnlySent s s := rfl

theorem OnlySent.trans {a b c : State} (h : OnlySent a b) (k : OnlySent b c) : OnlySent a c := by
  unfold OnlySent at *
  rw [k, h]

theorem emit_sent (s : State) (o : Out) : OnlySent s (s.emit o) := rfl
theorem withWadi_sent (s : State) (f : Wadi → Wadi) : OnlySent s (s.withWadi f) := rfl
theorem withHmd_sent (s : State) (f : Hmd → Hmd) : OnlySent s (s.withHmd f) := rfl
theorem setFld_sent (s : State) (a : Nat) (f : Fld) (x : Nat) : OnlySent s (s.setFld a f x) := rfl
theorem endSess_sent (s : State) : OnlySent s s.endSess := by
  unfold State.endSess State.showSession
  exact (withHmd_sent s _).trans (setFld_sent _ _ _ _)
@[simp] theorem endSess_out (s : State) : s.endSess.out = s.out := by
  unfold State.endSess State.showSession
  exact State.setFld_out _ _ _ _

theorem sendFrame_only (s : State) (cls type flags reqId : Nat) (body : List Byte) :
    OnlySent s (s.sendFrame cls type flags reqId body) := by
  unfold State.sendFrame
  split
  · exact OnlySent.refl s
  · split
    · exact emit_sent s _
    · split
      · exact OnlySent.refl s
      · dsimp only
        split
        · exact (((emit_sent s _).trans (withWadi_sent _ _)).trans (withHmd_sent _ _)).trans (endSess_sent _)
        · exact ((emit_sent s _).trans (withWadi_sent _ _)).trans (withHmd_sent _ _)

theorem reply_only (s : State) (cls type reqId : Nat) (body : List Byte) : OnlySent s (s.reply cls type reqId body) := by
  unfold State.reply
  exact (sendFrame_only s _ _ _ _ _).trans (withWadi_sent _ _)

/-- A frame of a protected class leaves at once, with the next counter, while the session is open. -/
theorem sendFrame_out (s : State) (cls type flags reqId : Nat) (body : List Byte) (hl : s.linkUp = true) (hs : s.hmd.sessOpen = true)
    (hc : cls ≠ clSession) : ∃ f : OutFrame, (s.sendFrame cls type flags reqId body).out = s.out ++ [.frame f] ∧ f.cls = cls ∧
      f.type = type ∧ f.reqId = reqId ∧ f.counter = s.hmd.nextTx ∧ f.body = body := by
  unfold State.sendFrame
  simp only [hl, hs, hc, Bool.not_true, Bool.false_eq_true, if_false]
  split
  · exact ⟨_, rfl, rfl, rfl, rfl, rfl, rfl⟩
  · exact ⟨_, rfl, rfl, rfl, rfl, rfl, rfl⟩

/-- What a protected frame that leaves does: it takes the next counter and the credits owed to the node. -/
theorem sendFrame_eq (u : State) (cls type flags req : Nat) (body : List Byte) (hl : u.linkUp = true) (hs : u.hmd.sessOpen = true)
    (hc : cls ≠ clSession) (hn : u.hmd.nextTx + 1 < counterLimit) : u.sendFrame cls type flags req body =
      { u with
        out := u.out ++ [.frame ⟨cls, type, flags ||| 1, min 8 u.wadi.retMgmt, min 32 u.wadi.retBulk, u.wadi.retReq, u.hmd.nextTx,
          req, body⟩]
        wadi := { u.wadi with
          nodeReq := u.wadi.nodeReq + u.wadi.retReq
          nodeBulk := u.wadi.nodeBulk + min 32 u.wadi.retBulk
          nodeMgmt := u.wadi.nodeMgmt + min 8 u.wadi.retMgmt
          retReq := 0
          retBulk := u.wadi.retBulk - min 32 u.wadi.retBulk
          retMgmt := u.wadi.retMgmt - min 8 u.wadi.retMgmt }
        hmd := { u.hmd with nextTx := u.hmd.nextTx + 1 } } := by
  unfold State.sendFrame
  rw [if_neg (by simp [hl]), if_neg hc, if_neg (by simp [hs])]
  dsimp only
  split
  · rename_i h
    exact absurd (show u.hmd.nextTx + 1 ≥ counterLimit from h) (by omega)
  · rfl

/-- A reply leaves at once while the session is open. -/
theorem reply_out (s : State) (cls type reqId : Nat) (body : List Byte) (hl : s.linkUp = true) (hs : s.hmd.sessOpen = true)
    (hc : cls ≠ clSession) : ∃ f : OutFrame, (s.reply cls type reqId body).out = s.out ++ [.frame f] ∧ f.cls = cls ∧
      f.type = type ∧ f.reqId = reqId ∧ f.counter = s.hmd.nextTx ∧ f.body = body :=
  sendFrame_out s cls type 4 reqId body hl hs hc

/-! What a reply leaves. -/

theorem OnlyReplied.refl (s : State) : OnlyReplied s s := ⟨rfl, fun _ _ _ => rfl⟩

theorem OnlyReplied.trans {a b c : State} (h : OnlyReplied a b) (k : OnlyReplied b c) : OnlyReplied a c := by
  refine ⟨?_, fun x h1 h2 => (k.2 x h1 h2).trans (h.2 x h1 h2)⟩
  have h1 := h.1
  have k1 := k.1
  unfold State.ReplyParts at *
  rw [k1, h1]

theorem OnlyReplied.sent {s t : State} (h : OnlyReplied s t) : OnlySent s t := by
  have h1 := h.1
  unfold State.ReplyParts at h1
  unfold OnlySent
  rw [h1]

theorem reg_of_regs {s t : State} (h : t.regs = s.regs) (a : Nat) : t.reg a = s.reg a := by
  unfold State.reg
  rw [h]

/-- A change of the parts that a reply may touch. -/
theorem OnlyReplied.of_parts {s t : State} (h : t = s.ReplyParts t) (r : t.regs = s.regs) : OnlyReplied s t :=
  ⟨h, fun a _ _ => reg_of_regs r a⟩

theorem setFld_replied (s : State) (a : Nat) (f : Fld) (x : Nat) (h : a = Reg.WADI_RX_CNT ∨ a = Reg.HMD_SESSION) :
    OnlyReplied s (s.setFld a f x) := by
  refine ⟨rfl, fun b h1 h2 => State.reg_setFld_ne _ _ _ ?_⟩
  rcases h with h | h
  · exact fun e => h1 (e.trans h)
  · exact fun e => h2 (e.trans h)

theorem endSess_replied (s : State) : OnlyReplied s s.endSess := by
  unfold State.endSess State.showSession
  exact (OnlyReplied.of_parts rfl rfl).trans (setFld_replied _ _ _ _ (Or.inr rfl))

theorem sendFrame_replied (s : State) (cls type flags reqId : Nat) (body : List Byte) :
    OnlyReplied s (s.sendFrame cls type flags reqId body) := by
  unfold State.sendFrame
  split
  · exact OnlyReplied.refl s
  · split
    · exact OnlyReplied.of_parts rfl rfl
    · split
      · exact OnlyReplied.refl s
      · dsimp only
        split
        · exact (OnlyReplied.of_parts rfl rfl).trans (endSess_replied _)
        · exact OnlyReplied.of_parts rfl rfl

theorem reply_replied (s : State) (cls type reqId : Nat) (body : List Byte) : OnlyReplied s (s.reply cls type reqId body) := by
  unfold State.reply
  dsimp only
  refine (sendFrame_replied s _ _ _ _ _).trans (OnlyReplied.of_parts ?_ rfl)
  by_cases h : cls = clBulk
  · simp only [h, if_true]
    rfl
  · simp only [h, if_false]
    rfl

/-! Field by field. -/

theorem OnlyRaised.pending {s t : State} (h : OnlyRaised s t) : t.pending = s.pending := by
  unfold OnlyRaised at h
  rw [h]
theorem OnlyRaised.power {s t : State} (h : OnlyRaised s t) : t.power = s.power := by
  unfold OnlyRaised at h
  rw [h]
theorem OnlyRaised.retry {s t : State} (h : OnlyRaised s t) : t.retry = s.retry := by
  unfold OnlyRaised at h
  rw [h]
theorem OnlyRaised.flash0 {s t : State} (h : OnlyRaised s t) : t.flash0 = s.flash0 := by
  unfold OnlyRaised at h
  rw [h]
theorem OnlyRaised.flash1 {s t : State} (h : OnlyRaised s t) : t.flash1 = s.flash1 := by
  unfold OnlyRaised at h
  rw [h]
theorem OnlyRaised.ledger0 {s t : State} (h : OnlyRaised s t) : t.ledger0 = s.ledger0 := by
  unfold OnlyRaised at h
  rw [h]
theorem OnlyRaised.ledger1 {s t : State} (h : OnlyRaised s t) : t.ledger1 = s.ledger1 := by
  unfold OnlyRaised at h
  rw [h]
theorem OnlyRaised.start {s t : State} (h : OnlyRaised s t) : t.start = s.start := by
  unfold OnlyRaised at h
  rw [h]
theorem OnlyRaised.cfg {s t : State} (h : OnlyRaised s t) : t.cfg = s.cfg := by
  unfold OnlyRaised at h
  rw [h]
theorem OnlyRaised.hmd {s t : State} (h : OnlyRaised s t) : t.hmd = s.hmd := by
  unfold OnlyRaised at h
  rw [h]
theorem OnlyRaised.wadi {s t : State} (h : OnlyRaised s t) : t.wadi = s.wadi := by
  unfold OnlyRaised at h
  rw [h]
theorem OnlyRaised.ports {s t : State} (h : OnlyRaised s t) : t.ports = s.ports := by
  unfold OnlyRaised at h
  rw [h]
theorem OnlyRaised.routes {s t : State} (h : OnlyRaised s t) : t.routes = s.routes := by
  unfold OnlyRaised at h
  rw [h]
theorem OnlyRaised.members {s t : State} (h : OnlyRaised s t) : t.members = s.members := by
  unfold OnlyRaised at h
  rw [h]
theorem OnlyRaised.epoch {s t : State} (h : OnlyRaised s t) : t.epoch = s.epoch := by
  unfold OnlyRaised at h
  rw [h]
theorem OnlyRaised.annNo {s t : State} (h : OnlyRaised s t) : t.annNo = s.annNo := by
  unfold OnlyRaised at h
  rw [h]
theorem OnlyRaised.wins {s t : State} (h : OnlyRaised s t) : t.wins = s.wins := by
  unfold OnlyRaised at h
  rw [h]
theorem OnlyRaised.handles {s t : State} (h : OnlyRaised s t) : t.handles = s.handles := by
  unfold OnlyRaised at h
  rw [h]
theorem OnlyRaised.mcasts {s t : State} (h : OnlyRaised s t) : t.mcasts = s.mcasts := by
  unfold OnlyRaised at h
  rw [h]
theorem OnlyRaised.groups {s t : State} (h : OnlyRaised s t) : t.groups = s.groups := by
  unfold OnlyRaised at h
  rw [h]
theorem OnlyRaised.tasks {s t : State} (h : OnlyRaised s t) : t.tasks = s.tasks := by
  unfold OnlyRaised at h
  rw [h]
theorem OnlyRaised.ctxs {s t : State} (h : OnlyRaised s t) : t.ctxs = s.ctxs := by
  unfold OnlyRaised at h
  rw [h]
theorem OnlyRaised.cores {s t : State} (h : OnlyRaised s t) : t.cores = s.cores := by
  unfold OnlyRaised at h
  rw [h]
theorem OnlyRaised.ant {s t : State} (h : OnlyRaised s t) : t.ant = s.ant := by
  unfold OnlyRaised at h
  rw [h]
theorem OnlyRaised.stackTab {s t : State} (h : OnlyRaised s t) : t.stackTab = s.stackTab := by
  unfold OnlyRaised at h
  rw [h]
theorem OnlyRaised.swarm {s t : State} (h : OnlyRaised s t) : t.swarm = s.swarm := by
  unfold OnlyRaised at h
  rw [h]
theorem OnlyRaised.swarmDone {s t : State} (h : OnlyRaised s t) : t.swarmDone = s.swarmDone := by
  unfold OnlyRaised at h
  rw [h]
theorem OnlyRaised.digests {s t : State} (h : OnlyRaised s t) : t.digests = s.digests := by
  unfold OnlyRaised at h
  rw [h]
theorem OnlyRaised.history {s t : State} (h : OnlyRaised s t) : t.history = s.history := by
  unfold OnlyRaised at h
  rw [h]
theorem OnlyRaised.params {s t : State} (h : OnlyRaised s t) : t.params = s.params := by
  unfold OnlyRaised at h
  rw [h]
theorem OnlyRaised.takeover {s t : State} (h : OnlyRaised s t) : t.takeover = s.takeover := by
  unfold OnlyRaised at h
  rw [h]
theorem OnlyRaised.shadowOf {s t : State} (h : OnlyRaised s t) : t.shadowOf = s.shadowOf := by
  unfold OnlyRaised at h
  rw [h]
theorem OnlyRaised.scan {s t : State} (h : OnlyRaised s t) : t.scan = s.scan := by
  unfold OnlyRaised at h
  rw [h]
theorem OnlyRaised.scanPins {s t : State} (h : OnlyRaised s t) : t.scanPins = s.scanPins := by
  unfold OnlyRaised at h
  rw [h]
theorem OnlyRaised.owners {s t : State} (h : OnlyRaised s t) : t.owners = s.owners := by
  unfold OnlyRaised at h
  rw [h]
theorem OnlyRaised.out {s t : State} (h : OnlyRaised s t) : t.out = s.out := by
  unfold OnlyRaised at h
  rw [h]

theorem OnlySent.pending {s t : State} (h : OnlySent s t) : t.pending = s.pending := by
  unfold OnlySent at h
  rw [h]
theorem OnlySent.power {s t : State} (h : OnlySent s t) : t.power = s.power := by
  unfold OnlySent at h
  rw [h]
theorem OnlySent.retry {s t : State} (h : OnlySent s t) : t.retry = s.retry := by
  unfold OnlySent at h
  rw [h]
theorem OnlySent.mem {s t : State} (h : OnlySent s t) : t.mem = s.mem := by
  unfold OnlySent at h
  rw [h]
theorem OnlySent.badBytes {s t : State} (h : OnlySent s t) : t.badBytes = s.badBytes := by
  unfold OnlySent at h
  rw [h]
theorem OnlySent.badAcc {s t : State} (h : OnlySent s t) : t.badAcc = s.badAcc := by
  unfold OnlySent at h
  rw [h]
theorem OnlySent.flash0 {s t : State} (h : OnlySent s t) : t.flash0 = s.flash0 := by
  unfold OnlySent at h
  rw [h]
theorem OnlySent.flash1 {s t : State} (h : OnlySent s t) : t.flash1 = s.flash1 := by
  unfold OnlySent at h
  rw [h]
theorem OnlySent.ledger0 {s t : State} (h : OnlySent s t) : t.ledger0 = s.ledger0 := by
  unfold OnlySent at h
  rw [h]
theorem OnlySent.ledger1 {s t : State} (h : OnlySent s t) : t.ledger1 = s.ledger1 := by
  unfold OnlySent at h
  rw [h]
theorem OnlySent.start {s t : State} (h : OnlySent s t) : t.start = s.start := by
  unfold OnlySent at h
  rw [h]
theorem OnlySent.cfg {s t : State} (h : OnlySent s t) : t.cfg = s.cfg := by
  unfold OnlySent at h
  rw [h]
theorem OnlySent.queues {s t : State} (h : OnlySent s t) : t.queues = s.queues := by
  unfold OnlySent at h
  rw [h]
theorem OnlySent.ports {s t : State} (h : OnlySent s t) : t.ports = s.ports := by
  unfold OnlySent at h
  rw [h]
theorem OnlySent.routes {s t : State} (h : OnlySent s t) : t.routes = s.routes := by
  unfold OnlySent at h
  rw [h]
theorem OnlySent.members {s t : State} (h : OnlySent s t) : t.members = s.members := by
  unfold OnlySent at h
  rw [h]
theorem OnlySent.epoch {s t : State} (h : OnlySent s t) : t.epoch = s.epoch := by
  unfold OnlySent at h
  rw [h]
theorem OnlySent.annNo {s t : State} (h : OnlySent s t) : t.annNo = s.annNo := by
  unfold OnlySent at h
  rw [h]
theorem OnlySent.wins {s t : State} (h : OnlySent s t) : t.wins = s.wins := by
  unfold OnlySent at h
  rw [h]
theorem OnlySent.handles {s t : State} (h : OnlySent s t) : t.handles = s.handles := by
  unfold OnlySent at h
  rw [h]
theorem OnlySent.mcasts {s t : State} (h : OnlySent s t) : t.mcasts = s.mcasts := by
  unfold OnlySent at h
  rw [h]
theorem OnlySent.groups {s t : State} (h : OnlySent s t) : t.groups = s.groups := by
  unfold OnlySent at h
  rw [h]
theorem OnlySent.tasks {s t : State} (h : OnlySent s t) : t.tasks = s.tasks := by
  unfold OnlySent at h
  rw [h]
theorem OnlySent.ctxs {s t : State} (h : OnlySent s t) : t.ctxs = s.ctxs := by
  unfold OnlySent at h
  rw [h]
theorem OnlySent.cores {s t : State} (h : OnlySent s t) : t.cores = s.cores := by
  unfold OnlySent at h
  rw [h]
theorem OnlySent.ant {s t : State} (h : OnlySent s t) : t.ant = s.ant := by
  unfold OnlySent at h
  rw [h]
theorem OnlySent.stackTab {s t : State} (h : OnlySent s t) : t.stackTab = s.stackTab := by
  unfold OnlySent at h
  rw [h]
theorem OnlySent.swarm {s t : State} (h : OnlySent s t) : t.swarm = s.swarm := by
  unfold OnlySent at h
  rw [h]
theorem OnlySent.swarmDone {s t : State} (h : OnlySent s t) : t.swarmDone = s.swarmDone := by
  unfold OnlySent at h
  rw [h]
theorem OnlySent.digests {s t : State} (h : OnlySent s t) : t.digests = s.digests := by
  unfold OnlySent at h
  rw [h]
theorem OnlySent.history {s t : State} (h : OnlySent s t) : t.history = s.history := by
  unfold OnlySent at h
  rw [h]
theorem OnlySent.params {s t : State} (h : OnlySent s t) : t.params = s.params := by
  unfold OnlySent at h
  rw [h]
theorem OnlySent.softAcc {s t : State} (h : OnlySent s t) : t.softAcc = s.softAcc := by
  unfold OnlySent at h
  rw [h]
theorem OnlySent.spadAcc {s t : State} (h : OnlySent s t) : t.spadAcc = s.spadAcc := by
  unfold OnlySent at h
  rw [h]
theorem OnlySent.takeover {s t : State} (h : OnlySent s t) : t.takeover = s.takeover := by
  unfold OnlySent at h
  rw [h]
theorem OnlySent.shadowOf {s t : State} (h : OnlySent s t) : t.shadowOf = s.shadowOf := by
  unfold OnlySent at h
  rw [h]
theorem OnlySent.scan {s t : State} (h : OnlySent s t) : t.scan = s.scan := by
  unfold OnlySent at h
  rw [h]
theorem OnlySent.scanPins {s t : State} (h : OnlySent s t) : t.scanPins = s.scanPins := by
  unfold OnlySent at h
  rw [h]
theorem OnlySent.owners {s t : State} (h : OnlySent s t) : t.owners = s.owners := by
  unfold OnlySent at h
  rw [h]
theorem OnlySent.free {s t : State} (h : OnlySent s t) : t.free = s.free := by
  unfold OnlySent at h
  rw [h]

end Sys2Proof.Machine
end

