-- ==== Sys2Proof/Laws/Shows.lean ====
section
/-!
SUPPORT. What a field shows after a write of it or of another, and what a write of a register leaves.
-/
namespace Sys2Proof.Machine

theorem Shows_same (s : State) (a : Nat) (f : Fld) (x : Nat) (h : f.lo ≤ f.hi) (h2 : f.hi < 64) : Shows (s.setFld a f x) a f x :=
  s.fld_setFld_same a f x h h2

theorem Shows_apart {s : State} {a b : Nat} {f g : Fld} {x y : Nat} (k : Shows s a f x) (h : g.lo ≤ g.hi) (h2 : f.hi < 64)
    (hd : a ≠ b ∨ (f.hi < g.lo ∨ g.hi < f.lo)) : Shows (s.setFld b g y) a f x := by
  by_cases e : a = b
  · subst e
    exact (s.fld_setFld_apart a g f y h h2 (by simpa using hd)).trans k
  · exact (s.fld_setFld_ne g f y e).trans k

theorem OnlyRegs.refl (s : State) : OnlyRegs s s := rfl

theorem OnlyRegs.setFld {s t : State} (h : OnlyRegs s t) (a : Nat) (f : Fld) (x : Nat) : OnlyRegs s (t.setFld a f x) := h

theorem OnlyRegs.putReg {s t : State} (h : OnlyRegs s t) (a x : Nat) : OnlyRegs s (t.putReg a x) := h

/-- A write of a field changes the register file alone; the new file is left unnamed, so that nothing computes with it. -/
theorem setFld_ex (s : State) (a : Nat) (f : Fld) (x : Nat) : ∃ r, s.setFld a f x = { s with regs := r } := ⟨_, rfl⟩

theorem bump_ex (s : State) (a : Nat) (f : Fld) (n : Nat) : ∃ r, s.bump a f n = { s with regs := r } := ⟨_, rfl⟩

theorem putReg_ex (s : State) (a x : Nat) : ∃ r, s.putReg a x = { s with regs := r } := ⟨_, rfl⟩

theorem setFld_rest (s : State) (a : Nat) (f : Fld) (x : Nat) : { s.setFld a f x with regs := s.regs } = s := rfl

theorem setFld_rest' (s : State) (a : Nat) (f : Fld) (x : Nat) (r) : { s.setFld a f x with regs := r } = { s with regs := r } := rfl

theorem State.withdraw_to (s : State) (r n : Nat) : WithdrawnTo (s.withdraw r n) := by
  unfold State.withdraw
  refine ⟨rfl, rfl, ?_, rfl, rfl, rfl, rfl, rfl, rfl, rfl, rfl, rfl, rfl⟩
  exact State.fld_setFld_same _ _ _ _ (by decide) (by decide)

end Sys2Proof.Machine
end

