-- ==== Sys2Proof/Laws/Accepted.lean ====
section
/-!
SUPPORT. What an accepted request does before it is carried out, and the reply that answers it.
-/
namespace Sys2Proof.Machine

theorem bump_linkUp (s : State) (b : Nat) (f : Fld) (n : Nat) (h : b ≠ Reg.WADI_LINK) : (s.bump b f n).linkUp = s.linkUp := by
  unfold State.linkUp State.bump
  rw [State.fld_setFld_ne _ _ _ _ (Ne.symm h)]

theorem linkUp_of_regs {s t : State} (h : t.regs = s.regs) : t.linkUp = s.linkUp := by
  unfold State.linkUp State.fld State.reg
  rw [h]

/-- A taken frame changes registers, and the counter received. -/
theorem taken_ex (s : State) (h : FrameHdr) : ∃ r, s.taken h = { s with regs := r, hmd := { s.hmd with lastRx := some h.counter } } := by
  obtain ⟨r, hr⟩ := bump_ex (s.withHmd (fun x => { x with lastRx := some h.counter })) Reg.WADI_RX_CNT Fld.WADI_RX_CNT_FRAMES 1
  exact ⟨r, hr⟩

theorem taken_linkUp (s : State) (h : FrameHdr) : (s.taken h).linkUp = s.linkUp := by
  unfold State.taken
  rw [bump_linkUp _ _ _ _ (by decide)]
  exact linkUp_of_regs rfl

theorem taken_hmd (s : State) (h : FrameHdr) : (s.taken h).hmd = { s.hmd with lastRx := some h.counter } := by
  obtain ⟨r, hr⟩ := taken_ex s h
  rw [hr]

theorem taken_only (s : State) (h : FrameHdr) : OnlySent s (s.taken h) := by
  obtain ⟨r, hr⟩ := taken_ex s h
  rw [hr]
  exact rfl

theorem taken_out (s : State) (h : FrameHdr) : (s.taken h).out = s.out := by
  obtain ⟨r, hr⟩ := taken_ex s h
  rw [hr]

theorem taken_wadi (s : State) (h : FrameHdr) : (s.taken h).wadi = s.wadi := by
  obtain ⟨r, hr⟩ := taken_ex s h
  rw [hr]

/-- A frame of a path that is admissible and has its credits is handed on. -/
theorem receive_eq (s : State) (h : FrameHdr) (p : Path) (n : Nat) (k : State → State) (a : Admissible s h) (c : n ≤ s.wadi.held p) :
    s.receive h p n k = k ((s.taken h).withWadi (fun w => w.spend p n)) := by
  obtain ⟨h1, h2, h3, h4, h5⟩ := a
  unfold State.receive State.taken
  rw [if_neg (by simp [h1]), if_neg (by simp [h2]), if_neg (fun x => absurd h4 (by omega))]
  rw [if_neg]
  · dsimp only
    exact if_neg (Nat.not_lt.mpr c)
  · rintro (e | e)
    · simp [h3] at e
    · cases q : s.hmd.lastRx with
      | none => simp [q] at e
      | some l =>
        rw [q] at e
        have := h5 l (by rw [q]; exact rfl)
        simp at e
        omega

theorem find_none {l : List (Nat × Option OutFrame)} {i : Nat} (h : ∀ x ∈ l, x.1 ≠ i) : l.find? (fun x => x.1 == i) = none := by
  rw [List.find?_eq_none]
  intro x hx
  simpa using h x hx

/-- An accepted management request is carried out. -/
theorem manage_eq (s : State) (h : FrameHdr) (k : State → State) (a : Accepts s h) : s.manage h k = k (s.accepted h) := by
  unfold State.manage State.request
  rw [if_neg (by decide : ¬(false = true)), receive_eq s h .mgmt 1 _ a.1 a.2.1]
  dsimp only
  generalize e : (s.taken h).withWadi _ = u
  have hw : u.wadi = { s.wadi with nodeMgmt := s.wadi.nodeMgmt - 1 } := by
    subst e
    simp only [State.withWadi, taken_wadi]
    rfl
  rw [show (if false = true then u.wadi.bulkKept else u.wadi.mgmtKept).find? (fun x => x.1 == h.reqId) = none from find_none (by rw [hw]; exact a.2.2)]
  subst e
  rfl

/-- An accepted bulk request is carried out. -/
theorem bulk_eq (s : State) (h : FrameHdr) (k : State → State) (a : AcceptsBulk s h) : s.request h true k = k (s.acceptedBulk h) := by
  unfold State.request
  rw [if_pos (rfl : true = true), receive_eq s h .bulk 1 _ a.1 a.2.1]
  dsimp only
  generalize e : (s.taken h).withWadi _ = u
  have hw : u.wadi = { s.wadi with nodeBulk := s.wadi.nodeBulk - 1 } := by
    subst e
    simp only [State.withWadi, taken_wadi]
    rfl
  rw [show (if true = true then u.wadi.bulkKept else u.wadi.mgmtKept).find? (fun x => x.1 == h.reqId) = none from find_none (by rw [hw]; exact a.2.2)]
  subst e
  rfl

/-- A request that the Mantis firmware serves, outside the hold state. -/
theorem mantis_eq (s : State) (h : FrameHdr) (n : Nat) (k : State → State) (a : Accepts s h) (p : s.power ≠ .hold) :
    s.manageMantis h n k = k (s.accepted h) := by
  unfold State.manageMantis
  rw [manage_eq s h _ a]
  have e : (s.accepted h).power = s.power := by
    obtain ⟨r, hr⟩ := taken_ex s h
    unfold State.accepted
    rw [hr]
    rfl
  rw [if_neg (by rw [e]; exact p)]

/-- A request that the Mantis firmware serves, in the hold state. -/
theorem mantis_hold (s : State) (h : FrameHdr) (n : Nat) (k : State → State) (a : Accepts s h) (p : s.power = .hold) :
    s.manageMantis h n k = (s.accepted h).mgmtReply n h.reqId stStartHold 0 0 [] := by
  unfold State.manageMantis
  rw [manage_eq s h _ a]
  have e : (s.accepted h).power = s.power := by
    obtain ⟨r, hr⟩ := taken_ex s h
    unfold State.accepted
    rw [hr]
    rfl
  rw [if_pos (e.trans p)]

/-- A change of the counter received. -/
theorem lastRx_replied (s : State) (n : Option Nat) : OnlyReplied s (s.withHmd (fun x => { x with lastRx := n })) :=
  ⟨rfl, fun _ _ _ => rfl⟩

theorem taken_replied (s : State) (h : FrameHdr) : OnlyReplied s (s.taken h) := by
  unfold State.taken State.bump
  have e := lastRx_replied s (some h.counter)
  generalize s.withHmd (fun x => { x with lastRx := some h.counter }) = u at e ⊢
  exact e.trans (setFld_replied u _ _ _ (Or.inl rfl))

/-- A change of credits and kept replies. -/
theorem credits_replied (s : State) (f : Wadi → Wadi) (h : f s.wadi = { s.wadi with
      nodeReq := (f s.wadi).nodeReq, nodeBulk := (f s.wadi).nodeBulk, nodeMgmt := (f s.wadi).nodeMgmt
      retReq := (f s.wadi).retReq, retBulk := (f s.wadi).retBulk, retMgmt := (f s.wadi).retMgmt
      bulkKept := (f s.wadi).bulkKept, mgmtKept := (f s.wadi).mgmtKept }) : OnlyReplied s (s.withWadi f) := by
  refine ⟨?_, fun _ _ _ => rfl⟩
  unfold State.withWadi State.ReplyParts
  dsimp only
  rw [← h]

theorem accepted_replied (s : State) (h : FrameHdr) : OnlyReplied s (s.accepted h) := by
  unfold State.accepted
  have e := taken_replied s h
  generalize s.taken h = u at e ⊢
  exact e.trans (credits_replied u _ rfl)

theorem acceptedBulk_replied (s : State) (h : FrameHdr) : OnlyReplied s (s.acceptedBulk h) := by
  unfold State.acceptedBulk
  have e := taken_replied s h
  generalize s.taken h = u at e ⊢
  exact e.trans (credits_replied u _ rfl)

theorem accepted_only (s : State) (h : FrameHdr) : OnlySent s (s.accepted h) := (taken_only s h).trans (withWadi_sent _ _)

theorem acceptedBulk_only (s : State) (h : FrameHdr) : OnlySent s (s.acceptedBulk h) := (taken_only s h).trans (withWadi_sent _ _)

/-- An open link and session that a request found: what its reply needs. -/
structure Open (s u : State) : Prop where
  out : u.out = s.out
  link : u.linkUp = true
  sess : u.hmd.sessOpen = true
  next : u.hmd.nextTx = s.hmd.nextTx

theorem taken_open (s : State) (h : FrameHdr) (a : Admissible s h) (f : Wadi → Wadi) : Open s ((s.taken h).withWadi f) := by
  refine ⟨?_, ?_, ?_, ?_⟩
  · exact taken_out s h
  · exact (linkUp_of_regs rfl).trans ((taken_linkUp s h).trans a.1)
  · exact (congrArg Hmd.sessOpen (taken_hmd s h)).trans a.2.1
  · exact (congrArg Hmd.nextTx (taken_hmd s h)).trans rfl

theorem accepted_open (s : State) (h : FrameHdr) (a : Accepts s h) : Open s (s.accepted h) := taken_open s h a.1 _

theorem acceptedBulk_open (s : State) (h : FrameHdr) (a : AcceptsBulk s h) : Open s (s.acceptedBulk h) := taken_open s h a.1 _

/-- A change that keeps registers, output and session keeps what a reply needs. -/
theorem Open.same {s u v : State} (o : Open s u) (h1 : v.out = u.out) (h2 : v.regs = u.regs) (h3 : v.hmd.sessOpen = u.hmd.sessOpen)
    (h4 : v.hmd.nextTx = u.hmd.nextTx) : Open s v :=
  ⟨h1.trans o.out, (linkUp_of_regs h2).trans o.link, h3.trans o.sess, h4.trans o.next⟩

/-- The reply to an accepted request. -/
theorem Open.replied {s u : State} (o : Open s u) (cls type req : Nat) (body : List Byte) (hc : cls ≠ clSession) :
    Replied s (u.reply cls type req body) cls type req body := by
  obtain ⟨f, h1, h2, h3, h4, h5, h6⟩ := reply_out u cls type req body o.link o.sess hc
  exact ⟨f, by rw [h1, o.out], h2, h3, h4, by rw [h5, o.next], h6⟩

theorem Open.mgmt {s u : State} (o : Open s u) (type req status flags ev : Nat) (data : List Byte) :
    Replied s (u.mgmtReply type req status flags ev data) clMgmt type req (mgmtHead status flags ev ++ data) :=
  o.replied _ _ _ _ (by decide)

theorem mgmtReply_only (s : State) (type req status flags ev : Nat) (data : List Byte) :
    OnlySent s (s.mgmtReply type req status flags ev data) := reply_only s _ _ _ _

theorem mgmtReply_replied (s : State) (type req status flags ev : Nat) (data : List Byte) :
    OnlyReplied s (s.mgmtReply type req status flags ev data) := reply_replied s _ _ _ _

theorem accepted_ex (s : State) (h : FrameHdr) : ∃ r w m, s.accepted h = { s with regs := r, wadi := w, hmd := m } := by
  have o := accepted_only s h
  have e : (s.accepted h).out = s.out := taken_out s h
  unfold OnlySent at o
  rw [e] at o
  exact ⟨_, _, _, o⟩

theorem acceptedBulk_ex (s : State) (h : FrameHdr) : ∃ r w m, s.acceptedBulk h = { s with regs := r, wadi := w, hmd := m } := by
  have o := acceptedBulk_only s h
  have e : (s.acceptedBulk h).out = s.out := taken_out s h
  unfold OnlySent at o
  rw [e] at o
  exact ⟨_, _, _, o⟩

/-- A management reply that ends what a request did: what it can touch, and what it says. -/
theorem Open.reply_ends {s u v : State} (o : Open s v) (hv : OnlyReplied u v) (type req status flags ev : Nat) (data : List Byte) :
    OnlyReplied u (v.mgmtReply type req status flags ev data) ∧
      Replied s (v.mgmtReply type req status flags ev data) clMgmt type req (mgmtHead status flags ev ++ data) :=
  ⟨hv.trans (mgmtReply_replied _ _ _ _ _ _ _), o.mgmt _ _ _ _ _ _⟩

theorem Open.reply_ends_bare {s u v : State} (o : Open s v) (hv : OnlyReplied u v) (type req status flags ev : Nat) :
    OnlyReplied u (v.mgmtReply type req status flags ev []) ∧
      Replied s (v.mgmtReply type req status flags ev []) clMgmt type req (mgmtHead status flags ev) := by
  have := o.reply_ends hv type req status flags ev []
  rwa [List.append_nil] at this

end Sys2Proof.Machine
end

