-- ==== Sys2Proof/Laws/Queues.lean ====
section
/-!
SUPPORT. What a queue put in place can touch: the queue, and the slots of its words in the spill region.
-/
namespace Sys2Proof.Machine

theorem leBytes_length (n v : Nat) : (leBytes n v).length = n := by
  induction n generalizing v with
  | zero => rfl
  | succ n ih => simp [leBytes, ih]

theorem padTo_length (n : Nat) (b : List Byte) : (padTo n b).length = n := by
  unfold padTo zeros
  simp
  omega

theorem mapIdx_length (f : Nat → Byte → Byte) (bs : List Byte) : (bs.mapIdx f).length = bs.length := List.length_mapIdx

/-- What a write meets changes neither memory nor how many bytes it writes. -/
theorem meet_mem (c : Nat) (u : SpadUnit) (a : Nat) (p : State × List Byte) (x : SpadAcc) :
    (State.meet c u a p x).1.mem = p.1.mem ∧ (State.meet c u a p x).2.length = p.2.length := by
  unfold State.meet
  dsimp only
  split
  · exact ⟨rfl, rfl⟩
  · split
    · exact ⟨rfl, rfl⟩
    · split
      · exact ⟨by rw [State.used_mem, State.bump_mem], mapIdx_length _ _⟩
      · exact ⟨by rw [State.used_mem, State.bump_mem], rfl⟩

theorem meets_mem (c : Nat) (u : SpadUnit) (a : Nat) (l : List SpadAcc) : ∀ p : State × List Byte,
    (l.foldl (State.meet c u a) p).1.mem = p.1.mem ∧ (l.foldl (State.meet c u a) p).2.length = p.2.length := by
  induction l with
  | nil => exact fun _ => ⟨rfl, rfl⟩
  | cons x l ih => exact fun p => ⟨(ih _).1.trans (meet_mem c u a p x).1, (ih _).2.trans (meet_mem c u a p x).2⟩

/-- A write from outside a core changes the bytes it writes alone. -/
theorem storeOut_byte (s : State) (a i : Nat) (bs : List Byte) (h : ¬ (a ≤ i ∧ i < a + bs.length)) :
    (s.storeOut a bs).byte i = s.byte i := by
  unfold State.storeOut
  split
  · unfold State.arriveWrite State.land State.landAt
    dsimp only
    obtain ⟨m, n⟩ := meets_mem (spadCore a) .streamWrite a (s.accesses (spadCore a)) (s, bs)
    rw [State.noteAcc_byte, State.byte_store, if_neg]
    · exact congrArg (fun m => tget 0 m i) m
    · rintro ⟨x, y, -⟩
      rw [n] at y
      exact h ⟨x, y⟩
  · rw [State.byte_store, if_neg]
    rintro ⟨x, y, -⟩
    exact h ⟨x, y⟩

/-- Spilling touches the slots of the new words alone. -/
theorem spill_byte (s : State) (c : QCfg) (old new : Queue) (a : Nat) (h : ∀ w ∈ new.words, ¬ InSlot c w a) :
    (s.spill c old new).byte a = s.byte a := by
  unfold State.spill
  generalize hl : new.words.filter _ = l
  have hm : ∀ w ∈ l, w ∈ new.words := fun w hw => (List.mem_filter.mp (hl ▸ hw)).1
  clear hl
  induction l generalizing s with
  | nil => rfl
  | cons w l ih =>
    rw [List.foldl_cons, ih _ (fun x hx => hm x (List.mem_cons_of_mem _ hx))]
    have hw := h w (hm w List.mem_cons_self)
    cases e : w.slot with
    | none => rfl
    | some i =>
      dsimp only
      rw [storeOut_byte, storeOut_byte]
      · rintro ⟨x, y⟩
        rw [padTo_length] at y
        exact hw ⟨i, e, Or.inl ⟨x, y⟩⟩
      · rintro ⟨x, y⟩
        rw [leBytes_length] at y
        exact hw ⟨i, e, Or.inr ⟨x, y⟩⟩

/-- A queue put in place: it stands as given, its words moved as far as they can, and nothing else differs but their slots and what
moving words touches. -/
theorem setQueue_does (s : State) (q : Nat) (x : Queue) :
    (s.setQueue q x).queue q = x.settle (s.qcfg q) (s.badSpill q) ∧ OnlyQueue s (s.setQueue q x) q [] := by
  unfold State.setQueue
  dsimp only
  generalize x.settle (s.qcfg q) (s.badSpill q) = y
  have m := spill_byte (s.liftWords q x) (s.qcfg q) (s.queue q) y
  have e := (liftWords_touched s q x).trans (spill_touched _ (s.qcfg q) (s.queue q) y)
  generalize (s.liftWords q x).spill (s.qcfg q) (s.queue q) y = u at m e ⊢
  refine ⟨State.putQ_queue_same _ _ _, fun k hk => ?_, fun a _ ha => ?_, fun a h => ?_, ?_⟩
  · rw [State.putQ_queue, if_neg hk, e.queue k]
  · exact e.1 a ha
  · rw [State.putQ_queue_same] at h
    exact (m a h).trans (liftWords_byte s q x a)
  · rw [e.2]
    rfl

end Sys2Proof.Machine
end

