-- ==== Sys2Proof/Laws/Flits.lean ====
section
/-!
SUPPORT. Laws of a flit's bytes (R377): little-endian numbers, the CRC's range, the fields of the header, and that what is read from the
bytes sent is the flit sent.
-/
namespace Sys2Proof.Laws
open Sys2Proof Sys2Proof.Machine

theorem ofLE_leBytes (n v : Nat) : ofLE (leBytes n v) = v % 256 ^ n := by
  induction n generalizing v with
  | zero => simp [leBytes, ofLE, Nat.mod_one]
  | succ n ih => rw [leBytes, ofLE, ih, Nat.pow_succ', BitVec.toNat_ofNat, Nat.mod_mul]

theorem ofLE_append (a b : List Byte) : ofLE (a ++ b) = ofLE a + 256 ^ a.length * ofLE b := by
  induction a with
  | nil => simp [ofLE]
  | cons x a ih => simp only [List.cons_append, ofLE, ih, List.length_cons, Nat.pow_succ', Nat.mul_add, Nat.mul_assoc, Nat.add_assoc]

theorem length_padTo (n : Nat) (bs : List Byte) : (padTo n bs).length = n := by
  simp only [padTo, zeros, List.length_take, List.length_append, List.length_replicate]; omega

theorem crcBitR_lt {p c : Nat} (hp : p < 2 ^ 32) (hc : c < 2 ^ 32) : crcBitR p c < 2 ^ 32 := by
  unfold crcBitR
  split
  · exact Nat.xor_lt_two_pow (Nat.lt_of_le_of_lt (Nat.div_le_self c 2) hc) hp
  · exact Nat.lt_of_le_of_lt (Nat.div_le_self c 2) hc

theorem foldl_lt {α : Type} {f : Nat → α → Nat} {n : Nat} (h : ∀ c a, c < n → f c a < n) (l : List α) : ∀ c, c < n → l.foldl f c < n := by
  induction l with
  | nil => exact fun _ h => h
  | cons a l ih => exact fun c hc => ih _ (h c a hc)

theorem crc32c_lt (bs : List Byte) : crc32c bs < 2 ^ 32 :=
  Nat.xor_lt_two_pow (foldl_lt (fun _ b hc => foldl_lt (fun _ _ h => crcBitR_lt (by decide) h) _ _
    (Nat.xor_lt_two_pow hc (Nat.lt_of_lt_of_le b.isLt (by decide)))) _ _ (by decide)) (by decide)

/-- R377: every field of a header with its CRC is read where it stands. -/
theorem header_fields (hops type vl kind msg av cvl cr ack seq len src dst crc : Nat) (h1 : hops < 16) (h2 : type < 8) (h3 : vl < 8)
    (h4 : kind < 16) (h5 : msg < 4) (h6 : av < 2) (h7 : cvl < 8) (h8 : cr < 256) (h9 : ack < 4096) (h10 : seq < 4096) (h11 : len < 256)
    (h12 : src < 16384) (h13 : dst < 16384) (h14 : crc < 2 ^ 32) :
    let h := hops * 2 ^ 8 + type * 2 ^ 12 + vl * 2 ^ 15 + kind * 2 ^ 18 + msg * 2 ^ 22 + av * 2 ^ 24 + cvl * 2 ^ 25 + cr * 2 ^ 28 +
      ack * 2 ^ 36 + seq * 2 ^ 48 + len * 2 ^ 60 + src * 2 ^ 68 + dst * 2 ^ 82 + 2 ^ 96 * crc
    bitsOf h 95 82 = dst ∧ bitsOf h 81 68 = src ∧ bitsOf h 59 48 = seq ∧ bitsOf h 47 36 = ack ∧ h / 2 ^ 24 % 2 = av ∧ bitsOf h 35 28 = cr ∧
      bitsOf h 27 25 = cvl ∧ bitsOf h 23 22 = msg ∧ bitsOf h 21 18 = kind ∧ bitsOf h 17 15 = vl ∧ bitsOf h 14 12 = type ∧
      bitsOf h 11 8 = hops ∧ bitsOf h 67 60 = len ∧ bitsOf h 127 96 = crc ∧ bitsOf h 7 0 = 0 := by
  intro h
  simp only [bitsOf, h]
  refine ⟨?_, ?_, ?_, ?_, ?_, ?_, ?_, ?_, ?_, ?_, ?_, ?_, ?_, ?_, ?_⟩ <;> simp only [Nat.reducePow, Nat.reduceAdd, Nat.reduceSub] <;> omega

/-- The fields of a flit lie in the ranges of R377, and its payload fits. -/
def FlitFits (f : Flit) : Prop :=
  f.dst < 16384 ∧ f.src < 16384 ∧ f.seq < 4096 ∧ f.ack < 4096 ∧ f.credits < 256 ∧ f.creditVl < 8 ∧ f.msg < 4 ∧ f.kind < 16 ∧ f.vl < 8 ∧
    f.type < 8 ∧ f.hops < 16 ∧ f.payload.length ≤ 240

/-- R377: a flit is read from its bytes as it was sent, with a good CRC and zeros in its reserved bits. -/
theorem readFlit_flitBytes {f : Flit} (hf : FlitFits f) : readFlit (flitBytes f) = { f with crcOk := true, resOk := true, own := none } := by
  obtain ⟨h1, h2, h3, h4, h5, h6, h7, h8, h9, h10, h11, h12⟩ := hf
  have hd := crc32c_lt (leBytes 12 f.header ++ zeros 4 ++ padTo 240 f.payload)
  have hlt : f.header < 256 ^ 12 := by
    unfold Flit.header
    split <;> omega
  have hh : fieldLE (flitBytes f) 0 16 = f.header + 2 ^ 96 * crc32c (leBytes 12 f.header ++ zeros 4 ++ padTo 240 f.payload) := by
    have e : ((flitBytes f).drop 0).take 16 = leBytes 12 f.header ++ leBytes 4 (crc32c (leBytes 12 f.header ++ zeros 4 ++ padTo 240 f.payload)) := by
      rw [List.drop_zero]
      unfold flitBytes
      exact List.take_left' (by rw [List.length_append, leBytes_length, leBytes_length])
    unfold fieldLE
    rw [e, ofLE_append, ofLE_leBytes, ofLE_leBytes, leBytes_length, Nat.mod_eq_of_lt hlt, Nat.mod_eq_of_lt (by exact hd), show 256 ^ 12 = 2 ^ 96 from rfl]
  have ht : (flitBytes f).take 12 = leBytes 12 f.header := by
    unfold flitBytes
    rw [List.append_assoc]
    exact List.take_left' (leBytes_length 12 _)
  have hb : (flitBytes f).drop 16 = padTo 240 f.payload := by
    unfold flitBytes
    exact List.drop_left' (by rw [List.length_append, leBytes_length, leBytes_length])
  have hp : ((padTo 240 f.payload).take 240).take f.payload.length = f.payload := by
    unfold padTo
    rw [List.take_take, List.take_take]
    exact List.take_left' (by omega) |>.trans rfl
  have key := header_fields f.hops f.type f.vl f.kind f.msg (if f.ackValid then 1 else 0) f.creditVl f.credits f.ack f.seq f.payload.length
    f.src f.dst _ h11 h10 h9 h8 h7 (by split <;> omega) h6 h5 h4 h3 (by omega) h2 h1 hd
  have e : f.header = f.hops * 2 ^ 8 + f.type * 2 ^ 12 + f.vl * 2 ^ 15 + f.kind * 2 ^ 18 + f.msg * 2 ^ 22 + (if f.ackValid then 1 else 0) * 2 ^ 24 +
      f.creditVl * 2 ^ 25 + f.credits * 2 ^ 28 + f.ack * 2 ^ 36 + f.seq * 2 ^ 48 + f.payload.length * 2 ^ 60 + f.src * 2 ^ 68 + f.dst * 2 ^ 82 := by
    unfold Flit.header
    rw [Nat.mod_eq_of_lt h11, Nat.mod_eq_of_lt h10, Nat.mod_eq_of_lt h9, Nat.mod_eq_of_lt h8, Nat.mod_eq_of_lt h7, Nat.mod_eq_of_lt h6,
      Nat.mod_eq_of_lt h5, Nat.mod_eq_of_lt h4, Nat.mod_eq_of_lt h3, Nat.mod_eq_of_lt (show f.payload.length < 256 by omega), Nat.mod_eq_of_lt h2,
      Nat.mod_eq_of_lt h1]
  dsimp only at key
  rw [← e] at key
  obtain ⟨k1, k2, k3, k4, k5, k6, k7, k8, k9, k10, k11, k12, k13, k14, k15⟩ := key
  unfold readFlit
  dsimp only
  rw [hh, ht, hb]
  simp only [k1, k2, k3, k4, k6, k7, k8, k9, k10, k11, k12, k13, k14, k15, hp, bitAt, k5, beq_self_eq_true]
  cases f
  simp only [Flit.mk.injEq, true_and, and_true]
  split <;> simp_all
end Sys2Proof.Laws
end

