-- ==== Sys2Proof/Laws/Keeps.lean ====
section
/-!
SUPPORT. What every operation of the model keeps: the queue of commands, the canonical form of the memory and of every table, the free values already used, and what has left the module. One lemma per way of building a state.
-/
namespace Sys2Proof.Machine

/-- What an operation keeps from `s` to `t`: the queue is the same, a sound state stays sound, no free value is used again, and
what has left the module stays so. -/
structure Keeps (s t : State) : Prop where
  pending : t.pending = s.pending
  sound : s.sound = true → t.sound = true
  free : s.free ≤ t.free
  out : s.out <+: t.out

/-- A command whose answer is a next state keeps all of that. -/
def KeepsRes (s : State) (r : Res) : Prop := ∀ t, r = .next t → Keeps s t

/-- A reading whose answer is a state keeps all of that. -/
def KeepsChk {ε : Type} (s : State) (r : Except ε State) : Prop := ∀ t, r = .ok t → Keeps s t

/-- A choice that may answer a state keeps all of that. -/
def KeepsOpt (s : State) (o : Option State) : Prop := ∀ t, o = some t → Keeps s t

/-- A reading whose answer begins with a state keeps all of that. -/
def KeepsFst {ε β : Type} (s : State) (r : Except ε (State × β)) : Prop := ∀ p, r = .ok p → Keeps s p.1

theorem Keeps.refl (s : State) : Keeps s s := ⟨rfl, id, Nat.le_refl _, List.prefix_refl _⟩

theorem Keeps.trans {a b c : State} (h : Keeps a b) (k : Keeps b c) : Keeps a c :=
  ⟨k.pending.trans h.pending, fun x => k.sound (h.sound x), Nat.le_trans h.free k.free, h.out.trans k.out⟩

/-- A record update of the fields that soundness does not speak of. -/
theorem Keeps.upd {s0 s : State} {a1 a2 a3 a4 a5 a6 a7 a8 a9 a10 a11 a12 a13 a14 a15 a16 a17 a18 a19 a20 a21 a22 a23 a24}
    (h : Keeps s0 s) (hf : s.free ≤ a18) (ho : s.out <+: a19) : Keeps s0 { s with
      power := a1, retry := a2, badBytes := a3, badAcc := a4, softAcc := a22, start := a5, cfg := a6, hmd := a7, wadi := a8, epoch := a9
      annNo := a10, tasks := a11, swarm := a12, swarmDone := a23, digests := a24, takeover := a13, shadowOf := a14, history := a20
      params := a21, scan := a15, scanPins := a16, owners := a17
      free := a18, out := a19 } :=
  h.trans ⟨rfl, fun x => x, hf, ho⟩

theorem Keeps.ite {s0 a b : State} {c : Prop} [Decidable c] (h : Keeps s0 a) (k : Keeps s0 b) :
    Keeps s0 (if c then a else b) := by
  split
  · exact h
  · exact k

theorem Keeps.foldl {α : Type} {s0 s : State} {f : State → α → State} {l : List α}
    (hf : ∀ s a, Keeps s0 s → Keeps s0 (f s a)) (h : Keeps s0 s) : Keeps s0 (l.foldl f s) := by
  induction l generalizing s with
  | nil => exact h
  | cons a l ih => exact ih (hf s a h)

theorem Keeps.foldPair {α β : Type} {s0 : State} {p : State × β} {f : State × β → α → State × β} {l : List α}
    (hf : ∀ p a, Keeps s0 p.1 → Keeps s0 (f p a).1) (h : Keeps s0 p.1) : Keeps s0 (l.foldl f p).1 := by
  induction l generalizing p with
  | nil => exact h
  | cons a l ih => exact ih (hf p a h)

theorem KeepsRes.next {s0 t : State} (h : Keeps s0 t) : KeepsRes s0 (.next t) := by
  intro u hu
  cases hu
  exact h

theorem KeepsChk.ok {ε : Type} {s0 t : State} (h : Keeps s0 t) : KeepsChk (ε := ε) s0 (.ok t) := by
  intro u hu
  cases hu
  exact h

/-- A record update that soundness speaks of. -/
theorem Keeps.change {s0 s t : State} (h : Keeps s0 s) (hp : t.pending = s.pending) (hs : s.sound = true → t.sound = true)
    (hf : s.free ≤ t.free) (ho : s.out <+: t.out) : Keeps s0 t :=
  h.trans ⟨hp, hs, hf, ho⟩

theorem Keeps.setAnt {s0 s : State} {k : Nat} {v : List AntEntry} (h : Keeps s0 s) :
    Keeps s0 { s with ant := tput [] s.ant k v } := by
  refine h.change rfl (fun hs => ?_) (Nat.le_refl _) (List.prefix_refl _)
  simp only [State.sound, Bool.and_eq_true] at hs ⊢
  simp only [hs, Table.wf_tput, and_self]

theorem Keeps.setAcc {s0 s : State} {k : Nat} {v : List SpadAcc} (h : Keeps s0 s) :
    Keeps s0 { s with spadAcc := tput [] s.spadAcc k v } := by
  refine h.change rfl (fun hs => ?_) (Nat.le_refl _) (List.prefix_refl _)
  simp only [State.sound, Bool.and_eq_true] at hs ⊢
  simp only [hs, Table.wf_tput, and_self]

theorem Keeps.setRoutes {s0 s : State} {r : Table (BitVec 32)} (h : Keeps s0 s)
    (hr : Table.wf 0 s.routes = true → Table.wf 0 r = true) : Keeps s0 { s with routes := r } := by
  refine h.change rfl (fun hs => ?_) (Nat.le_refl _) (List.prefix_refl _)
  simp only [State.sound, Bool.and_eq_true] at hs ⊢
  simp only [hs, hr, and_self]

theorem Keeps.setMem {s0 s : State} {m : List Host.Cell} {b c d : List Nat} (h : Keeps s0 s)
    (hm : memOk s.mem = true → memOk m = true) : Keeps s0 { s with mem := m, badBytes := b, badAcc := c, softAcc := d } := by
  refine h.change rfl (fun hs => ?_) (Nat.le_refl _) (List.prefix_refl _)
  simp only [State.sound, Bool.and_eq_true] at hs ⊢
  simp only [hs, hm, and_self]

theorem Keeps.setLedgers {s0 s : State} {a b : Table Slot} (h : Keeps s0 s)
    (ha : Table.wf .erased s.ledger0 = true → Table.wf .erased a = true)
    (hb : Table.wf .erased s.ledger1 = true → Table.wf .erased b = true) :
    Keeps s0 { s with ledger0 := a, ledger1 := b } := by
  refine h.change rfl (fun hs => ?_) (Nat.le_refl _) (List.prefix_refl _)
  simp only [State.sound, Bool.and_eq_true] at hs ⊢
  simp only [hs, ha, hb, and_self]

theorem Keeps.setFlash {s0 s : State} {a b : List Host.Cell} (h : Keeps s0 s)
    (ha : Table.wf 0xFF s.flash0 = true → Table.wf 0xFF a = true)
    (hb : Table.wf 0xFF s.flash1 = true → Table.wf 0xFF b = true) :
    Keeps s0 { s with flash0 := a, flash1 := b } := by
  refine h.change rfl (fun hs => ?_) (Nat.le_refl _) (List.prefix_refl _)
  simp only [State.sound, Bool.and_eq_true] at hs ⊢
  simp only [hs, ha, hb, and_self]

/-- Many writes keep the canonical form of a table. -/
theorem Table.wf_foldl {α β : Type} [DecidableEq α] {d : α} (l : List β) (k : Table α → β → Nat) (v : Table α → β → α)
    {m : Table α} (h : Table.wf d m = true) : Table.wf d (l.foldl (fun m p => tput d m (k m p) (v m p)) m) = true := by
  induction l generalizing m with
  | nil => exact h
  | cons p l ih => exact ih (Table.wf_tput h _ _)

/-- A unit of work of an Erg engine keeps all of that. -/
abbrev KeepsDone (s : State) (d : Done) : Prop := Keeps s d.s

theorem KeepsChk.bind {ε α : Type} {s0 : State} {e : Except ε α} {f : α → Except ε State} (h : ∀ x, KeepsChk s0 (f x)) :
    KeepsChk s0 (e >>= f) := by
  intro t ht
  cases e with
  | error z => cases ht
  | ok x => exact h x t ht

theorem KeepsChk.bindState {ε : Type} {s0 : State} {e : Except ε State} {f : State → Except ε State} (he : KeepsChk s0 e)
    (h : ∀ x, Keeps s0 x → KeepsChk s0 (f x)) : KeepsChk s0 (e >>= f) := by
  intro t ht
  cases e with
  | error z => cases ht
  | ok x => exact h x (he x rfl) t ht

theorem KeepsChk.map {ε α : Type} {s0 : State} {e : Except ε α} {f : α → State} (h : ∀ x, Keeps s0 (f x)) :
    KeepsChk s0 (e.map f) := by
  intro t ht
  cases e with
  | error z => cases ht
  | ok x =>
    cases ht
    exact h x

theorem KeepsChk.mapState {ε : Type} {s0 : State} {e : Except ε State} {f : State → State} (he : KeepsChk s0 e)
    (h : ∀ x, Keeps s0 x → Keeps s0 (f x)) : KeepsChk s0 (e.map f) := by
  intro t ht
  cases e with
  | error z => cases ht
  | ok x =>
    cases ht
    exact h x (he x rfl)

theorem KeepsChk.pure {ε : Type} {s0 t : State} (h : Keeps s0 t) : KeepsChk s0 (Pure.pure t : Except ε State) := KeepsChk.ok h

theorem KeepsChk.error {ε : Type} {s0 : State} {z : ε} : KeepsChk s0 (.error z) := by
  intro t ht
  cases ht

theorem KeepsChk.ite {ε : Type} {s0 : State} {a b : Except ε State} {c : Prop} [Decidable c] (h : KeepsChk s0 a) (k : KeepsChk s0 b) :
    KeepsChk s0 (if c then a else b) := by
  split
  · exact h
  · exact k

theorem Keeps.elim {α : Type} {s0 s : State} {o : Option α} {f : α → State} (h : Keeps s0 s) (k : ∀ a, Keeps s0 (f a)) :
    Keeps s0 (o.elim s f) := by
  cases o with
  | none => exact h
  | some a => exact k a

/-- A named stop changes no state. -/
theorem KeepsChk.naming {s0 : State} {a g : Nat} {r : Chk State} (h : KeepsChk s0 r) : KeepsChk s0 (naming a g r) := by
  intro t ht
  cases r with
  | error z => cases ht
  | ok x =>
    cases ht
    exact h _ rfl

theorem Keeps.ofId {s0 s : State} (h : Keeps s0 s) : Keeps s0 (id s) := h

theorem KeepsOpt.none {s0 : State} : KeepsOpt s0 none := by
  intro t ht
  cases ht

theorem KeepsOpt.some {s0 t : State} (h : Keeps s0 t) : KeepsOpt s0 (some t) := by
  intro u hu
  cases hu
  exact h

theorem KeepsOpt.ite {s0 : State} {a b : Option State} {c : Prop} [Decidable c] (h : KeepsOpt s0 a) (k : KeepsOpt s0 b) :
    KeepsOpt s0 (if c then a else b) := by
  split
  · exact h
  · exact k

theorem Keeps.getD {s0 t : State} {o : Option State} (h : KeepsOpt s0 o) (k : Keeps s0 t) : Keeps s0 (o.getD t) := by
  cases o with
  | none => exact k
  | some u => exact h u rfl

theorem Keeps.ofPair {β : Type} {s0 a : State} {b : β} {p : State × β} (h : p = (a, b)) (k : Keeps s0 p.1) : Keeps s0 a := by
  subst h
  exact k

theorem Keeps.ofSome {s0 a : State} {o : Option State} (h : o = some a) (k : KeepsOpt s0 o) : Keeps s0 a := k a h

theorem Keeps.ofOk {ε : Type} {s0 a : State} {e : Except ε State} (h : e = .ok a) (k : KeepsChk s0 e) : Keeps s0 a := k a h

theorem Keeps.ofFst {ε β : Type} {s0 : State} {p : State × β} {e : Except ε (State × β)} (h : e = .ok p) (k : KeepsFst s0 e) :
    Keeps s0 p.1 := k p h

theorem Keeps.ofOkPair {ε β : Type} {s0 a : State} {b : β} {e : Except ε (State × β)} (h : e = .ok (a, b)) (k : KeepsFst s0 e) :
    Keeps s0 a := k (a, b) h

theorem KeepsFst.map {ε β : Type} {s0 : State} {e : Except ε State} {f : State → State × β} (he : KeepsChk s0 e)
    (h : ∀ t, Keeps s0 t → Keeps s0 (f t).1) : KeepsFst s0 (e.map f) := by
  intro p hp
  cases e with
  | error z => cases hp
  | ok x =>
    cases hp
    exact h x (he x rfl)

theorem KeepsFst.ok {ε β : Type} {s0 : State} {p : State × β} (h : Keeps s0 p.1) : KeepsFst (ε := ε) s0 (.ok p) := by
  intro q hq
  cases hq
  exact h

theorem KeepsFst.error {ε β : Type} {s0 : State} {z : ε} : KeepsFst (β := β) s0 (.error z) := by
  intro q hq
  cases hq

theorem KeepsFst.ite {ε β : Type} {s0 : State} {a b : Except ε (State × β)} {c : Prop} [Decidable c] (h : KeepsFst s0 a)
    (k : KeepsFst s0 b) : KeepsFst s0 (if c then a else b) := by
  split
  · exact h
  · exact k

theorem KeepsFst.bind {ε α β : Type} {s0 : State} {e : Except ε α} {f : α → Except ε (State × β)} (h : ∀ x, KeepsFst s0 (f x)) :
    KeepsFst s0 (e >>= f) := by
  intro t ht
  cases e with
  | error z => cases ht
  | ok x => exact h x t ht

theorem KeepsFst.bindState {ε β : Type} {s0 : State} {e : Except ε State} {f : State → Except ε (State × β)} (he : KeepsChk s0 e)
    (h : ∀ x, Keeps s0 x → KeepsFst s0 (f x)) : KeepsFst s0 (e >>= f) := by
  intro t ht
  cases e with
  | error z => cases ht
  | ok x => exact h x (he x rfl) t ht

theorem KeepsChk.bindFst {ε β : Type} {s0 : State} {e : Except ε (State × β)} {f : State × β → Except ε State}
    (he : KeepsFst s0 e) (h : ∀ p, Keeps s0 p.1 → KeepsChk s0 (f p)) : KeepsChk s0 (e >>= f) := by
  intro t ht
  cases e with
  | error z => cases ht
  | ok x => exact h x (he x rfl) t ht

theorem KeepsFst.bindFst {ε β γ : Type} {s0 : State} {e : Except ε (State × β)} {f : State × β → Except ε (State × γ)}
    (he : KeepsFst s0 e) (h : ∀ p, Keeps s0 p.1 → KeepsFst s0 (f p)) : KeepsFst s0 (e >>= f) := by
  intro t ht
  cases e with
  | error z => cases ht
  | ok x => exact h x (he x rfl) t ht

theorem KeepsFst.foldlOk {ε β γ : Type} {s0 : State} {l : List γ} {f : Except ε (State × β) → γ → Except ε (State × β)}
    {e : Except ε (State × β)} (hf : ∀ e c, KeepsFst s0 e → KeepsFst s0 (f e c)) (h : KeepsFst s0 e) :
    KeepsFst s0 (l.foldl f e) := by
  induction l generalizing e with
  | nil => exact h
  | cons c l ih => exact ih (hf e c h)

theorem KeepsChk.foldlOk {ε γ : Type} {s0 : State} {l : List γ} {f : Except ε State → γ → Except ε State}
    {e : Except ε State} (hf : ∀ e c, KeepsChk s0 e → KeepsChk s0 (f e c)) (h : KeepsChk s0 e) :
    KeepsChk s0 (l.foldl f e) := by
  induction l generalizing e with
  | nil => exact h
  | cons c l ih => exact ih (hf e c h)

/-- A unit of work that may not be there keeps all of that. -/
def KeepsOptDone (s : State) (o : Option Done) : Prop := ∀ d, o = some d → KeepsDone s d

theorem KeepsOptDone.none {s0 : State} : KeepsOptDone s0 none := by
  intro t ht
  cases ht

theorem KeepsOptDone.some {s0 : State} {d : Done} (h : KeepsDone s0 d) : KeepsOptDone s0 (some d) := by
  intro u hu
  cases hu
  exact h

/-- Work that goes on with a state that a reading gives. -/
theorem Keeps.givenState {s0 s : State} {c : Chk State} {f : State → Done} (k : ∀ t, Keeps s0 t → KeepsDone s0 (f t))
    (hc : KeepsChk s0 c) (h : Keeps s0 s) : KeepsDone s0 (s.given_ c f) := by
  unfold State.given_
  split
  · exact h
  · exact k _ (hc _ rfl)

theorem KeepsDone.ofSome {s0 : State} {d : Done} {o : Option Done} (h : o = some d) (k : KeepsOptDone s0 o) : KeepsDone s0 d := k d h

end Sys2Proof.Machine
end

