-- ==== Sys2Proof/Laws/KeepsOps.lean ====
section
/-!
SUPPORT. What the operations of Ops keep of a state.
-/
namespace Sys2Proof.Machine

theorem State.putReg_keeps (s0 s a1 a2) (h : Keeps s0 s) :
    Keeps s0 (State.putReg s a1 a2) := by
  refine h.change rfl (fun hs => ?_) (Nat.le_refl _) (List.prefix_refl _)
  simp only [State.sound, State.putReg, Bool.and_eq_true] at hs ⊢
  simp only [hs, regsOk_put, and_self]

theorem State.setFld_keeps (s0 s a1 a2 a3) (h : Keeps s0 s) :
    Keeps s0 (State.setFld s a1 a2 a3) := by
  unfold State.setFld
  repeat' first
    | with_reducible assumption
    | with_reducible refine State.putReg_keeps _ _ _ _ ?_

theorem State.bump_keeps (s0 s a1 a2 a3) (h : Keeps s0 s) :
    Keeps s0 (State.bump s a1 a2 a3) := by
  unfold State.bump
  repeat' first
    | with_reducible assumption
    | with_reducible refine State.setFld_keeps _ _ _ _ _ ?_

theorem State.bumpSat_keeps (s0 s a1 a2 a3) (h : Keeps s0 s) :
    Keeps s0 (State.bumpSat s a1 a2 a3) := by
  unfold State.bumpSat
  repeat' first
    | with_reducible assumption
    | with_reducible refine State.setFld_keeps _ _ _ _ _ ?_

theorem State.store_keeps (s0 s a1 a2) (h : Keeps s0 s) :
    Keeps s0 (State.store s a1 a2) := by
  refine h.change rfl (fun hs => ?_) (Nat.le_refl _) (List.prefix_refl _)
  simp only [State.sound, State.store, Bool.and_eq_true] at hs ⊢
  simp only [hs, memPuts_memOk, and_self]

theorem State.wipe_keeps (s0 s a1 a2) (h : Keeps s0 s) :
    Keeps s0 (State.wipe s a1 a2) := by
  refine h.change rfl (fun hs => ?_) (Nat.le_refl _) (List.prefix_refl _)
  simp only [State.sound, State.wipe, Bool.and_eq_true] at hs ⊢
  simp only [hs, memOk_filter, and_self]

theorem State.correctAcc_keeps (s0 s a1) (h : Keeps s0 s) :
    Keeps s0 (State.correctAcc s a1) := by
  unfold State.correctAcc
  repeat' first
    | with_reducible assumption
    | with_reducible exact Nat.le_refl _
    | with_reducible exact Nat.le_add_right _ _
    | with_reducible exact List.prefix_refl _
    | with_reducible refine Keeps.ite ?_ ?_
    | with_reducible refine State.bump_keeps _ _ _ _ _ ?_
    | split
    | dsimp only
    | exact Nat.le_add_right _ _
    | exact Nat.le_refl _
    | exact List.prefix_refl _
    | with_reducible refine Keeps.setAnt ?_
    | with_reducible refine Keeps.upd ?_ ?_ ?_

theorem State.correct_keeps (s0 s a1 a2) (h : Keeps s0 s) :
    Keeps s0 (State.correct s a1 a2) := by
  unfold State.correct
  repeat' first
    | with_reducible assumption
    | with_reducible refine Keeps.ite ?_ ?_
    | with_reducible refine State.correctAcc_keeps _ _ _ ?_
    | with_reducible refine Keeps.foldl (fun _ _ _ => ?_) ?_

theorem State.setBits_keeps (s0 s a1 a2 a3 a4) (h : Keeps s0 s) :
    Keeps s0 (State.setBits s a1 a2 a3 a4) := by
  unfold State.setBits
  repeat' first
    | with_reducible assumption
    | with_reducible refine Keeps.ite ?_ ?_
    | with_reducible refine State.store_keeps _ _ _ _ ?_

theorem State.putRuns_keeps (s0 s a1) (h : Keeps s0 s) :
    Keeps s0 (State.putRuns s a1) := by
  unfold State.putRuns
  repeat' first
    | with_reducible assumption
    | with_reducible refine Keeps.ite ?_ ?_
    | with_reducible refine State.setBits_keeps _ _ _ _ _ _ ?_
    | with_reducible refine Keeps.foldl (fun _ _ _ => ?_) ?_

theorem State.putQ_keeps (s0 s a1 a2) (h : Keeps s0 s) :
    Keeps s0 (State.putQ s a1 a2) := by
  refine h.change rfl (fun hs => ?_) (Nat.le_refl _) (List.prefix_refl _)
  simp only [State.sound, State.putQ, Bool.and_eq_true] at hs ⊢
  simp only [hs, Table.wf_tput, and_self]

theorem State.putPort_keeps (s0 s a1 a2) (h : Keeps s0 s) :
    Keeps s0 (State.putPort s a1 a2) := by
  refine h.change rfl (fun hs => ?_) (Nat.le_refl _) (List.prefix_refl _)
  simp only [State.sound, State.putPort, Bool.and_eq_true] at hs ⊢
  simp only [hs, Table.wf_tput, and_self]

theorem State.putMember_keeps (s0 s a1 a2) (h : Keeps s0 s) :
    Keeps s0 (State.putMember s a1 a2) := by
  refine h.change rfl (fun hs => ?_) (Nat.le_refl _) (List.prefix_refl _)
  simp only [State.sound, State.putMember, Bool.and_eq_true] at hs ⊢
  simp only [hs, Table.wf_tput, and_self]

theorem State.putWin_keeps (s0 s a1 a2) (h : Keeps s0 s) :
    Keeps s0 (State.putWin s a1 a2) := by
  refine h.change rfl (fun hs => ?_) (Nat.le_refl _) (List.prefix_refl _)
  simp only [State.sound, State.putWin, Bool.and_eq_true] at hs ⊢
  simp only [hs, Table.wf_tput, and_self]

theorem State.putHandle_keeps (s0 s a1 a2) (h : Keeps s0 s) :
    Keeps s0 (State.putHandle s a1 a2) := by
  refine h.change rfl (fun hs => ?_) (Nat.le_refl _) (List.prefix_refl _)
  simp only [State.sound, State.putHandle, Bool.and_eq_true] at hs ⊢
  simp only [hs, Table.wf_tput, and_self]

theorem State.putMcast_keeps (s0 s a1 a2) (h : Keeps s0 s) :
    Keeps s0 (State.putMcast s a1 a2) := by
  refine h.change rfl (fun hs => ?_) (Nat.le_refl _) (List.prefix_refl _)
  simp only [State.sound, State.putMcast, Bool.and_eq_true] at hs ⊢
  simp only [hs, Table.wf_tput, and_self]

theorem State.putGroup_keeps (s0 s a1 a2) (h : Keeps s0 s) :
    Keeps s0 (State.putGroup s a1 a2) := by
  refine h.change rfl (fun hs => ?_) (Nat.le_refl _) (List.prefix_refl _)
  simp only [State.sound, State.putGroup, Bool.and_eq_true] at hs ⊢
  simp only [hs, Table.wf_tput, and_self]

theorem State.putCtx_keeps (s0 s a1 a2) (h : Keeps s0 s) :
    Keeps s0 (State.putCtx s a1 a2) := by
  refine h.change rfl (fun hs => ?_) (Nat.le_refl _) (List.prefix_refl _)
  simp only [State.sound, State.putCtx, Bool.and_eq_true] at hs ⊢
  simp only [hs, Table.wf_tput, and_self]

theorem State.putCore_keeps (s0 s a1 a2) (h : Keeps s0 s) :
    Keeps s0 (State.putCore s a1 a2) := by
  refine h.change rfl (fun hs => ?_) (Nat.le_refl _) (List.prefix_refl _)
  simp only [State.sound, State.putCore, Bool.and_eq_true] at hs ⊢
  simp only [hs, Table.wf_tput, and_self]

theorem State.putStack_keeps (s0 s a1 a2) (h : Keeps s0 s) :
    Keeps s0 (State.putStack s a1 a2) := by
  refine h.change rfl (fun hs => ?_) (Nat.le_refl _) (List.prefix_refl _)
  simp only [State.sound, State.putStack, Bool.and_eq_true] at hs ⊢
  simp only [hs, Table.wf_tput, and_self]

theorem State.withWadi_keeps (s0 s a1) (h : Keeps s0 s) :
    Keeps s0 (State.withWadi s a1) := by
  unfold State.withWadi
  repeat' first
    | with_reducible assumption
    | with_reducible exact Nat.le_refl _
    | with_reducible exact Nat.le_add_right _ _
    | with_reducible exact List.prefix_refl _
    | dsimp only
    | exact Nat.le_add_right _ _
    | exact Nat.le_refl _
    | exact List.prefix_refl _
    | with_reducible refine Keeps.setAnt ?_
    | with_reducible refine Keeps.upd ?_ ?_ ?_

theorem State.used_keeps (s0 s) (h : Keeps s0 s) :
    Keeps s0 (State.used s) := by
  unfold State.used
  repeat' first
    | with_reducible assumption
    | with_reducible exact Nat.le_refl _
    | with_reducible exact Nat.le_add_right _ _
    | with_reducible exact List.prefix_refl _
    | dsimp only
    | exact Nat.le_add_right _ _
    | exact Nat.le_refl _
    | exact List.prefix_refl _
    | with_reducible refine Keeps.setAnt ?_
    | with_reducible refine Keeps.upd ?_ ?_ ?_

theorem State.emit_keeps (s0 s a1) (h : Keeps s0 s) :
    Keeps s0 (State.emit s a1) := by
  unfold State.emit
  exact h.upd (Nat.le_refl _) (List.prefix_append _ _)

theorem State.noteAcc_keeps (s0 s a1 a2) (h : Keeps s0 s) :
    Keeps s0 (State.noteAcc s a1 a2) := h.setAcc

theorem State.dropAccs_keeps (s0 s a1 a2) (h : Keeps s0 s) :
    Keeps s0 (State.dropAccs s a1 a2) := h.setAcc

theorem State.meet_keeps (s0 c u a p x) (h : Keeps s0 p.1) : Keeps s0 (State.meet c u a p x).1 := by
  unfold State.meet
  dsimp only
  split
  · exact h
  · split
    · exact State.used_keeps _ _ h
    · split
      · exact State.used_keeps _ _ (State.bump_keeps _ _ _ _ _ h)
      · exact State.used_keeps _ _ (State.bump_keeps _ _ _ _ _ h)

theorem State.landAt_keeps (s0 s a1 a2 a3) (h : Keeps s0 s) :
    Keeps s0 (State.landAt s a1 a2 a3) :=
  State.store_keeps _ _ _ _ (Keeps.foldPair (fun _ _ k => State.meet_keeps _ _ _ _ _ _ k) h)

theorem State.land_keeps (s0 s a1 a2 a3 a4) (h : Keeps s0 s) :
    Keeps s0 (State.land s a1 a2 a3 a4) := by
  unfold State.land
  repeat' first
    | with_reducible assumption
    | with_reducible refine Keeps.ite ?_ ?_
    | with_reducible refine State.landAt_keeps _ _ _ _ _ ?_
    | with_reducible refine State.noteAcc_keeps _ _ _ _ ?_

theorem State.landRuns_keeps (s0 s a1 a2 a3 a4) (h : Keeps s0 s) :
    Keeps s0 (State.landRuns s a1 a2 a3 a4) := by
  unfold State.landRuns
  repeat' first
    | with_reducible assumption
    | with_reducible refine Keeps.ite ?_ ?_
    | with_reducible refine State.landAt_keeps _ _ _ _ _ ?_
    | with_reducible refine State.noteAcc_keeps _ _ _ _ ?_
    | with_reducible refine Keeps.foldl (fun _ _ _ => ?_) ?_

theorem State.scrubRows_keeps (s0 s a1 a2 a3) (h : Keeps s0 s) :
    Keeps s0 (State.scrubRows s a1 a2 a3) := by
  unfold State.scrubRows
  repeat' first
    | with_reducible assumption
    | with_reducible refine Keeps.ite ?_ ?_
    | with_reducible refine State.used_keeps _ _ ?_
    | with_reducible refine State.bump_keeps _ _ _ _ _ ?_
    | with_reducible refine State.wipe_keeps _ _ _ _ ?_
    | with_reducible refine Keeps.foldl (fun _ _ _ => ?_) ?_

theorem State.arriveWrite_keeps (s0 s a1 a2 a3) (h : Keeps s0 s) :
    Keeps s0 (State.arriveWrite s a1 a2 a3) := by
  unfold State.arriveWrite
  repeat' first
    | with_reducible assumption
    | with_reducible refine Keeps.ite ?_ ?_
    | with_reducible refine State.land_keeps _ _ _ _ _ _ ?_

theorem State.storeOut_keeps (s0 s a1 a2) (h : Keeps s0 s) :
    Keeps s0 (State.storeOut s a1 a2) := by
  unfold State.storeOut
  repeat' first
    | with_reducible assumption
    | with_reducible refine Keeps.ite ?_ ?_
    | with_reducible refine State.arriveWrite_keeps _ _ _ _ _ ?_
    | with_reducible refine State.store_keeps _ _ _ _ ?_

theorem State.countPasses_keeps (s0 s a1) (h : Keeps s0 s) :
    Keeps s0 (State.countPasses s a1) := by
  unfold State.countPasses
  repeat' first
    | with_reducible assumption
    | with_reducible refine Keeps.ite ?_ ?_
    | with_reducible refine State.bump_keeps _ _ _ _ _ ?_
    | with_reducible refine State.used_keeps _ _ ?_
    | with_reducible refine Keeps.foldl (fun _ _ _ => ?_) ?_

theorem State.setFence_keeps (s0 s a1) (h : Keeps s0 s) :
    Keeps s0 (State.setFence s a1) := by
  unfold State.setFence
  repeat' first
    | with_reducible assumption
    | with_reducible refine State.putReg_keeps _ _ _ _ ?_

end Sys2Proof.Machine
end

