-- ==== Sys2Proof/Laws/KeepsFrames.lean ====
section
/-!
SUPPORT. What the operations of Frames keep of a state.
-/
namespace Sys2Proof.Machine

theorem State.withHmd_keeps (s0 s a1) (h : Keeps s0 s) :
    Keeps s0 (State.withHmd s a1) := by
  unfold State.withHmd
  repeat' first
    | with_reducible assumption
    | with_reducible exact Nat.le_refl _
    | with_reducible exact Nat.le_add_right _ _
    | with_reducible exact List.prefix_refl _
    | dsimp only
    | exact Nat.le_add_right _ _
    | exact Nat.le_refl _
    | exact List.prefix_refl _
    | with_reducible refine Keeps.setAnt ?_
    | with_reducible refine Keeps.upd ?_ ?_ ?_

theorem State.showSession_keeps (s0 s) (h : Keeps s0 s) :
    Keeps s0 (State.showSession s) := by
  unfold State.showSession
  repeat' first
    | with_reducible assumption
    | with_reducible refine Keeps.ite ?_ ?_
    | with_reducible refine State.setFld_keeps _ _ _ _ _ ?_

theorem State.endSess_keeps (s0 s) (h : Keeps s0 s) :
    Keeps s0 (State.endSess s) := by
  unfold State.endSess
  repeat' first
    | with_reducible assumption
    | with_reducible refine State.showSession_keeps _ _ ?_
    | with_reducible refine State.withHmd_keeps _ _ _ ?_

theorem State.sendFrame_keeps (s0 s a1 a2 a3 a4 a5) (h : Keeps s0 s) :
    Keeps s0 (State.sendFrame s a1 a2 a3 a4 a5) := by
  unfold State.sendFrame
  repeat' first
    | with_reducible assumption
    | with_reducible refine Keeps.ite ?_ ?_
    | with_reducible refine State.emit_keeps _ _ _ ?_
    | with_reducible refine State.withWadi_keeps _ _ _ ?_
    | with_reducible refine State.withHmd_keeps _ _ _ ?_
    | with_reducible refine State.endSess_keeps _ _ ?_

theorem State.sendRefuse_keeps (s0 s a1) (h : Keeps s0 s) :
    Keeps s0 (State.sendRefuse s a1) := by
  unfold State.sendRefuse
  repeat' first
    | with_reducible assumption
    | with_reducible refine State.sendFrame_keeps _ _ _ _ _ _ _ ?_

theorem State.reply_keeps (s0 s a1 a2 a3 a4) (h : Keeps s0 s) :
    Keeps s0 (State.reply s a1 a2 a3 a4) := by
  unfold State.reply
  repeat' first
    | with_reducible assumption
    | with_reducible refine Keeps.ite ?_ ?_
    | with_reducible refine State.sendFrame_keeps _ _ _ _ _ _ _ ?_
    | with_reducible refine State.withWadi_keeps _ _ _ ?_

theorem State.mgmtReply_keeps (s0 s a1 a2 a3 a4 a5 a6) (h : Keeps s0 s) :
    Keeps s0 (State.mgmtReply s a1 a2 a3 a4 a5 a6) := by
  unfold State.mgmtReply
  repeat' first
    | with_reducible assumption
    | with_reducible refine State.reply_keeps _ _ _ _ _ _ ?_

end Sys2Proof.Machine
end

