-- ==== Sys2Proof/Laws/KeepsQueue.lean ====
section
/-!
SUPPORT. What the operations of Queue keep of a state.
-/
namespace Sys2Proof.Machine

theorem State.spill_keeps (s0 s a1 a2 a3) (h : Keeps s0 s) :
    Keeps s0 (State.spill s a1 a2 a3) := by
  unfold State.spill
  repeat' first
    | with_reducible assumption
    | with_reducible refine Keeps.ite ?_ ?_
    | with_reducible refine State.storeOut_keeps _ _ _ _ ?_
    | with_reducible refine Keeps.foldl (fun _ _ _ => ?_) ?_
    | with_reducible refine Keeps.foldPair (fun _ _ _ => ?_) ?_
    | split

theorem State.correctSpill_keeps (s0 s a1 a2) (h : Keeps s0 s) :
    Keeps s0 (State.correctSpill s a1 a2) := by
  unfold State.correctSpill
  repeat' first
    | with_reducible assumption
    | with_reducible refine Keeps.ite ?_ ?_
    | with_reducible refine State.correct_keeps _ _ _ _ ?_
    | with_reducible refine Keeps.elim ?_ (fun _ => ?_)

theorem State.liftWords_keeps (s0 s a1 a2) (h : Keeps s0 s) :
    Keeps s0 (State.liftWords s a1 a2) := by
  unfold State.liftWords
  repeat' first
    | with_reducible assumption
    | with_reducible refine Keeps.ite ?_ ?_
    | with_reducible refine State.correctSpill_keeps _ _ _ _ ?_
    | with_reducible refine Keeps.foldl (fun _ _ _ => ?_) ?_

theorem State.setQueue_keeps (s0 s a1 a2) (h : Keeps s0 s) :
    Keeps s0 (State.setQueue s a1 a2) := by
  unfold State.setQueue
  repeat' first
    | with_reducible assumption
    | with_reducible refine Keeps.ite ?_ ?_
    | with_reducible refine State.settle_keeps _ _ ?_
    | with_reducible refine State.liftWords_keeps _ _ _ _ ?_
    | with_reducible refine State.spill_keeps _ _ _ _ _ ?_
    | with_reducible refine State.putQ_keeps _ _ _ _ ?_

theorem State.countDrops_keeps (s0 s a1 a2 a3) (h : Keeps s0 s) :
    Keeps s0 (State.countDrops s a1 a2 a3) := by
  unfold State.countDrops
  repeat' first
    | with_reducible assumption
    | with_reducible refine State.bump_keeps _ _ _ _ _ ?_

theorem State.pushed_keeps (s0 s a1 a2) (h : Keeps s0 s) :
    Keeps s0 (State.pushed s a1 a2) := by
  unfold State.pushed
  repeat' first
    | with_reducible assumption
    | with_reducible refine State.countDrops_keeps _ _ _ _ _ ?_
    | with_reducible refine State.setQueue_keeps _ _ _ _ ?_

theorem State.pushItem_keeps (s0 s a1 a2) (h : Keeps s0 s) :
    Keeps s0 (State.pushItem s a1 a2) := by
  unfold State.pushItem
  repeat' first
    | with_reducible assumption
    | with_reducible refine Keeps.ite ?_ ?_
    | with_reducible refine State.pushed_keeps _ _ _ _ ?_

theorem State.enableQueue_keeps (s0 s a1) (h : Keeps s0 s) :
    Keeps s0 (State.enableQueue s a1) := by
  unfold State.enableQueue
  repeat' first
    | with_reducible assumption
    | with_reducible refine Keeps.ite ?_ ?_
    | with_reducible refine State.putQ_keeps _ _ _ _ ?_

theorem State.tryEnable_keeps (s0 s a1) (h : Keeps s0 s) :
    Keeps s0 (State.tryEnable s a1) := by
  unfold State.tryEnable
  repeat' first
    | with_reducible assumption
    | with_reducible refine Keeps.ite ?_ ?_
    | with_reducible refine State.enableQueue_keeps _ _ _ ?_
    | with_reducible refine State.setFld_keeps _ _ _ _ _ ?_
    | with_reducible refine State.putQ_keeps _ _ _ _ ?_

theorem State.setupQueue_keeps (s0 s a1 a2 a3 a4 a5 a6 a7 a8 a9) (h : Keeps s0 s) :
    Keeps s0 (State.setupQueue s a1 a2 a3 a4 a5 a6 a7 a8 a9) := by
  unfold State.setupQueue
  repeat' first
    | with_reducible assumption
    | with_reducible refine Keeps.ite ?_ ?_
    | with_reducible refine State.putReg_keeps _ _ _ _ ?_
    | with_reducible refine State.tryEnable_keeps _ _ _ ?_

theorem State.setupStaging_keeps (s0 s a1 a2) (h : Keeps s0 s) :
    Keeps s0 (State.setupStaging s a1 a2) := by
  unfold State.setupStaging
  repeat' first
    | with_reducible assumption
    | with_reducible refine Keeps.ite ?_ ?_
    | with_reducible refine State.setupQueue_keeps _ _ _ _ _ _ _ _ _ _ _ ?_
    | split
    | dsimp only

theorem State.endStaging_keeps (s0 s a1) (h : Keeps s0 s) :
    Keeps s0 (State.endStaging s a1) := by
  unfold State.endStaging
  repeat' first
    | with_reducible assumption
    | with_reducible refine Keeps.ite ?_ ?_
    | with_reducible refine State.setFld_keeps _ _ _ _ _ ?_

end Sys2Proof.Machine
end

