-- ==== Sys2Proof/Laws/KeepsFlags.lean ====
section
/-!
SUPPORT. What the operations of Flags keep of a state.
-/
namespace Sys2Proof.Machine

theorem State.raise_keeps (s0 s a1) (h : Keeps s0 s) :
    Keeps s0 (State.raise s a1) := by
  unfold State.raise
  repeat' first
    | with_reducible assumption
    | with_reducible refine State.setFld_keeps _ _ _ _ _ ?_
    | with_reducible refine State.used_keeps _ _ ?_
    | with_reducible refine State.pushItem_keeps _ _ _ _ ?_

theorem State.noteParity_keeps (s0 s a1 a2 a3 a4) (h : Keeps s0 s) :
    Keeps s0 (State.noteParity s a1 a2 a3 a4) := by
  unfold State.noteParity
  repeat' first
    | with_reducible assumption
    | with_reducible refine Keeps.ite ?_ ?_
    | with_reducible refine State.bump_keeps _ _ _ _ _ ?_
    | with_reducible refine State.putReg_keeps _ _ _ _ ?_
    | with_reducible refine State.used_keeps _ _ ?_
    | with_reducible refine State.putCore_keeps _ _ _ _ ?_

theorem State.noteParities_keeps (s0 s a1 a2 a3 a4) (h : Keeps s0 s) :
    Keeps s0 (State.noteParities s a1 a2 a3 a4) := by
  unfold State.noteParities
  repeat' first
    | with_reducible assumption
    | with_reducible refine State.noteParity_keeps _ _ _ _ _ _ ?_
    | with_reducible refine Keeps.foldl (fun _ _ _ => ?_) ?_

theorem State.countConv_keeps (s0 s a1 a2 a3) (h : Keeps s0 s) :
    Keeps s0 (State.countConv s a1 a2 a3) := by
  unfold State.countConv
  repeat' first
    | with_reducible assumption
    | with_reducible refine Keeps.ite ?_ ?_
    | with_reducible refine State.bump_keeps _ _ _ _ _ ?_

theorem State.noteUe_keeps (s0 s a1 a2) (h : Keeps s0 s) :
    Keeps s0 (State.noteUe s a1 a2) := by
  unfold State.noteUe
  repeat' first
    | with_reducible assumption
    | with_reducible refine Keeps.ite ?_ ?_
    | with_reducible refine State.bump_keeps _ _ _ _ _ ?_
    | with_reducible refine State.putReg_keeps _ _ _ _ ?_
    | with_reducible refine State.putStack_keeps _ _ _ _ ?_
    | with_reducible refine State.raise_keeps _ _ _ ?_

theorem State.correctAll_keeps (s0 s a1) (h : Keeps s0 s) :
    Keeps s0 (State.correctAll s a1) := by
  unfold State.correctAll
  repeat' first
    | with_reducible assumption
    | with_reducible refine Keeps.ite ?_ ?_
    | with_reducible refine State.correct_keeps _ _ _ _ ?_
    | with_reducible refine Keeps.foldl (fun _ _ _ => ?_) ?_

theorem State.noteStream_keeps (s0 s a1 a2 a3 a4) (h : Keeps s0 s) :
    Keeps s0 (State.noteStream s a1 a2 a3 a4) := by
  unfold State.noteStream
  repeat' first
    | with_reducible assumption
    | with_reducible refine Keeps.ite ?_ ?_
    | with_reducible refine State.putReg_keeps _ _ _ _ ?_

theorem State.noteXlt_keeps (s0 s a1 a2 a3) (h : Keeps s0 s) :
    Keeps s0 (State.noteXlt s a1 a2 a3) := by
  unfold State.noteXlt
  repeat' first
    | with_reducible assumption
    | with_reducible refine Keeps.ite ?_ ?_
    | with_reducible refine State.putReg_keeps _ _ _ _ ?_

end Sys2Proof.Machine
end

