-- ==== Sys2Proof/Laws/KeepsLedger.lean ====
section
/-!
SUPPORT. What the operations of Ledger keep of a state.
-/
namespace Sys2Proof.Machine

theorem State.putSlot_keeps (s0 s a1 a2 a3) (h : Keeps s0 s) :
    Keeps s0 (State.putSlot s a1 a2 a3) := by
  unfold State.putSlot
  cases bitAt a1 0 <;> cases bitAt a1 1
  · exact h
  · exact h.setLedgers id (fun x => Table.wf_tput x _ _)
  · exact h.setLedgers (fun x => Table.wf_tput x _ _) id
  · exact h.setLedgers (fun x => Table.wf_tput x _ _) (fun x => Table.wf_tput x _ _)

theorem State.writeRec_keeps (s0 s a1 a2 a3 a4 a5 a6) (h : Keeps s0 s) :
    Keeps s0 (State.writeRec s a1 a2 a3 a4 a5 a6) := by
  unfold State.writeRec
  repeat' first
    | with_reducible assumption
    | with_reducible refine Keeps.ite ?_ ?_
    | with_reducible refine State.putSlot_keeps _ _ _ _ _ ?_
    | with_reducible refine State.setFld_keeps _ _ _ _ _ ?_
    | with_reducible refine State.bumpSat_keeps _ _ _ _ _ ?_
    | split

theorem State.writeSummary_keeps (s0 s a1) (h : Keeps s0 s) :
    Keeps s0 (State.writeSummary s a1) := by
  unfold State.writeSummary
  repeat' first
    | with_reducible assumption
    | with_reducible exact Nat.le_refl _
    | with_reducible exact Nat.le_add_right _ _
    | with_reducible exact List.prefix_refl _
    | with_reducible refine State.writeRec_keeps _ _ _ _ _ _ _ _ ?_
    | dsimp only
    | exact Nat.le_add_right _ _
    | exact Nat.le_refl _
    | exact List.prefix_refl _
    | with_reducible refine Keeps.setAnt ?_
    | with_reducible refine Keeps.upd ?_ ?_ ?_

theorem State.beginErase_keeps (s0 s a1) (h : Keeps s0 s) :
    Keeps s0 (State.beginErase s a1) := by
  unfold State.beginErase
  repeat' first
    | with_reducible assumption
    | with_reducible refine State.writeRec_keeps _ _ _ _ _ _ _ _ ?_
    | with_reducible refine State.setFld_keeps _ _ _ _ _ ?_

theorem State.eraseSector_keeps (s0 s a1) (h : Keeps s0 s) :
    Keeps s0 (State.eraseSector s a1) := by
  unfold State.eraseSector
  exact h.setLedgers (fun x => Table.wf_filter x _) (fun x => Table.wf_filter x _)

theorem State.endErase_keeps (s0 s) (h : Keeps s0 s) :
    Keeps s0 (State.endErase s) := by
  unfold State.endErase
  repeat' first
    | with_reducible assumption
    | with_reducible refine Keeps.ite ?_ ?_
    | with_reducible refine State.setFld_keeps _ _ _ _ _ ?_
    | with_reducible refine State.eraseSector_keeps _ _ _ ?_

end Sys2Proof.Machine
end

