-- ==== Sys2Proof/Laws/KeepsNet.lean ====
section
/-!
SUPPORT. What the operations of Net keep of a state.
-/
namespace Sys2Proof.Machine

theorem State.sendRaw_keeps (s0 s a1 a2) (h : Keeps s0 s) :
    Keeps s0 (State.sendRaw s a1 a2) := by
  unfold State.sendRaw
  repeat' first
    | with_reducible assumption
    | with_reducible refine State.emit_keeps _ _ _ ?_
    | with_reducible refine State.putPort_keeps _ _ _ _ ?_

theorem State.pumpPort_keeps (s0 a0 s a2) (h : Keeps s0 s) :
    Keeps s0 (State.pumpPort a0 s a2) := by
  induction a0 generalizing s a2 with
  | zero => exact h
  | succ a0 ih =>
  unfold State.pumpPort
  repeat' first
    | with_reducible assumption
    | with_reducible refine Keeps.ite ?_ ?_
    | with_reducible refine State.putPort_keeps _ _ _ _ ?_
    | with_reducible refine State.emit_keeps _ _ _ ?_
    | with_reducible refine ih _ _ ?_
    | split

theorem State.pump_keeps (s0 s a1) (h : Keeps s0 s) :
    Keeps s0 (State.pump s a1) := by
  unfold State.pump
  repeat' first
    | with_reducible assumption
    | with_reducible refine State.pumpPort_keeps _ _ _ _ ?_

theorem State.sendFlit_keeps (s0 s a1) (h : Keeps s0 s) :
    Keeps s0 (State.sendFlit s a1) := by
  unfold State.sendFlit
  repeat' first
    | with_reducible assumption
    | with_reducible refine State.pump_keeps _ _ _ ?_
    | with_reducible refine State.putPort_keeps _ _ _ _ ?_
    | split

theorem State.sendFor_keeps (s0 s a1 a2 a3 a4 a5) (h : Keeps s0 s) :
    Keeps s0 (State.sendFor s a1 a2 a3 a4 a5) := by
  unfold State.sendFor
  repeat' first
    | with_reducible assumption
    | with_reducible exact Nat.le_refl _
    | with_reducible exact Nat.le_add_right _ _
    | with_reducible exact List.prefix_refl _
    | with_reducible refine Keeps.ite ?_ ?_
    | with_reducible refine State.sendFlit_keeps _ _ _ ?_
    | with_reducible refine Keeps.foldl (fun _ _ _ => ?_) ?_

theorem State.sendMsg_keeps (s0 s a1 a2 a3 a4) (h : Keeps s0 s) :
    Keeps s0 (State.sendMsg s a1 a2 a3 a4) := by
  unfold State.sendMsg
  repeat' first
    | with_reducible assumption
    | with_reducible refine Keeps.ite ?_ ?_
    | with_reducible refine State.sendFor_keeps _ _ _ _ _ _ _ ?_

theorem State.announceOn_keeps (s0 s a1 a2) (h : Keeps s0 s) :
    Keeps s0 (State.announceOn s a1 a2) := by
  unfold State.announceOn
  repeat' first
    | with_reducible assumption
    | with_reducible refine State.pump_keeps _ _ _ ?_
    | with_reducible refine State.putPort_keeps _ _ _ _ ?_

theorem State.flood_keeps (s0 s a1 a2) (h : Keeps s0 s) :
    Keeps s0 (State.flood s a1 a2) := by
  unfold State.flood
  repeat' first
    | with_reducible assumption
    | with_reducible refine State.announceOn_keeps _ _ _ _ ?_
    | with_reducible refine Keeps.foldl (fun _ _ _ => ?_) ?_

theorem State.dropRoute_keeps (s0 s a1) (h : Keeps s0 s) :
    Keeps s0 (State.dropRoute s a1) := by
  unfold State.dropRoute
  exact h.setRoutes (fun x => Table.wf_tput x _ _)

theorem State.setMember_keeps (s0 s a1 a2 a3 a4) (h : Keeps s0 s) :
    Keeps s0 (State.setMember s a1 a2 a3 a4) := by
  unfold State.setMember
  repeat' first
    | with_reducible assumption
    | with_reducible exact Nat.le_refl _
    | with_reducible exact Nat.le_add_right _ _
    | with_reducible exact List.prefix_refl _
    | with_reducible refine Keeps.ite ?_ ?_
    | with_reducible refine State.putMember_keeps _ _ _ _ ?_
    | with_reducible refine State.raise_keeps _ _ _ ?_
    | with_reducible refine State.dropRoute_keeps _ _ _ ?_
    | with_reducible refine Keeps.ofId ?_
    | split
    | dsimp only
    | exact Nat.le_add_right _ _
    | exact Nat.le_refl _
    | exact List.prefix_refl _
    | with_reducible refine Keeps.setAnt ?_
    | with_reducible refine Keeps.upd ?_ ?_ ?_

end Sys2Proof.Machine
end

