-- ==== Sys2Proof/Laws/KeepsClose.lean ====
section
/-!
SUPPORT. What the operations of Close keep of a state.
-/
namespace Sys2Proof.Machine

theorem State.endClose_keeps (s0 s a1) (h : Keeps s0 s) :
    Keeps s0 (State.endClose s a1) := by
  unfold State.endClose
  repeat' first
    | with_reducible assumption
    | with_reducible refine State.setFld_keeps _ _ _ _ _ ?_
    | with_reducible refine State.putWin_keeps _ _ _ _ ?_
    | with_reducible refine State.mgmtReply_keeps _ _ _ _ _ _ _ _ ?_
    | with_reducible refine Keeps.foldl (fun _ _ _ => ?_) ?_

theorem State.tryEndClose_keeps (s0 s a1) (h : Keeps s0 s) :
    Keeps s0 (State.tryEndClose s a1) := by
  unfold State.tryEndClose
  repeat' first
    | with_reducible assumption
    | with_reducible refine Keeps.ite ?_ ?_
    | with_reducible refine State.endClose_keeps _ _ _ ?_

theorem State.grantTo_keeps (s0 s a1 a2 a3) (h : Keeps s0 s) :
    Keeps s0 (State.grantTo s a1 a2 a3) := by
  unfold State.grantTo
  repeat' first
    | with_reducible assumption
    | with_reducible refine Keeps.ite ?_ ?_
    | with_reducible refine State.setFld_keeps _ _ _ _ _ ?_
    | with_reducible refine State.putWin_keeps _ _ _ _ ?_
    | with_reducible refine State.sendMsg_keeps _ _ _ _ _ _ ?_

theorem State.serveWaiting_keeps (s0 a0 s a2) (h : Keeps s0 s) :
    Keeps s0 (State.serveWaiting a0 s a2) := by
  induction a0 generalizing s a2 with
  | zero => exact h
  | succ a0 ih =>
  unfold State.serveWaiting
  repeat' first
    | with_reducible assumption
    | with_reducible refine Keeps.ite ?_ ?_
    | with_reducible refine State.putWin_keeps _ _ _ _ ?_
    | with_reducible refine State.grantTo_keeps _ _ _ _ _ ?_
    | with_reducible refine ih _ _ ?_
    | split

theorem State.addFree_keeps (s0 s a1 a2) (h : Keeps s0 s) :
    Keeps s0 (State.addFree s a1 a2) := by
  unfold State.addFree
  repeat' first
    | with_reducible assumption
    | with_reducible refine State.tryEndClose_keeps _ _ _ ?_
    | with_reducible refine State.setFld_keeps _ _ _ _ _ ?_
    | with_reducible refine State.serveWaiting_keeps _ _ _ _ ?_

theorem State.refuseCredit_keeps (s0 s a1 a2 a3 a4) (h : Keeps s0 s) :
    Keeps s0 (State.refuseCredit s a1 a2 a3 a4) := by
  unfold State.refuseCredit
  repeat' first
    | with_reducible assumption
    | with_reducible refine Keeps.ite ?_ ?_
    | with_reducible refine State.sendMsg_keeps _ _ _ _ _ _ ?_
    | with_reducible refine State.bump_keeps _ _ _ _ _ ?_

theorem State.startClose_keeps (s0 s a1) (h : Keeps s0 s) :
    Keeps s0 (State.startClose s a1) := by
  unfold State.startClose
  repeat' first
    | with_reducible assumption
    | with_reducible refine Keeps.ite ?_ ?_
    | with_reducible refine State.setFld_keeps _ _ _ _ _ ?_
    | with_reducible refine State.putWin_keeps _ _ _ _ ?_
    | with_reducible refine State.refuseCredit_keeps _ _ _ _ _ _ ?_
    | with_reducible refine State.sendMsg_keeps _ _ _ _ _ _ ?_
    | with_reducible refine State.tryEndClose_keeps _ _ _ ?_
    | with_reducible refine Keeps.foldl (fun _ _ _ => ?_) ?_

theorem State.giveBack_keeps (s0 s a1 a2) (h : Keeps s0 s) :
    Keeps s0 (State.giveBack s a1 a2) := by
  unfold State.giveBack
  repeat' first
    | with_reducible assumption
    | with_reducible refine Keeps.ite ?_ ?_
    | with_reducible refine State.putHandle_keeps _ _ _ _ ?_
    | with_reducible refine State.sendMsg_keeps _ _ _ _ _ _ ?_

theorem State.closeReceivers_keeps (s0 s a1 a2) (h : Keeps s0 s) :
    Keeps s0 (State.closeReceivers s a1 a2) := by
  unfold State.closeReceivers
  repeat' first
    | with_reducible assumption
    | with_reducible exact Nat.le_refl _
    | with_reducible exact Nat.le_add_right _ _
    | with_reducible exact List.prefix_refl _
    | with_reducible refine Keeps.ofId ?_
    | with_reducible refine Keeps.ite ?_ ?_
    | with_reducible refine State.sendMsg_keeps _ _ _ _ _ _ ?_
    | with_reducible refine State.putMcast_keeps _ _ _ _ ?_
    | with_reducible refine Keeps.foldl (fun _ _ _ => ?_) ?_

theorem State.endMcast_keeps (s0 s a1) (h : Keeps s0 s) :
    Keeps s0 (State.endMcast s a1) := by
  unfold State.endMcast
  repeat' first
    | with_reducible assumption
    | with_reducible refine Keeps.ite ?_ ?_
    | with_reducible refine State.closeReceivers_keeps _ _ _ _ ?_
    | with_reducible refine State.setFld_keeps _ _ _ _ _ ?_
    | with_reducible refine State.putMcast_keeps _ _ _ _ ?_

theorem State.dropRegion_keeps (s0 s a1 a2) (h : Keeps s0 s) :
    Keeps s0 (State.dropRegion s a1 a2) := by
  unfold State.dropRegion
  repeat' first
    | with_reducible assumption
    | with_reducible refine Keeps.ite ?_ ?_
    | with_reducible refine State.scrubRows_keeps _ _ _ _ _ ?_
    | with_reducible refine State.setFld_keeps _ _ _ _ _ ?_

theorem State.endGroup_keeps (s0 s a1) (h : Keeps s0 s) :
    Keeps s0 (State.endGroup s a1) := by
  unfold State.endGroup
  repeat' first
    | with_reducible assumption
    | with_reducible exact Nat.le_refl _
    | with_reducible exact Nat.le_add_right _ _
    | with_reducible exact List.prefix_refl _
    | with_reducible refine Keeps.ite ?_ ?_
    | with_reducible refine State.startClose_keeps _ _ _ ?_
    | with_reducible refine State.putHandle_keeps _ _ _ _ ?_
    | with_reducible refine State.giveBack_keeps _ _ _ _ ?_
    | with_reducible refine State.endMcast_keeps _ _ _ ?_
    | with_reducible refine State.dropRegion_keeps _ _ _ _ ?_
    | with_reducible refine State.putGroup_keeps _ _ _ _ ?_
    | with_reducible refine Keeps.foldl (fun _ _ _ => ?_) ?_
    | with_reducible refine Keeps.foldPair (fun _ _ _ => ?_) ?_
    | split
    | dsimp only
    | exact Nat.le_add_right _ _
    | exact Nat.le_refl _
    | exact List.prefix_refl _
    | with_reducible refine Keeps.setAnt ?_
    | with_reducible refine Keeps.upd ?_ ?_ ?_

theorem State.tryEndGroup_keeps (s0 s a1) (h : Keeps s0 s) :
    Keeps s0 (State.tryEndGroup s a1) := by
  unfold State.tryEndGroup
  repeat' first
    | with_reducible assumption
    | with_reducible refine Keeps.ite ?_ ?_
    | with_reducible refine State.endGroup_keeps _ _ _ ?_

end Sys2Proof.Machine
end

