-- ==== Sys2Proof/Laws/KeepsTasks.lean ====
section
/-!
SUPPORT. What the operations of Tasks keep of a state.
-/
namespace Sys2Proof.Machine

theorem State.registerAgain_keeps (s0 s a1) (h : Keeps s0 s) :
    Keeps s0 (State.registerAgain s a1) := by
  unfold State.registerAgain
  repeat' first
    | with_reducible assumption
    | with_reducible refine Keeps.ite ?_ ?_
    | with_reducible refine State.putCore_keeps _ _ _ _ ?_
    | with_reducible refine Keeps.foldl (fun _ _ _ => ?_) ?_

theorem State.cancelOps_keeps (s0 s a1 a2 a3) (h : Keeps s0 s) :
    Keeps s0 (State.cancelOps s a1 a2 a3) := by
  unfold State.cancelOps
  repeat' first
    | with_reducible assumption
    | with_reducible exact Nat.le_refl _
    | with_reducible exact Nat.le_add_right _ _
    | with_reducible exact List.prefix_refl _
    | with_reducible refine Keeps.ite ?_ ?_
    | with_reducible refine State.putCore_keeps _ _ _ _ ?_
    | with_reducible refine State.bump_keeps _ _ _ _ _ ?_
    | with_reducible refine State.registerAgain_keeps _ _ _ ?_
    | with_reducible refine Keeps.foldl (fun _ _ _ => ?_) ?_
    | with_reducible refine Keeps.foldPair (fun _ _ _ => ?_) ?_
    | dsimp only
    | exact Nat.le_add_right _ _
    | exact Nat.le_refl _
    | exact List.prefix_refl _
    | with_reducible refine Keeps.setAnt ?_

theorem State.cancelAll_keeps (s0 s a1) (h : Keeps s0 s) :
    Keeps s0 (State.cancelAll s a1) := by
  unfold State.cancelAll
  repeat' first
    | with_reducible assumption
    | with_reducible refine Keeps.ite ?_ ?_
    | with_reducible refine State.cancelOps_keeps _ _ _ _ _ ?_

theorem State.flushCache_keeps (s0 s a1) (h : Keeps s0 s) :
    Keeps s0 (State.flushCache s a1) := by
  unfold State.flushCache
  repeat' first
    | with_reducible assumption
    | with_reducible refine State.putCore_keeps _ _ _ _ ?_

theorem State.releaseReqs_keeps (s0 s) (h : Keeps s0 s) :
    Keeps s0 (State.releaseReqs s) := by
  unfold State.releaseReqs
  repeat' first
    | with_reducible assumption
    | with_reducible refine State.setQueue_keeps _ _ _ _ ?_
    | with_reducible refine State.withWadi_keeps _ _ _ ?_

theorem State.doneReqs_keeps (s0 s a1) (h : Keeps s0 s) :
    Keeps s0 (State.doneReqs s a1) := by
  unfold State.doneReqs
  repeat' first
    | with_reducible assumption
    | with_reducible refine Keeps.ite ?_ ?_
    | with_reducible refine State.releaseReqs_keeps _ _ ?_
    | with_reducible refine State.withWadi_keeps _ _ _ ?_

theorem State.putTask_keeps (s0 s a1) (h : Keeps s0 s) :
    Keeps s0 (State.putTask s a1) := by
  unfold State.putTask
  repeat' first
    | with_reducible assumption
    | with_reducible exact Nat.le_refl _
    | with_reducible exact Nat.le_add_right _ _
    | with_reducible exact List.prefix_refl _
    | dsimp only
    | exact Nat.le_add_right _ _
    | exact Nat.le_refl _
    | exact List.prefix_refl _
    | with_reducible refine Keeps.setAnt ?_
    | with_reducible refine Keeps.upd ?_ ?_ ?_

theorem State.dropAnt_keeps (s0 s a1) (h : Keeps s0 s) :
    Keeps s0 (State.dropAnt s a1) := by
  unfold State.dropAnt
  exact Keeps.foldl (fun _ _ hs => hs.setAnt) h

theorem State.stopCores_keeps (s0 s a1) (h : Keeps s0 s) :
    Keeps s0 (State.stopCores s a1) := by
  unfold State.stopCores
  repeat' first
    | with_reducible assumption
    | with_reducible refine Keeps.ite ?_ ?_
    | with_reducible refine State.dropAnt_keeps _ _ _ ?_
    | with_reducible refine State.cancelAll_keeps _ _ _ ?_
    | with_reducible refine State.flushCache_keeps _ _ _ ?_
    | with_reducible refine State.dropAccs_keeps _ _ _ _ ?_
    | with_reducible refine State.putCore_keeps _ _ _ _ ?_
    | with_reducible refine Keeps.foldl (fun _ _ _ => ?_) ?_

theorem State.stopErg_keeps (s0 s a1) (h : Keeps s0 s) :
    Keeps s0 (State.stopErg s a1) := by
  unfold State.stopErg
  repeat' first
    | with_reducible assumption
    | with_reducible refine State.putStack_keeps _ _ _ _ ?_
    | with_reducible refine Keeps.foldl (fun _ _ _ => ?_) ?_

theorem State.stopSwarm_keeps (s0 s a1) (h : Keeps s0 s) :
    Keeps s0 (State.stopSwarm s a1) := by
  unfold State.stopSwarm
  repeat' first
    | with_reducible assumption
    | with_reducible exact Nat.le_refl _
    | with_reducible exact Nat.le_add_right _ _
    | with_reducible exact List.prefix_refl _
    | with_reducible refine Keeps.ite ?_ ?_
    | with_reducible refine State.bump_keeps _ _ _ _ _ ?_
    | with_reducible refine State.putQ_keeps _ _ _ _ ?_
    | with_reducible refine Keeps.foldl (fun _ _ _ => ?_) ?_
    | with_reducible refine Keeps.foldPair (fun _ _ _ => ?_) ?_
    | split
    | dsimp only
    | exact Nat.le_add_right _ _
    | exact Nat.le_refl _
    | exact List.prefix_refl _
    | with_reducible refine Keeps.setAnt ?_
    | with_reducible refine Keeps.upd ?_ ?_ ?_

theorem State.undefine_keeps (s0 s a1) (h : Keeps s0 s) :
    Keeps s0 (State.undefine s a1) := by
  unfold State.undefine
  repeat' first
    | with_reducible assumption
    | with_reducible exact Nat.le_refl _
    | with_reducible exact Nat.le_add_right _ _
    | with_reducible exact List.prefix_refl _
    | with_reducible refine State.store_keeps _ _ _ _ ?_
    | with_reducible refine Keeps.foldl (fun _ _ _ => ?_) ?_
    | with_reducible refine Keeps.foldPair (fun _ _ _ => ?_) ?_
    | dsimp only
    | exact Nat.le_add_right _ _
    | exact Nat.le_refl _
    | exact List.prefix_refl _
    | with_reducible refine Keeps.setAnt ?_
    | with_reducible refine Keeps.upd ?_ ?_ ?_

theorem State.unload_keeps (s0 s a1) (h : Keeps s0 s) :
    Keeps s0 (State.unload s a1) := by
  unfold State.unload
  repeat' first
    | with_reducible assumption
    | with_reducible refine Keeps.ite ?_ ?_
    | with_reducible refine State.setFld_keeps _ _ _ _ _ ?_
    | with_reducible refine Keeps.foldl (fun _ _ _ => ?_) ?_

theorem State.dropStaged_keeps (s0 s a1) (h : Keeps s0 s) :
    Keeps s0 (State.dropStaged s a1) := by
  unfold State.dropStaged
  repeat' first
    | with_reducible assumption
    | with_reducible refine State.putMcast_keeps _ _ _ _ ?_
    | with_reducible refine Keeps.foldl (fun _ _ _ => ?_) ?_

theorem State.stopStep_keeps (s0 s a1) (h : Keeps s0 s) :
    Keeps s0 (State.stopStep s a1) := by
  unfold State.stopStep
  repeat' first
    | with_reducible assumption
    | with_reducible refine State.unload_keeps _ _ _ ?_
    | with_reducible refine State.stopCores_keeps _ _ _ ?_
    | with_reducible refine State.stopErg_keeps _ _ _ ?_
    | with_reducible refine State.stopSwarm_keeps _ _ _ ?_
    | with_reducible refine State.dropStaged_keeps _ _ _ ?_
    | with_reducible refine State.putCtx_keeps _ _ _ _ ?_

theorem State.forgetRemote_keeps (s0 s a1) (h : Keeps s0 s) :
    Keeps s0 (State.forgetRemote s a1) := by
  unfold State.forgetRemote
  repeat' first
    | with_reducible assumption
    | with_reducible refine State.putCore_keeps _ _ _ _ ?_
    | with_reducible refine Keeps.foldl (fun _ _ _ => ?_) ?_

theorem State.endTask_keeps (s0 s a1 a2 a3) (h : Keeps s0 s) :
    Keeps s0 (State.endTask s a1 a2 a3) := by
  unfold State.endTask
  repeat' first
    | with_reducible assumption
    | with_reducible refine Keeps.ite ?_ ?_
    | with_reducible refine State.raise_keeps _ _ _ ?_
    | with_reducible refine State.pushItem_keeps _ _ _ _ ?_
    | with_reducible refine State.putTask_keeps _ _ _ ?_
    | with_reducible refine State.putCore_keeps _ _ _ _ ?_
    | with_reducible refine State.forgetRemote_keeps _ _ _ ?_
    | with_reducible refine State.setFld_keeps _ _ _ _ _ ?_
    | with_reducible refine State.tryEndGroup_keeps _ _ _ ?_
    | with_reducible refine State.doneReqs_keeps _ _ _ ?_
    | with_reducible refine State.putCtx_keeps _ _ _ _ ?_
    | with_reducible refine Keeps.foldl (fun _ _ _ => ?_) ?_

theorem State.abortAs_keeps (s0 s a1 a2 a3 a4) (h : Keeps s0 s) :
    Keeps s0 (State.abortAs s a1 a2 a3 a4) := by
  unfold State.abortAs
  repeat' first
    | with_reducible assumption
    | with_reducible refine Keeps.ite ?_ ?_
    | with_reducible refine State.stopStep_keeps _ _ _ ?_
    | with_reducible refine State.bump_keeps _ _ _ _ _ ?_
    | with_reducible refine State.raise_keeps _ _ _ ?_
    | with_reducible refine State.putCtx_keeps _ _ _ _ ?_
    | with_reducible refine State.endTask_keeps _ _ _ _ _ ?_
    | with_reducible refine State.undefine_keeps _ _ _ ?_

theorem State.fault_keeps (s0 s a1 a2 a3 a4) (h : Keeps s0 s) :
    Keeps s0 (State.fault s a1 a2 a3 a4) := by
  unfold State.fault
  repeat' first
    | with_reducible assumption
    | with_reducible refine State.abortAs_keeps _ _ _ _ _ _ ?_
    | with_reducible refine State.raise_keeps _ _ _ ?_

theorem State.midStream_keeps (s0 s a1 a2) (h : Keeps s0 s) :
    Keeps s0 (State.midStream s a1 a2) := by
  unfold State.midStream
  repeat' first
    | with_reducible assumption
    | with_reducible refine State.fault_keeps _ _ _ _ _ _ ?_

end Sys2Proof.Machine
end

