-- ==== Sys2Proof/Laws/KeepsRecover.lean ====
section
/-!
SUPPORT. What the operations of Recover keep of a state.
-/
namespace Sys2Proof.Machine

theorem State.reissueGrant_keeps (s0 s a1 a2 a3) (h : Keeps s0 s) :
    Keeps s0 (State.reissueGrant s a1 a2 a3) := by
  unfold State.reissueGrant
  repeat' first
    | with_reducible assumption
    | with_reducible refine Keeps.ite ?_ ?_
    | with_reducible refine State.putCtx_keeps _ _ _ _ ?_
    | with_reducible refine State.bump_keeps _ _ _ _ _ ?_

theorem State.reissueAll_keeps (s0 s a1) (h : Keeps s0 s) :
    Keeps s0 (State.reissueAll s a1) := by
  unfold State.reissueAll
  repeat' first
    | with_reducible assumption
    | with_reducible refine State.reissueGrant_keeps _ _ _ _ _ ?_
    | with_reducible refine State.putCore_keeps _ _ _ _ ?_
    | with_reducible refine Keeps.foldl (fun _ _ _ => ?_) ?_
    | with_reducible refine Keeps.foldPair (fun _ _ _ => ?_) ?_
    | split

theorem State.holdAnchor_keeps (s0 s a1) (h : Keeps s0 s) :
    Keeps s0 (State.holdAnchor s a1) := by
  unfold State.holdAnchor
  repeat' first
    | with_reducible assumption
    | with_reducible exact Nat.le_refl _
    | with_reducible exact Nat.le_add_right _ _
    | with_reducible exact List.prefix_refl _
    | with_reducible refine Keeps.ite ?_ ?_
    | with_reducible refine State.putCore_keeps _ _ _ _ ?_

theorem State.fixAnchor_keeps (s0 s a1) (h : Keeps s0 s) :
    Keeps s0 (State.fixAnchor s a1) := by
  unfold State.fixAnchor
  repeat' first
    | with_reducible assumption
    | with_reducible exact Nat.le_refl _
    | with_reducible exact Nat.le_add_right _ _
    | with_reducible exact List.prefix_refl _
    | with_reducible refine Keeps.ite ?_ ?_
    | with_reducible refine State.putCtx_keeps _ _ _ _ ?_
    | with_reducible refine State.holdAnchor_keeps _ _ _ ?_
    | split

theorem State.fenceMantis_keeps (s0 s a1) (h : Keeps s0 s) :
    Keeps s0 (State.fenceMantis s a1) := by
  unfold State.fenceMantis
  repeat' first
    | with_reducible assumption
    | with_reducible exact Nat.le_refl _
    | with_reducible exact Nat.le_add_right _ _
    | with_reducible exact List.prefix_refl _
    | dsimp only
    | exact Nat.le_add_right _ _
    | exact Nat.le_refl _
    | exact List.prefix_refl _
    | with_reducible refine Keeps.setAnt ?_
    | with_reducible refine Keeps.upd ?_ ?_ ?_

theorem State.computeOff_keeps (s0 s) (h : Keeps s0 s) :
    Keeps s0 (State.computeOff s) := by
  refine h.change rfl (fun hs => ?_) (Nat.le_refl _) (List.prefix_refl _)
  simp only [State.sound, State.computeOff, Bool.and_eq_true] at hs ⊢
  simp only [hs, regsOk_filter, Table.wf_nil, show memOk [] = true from rfl, and_self]

theorem State.enterHold_keeps (s0 s a1 a2 a3) (h : Keeps s0 s) :
    Keeps s0 (State.enterHold s a1 a2 a3) := by
  unfold State.enterHold
  repeat' first
    | with_reducible assumption
    | with_reducible exact Nat.le_refl _
    | with_reducible exact Nat.le_add_right _ _
    | with_reducible exact List.prefix_refl _
    | with_reducible refine Keeps.ite ?_ ?_
    | with_reducible refine State.computeOff_keeps _ _ ?_
    | with_reducible refine State.setFld_keeps _ _ _ _ _ ?_
    | split
    | dsimp only
    | exact Nat.le_add_right _ _
    | exact Nat.le_refl _
    | exact List.prefix_refl _
    | with_reducible refine Keeps.setAnt ?_
    | with_reducible refine Keeps.upd ?_ ?_ ?_

theorem State.sayWithdraw_keeps (s0 s) (h : Keeps s0 s) :
    Keeps s0 (State.sayWithdraw s) := by
  unfold State.sayWithdraw
  repeat' first
    | with_reducible assumption
    | with_reducible exact Nat.le_refl _
    | with_reducible exact Nat.le_add_right _ _
    | with_reducible exact List.prefix_refl _
    | with_reducible refine State.flood_keeps _ _ _ _ ?_
    | dsimp only
    | exact Nat.le_add_right _ _
    | exact Nat.le_refl _
    | exact List.prefix_refl _
    | with_reducible refine Keeps.setAnt ?_
    | with_reducible refine Keeps.upd ?_ ?_ ?_

theorem State.endAll_keeps (s0 s a1 a2) (h : Keeps s0 s) :
    Keeps s0 (State.endAll s a1 a2) := by
  unfold State.endAll
  repeat' first
    | with_reducible assumption
    | with_reducible refine Keeps.ite ?_ ?_
    | with_reducible refine State.endTask_keeps _ _ _ _ _ ?_
    | with_reducible refine State.stopStep_keeps _ _ _ ?_
    | with_reducible refine Keeps.foldl (fun _ _ _ => ?_) ?_

theorem State.sendItems_keeps (s0 s a1 a2 a3 a4 a5) (h : Keeps s0 s) :
    Keeps s0 (State.sendItems s a1 a2 a3 a4 a5) := by
  unfold State.sendItems
  repeat' first
    | with_reducible assumption
    | with_reducible refine Keeps.ite ?_ ?_
    | with_reducible refine State.sendFrame_keeps _ _ _ _ _ _ _ ?_
    | with_reducible refine State.putQ_keeps _ _ _ _ ?_

theorem State.sendLast_keeps (s0 s a1 a2 a3 a4) (h : Keeps s0 s) :
    Keeps s0 (State.sendLast s a1 a2 a3 a4) := by
  unfold State.sendLast
  repeat' first
    | with_reducible assumption
    | with_reducible refine State.sendItems_keeps _ _ _ _ _ _ _ ?_
    | with_reducible refine State.putQ_keeps _ _ _ _ ?_
    | with_reducible refine Keeps.foldl (fun _ _ _ => ?_) ?_

theorem State.sayLast_keeps (s0 s) (h : Keeps s0 s) :
    Keeps s0 (State.sayLast s) := by
  unfold State.sayLast
  repeat' first
    | with_reducible assumption
    | with_reducible refine State.sendLast_keeps _ _ _ _ _ _ ?_
    | with_reducible refine Keeps.foldl (fun _ _ _ => ?_) ?_

theorem State.withdraw_keeps (s0 s a1 a2) (h : Keeps s0 s) :
    Keeps s0 (State.withdraw s a1 a2) := by
  unfold State.withdraw
  repeat' first
    | with_reducible assumption
    | with_reducible exact Nat.le_refl _
    | with_reducible exact Nat.le_add_right _ _
    | with_reducible exact List.prefix_refl _
    | with_reducible refine Keeps.ite ?_ ?_
    | with_reducible refine State.raise_keeps _ _ _ ?_
    | with_reducible refine State.sayWithdraw_keeps _ _ ?_
    | with_reducible refine State.endAll_keeps _ _ _ _ ?_
    | with_reducible refine State.writeRec_keeps _ _ _ _ _ _ _ _ ?_
    | with_reducible refine State.computeOff_keeps _ _ ?_
    | with_reducible refine State.sayLast_keeps _ _ ?_
    | with_reducible refine State.setFld_keeps _ _ _ _ _ ?_
    | split
    | dsimp only
    | exact Nat.le_add_right _ _
    | exact Nat.le_refl _
    | exact List.prefix_refl _
    | with_reducible refine Keeps.setAnt ?_
    | with_reducible refine Keeps.upd ?_ ?_ ?_

theorem State.trip_keeps (s0 s a1 a2 a3) (h : Keeps s0 s) :
    Keeps s0 (State.trip s a1 a2 a3) := by
  unfold State.trip
  repeat' first
    | with_reducible assumption
    | with_reducible refine Keeps.ite ?_ ?_
    | with_reducible refine State.putReg_keeps _ _ _ _ ?_
    | with_reducible refine State.withdraw_keeps _ _ _ _ ?_

theorem State.powerOff_keeps (s0 s) (h : Keeps s0 s) :
    Keeps s0 (State.powerOff s) := by
  refine h.change rfl (fun hs => ?_) (Nat.le_add_right _ _) (List.prefix_refl _)
  simp only [State.sound, Bool.and_eq_true] at hs ⊢
  have h0 : Table.wf .erased s.ledger0 = true := by simp only [hs]
  have h1 : Table.wf .erased s.ledger1 = true := by simp only [hs]
  have k0 : Table.wf .erased s.powerOff.ledger0 = true := by
    dsimp only [State.powerOff]
    split
    · exact Table.wf_tput h0 _ _
    · exact h0
  have k1 : Table.wf .erased s.powerOff.ledger1 = true := by
    dsimp only [State.powerOff]
    split
    · exact Table.wf_tput h1 _ _
    · split
      · exact Table.wf_tput h1 _ _
      · exact h1
  have hf0 : Table.wf 0xFF s.powerOff.flash0 = true := by
    dsimp only [State.powerOff]
    simp only [hs]
  have hf1 : Table.wf 0xFF s.powerOff.flash1 = true := by
    dsimp only [State.powerOff]
    simp only [hs]
  exact ⟨⟨⟨⟨⟨⟨⟨⟨⟨⟨⟨⟨⟨⟨⟨⟨⟨⟨rfl, rfl⟩, hf0⟩, hf1⟩, k0⟩, k1⟩, rfl⟩, rfl⟩, rfl⟩, rfl⟩, rfl⟩, rfl⟩, rfl⟩, rfl⟩, rfl⟩, rfl⟩, rfl⟩, rfl⟩, rfl⟩

theorem State.setParked_keeps (s0 s a1) (h : Keeps s0 s) :
    Keeps s0 (State.setParked s a1) := by
  unfold State.setParked
  repeat' first
    | with_reducible assumption
    | with_reducible exact Nat.le_refl _
    | with_reducible exact Nat.le_add_right _ _
    | with_reducible exact List.prefix_refl _
    | with_reducible refine State.setFld_keeps _ _ _ _ _ ?_
    | dsimp only
    | exact Nat.le_add_right _ _
    | exact Nat.le_refl _
    | exact List.prefix_refl _
    | with_reducible refine Keeps.setAnt ?_
    | with_reducible refine Keeps.upd ?_ ?_ ?_

theorem State.answerTests_keeps (s0 s a1 a2 a3) (h : Keeps s0 s) :
    Keeps s0 (State.answerTests s a1 a2 a3) := by
  unfold State.answerTests
  repeat' first
    | with_reducible assumption
    | with_reducible refine State.mgmtReply_keeps _ _ _ _ _ _ _ _ ?_
    | with_reducible refine Keeps.foldl (fun _ _ _ => ?_) ?_

theorem State.fenceCore_keeps (s0 s a1 a2) (h : Keeps s0 s) :
    Keeps s0 (State.fenceCore s a1 a2) := by
  unfold State.fenceCore
  repeat' first
    | with_reducible assumption
    | with_reducible refine Keeps.ite ?_ ?_
    | with_reducible refine State.setFence_keeps _ _ _ ?_
    | with_reducible refine State.reissueAll_keeps _ _ _ ?_
    | with_reducible refine State.cancelAll_keeps _ _ _ ?_
    | with_reducible refine State.answerTests_keeps _ _ _ _ _ ?_
    | with_reducible refine State.putCore_keeps _ _ _ _ ?_
    | with_reducible refine State.setParked_keeps _ _ _ ?_
    | with_reducible refine State.fixAnchor_keeps _ _ _ ?_
    | with_reducible refine State.raise_keeps _ _ _ ?_
    | with_reducible refine State.writeRec_keeps _ _ _ _ _ _ _ _ ?_
    | with_reducible refine State.withdraw_keeps _ _ _ _ ?_
    | split

theorem State.parityBudget_keeps (s0 s a1 a2) (h : Keeps s0 s) :
    Keeps s0 (State.parityBudget s a1 a2) := by
  unfold State.parityBudget
  repeat' first
    | with_reducible assumption
    | with_reducible refine Keeps.ite ?_ ?_
    | with_reducible refine State.used_keeps _ _ ?_
    | with_reducible refine State.fenceCore_keeps _ _ _ _ ?_

theorem State.stackFault_keeps (s0 s a1 a2) (h : Keeps s0 s) :
    Keeps s0 (State.stackFault s a1 a2) := by
  unfold State.stackFault
  repeat' first
    | with_reducible assumption
    | with_reducible refine State.setFld_keeps _ _ _ _ _ ?_
    | with_reducible refine State.raise_keeps _ _ _ ?_
    | with_reducible refine State.withdraw_keeps _ _ _ _ ?_

theorem State.ueBudget_keeps (s0 s a1) (h : Keeps s0 s) :
    Keeps s0 (State.ueBudget s a1) := by
  unfold State.ueBudget
  repeat' first
    | with_reducible assumption
    | with_reducible refine Keeps.ite ?_ ?_
    | with_reducible refine State.stackFault_keeps _ _ _ _ ?_
    | with_reducible refine State.used_keeps _ _ ?_

theorem State.failErg_keeps (s0 s a1 a2) (h : Keeps s0 s) :
    Keeps s0 (State.failErg s a1 a2) := by
  unfold State.failErg
  repeat' first
    | with_reducible assumption
    | with_reducible refine Keeps.ite ?_ ?_
    | with_reducible refine State.setFld_keeps _ _ _ _ _ ?_
    | with_reducible refine State.putStack_keeps _ _ _ _ ?_
    | with_reducible refine State.raise_keeps _ _ _ ?_

theorem State.engineFails_keeps (s0 s a1 a2) (h : Keeps s0 s) :
    Keeps s0 (State.engineFails s a1 a2) := by
  unfold State.engineFails
  repeat' first
    | with_reducible assumption
    | with_reducible refine Keeps.ite ?_ ?_
    | with_reducible refine State.failErg_keeps _ _ _ _ ?_
    | with_reducible refine State.writeRec_keeps _ _ _ _ _ _ _ _ ?_
    | with_reducible refine State.abortAs_keeps _ _ _ _ _ _ ?_
    | with_reducible refine Keeps.elim ?_ (fun _ => ?_)

theorem State.ueBudgets_keeps (s0 s a1) (h : Keeps s0 s) :
    Keeps s0 (State.ueBudgets s a1) := by
  unfold State.ueBudgets
  repeat' first
    | with_reducible assumption
    | with_reducible refine Keeps.ite ?_ ?_
    | with_reducible refine State.ueBudget_keeps _ _ _ ?_
    | with_reducible refine State.engineFails_keeps _ _ _ _ ?_

theorem State.firmwareUe_keeps (s0 s a1 a2 a3) (h : Keeps s0 s) :
    Keeps s0 (State.firmwareUe s a1 a2 a3) := by
  unfold State.firmwareUe
  repeat' first
    | with_reducible assumption
    | with_reducible refine Keeps.ite ?_ ?_
    | with_reducible refine State.noteUe_keeps _ _ _ _ ?_
    | with_reducible refine State.midStream_keeps _ _ _ _ ?_
    | with_reducible refine State.ueBudgets_keeps _ _ _ ?_

end Sys2Proof.Machine
end

