-- ==== Sys2Proof/Laws/KeepsLink.lean ====
section
/-!
SUPPORT. What the operations of Link keep of a state.
-/
namespace Sys2Proof.Machine

theorem State.setWidth_keeps (s0 s a1 a2 a3 a4 a5) (h : Keeps s0 s) :
    Keeps s0 (State.setWidth s a1 a2 a3 a4 a5) := by
  unfold State.setWidth
  repeat' first
    | with_reducible assumption
    | with_reducible refine State.putReg_keeps _ _ _ _ ?_

theorem State.setPortState_keeps (s0 s a1 a2) (h : Keeps s0 s) :
    Keeps s0 (State.setPortState s a1 a2) := by
  unfold State.setPortState
  repeat' first
    | with_reducible assumption
    | with_reducible refine Keeps.ite ?_ ?_
    | with_reducible refine State.setFld_keeps _ _ _ _ _ ?_
    | with_reducible refine State.raise_keeps _ _ _ ?_

theorem State.setLanes_keeps (s0 s a1 a2 a3 a4 a5) (h : Keeps s0 s) :
    Keeps s0 (State.setLanes s a1 a2 a3 a4 a5) := by
  unfold State.setLanes
  repeat' first
    | with_reducible assumption
    | with_reducible refine Keeps.ite ?_ ?_
    | with_reducible refine State.setWidth_keeps _ _ _ _ _ _ _ ?_
    | with_reducible refine State.raise_keeps _ _ _ ?_
    | with_reducible refine State.setPortState_keeps _ _ _ _ ?_

theorem State.sendIdles_keeps (s0 a0 s a2) (h : Keeps s0 s) :
    Keeps s0 (State.sendIdles a0 s a2) := by
  induction a0 generalizing s a2 with
  | zero => exact h
  | succ a0 ih =>
  unfold State.sendIdles
  repeat' first
    | with_reducible assumption
    | with_reducible refine Keeps.ite ?_ ?_
    | with_reducible refine State.sendRaw_keeps _ _ _ _ ?_
    | with_reducible refine ih _ _ ?_

theorem State.returnCredits_keeps (s0 s a1) (h : Keeps s0 s) :
    Keeps s0 (State.returnCredits s a1) := by
  unfold State.returnCredits
  repeat' first
    | with_reducible assumption
    | with_reducible refine Keeps.ite ?_ ?_
    | with_reducible refine State.sendIdles_keeps _ _ _ _ ?_

theorem State.sendControl_keeps (s0 s a1 a2) (h : Keeps s0 s) :
    Keeps s0 (State.sendControl s a1 a2) := by
  unfold State.sendControl
  repeat' first
    | with_reducible assumption
    | with_reducible refine State.sendRaw_keeps _ _ _ _ ?_

theorem State.sendHello_keeps (s0 s a1) (h : Keeps s0 s) :
    Keeps s0 (State.sendHello s a1) := by
  unfold State.sendHello
  repeat' first
    | with_reducible assumption
    | with_reducible refine State.sendControl_keeps _ _ _ _ ?_

theorem State.freshLink_keeps (s0 s a1) (h : Keeps s0 s) :
    Keeps s0 (State.freshLink s a1) := by
  unfold State.freshLink
  repeat' first
    | with_reducible assumption
    | with_reducible refine State.putPort_keeps _ _ _ _ ?_

theorem State.trainUp_keeps (s0 s a1 a2 a3) (h : Keeps s0 s) :
    Keeps s0 (State.trainUp s a1 a2 a3) := by
  unfold State.trainUp
  repeat' first
    | with_reducible assumption
    | with_reducible refine Keeps.ite ?_ ?_
    | with_reducible refine State.setLanes_keeps _ _ _ _ _ _ _ ?_
    | with_reducible refine State.freshLink_keeps _ _ _ ?_
    | with_reducible refine State.returnCredits_keeps _ _ _ ?_
    | with_reducible refine State.pump_keeps _ _ _ ?_
    | split
    | dsimp only

theorem State.freeSlot_keeps (s0 s a1 a2) (h : Keeps s0 s) :
    Keeps s0 (State.freeSlot s a1 a2) := by
  unfold State.freeSlot
  repeat' first
    | with_reducible assumption
    | with_reducible exact Nat.le_refl _
    | with_reducible exact Nat.le_add_right _ _
    | with_reducible exact List.prefix_refl _
    | with_reducible refine Keeps.ite ?_ ?_
    | with_reducible refine State.putPort_keeps _ _ _ _ ?_

theorem State.consumeHead_keeps (s0 s a1 a2 a3) (h : Keeps s0 s) :
    Keeps s0 (State.consumeHead s a1 a2 a3) := by
  unfold State.consumeHead
  repeat' first
    | with_reducible assumption
    | with_reducible refine Keeps.ite ?_ ?_
    | with_reducible refine State.freeSlot_keeps _ _ _ _ ?_
    | with_reducible refine State.putPort_keeps _ _ _ _ ?_
    | with_reducible refine State.returnCredits_keeps _ _ _ ?_
    | with_reducible refine State.pump_keeps _ _ _ ?_
    | with_reducible refine Keeps.foldl (fun _ _ _ => ?_) ?_
    | with_reducible refine Keeps.foldPair (fun _ _ _ => ?_) ?_
    | split
    | dsimp only

theorem State.consume_keeps (s0 s a1 a2) (h : Keeps s0 s) :
    Keeps s0 (State.consume s a1 a2) := by
  unfold State.consume
  repeat' first
    | with_reducible assumption
    | with_reducible refine Keeps.ite ?_ ?_
    | with_reducible refine State.consumeHead_keeps _ _ _ _ _ ?_

theorem State.joinSelf_keeps (s0 s) (h : Keeps s0 s) :
    Keeps s0 (State.joinSelf s) := by
  unfold State.joinSelf
  repeat' first
    | with_reducible assumption
    | with_reducible exact Nat.le_refl _
    | with_reducible exact Nat.le_add_right _ _
    | with_reducible exact List.prefix_refl _
    | with_reducible refine Keeps.ite ?_ ?_
    | with_reducible refine State.setMember_keeps _ _ _ _ _ _ ?_
    | with_reducible refine State.flood_keeps _ _ _ _ ?_
    | split
    | dsimp only
    | exact Nat.le_add_right _ _
    | exact Nat.le_refl _
    | exact List.prefix_refl _
    | with_reducible refine Keeps.setAnt ?_
    | with_reducible refine Keeps.upd ?_ ?_ ?_

end Sys2Proof.Machine
end

