-- ==== Sys2Proof/Laws/KeepsOperands.lean ====
section
/-!
SUPPORT. What the operations of Operands keep of a state.
-/
namespace Sys2Proof.Machine

theorem State.mend_keeps {α : Type} (s0 s) (f : State → Chk α) (h : Keeps s0 s) : Keeps s0 (State.mend s f) :=
  Keeps.foldl (fun _ _ k => State.correctAcc_keeps _ _ _ k) h

theorem State.storeAll_keeps (s0 s a1 a2) (h : Keeps s0 s) :
    Keeps s0 (State.storeAll s a1 a2) := by
  unfold State.storeAll
  repeat' first
    | with_reducible assumption
    | with_reducible refine State.store_keeps _ _ _ _ ?_
    | with_reducible refine Keeps.foldl (fun _ _ _ => ?_) ?_
    | with_reducible refine Keeps.foldPair (fun _ _ _ => ?_) ?_

theorem State.writeVa_keeps (s0 s a1 a2 a3) (h : Keeps s0 s) :
    KeepsChk s0 (State.writeVa s a1 a2 a3) := by
  unfold State.writeVa
  repeat' first
    | with_reducible assumption
    | exact KeepsChk.error
    | with_reducible refine KeepsChk.ok ?_
    | with_reducible refine KeepsChk.pure ?_
    | with_reducible refine KeepsChk.mapState ?_ (fun _ _ => ?_)
    | with_reducible refine KeepsChk.map (fun _ => ?_)
    | with_reducible refine KeepsChk.ite ?_ ?_
    | refine KeepsChk.bind (fun _ => ?_)
    | with_reducible refine State.storeAll_keeps _ _ _ _ ?_
    | split

theorem State.setBitsVa_keeps (s0 s a1 a2 a3 a4) (h : Keeps s0 s) :
    KeepsChk s0 (State.setBitsVa s a1 a2 a3 a4) := by
  unfold State.setBitsVa
  repeat' first
    | with_reducible assumption
    | exact KeepsChk.error
    | with_reducible refine KeepsChk.ok ?_
    | with_reducible refine KeepsChk.pure ?_
    | with_reducible refine KeepsChk.mapState ?_ (fun _ _ => ?_)
    | with_reducible refine KeepsChk.map (fun _ => ?_)
    | with_reducible refine KeepsChk.ite ?_ ?_
    | refine KeepsChk.bind (fun _ => ?_)
    | with_reducible refine State.storeAll_keeps _ _ _ _ ?_
    | split
    | dsimp only

theorem State.writeElem_keeps (s0 s a1 a2 a3 a4) (h : Keeps s0 s) :
    KeepsFst s0 (State.writeElem s a1 a2 a3 a4) := by
  unfold State.writeElem
  repeat' first
    | with_reducible assumption
    | exact KeepsFst.error
    | with_reducible refine KeepsFst.ok ?_
    | with_reducible refine KeepsFst.ite ?_ ?_
    | with_reducible refine Keeps.ite ?_ ?_
    | with_reducible refine State.setBitsVa_keeps _ _ _ _ _ _ ?_
    | with_reducible refine KeepsChk.naming ?_
    | with_reducible refine KeepsFst.map ?_ (fun _ _ => ?_)

theorem State.writeRun_keeps (s0 s a1 a2 a3 a4) (h : Keeps s0 s) :
    KeepsFst s0 (State.writeRun s a1 a2 a3 a4) := by
  unfold State.writeRun
  repeat' first
    | with_reducible assumption
    | exact KeepsFst.error
    | with_reducible refine KeepsFst.ok ?_
    | with_reducible refine KeepsFst.ite ?_ ?_
    | refine KeepsFst.bindState ?_ (fun _ _ => ?_)
    | refine KeepsFst.bindFst ?_ (fun _ _ => ?_)
    | refine KeepsFst.bind (fun _ => ?_)
    | with_reducible refine Keeps.ofFst (by assumption) ?_
    | with_reducible refine Keeps.ofOkPair (by assumption) ?_
    | with_reducible refine State.writeElem_keeps _ _ _ _ _ _ ?_
    | with_reducible refine Keeps.foldl (fun _ _ _ => ?_) ?_
    | with_reducible refine Keeps.foldPair (fun _ _ _ => ?_) ?_
    | refine KeepsFst.foldlOk (fun _ _ _ => ?_) ?_
    | with_reducible exact Keeps.ofOkPair rfl (by assumption)
    | split

end Sys2Proof.Machine
end

