-- ==== Sys2Proof/Laws/KeepsTile.lean ====
section
/-!
SUPPORT. What the operations of Tile keep of a state.
-/
namespace Sys2Proof.Machine

theorem State.modGrant_keeps (s0 s a1 a2 a3) (h : Keeps s0 s) :
    Keeps s0 (State.modGrant s a1 a2 a3) := by
  unfold State.modGrant
  repeat' first
    | with_reducible assumption
    | with_reducible refine State.putCore_keeps _ _ _ _ ?_

theorem State.countSkips_keeps (s0 s a1 a2) (h : Keeps s0 s) :
    Keeps s0 (State.countSkips s a1 a2) := by
  unfold State.countSkips
  repeat' first
    | with_reducible assumption
    | with_reducible refine State.bump_keeps _ _ _ _ _ ?_

theorem State.turnPos_keeps (s0 s a1 a2) (h : Keeps s0 s) :
    Keeps s0 (State.turnPos s a1 a2) := by
  unfold State.turnPos
  repeat' first
    | with_reducible assumption
    | with_reducible refine Keeps.ite ?_ ?_
    | with_reducible refine State.modGrant_keeps _ _ _ _ _ ?_
    | with_reducible refine State.countSkips_keeps _ _ _ _ ?_
    | with_reducible refine State.putCore_keeps _ _ _ _ ?_
    | split

theorem State.issued_keeps (s0 s a1 a2 a3 a4) (h : Keeps s0 s) :
    Keeps s0 (State.issued s a1 a2 a3 a4) := by
  unfold State.issued
  repeat' first
    | with_reducible assumption
    | with_reducible refine State.turnPos_keeps _ _ _ _ ?_
    | with_reducible refine State.modGrant_keeps _ _ _ _ _ ?_

theorem State.issue_keeps (s0 s a1 a2 a3 a4 a5) (k5 : ∀ t x0, Keeps s0 t → Keeps s0 (a5 t x0)) (h : Keeps s0 s) :
    Keeps s0 (State.issue s a1 a2 a3 a4 a5) := by
  unfold State.issue
  repeat' first
    | with_reducible assumption
    | with_reducible refine Keeps.ite ?_ ?_
    | with_reducible refine State.issued_keeps _ _ _ _ _ _ ?_
    | with_reducible refine k5 _ _ ?_
    | split

theorem State.parityStop_keeps (s0 s a1 a2 a3 a4 a5 a6) (h : Keeps s0 s) :
    Keeps s0 (State.parityStop s a1 a2 a3 a4 a5 a6) := by
  unfold State.parityStop
  repeat' first
    | with_reducible assumption
    | with_reducible refine Keeps.ite ?_ ?_
    | with_reducible refine State.noteParities_keeps _ _ _ _ _ _ ?_
    | with_reducible refine State.fault_keeps _ _ _ _ _ _ ?_
    | with_reducible refine State.parityBudget_keeps _ _ _ _ ?_
    | with_reducible refine Keeps.foldl (fun _ _ _ => ?_) ?_

theorem State.xltStop_keeps (s0 s a1 a2 a3 a4 a5 a6 a7 a8) (h : Keeps s0 s) :
    Keeps s0 (State.xltStop s a1 a2 a3 a4 a5 a6 a7 a8) := by
  unfold State.xltStop
  repeat' first
    | with_reducible assumption
    | with_reducible refine State.noteXlt_keeps _ _ _ _ _ ?_
    | with_reducible refine State.fault_keeps _ _ _ _ _ _ ?_

theorem State.streamStop_keeps (s0 s a1 a2 a3 a4 a5 a6 a7 a8) (h : Keeps s0 s) :
    Keeps s0 (State.streamStop s a1 a2 a3 a4 a5 a6 a7 a8) := by
  unfold State.streamStop
  repeat' first
    | with_reducible assumption
    | with_reducible refine State.noteStream_keeps _ _ _ _ _ _ ?_
    | with_reducible refine State.midStream_keeps _ _ _ _ ?_

theorem State.ueStop_keeps (s0 s a1 a2 a3 a4 a5 a6 a7 a8) (h : Keeps s0 s) :
    Keeps s0 (State.ueStop s a1 a2 a3 a4 a5 a6 a7 a8) := by
  unfold State.ueStop
  repeat' first
    | with_reducible assumption
    | with_reducible refine Keeps.ite ?_ ?_
    | with_reducible refine State.noteUe_keeps _ _ _ _ ?_
    | with_reducible refine State.streamStop_keeps _ _ _ _ _ _ _ _ _ _ ?_
    | with_reducible refine State.ueBudgets_keeps _ _ _ ?_

theorem State.errorStop_keeps (s0 s a1 a2 a3 a4 a5 a6 a7 a8 a9) (h : Keeps s0 s) :
    Keeps s0 (State.errorStop s a1 a2 a3 a4 a5 a6 a7 a8 a9) := by
  unfold State.errorStop
  repeat' first
    | with_reducible assumption
    | with_reducible refine State.fault_keeps _ _ _ _ _ _ ?_

theorem State.stopBy_keeps (s0 s a1 a2 a3 a4 a5 a6 a7 a8) (h : Keeps s0 s) :
    Keeps s0 (State.stopBy s a1 a2 a3 a4 a5 a6 a7 a8) := by
  unfold State.stopBy
  repeat' first
    | with_reducible assumption
    | with_reducible refine State.errorStop_keeps _ _ _ _ _ _ _ _ _ _ _ ?_
    | with_reducible refine State.xltStop_keeps _ _ _ _ _ _ _ _ _ _ ?_
    | with_reducible refine State.ueStop_keeps _ _ _ _ _ _ _ _ _ _ ?_
    | split

theorem State.writeBy_keeps (s0 s a1 a2 a3) (h : Keeps s0 s) :
    KeepsChk s0 (State.writeBy s a1 a2 a3) := by
  unfold State.writeBy
  repeat' first
    | with_reducible assumption
    | with_reducible refine State.writeVa_keeps _ _ _ _ _ ?_
    | exact KeepsChk.error
    | with_reducible refine KeepsChk.ok ?_
    | with_reducible refine KeepsChk.pure ?_
    | with_reducible refine KeepsChk.mapState ?_ (fun _ _ => ?_)
    | with_reducible refine KeepsChk.map (fun _ => ?_)
    | with_reducible refine KeepsChk.ite ?_ ?_
    | refine KeepsChk.bindState ?_ (fun _ _ => ?_)
    | refine KeepsChk.bind (fun _ => ?_)
    | with_reducible refine Keeps.ofOk (by assumption) ?_
    | with_reducible refine State.writeVa_keeps _ _ _ _ _ ?_
    | split

theorem State.countXltMiss_keeps (s0 s a1) (h : Keeps s0 s) :
    Keeps s0 (State.countXltMiss s a1) := by
  unfold State.countXltMiss
  repeat' first
    | with_reducible assumption
    | with_reducible refine Keeps.ite ?_ ?_
    | with_reducible refine State.bump_keeps _ _ _ _ _ ?_

theorem State.lookPage_keeps (s0 s a1 a2) (h : Keeps s0 s) :
    Keeps s0 (State.lookPage s a1 a2) := by
  unfold State.lookPage
  repeat' first
    | with_reducible assumption
    | with_reducible refine Keeps.ite ?_ ?_
    | with_reducible refine State.putCore_keeps _ _ _ _ ?_
    | with_reducible refine State.countXltMiss_keeps _ _ _ ?_
    | with_reducible refine State.correctAll_keeps _ _ _ ?_
    | split
    | dsimp only

theorem State.lookUp_keeps (s0 s a1 a2 a3) (h : Keeps s0 s) :
    Keeps s0 (State.lookUp s a1 a2 a3) := by
  unfold State.lookUp
  repeat' first
    | with_reducible assumption
    | with_reducible refine Keeps.ite ?_ ?_
    | with_reducible refine State.lookPage_keeps _ _ _ _ ?_
    | with_reducible refine Keeps.foldl (fun _ _ _ => ?_) ?_

theorem State.correctVa_keeps (s0 s a1 a2 a3) (h : Keeps s0 s) :
    Keeps s0 (State.correctVa s a1 a2 a3) := by
  unfold State.correctVa
  repeat' first
    | with_reducible assumption
    | with_reducible refine Keeps.ite ?_ ?_
    | with_reducible refine State.correctAll_keeps _ _ _ ?_
    | split

theorem State.readUp_keeps (s0 s a1 a2 a3) (h : Keeps s0 s) :
    Keeps s0 (State.readUp s a1 a2 a3) := by
  unfold State.readUp
  repeat' first
    | with_reducible assumption
    | with_reducible refine Keeps.ite ?_ ?_
    | with_reducible refine State.lookUp_keeps _ _ _ _ _ ?_
    | with_reducible refine State.correctVa_keeps _ _ _ _ _ ?_

theorem State.enterUrgent_keeps (s0 s a1 a2 a3) (h : Keeps s0 s) :
    Keeps s0 (State.enterUrgent s a1 a2 a3) := by
  unfold State.enterUrgent
  repeat' first
    | with_reducible assumption
    | with_reducible refine Keeps.ite ?_ ?_
    | with_reducible refine State.putStack_keeps _ _ _ _ ?_

theorem State.putAcc_keeps (s0 s a1 a2 a3) (h : Keeps s0 s) :
    Keeps s0 (State.putAcc s a1 a2 a3) := by
  unfold State.putAcc
  repeat' first
    | with_reducible assumption
    | with_reducible refine Keeps.ite ?_ ?_
    | with_reducible refine State.putCore_keeps _ _ _ _ ?_

end Sys2Proof.Machine
end

