-- ==== Sys2Proof/Laws/KeepsOutput.lean ====
section
/-!
SUPPORT. What the operations of Output keep of a state.
-/
namespace Sys2Proof.Machine

theorem State.closeSlot_keeps (s0 s a1 a2 a3 a4) (h : Keeps s0 s) :
    Keeps s0 (State.closeSlot s a1 a2 a3 a4) := by
  unfold State.closeSlot
  repeat' first
    | with_reducible assumption
    | with_reducible refine Keeps.ite ?_ ?_
    | with_reducible refine State.putCtx_keeps _ _ _ _ ?_

theorem State.discardTile_keeps (s0 s a1 a2 a3) (h : Keeps s0 s) :
    Keeps s0 (State.discardTile s a1 a2 a3) := by
  unfold State.discardTile
  repeat' first
    | with_reducible assumption
    | with_reducible refine State.raise_keeps _ _ _ ?_
    | with_reducible refine State.bump_keeps _ _ _ _ _ ?_

theorem State.charge_keeps (s0 s a1) (h : Keeps s0 s) :
    Keeps s0 (State.charge s a1) := by
  unfold State.charge
  repeat' first
    | with_reducible assumption
    | with_reducible refine Keeps.ite ?_ ?_
    | with_reducible refine State.putCore_keeps _ _ _ _ ?_
    | with_reducible refine State.fenceCore_keeps _ _ _ _ ?_

theorem State.voteEv_keeps (s0 s a1 a2 a3 a4 a5 a6 a7) (h : Keeps s0 s) :
    Keeps s0 (State.voteEv s a1 a2 a3 a4 a5 a6 a7) := by
  unfold State.voteEv
  repeat' first
    | with_reducible assumption
    | with_reducible refine State.raise_keeps _ _ _ ?_

theorem State.vote_keeps (s0 s a1 a2 a3 a4) (h : Keeps s0 s) :
    Keeps s0 (State.vote s a1 a2 a3 a4).1 := by
  unfold State.vote
  repeat' first
    | with_reducible assumption
    | with_reducible refine Keeps.ite ?_ ?_
    | with_reducible refine State.putCtx_keeps _ _ _ _ ?_
    | with_reducible refine State.charge_keeps _ _ _ ?_
    | with_reducible refine State.voteEv_keeps _ _ _ _ _ _ _ _ _ ?_
    | with_reducible refine State.bump_keeps _ _ _ _ _ ?_
    | with_reducible refine State.fault_keeps _ _ _ _ _ _ ?_
    | with_reducible refine State.raise_keeps _ _ _ ?_
    | with_reducible refine Keeps.foldl (fun _ _ _ => ?_) ?_
    | with_reducible refine Keeps.foldPair (fun _ _ _ => ?_) ?_
    | split
    | dsimp only

theorem State.turnPass_keeps (s0 s a1) (h : Keeps s0 s) :
    Keeps s0 (State.turnPass s a1) := by
  unfold State.turnPass
  repeat' first
    | with_reducible assumption
    | with_reducible refine Keeps.ite ?_ ?_
    | with_reducible refine State.putCtx_keeps _ _ _ _ ?_

theorem State.endTileAt_keeps (s0 s a1 a2) (h : Keeps s0 s) :
    Keeps s0 (State.endTileAt s a1 a2) := by
  unfold State.endTileAt
  repeat' first
    | with_reducible assumption
    | with_reducible refine State.turnPass_keeps _ _ _ ?_
    | with_reducible refine State.putCtx_keeps _ _ _ _ ?_

end Sys2Proof.Machine
end

