-- ==== Sys2Proof/Laws/KeepsRemote.lean ====
section
/-!
SUPPORT. What the operations of Remote keep of a state.
-/
namespace Sys2Proof.Machine

theorem State.askCredits_keeps (s0 s a1 a2) (h : Keeps s0 s) :
    Keeps s0 (State.askCredits s a1 a2) := by
  unfold State.askCredits
  repeat' first
    | with_reducible assumption
    | with_reducible refine Keeps.ite ?_ ?_
    | with_reducible refine State.sendMsg_keeps _ _ _ _ _ _ ?_
    | with_reducible refine State.putHandle_keeps _ _ _ _ ?_

theorem State.sendWindowWrite_keeps (s0 s a1 a2 a3 a4) (h : Keeps s0 s) :
    Keeps s0 (State.sendWindowWrite s a1 a2 a3 a4) := by
  unfold State.sendWindowWrite
  repeat' first
    | with_reducible assumption
    | with_reducible exact Nat.le_refl _
    | with_reducible exact Nat.le_add_right _ _
    | with_reducible exact List.prefix_refl _
    | with_reducible refine Keeps.ite ?_ ?_
    | with_reducible refine State.putHandle_keeps _ _ _ _ ?_
    | with_reducible refine State.putCtx_keeps _ _ _ _ ?_
    | with_reducible refine State.sendFor_keeps _ _ _ _ _ _ _ ?_

theorem State.sendWindowRead_keeps (s0 s a1 a2 a3 a4) (h : Keeps s0 s) :
    Keeps s0 (State.sendWindowRead s a1 a2 a3 a4) := by
  unfold State.sendWindowRead
  repeat' first
    | with_reducible assumption
    | with_reducible refine Keeps.ite ?_ ?_
    | with_reducible refine State.sendFor_keeps _ _ _ _ _ _ _ ?_

theorem State.stageUnit_keeps (s0 s a1 a2 a3) (h : Keeps s0 s) :
    Keeps s0 (State.stageUnit s a1 a2 a3) := by
  unfold State.stageUnit
  repeat' first
    | with_reducible assumption
    | with_reducible exact Nat.le_refl _
    | with_reducible exact Nat.le_add_right _ _
    | with_reducible exact List.prefix_refl _
    | with_reducible refine State.putMcast_keeps _ _ _ _ ?_

end Sys2Proof.Machine
end

