-- ==== Sys2Proof/Laws/KeepsMcast.lean ====
section
/-!
SUPPORT. What the operations of Mcast keep of a state.
-/
namespace Sys2Proof.Machine

theorem State.sayDetach_keeps (s0 s a1 a2 a3) (h : Keeps s0 s) :
    Keeps s0 (State.sayDetach s a1 a2 a3) := by
  unfold State.sayDetach
  repeat' first
    | with_reducible assumption
    | with_reducible refine State.raise_keeps _ _ _ ?_

theorem State.removeLagging_keeps (s0 s a1 a2) (h : Keeps s0 s) :
    Keeps s0 (State.removeLagging s a1 a2) := by
  unfold State.removeLagging
  repeat' first
    | with_reducible assumption
    | with_reducible refine State.putMcast_keeps _ _ _ _ ?_
    | with_reducible refine State.bump_keeps _ _ _ _ _ ?_
    | with_reducible refine State.sayDetach_keeps _ _ _ _ _ ?_
    | with_reducible refine State.sendMsg_keeps _ _ _ _ _ _ ?_
    | split
    | dsimp only

theorem State.makeMcastRoom_keeps (s0 s a1) (h : Keeps s0 s) :
    Keeps s0 (State.makeMcastRoom s a1) := by
  unfold State.makeMcastRoom
  repeat' first
    | with_reducible assumption
    | with_reducible refine Keeps.ite ?_ ?_
    | with_reducible refine State.removeLagging_keeps _ _ _ _ ?_
    | with_reducible refine State.putMcast_keeps _ _ _ _ ?_
    | with_reducible refine Keeps.foldl (fun _ _ _ => ?_) ?_

theorem State.pushUnits_keeps (s0 a0 s a2) (h : Keeps s0 s) :
    Keeps s0 (State.pushUnits a0 s a2) := by
  induction a0 generalizing s a2 with
  | zero => exact h
  | succ a0 ih =>
  unfold State.pushUnits
  repeat' first
    | with_reducible assumption
    | with_reducible refine Keeps.ite ?_ ?_
    | with_reducible refine State.makeMcastRoom_keeps _ _ _ ?_
    | with_reducible refine State.putMcast_keeps _ _ _ _ ?_
    | with_reducible refine State.pushed_keeps _ _ _ _ ?_
    | with_reducible refine ih _ _ ?_
    | split

theorem State.runMcast_keeps (s0 s a1) (h : Keeps s0 s) :
    Keeps s0 (State.runMcast s a1) := by
  unfold State.runMcast
  repeat' first
    | with_reducible assumption
    | with_reducible refine State.putMcast_keeps _ _ _ _ ?_
    | with_reducible refine State.pushUnits_keeps _ _ _ _ ?_

theorem State.sendUnit_keeps (s0 s a1 a2 a3 a4) (h : Keeps s0 s) :
    Keeps s0 (State.sendUnit s a1 a2 a3 a4) := by
  unfold State.sendUnit
  repeat' first
    | with_reducible assumption
    | with_reducible refine State.putMcast_keeps _ _ _ _ ?_
    | with_reducible refine State.sendMsg_keeps _ _ _ _ _ _ ?_

theorem execMulticastUnitSend_keeps (s0 a0 a1 s) (h : Keeps s0 s) :
    KeepsRes s0 (execMulticastUnitSend a0 a1 s) := by
  unfold execMulticastUnitSend
  repeat' first
    | with_reducible assumption
    | with_reducible refine KeepsRes.next ?_
    | with_reducible refine Keeps.ite ?_ ?_
    | with_reducible refine State.sendUnit_keeps _ _ _ _ _ _ ?_
    | split
    | dsimp only

theorem execMulticastDetach_keeps (s0 a0 s) (h : Keeps s0 s) :
    KeepsRes s0 (execMulticastDetach a0 s) := by
  unfold execMulticastDetach
  repeat' first
    | with_reducible assumption
    | with_reducible exact Nat.le_refl _
    | with_reducible exact Nat.le_add_right _ _
    | with_reducible exact List.prefix_refl _
    | with_reducible refine KeepsRes.next ?_
    | with_reducible refine Keeps.ite ?_ ?_
    | with_reducible refine State.putMcast_keeps _ _ _ _ ?_
    | with_reducible refine State.sayDetach_keeps _ _ _ _ _ ?_
    | with_reducible refine State.bump_keeps _ _ _ _ _ ?_
    | with_reducible refine State.runMcast_keeps _ _ _ ?_
    | with_reducible refine Keeps.foldl (fun _ _ _ => ?_) ?_

end Sys2Proof.Machine
end

