-- ==== Sys2Proof/Laws/KeepsRegs.lean ====
section
/-!
SUPPORT. What the operations of Regs keep of a state.
-/
namespace Sys2Proof.Machine

theorem State.plainWrite_keeps (s0 s a1 a2 a3) (h : Keeps s0 s) :
    Keeps s0 (State.plainWrite s a1 a2 a3) := by
  unfold State.plainWrite
  repeat' first
    | with_reducible assumption
    | with_reducible refine Keeps.ite ?_ ?_
    | with_reducible refine State.putReg_keeps _ _ _ _ ?_

end Sys2Proof.Machine
end

