-- ==== Sys2Proof/Laws/KeepsBlocks.lean ====
section
/-!
SUPPORT. What the operations of Blocks keep of a state.
-/
namespace Sys2Proof.Machine

theorem State.fillBits_keeps (s0 s a1 a2 a3 a4) (h : Keeps s0 s) :
    Keeps s0 (State.fillBits s a1 a2 a3 a4) := by
  unfold State.fillBits
  repeat' first
    | with_reducible assumption
    | with_reducible refine Keeps.ite ?_ ?_
    | with_reducible refine State.arriveWrite_keeps _ _ _ _ _ ?_

theorem State.putAnt_keeps (s0 s a1 a2) (h : Keeps s0 s) :
    Keeps s0 (State.putAnt s a1 a2) := by
  unfold State.putAnt
  repeat' first
    | with_reducible assumption
    | with_reducible exact Nat.le_refl _
    | with_reducible exact Nat.le_add_right _ _
    | with_reducible exact List.prefix_refl _
    | with_reducible refine Keeps.ite ?_ ?_
    | dsimp only
    | exact Nat.le_add_right _ _
    | exact Nat.le_refl _
    | exact List.prefix_refl _
    | with_reducible refine Keeps.setAnt ?_

theorem State.antSend_keeps (s0 s a1 a2) (h : Keeps s0 s) :
    Keeps s0 (State.antSend s a1 a2) := by
  unfold State.antSend
  repeat' first
    | with_reducible assumption
    | with_reducible exact Nat.le_refl _
    | with_reducible exact Nat.le_add_right _ _
    | with_reducible exact List.prefix_refl _
    | with_reducible refine Keeps.ite ?_ ?_
    | with_reducible refine State.parityStop_keeps _ _ _ _ _ _ _ _ ?_
    | with_reducible refine State.putAnt_keeps _ _ _ _ ?_
    | split

theorem State.antOpen_keeps (s0 s a1 a2 a3 a4 a5) (h : Keeps s0 s) :
    Keeps s0 (State.antOpen s a1 a2 a3 a4 a5) := by
  unfold State.antOpen
  repeat' first
    | with_reducible assumption
    | with_reducible refine Keeps.ite ?_ ?_
    | with_reducible refine State.putAnt_keeps _ _ _ _ ?_
    | with_reducible refine State.bump_keeps _ _ _ _ _ ?_

theorem State.countTaken_keeps (s0 s a1) (h : Keeps s0 s) :
    Keeps s0 (State.countTaken s a1) := by
  unfold State.countTaken
  repeat' first
    | with_reducible assumption
    | with_reducible refine Keeps.ite ?_ ?_
    | with_reducible refine State.bump_keeps _ _ _ _ _ ?_
    | with_reducible refine Keeps.foldl (fun _ _ _ => ?_) ?_

theorem State.antKnow_keeps (s0 s a1 a2 a3 a4) (h : Keeps s0 s) :
    Keeps s0 (State.antKnow s a1 a2 a3 a4) := by
  unfold State.antKnow
  repeat' first
    | with_reducible assumption
    | with_reducible exact Nat.le_refl _
    | with_reducible exact Nat.le_add_right _ _
    | with_reducible exact List.prefix_refl _
    | with_reducible refine Keeps.ite ?_ ?_
    | with_reducible refine State.putAnt_keeps _ _ _ _ ?_
    | with_reducible refine State.countTaken_keeps _ _ _ ?_

theorem State.queueBlock_keeps (s0 s a1 a2) (h : Keeps s0 s) :
    Keeps s0 (State.queueBlock s a1 a2) := by
  unfold State.queueBlock
  repeat' first
    | with_reducible assumption
    | with_reducible refine State.putCore_keeps _ _ _ _ ?_

theorem State.storePack_keeps (s0 s a1 a2 a3 a4) (h : Keeps s0 s) :
    Keeps s0 (State.storePack s a1 a2 a3 a4) := by
  unfold State.storePack
  repeat' first
    | with_reducible assumption
    | with_reducible exact Nat.le_refl _
    | with_reducible exact Nat.le_add_right _ _
    | with_reducible exact List.prefix_refl _
    | with_reducible refine Keeps.ite ?_ ?_
    | with_reducible refine State.parityStop_keeps _ _ _ _ _ _ _ _ ?_
    | with_reducible refine State.stopBy_keeps _ _ _ _ _ _ _ _ _ _ ?_
    | with_reducible refine State.putCore_keeps _ _ _ _ ?_
    | with_reducible refine State.noteAcc_keeps _ _ _ _ ?_
    | split

theorem State.openPack_keeps (s0 s a1 a2) (h : Keeps s0 s) :
    Keeps s0 (State.openPack s a1 a2) := by
  unfold State.openPack
  repeat' first
    | with_reducible assumption
    | with_reducible exact Nat.le_refl _
    | with_reducible exact Nat.le_add_right _ _
    | with_reducible exact List.prefix_refl _
    | with_reducible refine Keeps.ite ?_ ?_
    | with_reducible refine State.putCore_keeps _ _ _ _ ?_
    | with_reducible refine State.stopBy_keeps _ _ _ _ _ _ _ _ _ _ ?_
    | with_reducible refine State.storePack_keeps _ _ _ _ _ _ ?_
    | with_reducible refine State.antKnow_keeps _ _ _ _ _ _ ?_
    | with_reducible refine State.arriveWrite_keeps _ _ _ _ _ ?_
    | with_reducible refine State.antSend_keeps _ _ _ _ ?_
    | with_reducible refine Keeps.elim ?_ (fun _ => ?_)
    | split
    | dsimp only

theorem State.queuePack_keeps (s0 s a1 a2 a3) (h : Keeps s0 s) :
    Keeps s0 (State.queuePack s a1 a2 a3) := by
  unfold State.queuePack
  repeat' first
    | with_reducible assumption
    | with_reducible refine Keeps.ofId ?_
    | with_reducible refine Keeps.ite ?_ ?_
    | with_reducible refine State.queueBlock_keeps _ _ _ _ ?_
    | with_reducible refine State.openPack_keeps _ _ _ _ ?_
    | with_reducible refine State.putCore_keeps _ _ _ _ ?_

theorem State.landMeta_keeps (s0 s a1 a2 a3) (h : Keeps s0 s) :
    Keeps s0 (State.landMeta s a1 a2 a3) := by
  unfold State.landMeta
  repeat' first
    | with_reducible assumption
    | with_reducible exact Nat.le_refl _
    | with_reducible exact Nat.le_add_right _ _
    | with_reducible exact List.prefix_refl _
    | with_reducible refine Keeps.ite ?_ ?_
    | with_reducible refine State.putCore_keeps _ _ _ _ ?_
    | with_reducible refine State.openPack_keeps _ _ _ _ ?_
    | split

theorem State.fetchBlock_keeps (s0 s a1 a2) (h : Keeps s0 s) :
    Keeps s0 (State.fetchBlock s a1 a2) := by
  unfold State.fetchBlock
  repeat' first
    | with_reducible assumption
    | with_reducible refine Keeps.ite ?_ ?_
    | with_reducible refine State.queuePack_keeps _ _ _ _ _ ?_
    | with_reducible refine State.antKnow_keeps _ _ _ _ _ _ ?_
    | with_reducible refine State.queueBlock_keeps _ _ _ _ ?_

theorem State.antBlock_keeps (s0 s a1 a2) (h : Keeps s0 s) :
    Keeps s0 (State.antBlock s a1 a2) := by
  unfold State.antBlock
  repeat' first
    | with_reducible assumption
    | with_reducible exact Nat.le_refl _
    | with_reducible exact Nat.le_add_right _ _
    | with_reducible exact List.prefix_refl _
    | with_reducible refine Keeps.ite ?_ ?_
    | with_reducible refine State.putAnt_keeps _ _ _ _ ?_
    | with_reducible refine State.antOpen_keeps _ _ _ _ _ _ _ ?_
    | with_reducible refine State.fetchBlock_keeps _ _ _ _ ?_
    | split
    | dsimp only

theorem State.loadBlock_keeps (s0 s a1 a2 a3 a4) (h : Keeps s0 s) :
    Keeps s0 (State.loadBlock s a1 a2 a3 a4) := by
  unfold State.loadBlock
  repeat' first
    | with_reducible assumption
    | with_reducible refine Keeps.ite ?_ ?_
    | with_reducible refine State.errorStop_keeps _ _ _ _ _ _ _ _ _ _ _ ?_
    | with_reducible refine State.fillBits_keeps _ _ _ _ _ _ ?_
    | with_reducible refine State.antBlock_keeps _ _ _ _ ?_
    | with_reducible refine State.fetchBlock_keeps _ _ _ _ ?_
    | with_reducible refine Keeps.foldl (fun _ _ _ => ?_) ?_
    | with_reducible refine Keeps.foldPair (fun _ _ _ => ?_) ?_
    | split

theorem State.storeBlock_keeps (s0 s a1 a2 a3 a4) (h : Keeps s0 s) :
    Keeps s0 (State.storeBlock s a1 a2 a3 a4) := by
  unfold State.storeBlock
  repeat' first
    | with_reducible assumption
    | with_reducible refine Keeps.ite ?_ ?_
    | with_reducible refine State.errorStop_keeps _ _ _ _ _ _ _ _ _ _ _ ?_
    | with_reducible refine State.parityStop_keeps _ _ _ _ _ _ _ _ ?_
    | with_reducible refine State.bump_keeps _ _ _ _ _ ?_
    | with_reducible refine State.noteAcc_keeps _ _ _ _ ?_
    | with_reducible refine State.queuePack_keeps _ _ _ _ _ ?_
    | with_reducible refine State.queueBlock_keeps _ _ _ _ ?_
    | split
    | dsimp only

theorem State.moveBlock_keeps (s0 s a1 a2 a3 a4) (h : Keeps s0 s) :
    Keeps s0 (State.moveBlock s a1 a2 a3 a4) := by
  unfold State.moveBlock
  repeat' first
    | with_reducible assumption
    | with_reducible refine Keeps.ite ?_ ?_
    | with_reducible refine State.storeBlock_keeps _ _ _ _ _ _ ?_
    | with_reducible refine State.loadBlock_keeps _ _ _ _ _ _ ?_

end Sys2Proof.Machine
end

