-- ==== Sys2Proof/Laws/KeepsLists.lean ====
section
/-!
SUPPORT. What the operations of Lists keep of a state.
-/
namespace Sys2Proof.Machine

theorem State.modOp_keeps (s0 s a1 a2 a3) (h : Keeps s0 s) :
    Keeps s0 (State.modOp s a1 a2 a3) := by
  unfold State.modOp
  repeat' first
    | with_reducible assumption
    | with_reducible refine Keeps.ite ?_ ?_
    | with_reducible refine State.putCore_keeps _ _ _ _ ?_

theorem State.markSent_keeps (s0 s a1 a2) (h : Keeps s0 s) :
    Keeps s0 (State.markSent s a1 a2) := by
  unfold State.markSent
  repeat' first
    | with_reducible assumption
    | with_reducible exact Nat.le_refl _
    | with_reducible exact Nat.le_add_right _ _
    | with_reducible exact List.prefix_refl _
    | with_reducible refine Keeps.ite ?_ ?_
    | with_reducible refine State.modOp_keeps _ _ _ _ _ ?_

theorem State.streamError_keeps (s0 s a1 a2 a3 a4 a5) (h : Keeps s0 s) :
    Keeps s0 (State.streamError s a1 a2 a3 a4 a5) := by
  unfold State.streamError
  repeat' first
    | with_reducible assumption
    | with_reducible refine Keeps.ite ?_ ?_
    | with_reducible refine State.errorStop_keeps _ _ _ _ _ _ _ _ _ _ _ ?_

theorem State.fillSlot_keeps (s0 s a1 a2 a3 a4) (h : Keeps s0 s) :
    Keeps s0 (State.fillSlot s a1 a2 a3 a4) := by
  unfold State.fillSlot
  repeat' first
    | with_reducible assumption
    | with_reducible refine Keeps.ite ?_ ?_
    | with_reducible refine State.fillBits_keeps _ _ _ _ _ _ ?_

theorem State.moveEntry_keeps (s0 s a1 a2 a3) (h : Keeps s0 s) :
    Keeps s0 (State.moveEntry s a1 a2 a3) := by
  unfold State.moveEntry
  repeat' first
    | with_reducible assumption
    | with_reducible refine Keeps.ite ?_ ?_
    | with_reducible refine State.streamError_keeps _ _ _ _ _ _ _ ?_
    | with_reducible refine State.fillSlot_keeps _ _ _ _ _ _ ?_
    | with_reducible refine State.readUp_keeps _ _ _ _ _ ?_
    | with_reducible refine State.stopBy_keeps _ _ _ _ _ _ _ _ _ _ ?_
    | with_reducible refine State.moveBlock_keeps _ _ _ _ _ _ ?_
    | split

theorem State.listStep_keeps (s0 s a1 a2) (h : Keeps s0 s) :
    Keeps s0 (State.listStep s a1 a2) := by
  unfold State.listStep
  repeat' first
    | with_reducible assumption
    | with_reducible exact Nat.le_refl _
    | with_reducible exact Nat.le_add_right _ _
    | with_reducible exact List.prefix_refl _
    | with_reducible refine Keeps.ite ?_ ?_
    | with_reducible refine State.modOp_keeps _ _ _ _ _ ?_
    | with_reducible refine State.moveEntry_keeps _ _ _ _ _ ?_

theorem State.beginOp_keeps (s0 s a1 a2) (h : Keeps s0 s) :
    Keeps s0 (State.beginOp s a1 a2) := by
  unfold State.beginOp
  repeat' first
    | with_reducible assumption
    | with_reducible exact Nat.le_refl _
    | with_reducible exact Nat.le_add_right _ _
    | with_reducible exact List.prefix_refl _
    | with_reducible refine Keeps.ite ?_ ?_
    | with_reducible refine State.modOp_keeps _ _ _ _ _ ?_
    | with_reducible refine State.putCore_keeps _ _ _ _ ?_

theorem State.registerBlocks_keeps (s0 s a1) (h : Keeps s0 s) :
    Keeps s0 (State.registerBlocks s a1) := by
  unfold State.registerBlocks
  repeat' first
    | with_reducible assumption
    | with_reducible refine Keeps.ite ?_ ?_
    | with_reducible refine State.putCore_keeps _ _ _ _ ?_
    | with_reducible refine State.loadBlock_keeps _ _ _ _ _ _ ?_
    | with_reducible refine Keeps.elim ?_ (fun _ => ?_)
    | with_reducible refine Keeps.foldl (fun _ _ _ => ?_) ?_

theorem State.sendNext_keeps (s0 s a1) (h : Keeps s0 s) :
    KeepsOpt s0 (State.sendNext s a1) := by
  unfold State.sendNext
  repeat' first
    | with_reducible assumption
    | exact KeepsOpt.none
    | with_reducible refine KeepsOpt.some ?_
    | with_reducible refine KeepsOpt.ite ?_ ?_
    | with_reducible refine Keeps.ite ?_ ?_
    | with_reducible refine State.registerBlocks_keeps _ _ _ ?_
    | with_reducible refine State.beginOp_keeps _ _ _ _ ?_
    | with_reducible refine State.listStep_keeps _ _ _ _ ?_
    | split

end Sys2Proof.Machine
end

