-- ==== Sys2Proof/Laws/KeepsStream.lean ====
section
/-!
SUPPORT. What the operations of Stream keep of a state.
-/
namespace Sys2Proof.Machine

theorem State.dropLine_keeps (s0 s a1 a2) (h : Keeps s0 s) :
    Keeps s0 (State.dropLine s a1 a2) := by
  unfold State.dropLine
  repeat' first
    | with_reducible assumption
    | with_reducible refine Keeps.ite ?_ ?_
    | with_reducible refine State.putCore_keeps _ _ _ _ ?_
    | split
    | dsimp only

theorem State.keepLine_keeps (s0 s a1 a2) (h : Keeps s0 s) :
    Keeps s0 (State.keepLine s a1 a2) := by
  unfold State.keepLine
  repeat' first
    | with_reducible assumption
    | with_reducible refine State.putCore_keeps _ _ _ _ ?_

theorem State.takeTracker_keeps (s0 s a1 a2 a3 a4) (h : Keeps s0 s) :
    KeepsOpt s0 (State.takeTracker s a1 a2 a3 a4) := by
  unfold State.takeTracker
  extract_lets x u first
  refine KeepsOpt.ite KeepsOpt.none ?_
  generalize lowest _ _ = o
  cases o with
  | none => exact KeepsOpt.none
  | some i => exact KeepsOpt.some (State.enterUrgent_keeps _ _ _ _ _ (State.putCore_keeps _ _ _ _ h))

theorem State.landRead_keeps (s0 s a1 a2 a3) (h : Keeps s0 s) :
    Keeps s0 (State.landRead s a1 a2 a3) := by
  unfold State.landRead
  repeat' first
    | with_reducible assumption
    | with_reducible refine Keeps.ite ?_ ?_
    | with_reducible refine State.landMeta_keeps _ _ _ _ _ ?_
    | with_reducible refine State.arriveWrite_keeps _ _ _ _ _ ?_
    | with_reducible refine Keeps.foldl (fun _ _ _ => ?_) ?_

theorem State.antCapture_keeps (s0 s a1 a2) (h : Keeps s0 s) :
    Keeps s0 (State.antCapture s a1 a2) := by
  unfold State.antCapture
  repeat' first
    | with_reducible assumption
    | with_reducible refine Keeps.ite ?_ ?_
    | with_reducible refine State.antSend_keeps _ _ _ _ ?_

theorem State.badLine_keeps (s0 s a1 a2 a3) (h : Keeps s0 s) :
    Keeps s0 (State.badLine s a1 a2 a3) := by
  unfold State.badLine
  repeat' first
    | with_reducible assumption
    | with_reducible refine Keeps.ite ?_ ?_
    | with_reducible refine State.noteParities_keeps _ _ _ _ _ _ ?_
    | with_reducible refine State.putCore_keeps _ _ _ _ ?_
    | with_reducible refine State.parityBudget_keeps _ _ _ _ ?_

theorem State.countHit_keeps (s0 s a1) (h : Keeps s0 s) :
    Keeps s0 (State.countHit s a1) := by
  unfold State.countHit
  repeat' first
    | with_reducible assumption
    | with_reducible refine Keeps.ite ?_ ?_
    | with_reducible refine State.bump_keeps _ _ _ _ _ ?_

theorem State.countMiss_keeps (s0 s a1) (h : Keeps s0 s) :
    Keeps s0 (State.countMiss s a1) := by
  unfold State.countMiss
  repeat' first
    | with_reducible assumption
    | with_reducible refine Keeps.ite ?_ ?_
    | with_reducible refine State.bump_keeps _ _ _ _ _ ?_

theorem State.cacheMiss_keeps (s0 s a1 a2 a3) (h : Keeps s0 s) :
    Keeps s0 (State.cacheMiss s a1 a2 a3) := by
  unfold State.cacheMiss
  repeat' first
    | with_reducible assumption
    | with_reducible exact Nat.le_refl _
    | with_reducible exact Nat.le_add_right _ _
    | with_reducible exact List.prefix_refl _
    | with_reducible refine Keeps.ite ?_ ?_
    | with_reducible refine State.countMiss_keeps _ _ _ ?_
    | with_reducible refine State.putCore_keeps _ _ _ _ ?_
    | with_reducible refine State.enterUrgent_keeps _ _ _ _ _ ?_
    | with_reducible refine State.keepLine_keeps _ _ _ _ ?_

theorem State.readCached_keeps (s0 s a1 a2 a3) (h : Keeps s0 s) :
    Keeps s0 (State.readCached s a1 a2 a3) := by
  unfold State.readCached
  repeat' first
    | with_reducible assumption
    | with_reducible exact Nat.le_refl _
    | with_reducible exact Nat.le_add_right _ _
    | with_reducible exact List.prefix_refl _
    | with_reducible refine Keeps.ite ?_ ?_
    | with_reducible refine State.cacheMiss_keeps _ _ _ _ _ ?_
    | with_reducible refine State.badLine_keeps _ _ _ _ _ ?_
    | with_reducible refine State.countHit_keeps _ _ _ ?_
    | with_reducible refine State.putCore_keeps _ _ _ _ ?_
    | with_reducible refine State.landRead_keeps _ _ _ _ _ ?_
    | with_reducible refine State.noteAcc_keeps _ _ _ _ ?_
    | split
    | dsimp only

theorem State.readPiece_keeps (s0 s a1 a2 a3 a4) (h : Keeps s0 s) :
    Keeps s0 (State.readPiece s a1 a2 a3 a4) := by
  unfold State.readPiece
  repeat' first
    | with_reducible assumption
    | with_reducible refine Keeps.getD ?_ ?_
    | with_reducible refine Keeps.ofSome (by assumption) ?_
    | with_reducible refine Keeps.ite ?_ ?_
    | with_reducible refine State.readCached_keeps _ _ _ _ _ ?_
    | with_reducible refine State.takeTracker_keeps _ _ _ _ _ _ ?_
    | with_reducible refine State.keepLine_keeps _ _ _ _ ?_

theorem State.writePiece_keeps (s0 s a1 a2 a3 a4) (h : Keeps s0 s) :
    Keeps s0 (State.writePiece s a1 a2 a3 a4) := by
  unfold State.writePiece
  repeat' first
    | with_reducible assumption
    | with_reducible refine Keeps.ite ?_ ?_
    | with_reducible refine State.keepLine_keeps _ _ _ _ ?_
    | with_reducible refine State.dropLine_keeps _ _ _ _ ?_
    | with_reducible refine State.putCore_keeps _ _ _ _ ?_

theorem State.sendXlt_keeps (s0 s a1 a2 a3 a4 a5) (h : Keeps s0 s) :
    Keeps s0 (State.sendXlt s a1 a2 a3 a4 a5) := by
  cases a5 with
  | bad k => exact State.xltStop_keeps _ _ _ _ _ _ _ _ _ _ h
  | ok pa =>
    exact Keeps.ite (State.writePiece_keeps _ _ _ _ _ _ (State.putCore_keeps _ _ _ _ h))
      (State.readPiece_keeps _ _ _ _ _ _ (State.putCore_keeps _ _ _ _ h))

theorem State.sendLocal_keeps (s0 s a1 a2 a3) (h : Keeps s0 s) :
    Keeps s0 (State.sendLocal s a1 a2 a3) := by
  unfold State.sendLocal
  repeat' first
    | with_reducible assumption
    | with_reducible exact Nat.le_refl _
    | with_reducible exact Nat.le_add_right _ _
    | with_reducible exact List.prefix_refl _
    | with_reducible refine Keeps.ite ?_ ?_
    | with_reducible refine State.xltStop_keeps _ _ _ _ _ _ _ _ _ _ ?_
    | with_reducible refine State.putCore_keeps _ _ _ _ ?_
    | with_reducible refine State.enterUrgent_keeps _ _ _ _ _ ?_
    | with_reducible refine State.countXltMiss_keeps _ _ _ ?_
    | with_reducible refine State.keepLine_keeps _ _ _ _ ?_
    | with_reducible refine State.sendXlt_keeps _ _ _ _ _ _ _ ?_
    | split
    | dsimp only

theorem State.sendRemote_keeps (s0 s a1 a2 a3) (h : Keeps s0 s) :
    Keeps s0 (State.sendRemote s a1 a2 a3) := by
  unfold State.sendRemote
  repeat' first
    | with_reducible assumption
    | with_reducible refine Keeps.ite ?_ ?_
    | with_reducible refine State.stageUnit_keeps _ _ _ _ _ ?_
    | with_reducible refine State.askCredits_keeps _ _ _ _ ?_
    | with_reducible refine State.keepLine_keeps _ _ _ _ ?_
    | with_reducible refine State.takeTracker_keeps _ _ _ _ _ _ ?_
    | with_reducible refine State.sendWindowRead_keeps _ _ _ _ _ _ ?_
    | with_reducible refine State.putCore_keeps _ _ _ _ ?_
    | with_reducible refine State.sendWindowWrite_keeps _ _ _ _ _ _ ?_
    | with_reducible refine Keeps.ofSome (by assumption) ?_
    | with_reducible refine Keeps.getD ?_ ?_
    | split

theorem State.sendPiece_keeps (s0 s a1 a2) (h : Keeps s0 s) :
    Keeps s0 (State.sendPiece s a1 a2) := by
  unfold State.sendPiece
  repeat' first
    | with_reducible assumption
    | with_reducible refine Keeps.ite ?_ ?_
    | with_reducible refine State.sendLocal_keeps _ _ _ _ _ ?_
    | with_reducible refine State.sendRemote_keeps _ _ _ _ _ ?_
    | split

theorem State.pumpOnce_keeps (s0 s a1) (h : Keeps s0 s) :
    Keeps s0 (State.pumpOnce s a1) := by
  unfold State.pumpOnce
  repeat' first
    | with_reducible assumption
    | with_reducible refine State.sendPiece_keeps _ _ _ _ ?_
    | with_reducible refine State.putCore_keeps _ _ _ _ ?_
    | with_reducible refine Keeps.foldl (fun _ _ _ => ?_) ?_

theorem State.goOn_keeps (s0 a0 s a2) (h : Keeps s0 s) :
    Keeps s0 (State.goOn a0 s a2) := by
  induction a0 generalizing s with
  | zero => exact h
  | succ n ih =>
    have k := State.pumpOnce_keeps _ _ a2 h
    unfold State.goOn
    dsimp only
    split
    · exact k
    · exact ih _ (Keeps.ofSome (by assumption) (State.sendNext_keeps _ _ _ k))

theorem State.settle_keeps (s0 s) (h : Keeps s0 s) :
    Keeps s0 (State.settle s) := by
  unfold State.settle
  repeat' first
    | with_reducible assumption
    | with_reducible refine Keeps.ite ?_ ?_
    | with_reducible refine State.registerBlocks_keeps _ _ _ ?_
    | with_reducible refine State.goOn_keeps _ _ _ _ ?_
    | with_reducible refine Keeps.foldl (fun _ _ _ => ?_) ?_

theorem State.pumpCore_keeps (s0 s a1) (h : Keeps s0 s) :
    Keeps s0 (State.pumpCore s a1) := by
  unfold State.pumpCore
  repeat' first
    | with_reducible assumption
    | with_reducible refine Keeps.ite ?_ ?_
    | with_reducible refine State.registerBlocks_keeps _ _ _ ?_
    | with_reducible refine State.goOn_keeps _ _ _ _ ?_
    | with_reducible refine State.settle_keeps _ _ ?_

theorem State.dropTracker_keeps (s0 s a1 a2) (h : Keeps s0 s) :
    Keeps s0 (State.dropTracker s a1 a2) := by
  unfold State.dropTracker
  repeat' first
    | with_reducible assumption
    | with_reducible refine State.putCore_keeps _ _ _ _ ?_

theorem State.dropLate_keeps (s0 s a1 a2 a3) (h : Keeps s0 s) :
    Keeps s0 (State.dropLate s a1 a2 a3) := by
  unfold State.dropLate
  repeat' first
    | with_reducible assumption
    | with_reducible refine Keeps.ite ?_ ?_
    | with_reducible refine State.putCore_keeps _ _ _ _ ?_

theorem State.readData_keeps (s0 s a1 a2 a3) (h : Keeps s0 s) :
    Keeps s0 (State.readData s a1 a2 a3) := by
  unfold State.readData
  repeat' first
    | with_reducible assumption
    | with_reducible refine Keeps.ofId ?_
    | with_reducible refine Keeps.ite ?_ ?_
    | with_reducible refine State.ueStop_keeps _ _ _ _ _ _ _ _ _ _ ?_
    | with_reducible refine State.correct_keeps _ _ _ _ ?_
    | with_reducible refine State.dropTracker_keeps _ _ _ _ ?_
    | with_reducible refine State.landRead_keeps _ _ _ _ _ ?_
    | with_reducible refine State.antCapture_keeps _ _ _ _ ?_
    | with_reducible refine State.pumpCore_keeps _ _ _ ?_
    | split
    | dsimp only

theorem State.requestFault_keeps (s0 s a1 a2 a3) (h : Keeps s0 s) :
    Keeps s0 (State.requestFault s a1 a2 a3) := by
  unfold State.requestFault
  repeat' first
    | with_reducible assumption
    | with_reducible refine Keeps.ite ?_ ?_
    | with_reducible refine State.streamStop_keeps _ _ _ _ _ _ _ _ _ _ ?_
    | split

theorem execStreamReadResponse_keeps (s0 a0 a1 a2 a3 s) (h : Keeps s0 s) :
    KeepsRes s0 (execStreamReadResponse a0 a1 a2 a3 s) := by
  unfold execStreamReadResponse
  repeat' first
    | with_reducible assumption
    | with_reducible refine KeepsRes.next ?_
    | with_reducible refine Keeps.ite ?_ ?_
    | with_reducible refine State.dropLate_keeps _ _ _ _ _ ?_
    | with_reducible refine State.pumpCore_keeps _ _ _ ?_
    | with_reducible refine State.requestFault_keeps _ _ _ _ _ ?_
    | with_reducible refine State.dropTracker_keeps _ _ _ _ ?_
    | with_reducible refine State.readData_keeps _ _ _ _ _ ?_
    | split

theorem execStrmRespTimeout_keeps (s0 a0 a1 s) (h : Keeps s0 s) :
    KeepsRes s0 (execStrmRespTimeout a0 a1 s) := by
  unfold execStrmRespTimeout
  repeat' first
    | with_reducible assumption
    | with_reducible refine KeepsRes.next ?_
    | with_reducible refine Keeps.ite ?_ ?_
    | with_reducible refine State.requestFault_keeps _ _ _ _ _ ?_

theorem execStreamCancel_keeps (s0 a0 s) (h : Keeps s0 s) :
    KeepsRes s0 (execStreamCancel a0 s) := by
  unfold execStreamCancel
  repeat' first
    | with_reducible assumption
    | with_reducible refine KeepsRes.next ?_
    | with_reducible refine State.settle_keeps _ _ ?_
    | with_reducible refine State.cancelAll_keeps _ _ _ ?_

theorem State.fillLine_keeps (s0 s a1 a2) (h : Keeps s0 s) :
    Keeps s0 (State.fillLine s a1 a2) := by
  unfold State.fillLine
  repeat' first
    | with_reducible assumption
    | with_reducible exact Nat.le_refl _
    | with_reducible exact Nat.le_add_right _ _
    | with_reducible exact List.prefix_refl _
    | with_reducible refine Keeps.ite ?_ ?_
    | with_reducible refine State.putCore_keeps _ _ _ _ ?_
    | with_reducible refine State.pumpCore_keeps _ _ _ ?_
    | with_reducible refine State.land_keeps _ _ _ _ _ _ ?_

theorem State.badFill_keeps (s0 s a1 a2 a3) (h : Keeps s0 s) :
    Keeps s0 (State.badFill s a1 a2 a3) := by
  unfold State.badFill
  repeat' first
    | with_reducible assumption
    | with_reducible refine Keeps.ite ?_ ?_
    | with_reducible refine State.noteUe_keeps _ _ _ _ ?_
    | with_reducible refine State.countMiss_keeps _ _ _ ?_
    | with_reducible refine State.noteParity_keeps _ _ _ _ _ _ ?_
    | with_reducible refine State.used_keeps _ _ ?_
    | with_reducible refine State.parityBudget_keeps _ _ _ _ ?_
    | with_reducible refine State.ueBudget_keeps _ _ _ ?_

theorem execCacheFill_keeps (s0 a0 a1 s) (h : Keeps s0 s) :
    KeepsRes s0 (execCacheFill a0 a1 s) := by
  unfold execCacheFill
  repeat' first
    | with_reducible assumption
    | with_reducible refine KeepsRes.next ?_
    | with_reducible refine Keeps.ite ?_ ?_
    | with_reducible refine State.badFill_keeps _ _ _ _ _ ?_
    | with_reducible refine State.correct_keeps _ _ _ _ ?_
    | with_reducible refine State.fillLine_keeps _ _ _ _ ?_
    | split

theorem State.landWrite_keeps (s0 s a1 a2) (h : Keeps s0 s) :
    Keeps s0 (State.landWrite s a1 a2) := by
  unfold State.landWrite
  repeat' first
    | with_reducible assumption
    | with_reducible refine Keeps.ite ?_ ?_
    | with_reducible refine State.setBits_keeps _ _ _ _ _ _ ?_
    | with_reducible refine State.dropLine_keeps _ _ _ _ ?_
    | with_reducible refine State.putCtx_keeps _ _ _ _ ?_

theorem State.writeAcked_keeps (s0 s a1) (h : Keeps s0 s) :
    Keeps s0 (State.writeAcked s a1) := by
  unfold State.writeAcked
  repeat' first
    | with_reducible assumption
    | with_reducible refine Keeps.ite ?_ ?_
    | with_reducible refine State.putCore_keeps _ _ _ _ ?_
    | with_reducible refine State.landWrite_keeps _ _ _ _ ?_
    | with_reducible refine State.pumpCore_keeps _ _ _ ?_
    | split

theorem State.endWalkUe_keeps (s0 s a1 a2 a3) (h : Keeps s0 s) :
    Keeps s0 (State.endWalkUe s a1 a2 a3) := by
  unfold State.endWalkUe
  repeat' first
    | with_reducible assumption
    | with_reducible refine Keeps.ite ?_ ?_
    | with_reducible refine State.ueStop_keeps _ _ _ _ _ _ _ _ _ _ ?_
    | with_reducible refine State.noteUe_keeps _ _ _ _ ?_
    | split

theorem State.walkFound_keeps (s0 s a1 a2 a3 a4) (h : Keeps s0 s) :
    Keeps s0 (State.walkFound s a1 a2 a3 a4) := by
  cases a4 with
  | ok e => exact State.pumpCore_keeps _ _ _ (State.putCore_keeps _ _ _ _ h)
  | bad k =>
    cases a3 with
    | none => exact h
    | some w => exact State.xltStop_keeps _ _ _ _ _ _ _ _ _ _ h

theorem State.walkDone_keeps (s0 s a1 a2 a3 a4 a5) (h : Keeps s0 s) :
    Keeps s0 (State.walkDone s a1 a2 a3 a4 a5) := by
  cases a5 with
  | some a => exact State.endWalkUe_keeps _ _ _ _ _ h
  | none => exact State.walkFound_keeps _ _ _ _ _ _ h

theorem State.endWalk_keeps (s0 s a1 a2 a3) (h : Keeps s0 s) :
    Keeps s0 (State.endWalk s a1 a2 a3) := by
  unfold State.endWalk
  repeat' first
    | with_reducible assumption
    | with_reducible exact Nat.le_refl _
    | with_reducible exact Nat.le_add_right _ _
    | with_reducible exact List.prefix_refl _
    | with_reducible refine Keeps.ite ?_ ?_
    | with_reducible refine State.putCore_keeps _ _ _ _ ?_
    | with_reducible refine State.correctAll_keeps _ _ _ ?_
    | with_reducible refine State.walkDone_keeps _ _ _ _ _ _ _ ?_

theorem execTableWalk_keeps (s0 a0 s) (h : Keeps s0 s) :
    KeepsRes s0 (execTableWalk a0 s) := by
  unfold execTableWalk
  repeat' first
    | with_reducible assumption
    | with_reducible refine KeepsRes.next ?_
    | with_reducible refine Keeps.ite ?_ ?_
    | with_reducible refine State.putCore_keeps _ _ _ _ ?_
    | with_reducible refine State.pumpCore_keeps _ _ _ ?_
    | with_reducible refine State.endWalk_keeps _ _ _ _ _ ?_
    | split

theorem State.antLand_keeps (s0 s a1 a2 a3 a4) (h : Keeps s0 s) :
    Keeps s0 (State.antLand s a1 a2 a3 a4) := by
  unfold State.antLand
  repeat' first
    | with_reducible assumption
    | with_reducible exact Nat.le_refl _
    | with_reducible exact Nat.le_add_right _ _
    | with_reducible exact List.prefix_refl _
    | with_reducible refine Keeps.ite ?_ ?_
    | with_reducible refine State.arriveWrite_keeps _ _ _ _ _ ?_
    | with_reducible refine State.bump_keeps _ _ _ _ _ ?_
    | with_reducible refine State.putAnt_keeps _ _ _ _ ?_

theorem State.antRow__keeps (s0 s a1 a2 a3 a4) (h : Keeps s0 s) :
    Keeps s0 (State.antRow_ s a1 a2 a3 a4) := by
  unfold State.antRow_
  repeat' first
    | with_reducible assumption
    | with_reducible exact Nat.le_refl _
    | with_reducible exact Nat.le_add_right _ _
    | with_reducible exact List.prefix_refl _
    | with_reducible refine Keeps.ite ?_ ?_
    | with_reducible refine State.antLand_keeps _ _ _ _ _ _ ?_
    | with_reducible refine State.putAnt_keeps _ _ _ _ ?_
    | with_reducible refine Keeps.foldl (fun _ _ _ => ?_) ?_
    | with_reducible refine Keeps.foldPair (fun _ _ _ => ?_) ?_

theorem execAntRowArrival_keeps (s0 a0 a1 a2 s) (h : Keeps s0 s) :
    KeepsRes s0 (execAntRowArrival a0 a1 a2 s) := by
  unfold execAntRowArrival
  repeat' first
    | with_reducible assumption
    | with_reducible refine KeepsRes.next ?_
    | with_reducible refine Keeps.ite ?_ ?_
    | with_reducible refine State.streamStop_keeps _ _ _ _ _ _ _ _ _ _ ?_
    | with_reducible refine State.antRow__keeps _ _ _ _ _ _ ?_
    | split

end Sys2Proof.Machine
end

