-- ==== Sys2Proof/Laws/KeepsEngine.lean ====
section
/-!
SUPPORT. What the operations of Engine keep of a state.
-/
namespace Sys2Proof.Machine

theorem State.putRun_keeps (s0 s a1 a2 a3) (h : Keeps s0 s) :
    Keeps s0 (State.putRun s a1 a2 a3) := by
  unfold State.putRun
  repeat' first
    | with_reducible assumption
    | with_reducible refine Keeps.ite ?_ ?_
    | with_reducible refine State.putCore_keeps _ _ _ _ ?_
    | with_reducible refine State.markSent_keeps _ _ _ _ ?_
    | with_reducible refine State.pumpCore_keeps _ _ _ ?_

theorem State.inst_keeps (s0 s a1 a2 a3) (k3 : ∀ t x0, Keeps s0 t → Keeps s0 (a3 t x0)) (h : Keeps s0 s) :
    Keeps s0 (State.inst s a1 a2 a3) := by
  unfold State.inst
  repeat' first
    | with_reducible assumption
    | with_reducible refine Keeps.ite ?_ ?_
    | with_reducible refine State.streamError_keeps _ _ _ _ _ _ _ ?_
    | with_reducible refine k3 _ _ ?_
    | split

theorem State.instReg_keeps (s0 s a1 a2 a3) (h : Keeps s0 s) :
    Keeps s0 (State.instReg s a1 a2 a3) := by
  unfold State.instReg
  repeat' first
    | with_reducible assumption
    | with_reducible refine State.inst_keeps _ _ _ _ _ (fun _ _ _ => ?_) ?_
    | with_reducible refine State.putRun_keeps _ _ _ _ _ ?_

theorem execStreamEnd_keeps (s0 a0 s) (h : Keeps s0 s) :
    KeepsRes s0 (execStreamEnd a0 s) := by
  unfold execStreamEnd
  repeat' first
    | with_reducible assumption
    | with_reducible refine KeepsRes.next ?_
    | with_reducible refine State.inst_keeps _ _ _ _ _ (fun _ _ _ => ?_) ?_
    | with_reducible refine State.putRun_keeps _ _ _ _ _ ?_

theorem execSeti_keeps (s0 a0 s) (h : Keeps s0 s) :
    KeepsRes s0 (execSeti a0 s) := by
  unfold execSeti
  repeat' first
    | with_reducible assumption
    | with_reducible refine KeepsRes.next ?_
    | with_reducible refine State.instReg_keeps _ _ _ _ _ ?_

theorem execAddi_keeps (s0 a0 s) (h : Keeps s0 s) :
    KeepsRes s0 (execAddi a0 s) := by
  unfold execAddi
  repeat' first
    | with_reducible assumption
    | with_reducible refine KeepsRes.next ?_
    | with_reducible refine State.instReg_keeps _ _ _ _ _ ?_

theorem execMuli_keeps (s0 a0 s) (h : Keeps s0 s) :
    KeepsRes s0 (execMuli a0 s) := by
  unfold execMuli
  repeat' first
    | with_reducible assumption
    | with_reducible refine KeepsRes.next ?_
    | with_reducible refine State.instReg_keeps _ _ _ _ _ ?_

theorem execAndi_keeps (s0 a0 s) (h : Keeps s0 s) :
    KeepsRes s0 (execAndi a0 s) := by
  unfold execAndi
  repeat' first
    | with_reducible assumption
    | with_reducible refine KeepsRes.next ?_
    | with_reducible refine State.instReg_keeps _ _ _ _ _ ?_

theorem execShri_keeps (s0 a0 s) (h : Keeps s0 s) :
    KeepsRes s0 (execShri a0 s) := by
  unfold execShri
  repeat' first
    | with_reducible assumption
    | with_reducible refine KeepsRes.next ?_
    | with_reducible refine State.instReg_keeps _ _ _ _ _ ?_

theorem execAdd_keeps (s0 a0 s) (h : Keeps s0 s) :
    KeepsRes s0 (execAdd a0 s) := by
  unfold execAdd
  repeat' first
    | with_reducible assumption
    | with_reducible refine KeepsRes.next ?_
    | with_reducible refine State.instReg_keeps _ _ _ _ _ ?_

theorem execSub_keeps (s0 a0 s) (h : Keeps s0 s) :
    KeepsRes s0 (execSub a0 s) := by
  unfold execSub
  repeat' first
    | with_reducible assumption
    | with_reducible refine KeepsRes.next ?_
    | with_reducible refine State.instReg_keeps _ _ _ _ _ ?_

theorem execMul_keeps (s0 a0 s) (h : Keeps s0 s) :
    KeepsRes s0 (execMul a0 s) := by
  unfold execMul
  repeat' first
    | with_reducible assumption
    | with_reducible refine KeepsRes.next ?_
    | with_reducible refine State.instReg_keeps _ _ _ _ _ ?_

theorem execLdc_keeps (s0 a0 s) (h : Keeps s0 s) :
    KeepsRes s0 (execLdc a0 s) := by
  unfold execLdc
  repeat' first
    | with_reducible assumption
    | with_reducible refine KeepsRes.next ?_
    | with_reducible refine State.inst_keeps _ _ _ _ _ (fun _ _ _ => ?_) ?_
    | with_reducible refine State.putRun_keeps _ _ _ _ _ ?_

theorem execLdp_keeps (s0 a0 s) (h : Keeps s0 s) :
    KeepsRes s0 (execLdp a0 s) := by
  unfold execLdp
  repeat' first
    | with_reducible assumption
    | with_reducible refine KeepsRes.next ?_
    | with_reducible refine State.instReg_keeps _ _ _ _ _ ?_

theorem execLoopOp_keeps (s0 a0 s) (h : Keeps s0 s) :
    KeepsRes s0 (execLoopOp a0 s) := by
  unfold execLoopOp
  repeat' first
    | with_reducible assumption
    | with_reducible refine KeepsRes.next ?_
    | with_reducible refine Keeps.ite ?_ ?_
    | with_reducible refine State.inst_keeps _ _ _ _ _ (fun _ _ _ => ?_) ?_
    | with_reducible refine State.putRun_keeps _ _ _ _ _ ?_

theorem execEndl_keeps (s0 a0 s) (h : Keeps s0 s) :
    KeepsRes s0 (execEndl a0 s) := by
  unfold execEndl
  repeat' first
    | with_reducible assumption
    | with_reducible refine KeepsRes.next ?_
    | with_reducible refine Keeps.ite ?_ ?_
    | with_reducible refine State.inst_keeps _ _ _ _ _ (fun _ _ _ => ?_) ?_
    | with_reducible refine State.putRun_keeps _ _ _ _ _ ?_

theorem execJge_keeps (s0 a0 s) (h : Keeps s0 s) :
    KeepsRes s0 (execJge a0 s) := by
  unfold execJge
  repeat' first
    | with_reducible assumption
    | with_reducible refine KeepsRes.next ?_
    | with_reducible refine Keeps.ite ?_ ?_
    | with_reducible refine State.inst_keeps _ _ _ _ _ (fun _ _ _ => ?_) ?_
    | with_reducible refine State.putRun_keeps _ _ _ _ _ ?_

theorem execEmit_keeps (s0 a0 s) (h : Keeps s0 s) :
    KeepsRes s0 (execEmit a0 s) := by
  unfold execEmit
  repeat' first
    | with_reducible assumption
    | with_reducible refine KeepsRes.next ?_
    | with_reducible refine Keeps.ite ?_ ?_
    | with_reducible refine State.inst_keeps _ _ _ _ _ (fun _ _ _ => ?_) ?_
    | with_reducible refine State.streamError_keeps _ _ _ _ _ _ _ ?_
    | with_reducible refine State.moveBlock_keeps _ _ _ _ _ _ ?_
    | with_reducible refine State.pumpCore_keeps _ _ _ ?_
    | with_reducible refine State.putRun_keeps _ _ _ _ _ ?_

theorem State.opDone_keeps (s0 s a1 a2) (h : Keeps s0 s) :
    Keeps s0 (State.opDone s a1 a2) := by
  unfold State.opDone
  repeat' first
    | with_reducible assumption
    | with_reducible refine Keeps.ite ?_ ?_
    | with_reducible refine State.putCore_keeps _ _ _ _ ?_

theorem State.skipPosition_keeps (s0 s a1 a2 a3 a4) (h : Keeps s0 s) :
    Keeps s0 (State.skipPosition s a1 a2 a3 a4) := by
  unfold State.skipPosition
  repeat' first
    | with_reducible assumption
    | with_reducible refine State.putCore_keeps _ _ _ _ ?_
    | with_reducible refine State.modGrant_keeps _ _ _ _ _ ?_
    | with_reducible refine State.countSkips_keeps _ _ _ _ ?_
    | split
    | dsimp only

theorem State.maskLoaded_keeps (s0 s a1 a2 a3 a4) (h : Keeps s0 s) :
    Keeps s0 (State.maskLoaded s a1 a2 a3 a4) := by
  unfold State.maskLoaded
  repeat' first
    | with_reducible assumption
    | with_reducible exact Nat.le_refl _
    | with_reducible exact Nat.le_add_right _ _
    | with_reducible exact List.prefix_refl _
    | with_reducible refine Keeps.ite ?_ ?_
    | with_reducible refine State.parityStop_keeps _ _ _ _ _ _ _ _ ?_
    | with_reducible refine State.skipPosition_keeps _ _ _ _ _ _ ?_
    | with_reducible refine State.modGrant_keeps _ _ _ _ _ ?_
    | with_reducible refine State.putCore_keeps _ _ _ _ ?_

theorem State.opEnds_keeps (s0 s a1 a2) (a3 : State → Nat → Grant → State)
    (k : ∀ t x g, Keeps s0 t → Keeps s0 (a3 t x g)) (h : Keeps s0 s) : Keeps s0 (State.opEnds s a1 a2 a3) := by
  have d := State.opDone_keeps _ _ a1 a2 h
  unfold State.opEnds
  dsimp only
  split
  · exact d
  · split
    · exact d
    · exact k _ _ _ d

theorem execLoadComplete_keeps (s0 a0 s) (h : Keeps s0 s) :
    KeepsRes s0 (execLoadComplete a0 s) := by
  unfold execLoadComplete
  repeat' first
    | with_reducible assumption
    | with_reducible refine KeepsRes.next ?_
    | with_reducible refine State.opEnds_keeps _ _ _ _ _ (fun _ _ _ _ => ?_) ?_
    | with_reducible refine Keeps.ite ?_ ?_
    | with_reducible refine State.maskLoaded_keeps _ _ _ _ _ _ ?_
    | with_reducible refine State.pumpCore_keeps _ _ _ ?_
    | split

theorem State.dropLines_keeps (s0 s a1 a2) (h : Keeps s0 s) :
    Keeps s0 (State.dropLines s a1 a2) := by
  unfold State.dropLines
  repeat' first
    | with_reducible assumption
    | with_reducible refine Keeps.ite ?_ ?_
    | with_reducible refine State.dropLine_keeps _ _ _ _ ?_
    | with_reducible refine Keeps.foldl (fun _ _ _ => ?_) ?_

theorem execStoreComplete_keeps (s0 a0 s) (h : Keeps s0 s) :
    KeepsRes s0 (execStoreComplete a0 s) := by
  unfold execStoreComplete
  repeat' first
    | with_reducible assumption
    | with_reducible refine KeepsRes.next ?_
    | with_reducible refine State.opEnds_keeps _ _ _ _ _ (fun _ _ _ _ => ?_) ?_
    | with_reducible refine Keeps.ite ?_ ?_
    | with_reducible refine State.dropLines_keeps _ _ _ _ ?_
    | with_reducible refine State.closeSlot_keeps _ _ _ _ _ _ ?_
    | with_reducible refine State.pumpCore_keeps _ _ _ ?_
    | split

theorem State.invalidateXlt_keeps (s0 s a1 a2) (h : Keeps s0 s) :
    Keeps s0 (State.invalidateXlt s a1 a2) := by
  unfold State.invalidateXlt
  repeat' first
    | with_reducible assumption
    | with_reducible refine Keeps.ite ?_ ?_
    | with_reducible refine State.putCore_keeps _ _ _ _ ?_

theorem execXltInvalidate_keeps (s0 a0 a1 s) (h : Keeps s0 s) :
    KeepsRes s0 (execXltInvalidate a0 a1 s) := by
  unfold execXltInvalidate
  repeat' first
    | with_reducible assumption
    | with_reducible refine KeepsRes.next ?_
    | with_reducible refine Keeps.ite ?_ ?_
    | with_reducible refine State.invalidateXlt_keeps _ _ _ _ ?_

theorem execInvalidate_keeps (s0 a0 s) (h : Keeps s0 s) :
    KeepsRes s0 (execInvalidate a0 s) := by
  unfold execInvalidate
  repeat' first
    | with_reducible assumption
    | with_reducible refine KeepsRes.next ?_
    | with_reducible refine Keeps.ite ?_ ?_
    | with_reducible refine State.flushCache_keeps _ _ _ ?_
    | with_reducible refine State.pumpCore_keeps _ _ _ ?_

end Sys2Proof.Machine
end

