-- ==== Sys2Proof/Laws/KeepsProduct.lean ====
section
/-!
SUPPORT. What the operations of Product keep of a state.
-/
namespace Sys2Proof.Machine

theorem State.rowStop_keeps (s0 s a1 a2 a3 a4 a5 a6) (h : Keeps s0 s) :
    Keeps s0 (State.rowStop s a1 a2 a3 a4 a5 a6) := by
  unfold State.rowStop
  repeat' first
    | with_reducible assumption
    | with_reducible refine Keeps.ite ?_ ?_
    | with_reducible refine State.errorStop_keeps _ _ _ _ _ _ _ _ _ _ _ ?_

theorem State.doMatch_keeps (s0 s a1 a2 a3 a4) (h : Keeps s0 s) :
    Keeps s0 (State.doMatch s a1 a2 a3 a4) := by
  unfold State.doMatch
  repeat' first
    | with_reducible assumption
    | with_reducible exact Nat.le_refl _
    | with_reducible exact Nat.le_add_right _ _
    | with_reducible exact List.prefix_refl _
    | with_reducible refine Keeps.ite ?_ ?_
    | with_reducible refine State.modGrant_keeps _ _ _ _ _ ?_
    | with_reducible refine State.issued_keeps _ _ _ _ _ _ ?_
    | with_reducible refine State.parityStop_keeps _ _ _ _ _ _ _ _ ?_
    | with_reducible refine State.rowStop_keeps _ _ _ _ _ _ _ _ ?_
    | with_reducible refine State.countPasses_keeps _ _ _ ?_
    | with_reducible refine State.noteAcc_keeps _ _ _ _ ?_
    | with_reducible refine Keeps.elim ?_ (fun _ => ?_)
    | split
    | dsimp only

theorem execMatchOp_keeps (s0 a0 a1 a2 s) (h : Keeps s0 s) :
    KeepsRes s0 (execMatchOp a0 a1 a2 s) := by
  unfold execMatchOp
  repeat' first
    | with_reducible assumption
    | with_reducible refine KeepsRes.next ?_
    | with_reducible refine State.issue_keeps _ _ _ _ _ _ _ (fun _ _ _ => ?_) ?_
    | with_reducible refine State.doMatch_keeps _ _ _ _ _ _ ?_

theorem State.countScarab_keeps (s0 s a1 a2) (h : Keeps s0 s) :
    Keeps s0 (State.countScarab s a1 a2) := by
  unfold State.countScarab
  repeat' first
    | with_reducible assumption
    | with_reducible refine State.bump_keeps _ _ _ _ _ ?_

theorem State.product_keeps (s0 s a1 a2 a3 a4 a5 a6 a7) (h : Keeps s0 s) :
    Keeps s0 (State.product s a1 a2 a3 a4 a5 a6 a7) := by
  unfold State.product
  repeat' first
    | with_reducible assumption
    | with_reducible exact Nat.le_refl _
    | with_reducible exact Nat.le_add_right _ _
    | with_reducible exact List.prefix_refl _
    | with_reducible refine Keeps.ite ?_ ?_
    | with_reducible refine State.parityStop_keeps _ _ _ _ _ _ _ _ ?_
    | with_reducible refine State.putAcc_keeps _ _ _ _ _ ?_
    | with_reducible refine State.countScarab_keeps _ _ _ _ ?_
    | with_reducible refine State.issued_keeps _ _ _ _ _ _ ?_
    | with_reducible refine State.countPasses_keeps _ _ _ ?_
    | with_reducible refine State.noteAcc_keeps _ _ _ _ ?_

theorem State.doMma_keeps (s0 s a1 a2 a3 a4) (h : Keeps s0 s) :
    Keeps s0 (State.doMma s a1 a2 a3 a4) := by
  unfold State.doMma
  repeat' first
    | with_reducible assumption
    | with_reducible refine Keeps.ite ?_ ?_
    | with_reducible refine State.parityStop_keeps _ _ _ _ _ _ _ _ ?_
    | with_reducible refine State.readUp_keeps _ _ _ _ _ ?_
    | with_reducible refine State.noteAcc_keeps _ _ _ _ ?_
    | with_reducible refine State.stopBy_keeps _ _ _ _ _ _ _ _ _ _ ?_
    | with_reducible refine State.product_keeps _ _ _ _ _ _ _ _ _ ?_
    | split
    | dsimp only

theorem execMma_keeps (s0 a0 a1 a2 s) (h : Keeps s0 s) :
    KeepsRes s0 (execMma a0 a1 a2 s) := by
  unfold execMma
  repeat' first
    | with_reducible assumption
    | with_reducible refine KeepsRes.next ?_
    | with_reducible refine Keeps.ite ?_ ?_
    | with_reducible refine State.issue_keeps _ _ _ _ _ _ _ (fun _ _ _ => ?_) ?_
    | with_reducible refine State.doMma_keeps _ _ _ _ _ _ ?_

theorem execMma2_keeps (s0 a0 a1 a2 s) (h : Keeps s0 s) :
    KeepsRes s0 (execMma2 a0 a1 a2 s) := by
  unfold execMma2
  repeat' first
    | with_reducible assumption
    | with_reducible refine KeepsRes.next ?_
    | with_reducible refine State.issue_keeps _ _ _ _ _ _ _ (fun _ _ _ => ?_) ?_
    | with_reducible refine State.product_keeps _ _ _ _ _ _ _ _ _ ?_

theorem State.countNonfin_keeps (s0 s a1 a2 a3 a4) (h : Keeps s0 s) :
    Keeps s0 (State.countNonfin s a1 a2 a3 a4) := by
  unfold State.countNonfin
  repeat' first
    | with_reducible assumption
    | with_reducible exact Nat.le_refl _
    | with_reducible exact Nat.le_add_right _ _
    | with_reducible exact List.prefix_refl _
    | with_reducible refine Keeps.ite ?_ ?_
    | with_reducible refine State.bump_keeps _ _ _ _ _ ?_
    | with_reducible refine State.modGrant_keeps _ _ _ _ _ ?_

theorem State.rescale_keeps (s0 s a1 a2 a3) (h : Keeps s0 s) :
    Keeps s0 (State.rescale s a1 a2 a3) := by
  unfold State.rescale
  repeat' first
    | with_reducible assumption
    | with_reducible exact Nat.le_refl _
    | with_reducible exact Nat.le_add_right _ _
    | with_reducible exact List.prefix_refl _
    | with_reducible refine Keeps.ite ?_ ?_
    | with_reducible refine State.putAcc_keeps _ _ _ _ _ ?_

theorem State.doRowfn_keeps (s0 s a1 a2 a3 a4) (h : Keeps s0 s) :
    Keeps s0 (State.doRowfn s a1 a2 a3 a4) := by
  unfold State.doRowfn
  repeat' first
    | with_reducible assumption
    | with_reducible exact Nat.le_refl _
    | with_reducible exact Nat.le_add_right _ _
    | with_reducible exact List.prefix_refl _
    | with_reducible refine Keeps.ite ?_ ?_
    | with_reducible refine State.parityStop_keeps _ _ _ _ _ _ _ _ ?_
    | with_reducible refine State.countNonfin_keeps _ _ _ _ _ _ ?_
    | with_reducible refine State.noteAcc_keeps _ _ _ _ ?_
    | with_reducible refine State.addMasses_keeps _ _ _ _ ?_
    | with_reducible refine State.modGrant_keeps _ _ _ _ _ ?_
    | with_reducible refine State.issued_keeps _ _ _ _ _ _ ?_
    | with_reducible refine State.countConv_keeps _ _ _ _ _ ?_
    | with_reducible refine State.landAt_keeps _ _ _ _ _ ?_
    | with_reducible refine State.rescale_keeps _ _ _ _ _ ?_

theorem execRowfn_keeps (s0 a0 a1 a2 s) (h : Keeps s0 s) :
    KeepsRes s0 (execRowfn a0 a1 a2 s) := by
  unfold execRowfn
  repeat' first
    | with_reducible assumption
    | with_reducible refine KeepsRes.next ?_
    | with_reducible refine State.issue_keeps _ _ _ _ _ _ _ (fun _ _ _ => ?_) ?_
    | with_reducible refine State.doRowfn_keeps _ _ _ _ _ _ ?_

end Sys2Proof.Machine
end

