-- ==== Sys2Proof/Laws/KeepsDrain.lean ====
section
/-!
SUPPORT. What the operations of Drain keep of a state.
-/
namespace Sys2Proof.Machine

theorem State.putVa_keeps (s0 s a1 a2 a3 a4) (h : Keeps s0 s) :
    KeepsChk s0 (State.putVa s a1 a2 a3 a4) := by
  unfold State.putVa
  repeat' first
    | with_reducible assumption
    | exact KeepsChk.error
    | with_reducible refine KeepsChk.ok ?_
    | with_reducible refine KeepsChk.pure ?_
    | with_reducible refine KeepsChk.mapState ?_ (fun _ _ => ?_)
    | with_reducible refine KeepsChk.map (fun _ => ?_)
    | with_reducible refine KeepsChk.ite ?_ ?_
    | refine KeepsChk.bind (fun _ => ?_)
    | with_reducible refine State.putCtx_keeps _ _ _ _ ?_
    | with_reducible refine State.storeAll_keeps _ _ _ _ ?_
    | split

theorem State.muteTile_keeps (s0 s a1 a2 a3) (h : Keeps s0 s) :
    Keeps s0 (State.muteTile s a1 a2 a3) := by
  unfold State.muteTile
  repeat' first
    | with_reducible assumption
    | with_reducible refine State.modGrant_keeps _ _ _ _ _ ?_

theorem State.voteFor_keeps (s0 s a1 a2 a3 a4 a5) (h : Keeps s0 s) :
    Keeps s0 (State.voteFor s a1 a2 a3 a4 a5).1 := by
  unfold State.voteFor
  repeat' first
    | with_reducible assumption
    | with_reducible refine Keeps.ofPair (by assumption) ?_
    | with_reducible refine Keeps.ite ?_ ?_
    | with_reducible refine State.vote_keeps _ _ _ _ _ _ ?_
    | split

theorem State.releasePart_keeps (s0 s a1 a2 a3 a4 a5) (h : Keeps s0 s) :
    Keeps s0 (State.releasePart s a1 a2 a3 a4 a5) := by
  unfold State.releasePart
  repeat' first
    | with_reducible assumption
    | with_reducible refine Keeps.ite ?_ ?_
    | with_reducible refine State.putCtx_keeps _ _ _ _ ?_
    | with_reducible refine State.modGrant_keeps _ _ _ _ _ ?_

theorem State.drainTo_keeps (s0 s a1 a2 a3 a4 a5 a6 a7) (k7 : ∀ x0, Keeps s0 x0 → Keeps s0 (a7 x0)) (h : Keeps s0 s) :
    Keeps s0 (State.drainTo s a1 a2 a3 a4 a5 a6 a7) := by
  unfold State.drainTo
  repeat' first
    | with_reducible assumption
    | with_reducible refine k7 _ ?_
    | with_reducible refine Keeps.ite ?_ ?_
    | with_reducible refine State.voteFor_keeps _ _ _ _ _ _ _ ?_
    | with_reducible refine State.muteTile_keeps _ _ _ _ _ ?_
    | with_reducible refine State.issued_keeps _ _ _ _ _ _ ?_
    | with_reducible refine State.lookUp_keeps _ _ _ _ _ ?_
    | with_reducible refine State.putVa_keeps _ _ _ _ _ _ ?_
    | with_reducible refine State.stopBy_keeps _ _ _ _ _ _ _ _ _ _ ?_
    | with_reducible refine Keeps.ofPair (by assumption) ?_
    | with_reducible refine Keeps.ofOk (by assumption) ?_
    | split
    | dsimp only

theorem State.writeOut_keeps (s0 s a1 a2 a3 a4 a5 a6 a7 a8) (h : Keeps s0 s) :
    Keeps s0 (State.writeOut s a1 a2 a3 a4 a5 a6 a7 a8) := by
  unfold State.writeOut
  repeat' first
    | with_reducible assumption
    | with_reducible exact Nat.le_refl _
    | with_reducible exact Nat.le_add_right _ _
    | with_reducible exact List.prefix_refl _
    | with_reducible refine Keeps.ite ?_ ?_
    | with_reducible refine State.landRuns_keeps _ _ _ _ _ _ ?_
    | with_reducible refine State.putCtx_keeps _ _ _ _ ?_
    | with_reducible refine State.modGrant_keeps _ _ _ _ _ ?_

theorem State.discardDrain_keeps (s0 s a1 a2 a3 a4) (h : Keeps s0 s) :
    Keeps s0 (State.discardDrain s a1 a2 a3 a4) := by
  unfold State.discardDrain
  repeat' first
    | with_reducible assumption
    | with_reducible refine Keeps.ite ?_ ?_
    | with_reducible refine State.discardTile_keeps _ _ _ _ _ ?_
    | with_reducible refine State.muteTile_keeps _ _ _ _ _ ?_
    | with_reducible refine State.issued_keeps _ _ _ _ _ _ ?_

theorem State.drainFinal_keeps (s0 s a1 a2 a3 a4 a5) (h : Keeps s0 s) :
    Keeps s0 (State.drainFinal s a1 a2 a3 a4 a5) := by
  unfold State.drainFinal
  repeat' first
    | with_reducible assumption
    | with_reducible refine Keeps.ite ?_ ?_
    | with_reducible refine State.parityStop_keeps _ _ _ _ _ _ _ _ ?_
    | with_reducible refine State.countNonfin_keeps _ _ _ _ _ _ ?_
    | with_reducible refine State.countConv_keeps _ _ _ _ _ ?_
    | with_reducible refine State.noteAcc_keeps _ _ _ _ ?_
    | with_reducible refine State.voteFor_keeps _ _ _ _ _ _ _ ?_
    | with_reducible refine State.muteTile_keeps _ _ _ _ _ ?_
    | with_reducible refine State.issued_keeps _ _ _ _ _ _ ?_
    | with_reducible refine State.discardDrain_keeps _ _ _ _ _ _ ?_
    | with_reducible refine State.writeOut_keeps _ _ _ _ _ _ _ _ _ _ ?_
    | with_reducible refine Keeps.ofPair (by assumption) ?_
    | split
    | dsimp only

theorem State.drainSweep_keeps (s0 s a1 a2 a3 a4) (h : Keeps s0 s) :
    Keeps s0 (State.drainSweep s a1 a2 a3 a4) := by
  unfold State.drainSweep
  repeat' first
    | with_reducible assumption
    | with_reducible exact Nat.le_refl _
    | with_reducible exact Nat.le_add_right _ _
    | with_reducible exact List.prefix_refl _
    | with_reducible refine Keeps.ofId ?_
    | with_reducible refine Keeps.ite ?_ ?_
    | with_reducible refine State.parityStop_keeps _ _ _ _ _ _ _ _ ?_
    | with_reducible refine State.countNonfin_keeps _ _ _ _ _ _ ?_
    | with_reducible refine State.noteAcc_keeps _ _ _ _ ?_
    | with_reducible refine State.drainTo_keeps _ _ _ _ _ _ _ _ _ (fun _ _ => ?_) ?_

theorem State.doDrain_keeps (s0 s a1 a2 a3 a4) (h : Keeps s0 s) :
    Keeps s0 (State.doDrain s a1 a2 a3 a4) := by
  unfold State.doDrain
  repeat' first
    | with_reducible assumption
    | with_reducible refine Keeps.ofId ?_
    | with_reducible refine Keeps.ite ?_ ?_
    | with_reducible refine State.discardDrain_keeps _ _ _ _ _ _ ?_
    | with_reducible refine State.countNonfin_keeps _ _ _ _ _ _ ?_
    | with_reducible refine State.drainTo_keeps _ _ _ _ _ _ _ _ _ (fun _ _ => ?_) ?_
    | with_reducible refine State.parityStop_keeps _ _ _ _ _ _ _ _ ?_
    | with_reducible refine State.noteAcc_keeps _ _ _ _ ?_
    | with_reducible refine State.releasePart_keeps _ _ _ _ _ _ _ ?_
    | with_reducible refine State.drainSweep_keeps _ _ _ _ _ _ ?_
    | with_reducible refine State.drainFinal_keeps _ _ _ _ _ _ _ ?_

theorem execDrain_keeps (s0 a0 a1 a2 s) (h : Keeps s0 s) :
    KeepsRes s0 (execDrain a0 a1 a2 s) := by
  unfold execDrain
  repeat' first
    | with_reducible assumption
    | with_reducible refine KeepsRes.next ?_
    | with_reducible refine State.issue_keeps _ _ _ _ _ _ _ (fun _ _ _ => ?_) ?_
    | with_reducible refine State.settle_keeps _ _ ?_
    | with_reducible refine State.doDrain_keeps _ _ _ _ _ _ ?_

theorem State.combined_keeps (s0 s a1 a2 a3 a4 a5) (h : Keeps s0 s) :
    Keeps s0 (State.combined s a1 a2 a3 a4 a5) := by
  unfold State.combined
  repeat' first
    | with_reducible assumption
    | with_reducible refine Keeps.ite ?_ ?_
    | with_reducible refine State.putCtx_keeps _ _ _ _ ?_
    | with_reducible refine State.turnPos_keeps _ _ _ _ ?_
    | with_reducible refine State.modGrant_keeps _ _ _ _ _ ?_

theorem State.lookPartials_keeps (s0 s a1 a2 a3) (h : Keeps s0 s) :
    Keeps s0 (State.lookPartials s a1 a2 a3) := by
  unfold State.lookPartials
  repeat' first
    | with_reducible assumption
    | with_reducible refine Keeps.ite ?_ ?_
    | with_reducible refine State.readUp_keeps _ _ _ _ _ ?_
    | with_reducible refine Keeps.foldl (fun _ _ _ => ?_) ?_

theorem State.combineSweep_keeps (s0 s a1 a2 a3 a4 a5 a6 a7) (h : Keeps s0 s) :
    Keeps s0 (State.combineSweep s a1 a2 a3 a4 a5 a6 a7) := by
  unfold State.combineSweep
  repeat' first
    | with_reducible assumption
    | with_reducible exact Nat.le_refl _
    | with_reducible exact Nat.le_add_right _ _
    | with_reducible exact List.prefix_refl _
    | with_reducible refine Keeps.ite ?_ ?_
    | with_reducible refine State.lookUp_keeps _ _ _ _ _ ?_
    | with_reducible refine State.putVa_keeps _ _ _ _ _ _ ?_
    | with_reducible refine State.stopBy_keeps _ _ _ _ _ _ _ _ _ _ ?_
    | with_reducible refine State.combined_keeps _ _ _ _ _ _ _ ?_
    | with_reducible refine Keeps.ofOk (by assumption) ?_
    | split
    | dsimp only

theorem State.doCombine_keeps (s0 s a1 a2 a3 a4) (h : Keeps s0 s) :
    Keeps s0 (State.doCombine s a1 a2 a3 a4) := by
  unfold State.doCombine
  repeat' first
    | with_reducible assumption
    | with_reducible refine Keeps.ite ?_ ?_
    | with_reducible refine State.discardTile_keeps _ _ _ _ _ ?_
    | with_reducible refine State.combined_keeps _ _ _ _ _ _ _ ?_
    | with_reducible refine State.parityStop_keeps _ _ _ _ _ _ _ _ ?_
    | with_reducible refine State.lookPartials_keeps _ _ _ _ _ ?_
    | with_reducible refine State.stopBy_keeps _ _ _ _ _ _ _ _ _ _ ?_
    | with_reducible refine State.noteAcc_keeps _ _ _ _ ?_
    | with_reducible refine State.combineSweep_keeps _ _ _ _ _ _ _ _ _ ?_
    | with_reducible refine State.countConv_keeps _ _ _ _ _ ?_
    | with_reducible refine State.writeOut_keeps _ _ _ _ _ _ _ _ _ _ ?_
    | split
    | dsimp only

theorem execKsplitCombine_keeps (s0 a0 s) (h : Keeps s0 s) :
    KeepsRes s0 (execKsplitCombine a0 s) := by
  unfold execKsplitCombine
  repeat' first
    | with_reducible assumption
    | with_reducible refine KeepsRes.next ?_
    | with_reducible refine Keeps.ite ?_ ?_
    | with_reducible refine State.doCombine_keeps _ _ _ _ _ _ ?_
    | split

end Sys2Proof.Machine
end

