-- ==== Sys2Proof/Laws/KeepsSequencer.lean ====
section
/-!
SUPPORT. What the operations of Sequencer keep of a state.
-/
namespace Sys2Proof.Machine

theorem execNop_keeps (s0 a0 a1 a2 s) (h : Keeps s0 s) :
    KeepsRes s0 (execNop a0 a1 a2 s) := by
  unfold execNop
  repeat' first
    | with_reducible assumption
    | with_reducible refine KeepsRes.next ?_
    | with_reducible refine State.issue_keeps _ _ _ _ _ _ _ (fun _ _ _ => ?_) ?_
    | with_reducible refine State.issued_keeps _ _ _ _ _ _ ?_

theorem State.sendStream_keeps (s0 s a1 a2 a3 a4) (h : Keeps s0 s) :
    Keeps s0 (State.sendStream s a1 a2 a3 a4) := by
  unfold State.sendStream
  repeat' first
    | with_reducible assumption
    | with_reducible exact Nat.le_refl _
    | with_reducible exact Nat.le_add_right _ _
    | with_reducible exact List.prefix_refl _
    | with_reducible refine Keeps.ite ?_ ?_
    | with_reducible refine State.putCore_keeps _ _ _ _ ?_
    | with_reducible refine State.modGrant_keeps _ _ _ _ _ ?_
    | with_reducible refine State.issued_keeps _ _ _ _ _ _ ?_
    | with_reducible refine State.pumpCore_keeps _ _ _ ?_

theorem execLoad_keeps (s0 a0 a1 a2 s) (h : Keeps s0 s) :
    KeepsRes s0 (execLoad a0 a1 a2 s) := by
  unfold execLoad
  repeat' first
    | with_reducible assumption
    | with_reducible refine KeepsRes.next ?_
    | with_reducible refine State.issue_keeps _ _ _ _ _ _ _ (fun _ _ _ => ?_) ?_
    | with_reducible refine State.sendStream_keeps _ _ _ _ _ _ ?_

theorem execStore_keeps (s0 a0 a1 a2 s) (h : Keeps s0 s) :
    KeepsRes s0 (execStore a0 a1 a2 s) := by
  unfold execStore
  repeat' first
    | with_reducible assumption
    | with_reducible refine KeepsRes.next ?_
    | with_reducible refine Keeps.ite ?_ ?_
    | with_reducible refine State.issue_keeps _ _ _ _ _ _ _ (fun _ _ _ => ?_) ?_
    | with_reducible refine State.issued_keeps _ _ _ _ _ _ ?_
    | with_reducible refine State.sendStream_keeps _ _ _ _ _ _ ?_

theorem execTokwait_keeps (s0 a0 a1 a2 s) (h : Keeps s0 s) :
    KeepsRes s0 (execTokwait a0 a1 a2 s) := by
  unfold execTokwait
  repeat' first
    | with_reducible assumption
    | with_reducible refine KeepsRes.next ?_
    | with_reducible refine State.issue_keeps _ _ _ _ _ _ _ (fun _ _ _ => ?_) ?_
    | with_reducible refine State.issued_keeps _ _ _ _ _ _ ?_
    | with_reducible refine State.modGrant_keeps _ _ _ _ _ ?_

theorem execTokwaitPass_keeps (s0 a0 a1 a2 s) (h : Keeps s0 s) :
    KeepsRes s0 (execTokwaitPass a0 a1 a2 s) := by
  unfold execTokwaitPass
  repeat' first
    | with_reducible assumption
    | with_reducible refine KeepsRes.next ?_
    | with_reducible refine Keeps.ite ?_ ?_
    | with_reducible refine State.turnPos_keeps _ _ _ _ ?_
    | with_reducible refine State.modGrant_keeps _ _ _ _ _ ?_
    | split

theorem execTokpost_keeps (s0 a0 a1 a2 s) (h : Keeps s0 s) :
    KeepsRes s0 (execTokpost a0 a1 a2 s) := by
  unfold execTokpost
  repeat' first
    | with_reducible assumption
    | with_reducible refine KeepsRes.next ?_
    | with_reducible refine State.issue_keeps _ _ _ _ _ _ _ (fun _ _ _ => ?_) ?_
    | with_reducible refine State.issued_keeps _ _ _ _ _ _ ?_
    | with_reducible refine State.modGrant_keeps _ _ _ _ _ ?_

theorem execTokpostEffect_keeps (s0 a0 a1 a2 s) (h : Keeps s0 s) :
    KeepsRes s0 (execTokpostEffect a0 a1 a2 s) := by
  unfold execTokpostEffect
  repeat' first
    | with_reducible assumption
    | with_reducible exact Nat.le_refl _
    | with_reducible exact Nat.le_add_right _ _
    | with_reducible exact List.prefix_refl _
    | with_reducible refine KeepsRes.next ?_
    | with_reducible refine Keeps.ite ?_ ?_
    | with_reducible refine State.modGrant_keeps _ _ _ _ _ ?_
    | with_reducible refine State.dropAccs_keeps _ _ _ _ ?_
    | with_reducible refine State.putCore_keeps _ _ _ _ ?_
    | split

theorem execFence_keeps (s0 a0 a1 a2 s) (h : Keeps s0 s) :
    KeepsRes s0 (execFence a0 a1 a2 s) := by
  unfold execFence
  repeat' first
    | with_reducible assumption
    | with_reducible refine KeepsRes.next ?_
    | with_reducible refine Keeps.ite ?_ ?_
    | with_reducible refine State.issue_keeps _ _ _ _ _ _ _ (fun _ _ _ => ?_) ?_
    | with_reducible refine State.modGrant_keeps _ _ _ _ _ ?_
    | with_reducible refine State.issued_keeps _ _ _ _ _ _ ?_

theorem execFencePass_keeps (s0 a0 a1 a2 s) (h : Keeps s0 s) :
    KeepsRes s0 (execFencePass a0 a1 a2 s) := by
  unfold execFencePass
  repeat' first
    | with_reducible assumption
    | with_reducible exact Nat.le_refl _
    | with_reducible exact Nat.le_add_right _ _
    | with_reducible exact List.prefix_refl _
    | with_reducible refine KeepsRes.next ?_
    | with_reducible refine Keeps.ite ?_ ?_
    | with_reducible refine State.dropAccs_keeps _ _ _ _ ?_
    | with_reducible refine State.modGrant_keeps _ _ _ _ _ ?_
    | with_reducible refine State.turnPos_keeps _ _ _ _ ?_
    | split

end Sys2Proof.Machine
end

