-- ==== Sys2Proof/Laws/KeepsGrants.lean ====
section
/-!
SUPPORT. What the operations of Grants keep of a state.
-/
namespace Sys2Proof.Machine

theorem State.giveGrant_keeps (s0 s a1 a2 a3) (h : Keeps s0 s) :
    Keeps s0 (State.giveGrant s a1 a2 a3) := by
  unfold State.giveGrant
  repeat' first
    | with_reducible assumption
    | with_reducible refine Keeps.ite ?_ ?_
    | with_reducible refine State.putCtx_keeps _ _ _ _ ?_
    | with_reducible refine State.bump_keeps _ _ _ _ _ ?_
    | with_reducible refine State.putCore_keeps _ _ _ _ ?_

theorem State.dropGrant_keeps (s0 s a1 a2) (h : Keeps s0 s) :
    Keeps s0 (State.dropGrant s a1 a2) := by
  unfold State.dropGrant
  repeat' first
    | with_reducible assumption
    | with_reducible refine Keeps.ite ?_ ?_
    | with_reducible refine State.dropAccs_keeps _ _ _ _ ?_
    | with_reducible refine State.putCore_keeps _ _ _ _ ?_

theorem State.placeGrant_keeps (s0 s a1 a2 a3 a4) (h : Keeps s0 s) :
    Keeps s0 (State.placeGrant s a1 a2 a3 a4) := by
  unfold State.placeGrant
  repeat' first
    | with_reducible assumption
    | with_reducible refine Keeps.ite ?_ ?_
    | with_reducible refine State.dropGrant_keeps _ _ _ _ ?_
    | with_reducible refine State.bump_keeps _ _ _ _ _ ?_
    | with_reducible refine State.endTileAt_keeps _ _ _ _ ?_
    | with_reducible refine State.countSkips_keeps _ _ _ _ ?_
    | with_reducible refine State.modGrant_keeps _ _ _ _ _ ?_
    | with_reducible refine State.putCore_keeps _ _ _ _ ?_

theorem State.arriveGrant_keeps (s0 s a1 a2 a3 a4) (h : Keeps s0 s) :
    Keeps s0 (State.arriveGrant s a1 a2 a3 a4) := by
  unfold State.arriveGrant
  repeat' first
    | with_reducible assumption
    | with_reducible exact Nat.le_refl _
    | with_reducible exact Nat.le_add_right _ _
    | with_reducible exact List.prefix_refl _
    | with_reducible refine Keeps.ite ?_ ?_
    | with_reducible refine State.readUp_keeps _ _ _ _ _ ?_
    | with_reducible refine State.stopBy_keeps _ _ _ _ _ _ _ _ _ _ ?_
    | with_reducible refine State.placeGrant_keeps _ _ _ _ _ _ ?_
    | split
    | dsimp only

theorem State.grantArrives_keeps (s0 s a1) (h : Keeps s0 s) :
    Keeps s0 (State.grantArrives s a1) := by
  unfold State.grantArrives
  repeat' first
    | with_reducible assumption
    | with_reducible refine Keeps.ite ?_ ?_
    | with_reducible refine State.arriveGrant_keeps _ _ _ _ _ _ ?_
    | split

theorem State.loadCarry_keeps (s0 s a1 a2 a3 a4) (h : Keeps s0 s) :
    Keeps s0 (State.loadCarry s a1 a2 a3 a4) := by
  unfold State.loadCarry
  repeat' first
    | with_reducible assumption
    | with_reducible exact Nat.le_refl _
    | with_reducible exact Nat.le_add_right _ _
    | with_reducible exact List.prefix_refl _
    | with_reducible refine Keeps.ite ?_ ?_
    | with_reducible refine State.readUp_keeps _ _ _ _ _ ?_
    | with_reducible refine State.stopBy_keeps _ _ _ _ _ _ _ _ _ _ ?_
    | with_reducible refine State.putAcc_keeps _ _ _ _ _ ?_
    | with_reducible refine State.modGrant_keeps _ _ _ _ _ ?_
    | split
    | dsimp only

theorem State.startTile_keeps (s0 s a1 a2 a3 a4) (h : Keeps s0 s) :
    Keeps s0 (State.startTile s a1 a2 a3 a4) := by
  unfold State.startTile
  repeat' first
    | with_reducible assumption
    | with_reducible refine Keeps.ite ?_ ?_
    | with_reducible refine State.modGrant_keeps _ _ _ _ _ ?_
    | with_reducible refine State.putAcc_keeps _ _ _ _ _ ?_
    | with_reducible refine State.putCore_keeps _ _ _ _ ?_
    | with_reducible refine State.loadCarry_keeps _ _ _ _ _ _ ?_

theorem execTileStart_keeps (s0 a0 a1 s) (h : Keeps s0 s) :
    KeepsRes s0 (execTileStart a0 a1 s) := by
  unfold execTileStart
  repeat' first
    | with_reducible assumption
    | with_reducible refine KeepsRes.next ?_
    | with_reducible refine Keeps.ite ?_ ?_
    | with_reducible refine State.startTile_keeps _ _ _ _ _ _ ?_
    | split

theorem State.endAudit_keeps (s0 s a1 a2 a3 a4) (h : Keeps s0 s) :
    Keeps s0 (State.endAudit s a1 a2 a3 a4) := by
  unfold State.endAudit
  repeat' first
    | with_reducible assumption
    | with_reducible refine Keeps.ofPair (by assumption) ?_
    | with_reducible refine State.bump_keeps _ _ _ _ _ ?_
    | with_reducible refine State.voteFor_keeps _ _ _ _ _ _ _ ?_
    | with_reducible refine State.dropGrant_keeps _ _ _ _ ?_
    | with_reducible refine State.putCtx_keeps _ _ _ _ ?_
    | with_reducible refine State.endTileAt_keeps _ _ _ _ ?_
    | split
    | dsimp only

theorem State.finishTile_keeps (s0 s a1 a2 a3 a4) (h : Keeps s0 s) :
    Keeps s0 (State.finishTile s a1 a2 a3 a4) := by
  unfold State.finishTile
  repeat' first
    | with_reducible assumption
    | with_reducible refine Keeps.ite ?_ ?_
    | with_reducible refine State.bump_keeps _ _ _ _ _ ?_
    | with_reducible refine State.endAudit_keeps _ _ _ _ _ _ ?_
    | with_reducible refine State.dropGrant_keeps _ _ _ _ ?_
    | with_reducible refine State.closeSlot_keeps _ _ _ _ _ _ ?_
    | with_reducible refine State.endTileAt_keeps _ _ _ _ ?_

theorem State.tileEnds_keeps (s0 s a1 a2) (h : Keeps s0 s) :
    Keeps s0 (State.tileEnds s a1 a2) := by
  unfold State.tileEnds
  repeat' first
    | with_reducible assumption
    | with_reducible refine Keeps.ite ?_ ?_
    | with_reducible refine State.settle_keeps _ _ ?_
    | with_reducible refine State.finishTile_keeps _ _ _ _ _ _ ?_
    | split

theorem State.abandon_keeps (s0 s a1 a2 a3 a4) (h : Keeps s0 s) :
    Keeps s0 (State.abandon s a1 a2 a3 a4) := by
  unfold State.abandon
  repeat' first
    | with_reducible assumption
    | with_reducible refine Keeps.ite ?_ ?_
    | with_reducible refine State.putCtx_keeps _ _ _ _ ?_
    | with_reducible refine State.bump_keeps _ _ _ _ _ ?_
    | with_reducible refine State.closeSlot_keeps _ _ _ _ _ _ ?_
    | with_reducible refine State.dropGrant_keeps _ _ _ _ ?_
    | with_reducible refine State.cancelOps_keeps _ _ _ _ _ ?_
    | with_reducible refine State.fault_keeps _ _ _ _ _ _ ?_
    | with_reducible refine State.raise_keeps _ _ _ ?_
    | with_reducible refine State.reissueGrant_keeps _ _ _ _ _ ?_

theorem State.wdogExpires_keeps (s0 s a1 a2) (h : Keeps s0 s) :
    Keeps s0 (State.wdogExpires s a1 a2) := by
  unfold State.wdogExpires
  repeat' first
    | with_reducible assumption
    | with_reducible refine Keeps.ite ?_ ?_
    | with_reducible refine State.settle_keeps _ _ ?_
    | with_reducible refine State.finishTile_keeps _ _ _ _ _ _ ?_
    | with_reducible refine State.abandon_keeps _ _ _ _ _ _ ?_
    | split

end Sys2Proof.Machine
end

