-- ==== Sys2Proof/Laws/KeepsPower.lean ====
section
/-!
SUPPORT. What the operations of Power keep of a state.
-/
namespace Sys2Proof.Machine

theorem State.beginStart_keeps (s0 s a1) (h : Keeps s0 s) :
    Keeps s0 (State.beginStart s a1) := by
  unfold State.beginStart
  repeat' first
    | with_reducible assumption
    | with_reducible exact Nat.le_refl _
    | with_reducible exact Nat.le_add_right _ _
    | with_reducible exact List.prefix_refl _
    | with_reducible refine State.setFld_keeps _ _ _ _ _ ?_
    | dsimp only
    | exact Nat.le_add_right _ _
    | exact Nat.le_refl _
    | exact List.prefix_refl _
    | with_reducible refine Keeps.setAnt ?_
    | with_reducible refine Keeps.upd ?_ ?_ ?_

theorem State.restartNow_keeps (s0 s) (h : Keeps s0 s) :
    Keeps s0 (State.restartNow s) := by
  unfold State.restartNow
  repeat' first
    | with_reducible assumption
    | with_reducible exact Nat.le_refl _
    | with_reducible exact Nat.le_add_right _ _
    | with_reducible exact List.prefix_refl _
    | with_reducible refine State.powerOff_keeps _ _ ?_
    | with_reducible refine State.beginStart_keeps _ _ _ ?_
    | dsimp only
    | exact Nat.le_add_right _ _
    | exact Nat.le_refl _
    | exact List.prefix_refl _
    | with_reducible refine Keeps.setAnt ?_
    | with_reducible refine Keeps.upd ?_ ?_ ?_

theorem execPowerOn_keeps (s0 a0 a1 a2 s) (h : Keeps s0 s) :
    KeepsRes s0 (execPowerOn a0 a1 a2 s) := by
  unfold execPowerOn
  repeat' first
    | with_reducible assumption
    | with_reducible refine KeepsRes.next ?_
    | with_reducible refine Keeps.ite ?_ ?_
    | with_reducible refine State.beginStart_keeps _ _ _ ?_

theorem execInputOff_keeps (s0 a0 s) (h : Keeps s0 s) :
    KeepsRes s0 (execInputOff a0 s) := by
  unfold execInputOff
  repeat' first
    | with_reducible assumption
    | with_reducible refine KeepsRes.next ?_
    | with_reducible refine Keeps.ite ?_ ?_
    | with_reducible refine State.powerOff_keeps _ _ ?_

theorem execCurrentFault_keeps (s0 a0 a1 s) (h : Keeps s0 s) :
    KeepsRes s0 (execCurrentFault a0 a1 s) := by
  unfold execCurrentFault
  repeat' first
    | with_reducible assumption
    | with_reducible exact Nat.le_refl _
    | with_reducible exact Nat.le_add_right _ _
    | with_reducible exact List.prefix_refl _
    | with_reducible refine KeepsRes.next ?_
    | with_reducible refine Keeps.ite ?_ ?_
    | with_reducible refine State.powerOff_keeps _ _ ?_
    | split
    | dsimp only
    | exact Nat.le_add_right _ _
    | exact Nat.le_refl _
    | exact List.prefix_refl _
    | with_reducible refine Keeps.setAnt ?_
    | with_reducible refine Keeps.upd ?_ ?_ ?_

theorem execHotSwapRetry_keeps (s0 a0 a1 a2 s) (h : Keeps s0 s) :
    KeepsRes s0 (execHotSwapRetry a0 a1 a2 s) := by
  unfold execHotSwapRetry
  repeat' first
    | with_reducible assumption
    | with_reducible exact Nat.le_refl _
    | with_reducible exact Nat.le_add_right _ _
    | with_reducible exact List.prefix_refl _
    | with_reducible refine KeepsRes.next ?_
    | with_reducible refine Keeps.ite ?_ ?_
    | with_reducible refine State.beginStart_keeps _ _ _ ?_
    | split
    | dsimp only
    | exact Nat.le_add_right _ _
    | exact Nat.le_refl _
    | exact List.prefix_refl _
    | with_reducible refine Keeps.setAnt ?_
    | with_reducible refine Keeps.upd ?_ ?_ ?_

theorem execPresentOpen_keeps (s0 s) (h : Keeps s0 s) :
    KeepsRes s0 (execPresentOpen s) := by
  unfold execPresentOpen
  repeat' first
    | with_reducible assumption
    | with_reducible refine KeepsRes.next ?_
    | with_reducible refine Keeps.ite ?_ ?_
    | with_reducible refine State.powerOff_keeps _ _ ?_

theorem State.setCap_keeps (s0 s a1) (h : Keeps s0 s) :
    Keeps s0 (State.setCap s a1) := by
  unfold State.setCap
  repeat' first
    | with_reducible assumption
    | with_reducible exact Nat.le_refl _
    | with_reducible exact Nat.le_add_right _ _
    | with_reducible exact List.prefix_refl _
    | with_reducible refine State.setFld_keeps _ _ _ _ _ ?_
    | dsimp only
    | exact Nat.le_add_right _ _
    | exact Nat.le_refl _
    | exact List.prefix_refl _
    | with_reducible refine Keeps.setAnt ?_
    | with_reducible refine Keeps.upd ?_ ?_ ?_

theorem State.setThTarget_keeps (s0 s a1 a2) (h : Keeps s0 s) :
    Keeps s0 (State.setThTarget s a1 a2) := by
  unfold State.setThTarget
  repeat' first
    | with_reducible assumption
    | with_reducible exact Nat.le_refl _
    | with_reducible exact Nat.le_add_right _ _
    | with_reducible exact List.prefix_refl _
    | with_reducible refine Keeps.ite ?_ ?_
    | with_reducible refine State.setFld_keeps _ _ _ _ _ ?_
    | split
    | dsimp only
    | exact Nat.le_add_right _ _
    | exact Nat.le_refl _
    | exact List.prefix_refl _
    | with_reducible refine Keeps.setAnt ?_
    | with_reducible refine Keeps.upd ?_ ?_ ?_

theorem State.setPwrTarget_keeps (s0 s a1) (h : Keeps s0 s) :
    Keeps s0 (State.setPwrTarget s a1) := by
  unfold State.setPwrTarget
  repeat' first
    | with_reducible assumption
    | with_reducible exact Nat.le_refl _
    | with_reducible exact Nat.le_add_right _ _
    | with_reducible exact List.prefix_refl _
    | dsimp only
    | exact Nat.le_add_right _ _
    | exact Nat.le_refl _
    | exact List.prefix_refl _
    | with_reducible refine Keeps.setAnt ?_
    | with_reducible refine Keeps.upd ?_ ?_ ?_

theorem State.withdrawCore_keeps (s0 s a1) (h : Keeps s0 s) :
    Keeps s0 (State.withdrawCore s a1) := by
  unfold State.withdrawCore
  repeat' first
    | with_reducible assumption
    | with_reducible refine Keeps.ite ?_ ?_
    | with_reducible refine State.putCore_keeps _ _ _ _ ?_

theorem State.showSample_keeps (s0 s a1 a2 a3 a4 a5 a6) (h : Keeps s0 s) :
    Keeps s0 (State.showSample s a1 a2 a3 a4 a5 a6) := by
  unfold State.showSample
  repeat' first
    | with_reducible assumption
    | with_reducible refine Keeps.ite ?_ ?_
    | with_reducible refine State.setFld_keeps _ _ _ _ _ ?_
    | with_reducible refine Keeps.foldl (fun _ _ _ => ?_) ?_

theorem State.sampleTargets_keeps (s0 s a1 a2) (h : Keeps s0 s) :
    Keeps s0 (State.sampleTargets s a1 a2) := by
  unfold State.sampleTargets
  repeat' first
    | with_reducible assumption
    | with_reducible refine Keeps.ite ?_ ?_
    | with_reducible refine State.setPwrTarget_keeps _ _ _ ?_
    | with_reducible refine State.setThTarget_keeps _ _ _ _ ?_

theorem State.excursion_keeps (s0 s) (h : Keeps s0 s) :
    Keeps s0 (State.excursion s) := by
  unfold State.excursion
  repeat' first
    | with_reducible assumption
    | with_reducible refine Keeps.ite ?_ ?_
    | with_reducible refine State.bumpSat_keeps _ _ _ _ _ ?_
    | with_reducible refine State.raise_keeps _ _ _ ?_
    | split

theorem execPowerSample_keeps (s0 a0 a1 a2 a3 a4 a5 a6 a7 a8 s) (h : Keeps s0 s) :
    KeepsRes s0 (execPowerSample a0 a1 a2 a3 a4 a5 a6 a7 a8 s) := by
  unfold execPowerSample
  repeat' first
    | with_reducible assumption
    | with_reducible exact Nat.le_refl _
    | with_reducible exact Nat.le_add_right _ _
    | with_reducible exact List.prefix_refl _
    | with_reducible refine KeepsRes.next ?_
    | with_reducible refine Keeps.ite ?_ ?_
    | with_reducible refine State.showSample_keeps _ _ _ _ _ _ _ _ ?_
    | with_reducible refine State.trip_keeps _ _ _ _ _ ?_
    | with_reducible refine State.stackFault_keeps _ _ _ _ ?_
    | with_reducible refine State.sampleTargets_keeps _ _ _ _ ?_
    | with_reducible refine State.excursion_keeps _ _ ?_
    | split
    | dsimp only
    | exact Nat.le_add_right _ _
    | exact Nat.le_refl _
    | exact List.prefix_refl _
    | with_reducible refine Keeps.setAnt ?_
    | with_reducible refine Keeps.upd ?_ ?_ ?_

theorem execClockStep_keeps (s0 a0 a1 s) (h : Keeps s0 s) :
    KeepsRes s0 (execClockStep a0 a1 s) := by
  unfold execClockStep
  repeat' first
    | with_reducible assumption
    | with_reducible refine KeepsRes.next ?_
    | with_reducible refine Keeps.ite ?_ ?_
    | with_reducible refine State.setThTarget_keeps _ _ _ _ ?_
    | with_reducible refine State.setPwrTarget_keeps _ _ _ ?_

theorem execClockChange_keeps (s0 a0 s) (h : Keeps s0 s) :
    KeepsRes s0 (execClockChange a0 s) := by
  unfold execClockChange
  repeat' first
    | with_reducible assumption
    | with_reducible refine KeepsRes.next ?_
    | with_reducible refine Keeps.ite ?_ ?_
    | with_reducible refine State.setFld_keeps _ _ _ _ _ ?_

theorem execCorePark_keeps (s0 a0 s) (h : Keeps s0 s) :
    KeepsRes s0 (execCorePark a0 s) := by
  unfold execCorePark
  repeat' first
    | with_reducible assumption
    | with_reducible refine KeepsRes.next ?_
    | with_reducible refine Keeps.ite ?_ ?_
    | with_reducible refine State.withdrawCore_keeps _ _ _ ?_
    | with_reducible refine State.setParked_keeps _ _ _ ?_
    | split

theorem execCoreUnpark_keeps (s0 a0 s) (h : Keeps s0 s) :
    KeepsRes s0 (execCoreUnpark a0 s) := by
  unfold execCoreUnpark
  repeat' first
    | with_reducible assumption
    | with_reducible refine KeepsRes.next ?_
    | with_reducible refine Keeps.ite ?_ ?_
    | with_reducible refine State.setParked_keeps _ _ _ ?_
    | with_reducible refine State.putCore_keeps _ _ _ _ ?_
    | split

end Sys2Proof.Machine
end

