-- ==== Sys2Proof/Laws/KeepsSlices.lean ====
section
/-!
SUPPORT. What the operations of Slices keep of a state.
-/
namespace Sys2Proof.Machine

theorem State.scrubCore_keeps (s0 s a1 a2) (h : Keeps s0 s) :
    Keeps s0 (State.scrubCore s a1 a2) := by
  unfold State.scrubCore
  exact State.putCore_keeps _ _ _ _ (h.setMem (fun x => memOk_filter x _))

theorem State.setExtents_keeps (s0 s a1 a2) (h : Keeps s0 s) :
    Keeps s0 (State.setExtents s a1 a2) := by
  unfold State.setExtents
  repeat' first
    | with_reducible assumption
    | with_reducible refine State.setFld_keeps _ _ _ _ _ ?_

theorem State.setRoot_keeps (s0 s a1 a2) (h : Keeps s0 s) :
    Keeps s0 (State.setRoot s a1 a2) := by
  unfold State.setRoot
  repeat' first
    | with_reducible assumption
    | with_reducible refine State.setFld_keeps _ _ _ _ _ ?_

theorem State.equipStep_keeps (s0 s a1 a2) (h : Keeps s0 s) :
    Keeps s0 (State.equipStep s a1 a2) := by
  unfold State.equipStep
  repeat' first
    | with_reducible assumption
    | with_reducible exact Nat.le_refl _
    | with_reducible exact Nat.le_add_right _ _
    | with_reducible exact List.prefix_refl _
    | with_reducible refine Keeps.ite ?_ ?_
    | with_reducible refine State.setRoot_keeps _ _ _ _ ?_
    | with_reducible refine State.flushCache_keeps _ _ _ ?_
    | with_reducible refine State.setExtents_keeps _ _ _ _ ?_
    | with_reducible refine State.readUp_keeps _ _ _ _ _ ?_
    | with_reducible refine State.stopBy_keeps _ _ _ _ _ _ _ _ _ _ ?_
    | with_reducible refine State.putCore_keeps _ _ _ _ ?_
    | split
    | dsimp only

theorem State.equipStaging_keeps (s0 s a1 a2) (h : Keeps s0 s) :
    Keeps s0 (State.equipStaging s a1 a2) := by
  unfold State.equipStaging
  repeat' first
    | with_reducible assumption
    | with_reducible refine Keeps.ite ?_ ?_
    | with_reducible refine State.setupStaging_keeps _ _ _ _ ?_
    | with_reducible refine State.endStaging_keeps _ _ _ ?_

theorem State.equipCore_keeps (s0 s a1 a2) (h : Keeps s0 s) :
    Keeps s0 (State.equipCore s a1 a2) := by
  unfold State.equipCore
  repeat' first
    | with_reducible assumption
    | with_reducible refine Keeps.ite ?_ ?_
    | with_reducible refine State.scrubCore_keeps _ _ _ _ ?_
    | with_reducible refine State.setFld_keeps _ _ _ _ _ ?_
    | with_reducible refine State.putCore_keeps _ _ _ _ ?_
    | with_reducible refine State.equipStaging_keeps _ _ _ _ ?_
    | with_reducible refine State.equipStep_keeps _ _ _ _ ?_
    | with_reducible refine State.fixAnchor_keeps _ _ _ ?_

theorem State.sendCore_keeps (s0 s a1 a2) (h : Keeps s0 s) :
    Keeps s0 (State.sendCore s a1 a2) := by
  unfold State.sendCore
  repeat' first
    | with_reducible assumption
    | with_reducible refine Keeps.ite ?_ ?_
    | with_reducible refine State.putCore_keeps _ _ _ _ ?_

theorem State.sendIdle_keeps (s0 s a1) (h : Keeps s0 s) :
    Keeps s0 (State.sendIdle s a1) := by
  unfold State.sendIdle
  repeat' first
    | with_reducible assumption
    | with_reducible exact Nat.le_refl _
    | with_reducible exact Nat.le_add_right _ _
    | with_reducible exact List.prefix_refl _
    | with_reducible refine Keeps.ite ?_ ?_
    | with_reducible refine State.putCore_keeps _ _ _ _ ?_

theorem State.unstick_keeps (s0 s a1) (h : Keeps s0 s) :
    Keeps s0 (State.unstick s a1) := by
  unfold State.unstick
  repeat' first
    | with_reducible assumption
    | with_reducible refine State.sendCore_keeps _ _ _ _ ?_
    | split

theorem State.withdrawForTest_keeps (s0 s a1) (h : Keeps s0 s) :
    Keeps s0 (State.withdrawForTest s a1) := by
  unfold State.withdrawForTest
  repeat' first
    | with_reducible assumption
    | with_reducible refine Keeps.ite ?_ ?_
    | with_reducible refine State.putCore_keeps _ _ _ _ ?_

theorem State.nextTests_keeps (s0 s) (h : Keeps s0 s) :
    Keeps s0 (State.nextTests s) := by
  unfold State.nextTests
  repeat' first
    | with_reducible assumption
    | with_reducible refine Keeps.ite ?_ ?_
    | with_reducible refine State.withdrawForTest_keeps _ _ _ ?_
    | with_reducible refine Keeps.foldl (fun _ _ _ => ?_) ?_

theorem execSliceBoundary_keeps (s0 s) (h : Keeps s0 s) :
    KeepsRes s0 (execSliceBoundary s) := by
  unfold execSliceBoundary
  repeat' first
    | with_reducible assumption
    | with_reducible refine KeepsRes.next ?_
    | with_reducible refine Keeps.ite ?_ ?_
    | with_reducible refine State.nextTests_keeps _ _ ?_
    | with_reducible refine State.sendIdle_keeps _ _ _ ?_
    | with_reducible refine State.sendCore_keeps _ _ _ _ ?_
    | with_reducible refine State.unstick_keeps _ _ _ ?_
    | with_reducible refine Keeps.foldl (fun _ _ _ => ?_) ?_

theorem State.dispatch_keeps (s0 s a1) (h : Keeps s0 s) :
    Keeps s0 (State.dispatch s a1) := by
  unfold State.dispatch
  repeat' first
    | with_reducible assumption
    | with_reducible refine State.sendCore_keeps _ _ _ _ ?_
    | with_reducible refine Keeps.foldl (fun _ _ _ => ?_) ?_

theorem State.keepRuns_keeps (s0 s a1 a2) (h : Keeps s0 s) :
    Keeps s0 (State.keepRuns s a1 a2) := by
  unfold State.keepRuns
  repeat' first
    | with_reducible assumption
    | with_reducible refine Keeps.ite ?_ ?_
    | with_reducible refine State.putCtx_keeps _ _ _ _ ?_

theorem State.returnGrants_keeps (s0 s a1) (h : Keeps s0 s) :
    Keeps s0 (State.returnGrants s a1) := by
  unfold State.returnGrants
  repeat' first
    | with_reducible assumption
    | with_reducible refine Keeps.ite ?_ ?_
    | with_reducible refine State.keepRuns_keeps _ _ _ _ ?_
    | with_reducible refine State.reissueAll_keeps _ _ _ ?_
    | with_reducible refine State.cancelAll_keeps _ _ _ ?_
    | split

theorem State.moveCore_keeps (s0 s a1 a2) (h : Keeps s0 s) :
    Keeps s0 (State.moveCore s a1 a2) := by
  unfold State.moveCore
  repeat' first
    | with_reducible assumption
    | with_reducible refine Keeps.ite ?_ ?_
    | with_reducible refine State.returnGrants_keeps _ _ _ ?_
    | with_reducible refine State.flushCache_keeps _ _ _ ?_
    | with_reducible refine State.putCore_keeps _ _ _ _ ?_
    | with_reducible refine State.settle_keeps _ _ ?_
    | with_reducible refine State.equipCore_keeps _ _ _ _ ?_
    | split

theorem execCoreMove_keeps (s0 a0 s) (h : Keeps s0 s) :
    KeepsRes s0 (execCoreMove a0 s) := by
  unfold execCoreMove
  repeat' first
    | with_reducible assumption
    | with_reducible refine KeepsRes.next ?_
    | with_reducible refine Keeps.ite ?_ ?_
    | with_reducible refine State.moveCore_keeps _ _ _ _ ?_
    | with_reducible refine Keeps.elim ?_ (fun _ => ?_)

theorem execCoreFence_keeps (s0 a0 a1 s) (h : Keeps s0 s) :
    KeepsRes s0 (execCoreFence a0 a1 s) := by
  unfold execCoreFence
  repeat' first
    | with_reducible assumption
    | with_reducible refine KeepsRes.next ?_
    | with_reducible refine Keeps.ite ?_ ?_
    | with_reducible refine State.unstick_keeps _ _ _ ?_
    | with_reducible refine State.fenceCore_keeps _ _ _ _ ?_
    | with_reducible refine State.settle_keeps _ _ ?_
    | with_reducible refine Keeps.foldl (fun _ _ _ => ?_) ?_

theorem execGrantRequest_keeps (s0 a0 s) (h : Keeps s0 s) :
    KeepsRes s0 (execGrantRequest a0 s) := by
  unfold execGrantRequest
  repeat' first
    | with_reducible assumption
    | with_reducible refine KeepsRes.next ?_
    | with_reducible refine Keeps.ite ?_ ?_
    | with_reducible refine State.unstick_keeps _ _ _ ?_
    | with_reducible refine State.giveGrant_keeps _ _ _ _ _ ?_
    | split

end Sys2Proof.Machine
end

