-- ==== Sys2Proof/Laws/KeepsWork.lean ====
section
/-!
SUPPORT. What the operations of Work keep of a state.
-/
namespace Sys2Proof.Machine

theorem Done.each_keeps {α : Type} (s0 : State) (a0 : List α) (a1 : State → α → Done) (s : State) (k2 : ∀ t x0, Keeps s0 t → KeepsDone s0 (a1 t x0)) (h : Keeps s0 s) :
    KeepsDone s0 (Done.each a0 a1 s) := by
  have hd : ∀ (l : List α) (d : Done), KeepsDone s0 d → KeepsDone s0 (l.foldl (fun d a =>
      match d.stop with
      | some _ => d
      | none =>
        let e := a1 d.s a
        { e with oob := d.oob + e.oob }) d) := by
    intro l
    induction l with
    | nil => exact fun _ hd => hd
    | cons a l ih =>
      intro d hd
      refine ih _ ?_
      dsimp only
      split
      · exact hd
      · exact k2 _ a hd
  exact hd a0 _ h

theorem State.givenChk_keeps {α : Type} {s0 s : State} {c : Chk α} {f : α → Done} (k : ∀ a, KeepsDone s0 (f a))
    (h : Keeps s0 s) : KeepsDone s0 (s.given_ c f) := by
  unfold State.given_
  split
  · exact h
  · exact k _

theorem State.upTo_keeps (s0 s a1) (hc : KeepsChk s0 a1) (h : Keeps s0 s) :
    KeepsDone s0 (State.upTo s a1) := Keeps.givenState (fun _ k => k) hc h

theorem State.storeFor_keeps (s0 s a1 a2 a3 a4) (h : Keeps s0 s) :
    KeepsChk s0 (State.storeFor s a1 a2 a3 a4) := by
  unfold State.storeFor
  repeat' first
    | with_reducible assumption
    | exact KeepsChk.error
    | with_reducible refine KeepsChk.pure ?_
    | with_reducible refine KeepsChk.ok ?_
    | with_reducible refine KeepsChk.ite ?_ ?_
    | with_reducible refine Keeps.ite ?_ ?_
    | with_reducible refine State.storeAll_keeps _ _ _ _ ?_
    | with_reducible refine State.putCtx_keeps _ _ _ _ ?_
    | split

theorem State.putFor_keeps (s0 s a1 a2 a3 a4) (h : Keeps s0 s) :
    KeepsDone s0 (State.putFor s a1 a2 a3 a4) := by
  unfold State.putFor
  repeat' first
    | with_reducible assumption
    | with_reducible refine Keeps.ite ?_ ?_
    | with_reducible refine State.upTo_keeps _ _ _ ?_ ?_
    | with_reducible refine State.storeFor_keeps _ _ _ _ _ _ ?_

theorem State.putElems_keeps (s0 s a1 a2 a3 a4 a5) (h : Keeps s0 s) :
    KeepsDone s0 (State.putElems s a1 a2 a3 a4 a5) := by
  unfold State.putElems
  repeat' first
    | with_reducible assumption
    | with_reducible refine Keeps.ite ?_ ?_
    | with_reducible refine State.writeRun_keeps _ _ _ _ _ _ ?_
    | with_reducible refine State.putCtx_keeps _ _ _ _ ?_
    | with_reducible refine Keeps.ofFst (by assumption) ?_
    | with_reducible refine Keeps.ofOkPair (by assumption) ?_
    | split

theorem State.putBits_keeps (s0 s a1 a2 a3 a4 a5 a6) (h : Keeps s0 s) :
    KeepsDone s0 (State.putBits s a1 a2 a3 a4 a5 a6) := by
  unfold State.putBits
  repeat' first
    | with_reducible assumption
    | with_reducible refine Keeps.ite ?_ ?_
    | with_reducible refine State.setBitsVa_keeps _ _ _ _ _ _ ?_
    | with_reducible refine State.putCtx_keeps _ _ _ _ ?_
    | with_reducible refine Keeps.givenState (fun _ _ => ?_) ?_ ?_
    | with_reducible refine State.givenChk_keeps (fun _ => ?_) ?_
    | with_reducible refine KeepsChk.naming ?_
    | with_reducible refine Keeps.ofOk (by assumption) ?_
    | split

theorem State.countOob_keeps (s0 s a1 a2) (h : Keeps s0 s) :
    Keeps s0 (State.countOob s a1 a2) := by
  unfold State.countOob
  repeat' first
    | with_reducible assumption
    | with_reducible refine Keeps.ite ?_ ?_
    | with_reducible refine State.bump_keeps _ _ _ _ _ ?_

theorem State.putOn_keeps (s0 s a1 a2 a3 a4 a5) (h : Keeps s0 s) :
    KeepsDone s0 (State.putOn s a1 a2 a3 a4 a5) := by
  unfold State.putOn
  repeat' first
    | with_reducible assumption
    | with_reducible refine Keeps.ite ?_ ?_
    | with_reducible refine State.lookUp_keeps _ _ _ _ _ ?_
    | with_reducible refine State.putFor_keeps _ _ _ _ _ _ ?_

theorem State.lookReach_keeps (s0 s a1 a2) (h : Keeps s0 s) :
    Keeps s0 (State.lookReach s a1 a2) := by
  unfold State.lookReach
  repeat' first
    | with_reducible assumption
    | with_reducible refine Keeps.ite ?_ ?_
    | with_reducible refine State.lookUp_keeps _ _ _ _ _ ?_
    | with_reducible refine State.readUp_keeps _ _ _ _ _ ?_
    | with_reducible refine Keeps.foldl (fun _ _ _ => ?_) ?_

end Sys2Proof.Machine
end

