-- ==== Sys2Proof/Laws/KeepsWeevil.lean ====
section
/-!
SUPPORT. What the operations of Weevil keep of a state.
-/
namespace Sys2Proof.Machine

theorem State.putWeevil_keeps (s0 s a1 a2 a3 a4) (h : Keeps s0 s) :
    KeepsDone s0 (State.putWeevil s a1 a2 a3 a4) := by
  unfold State.putWeevil
  repeat' first
    | with_reducible assumption
    | with_reducible refine Keeps.ite ?_ ?_
    | with_reducible refine State.lookReach_keeps _ _ _ _ ?_
    | with_reducible refine State.putElems_keeps _ _ _ _ _ _ _ ?_
    | with_reducible refine State.putBits_keeps _ _ _ _ _ _ _ _ ?_
    | with_reducible refine State.putFor_keeps _ _ _ _ _ _ ?_
    | split

theorem State.putWeevils_keeps (s0 s a1 a2 a3 a4) (h : Keeps s0 s) :
    KeepsDone s0 (State.putWeevils s a1 a2 a3 a4) := by
  unfold State.putWeevils
  repeat' first
    | with_reducible assumption
    | with_reducible refine Keeps.ite ?_ ?_
    | with_reducible refine State.putWeevil_keeps _ _ _ _ _ _ ?_
    | with_reducible refine Done.each_keeps _ _ _ _ (fun _ _ _ => ?_) ?_

theorem State.lookPrune_keeps (s0 s a1 a2 a3) (h : Keeps s0 s) :
    Keeps s0 (State.lookPrune s a1 a2 a3) := by
  unfold State.lookPrune
  repeat' first
    | with_reducible assumption
    | with_reducible refine Keeps.ite ?_ ?_
    | with_reducible refine State.readUp_keeps _ _ _ _ _ ?_
    | with_reducible refine Keeps.foldl (fun _ _ _ => ?_) ?_
    | with_reducible refine Keeps.foldPair (fun _ _ _ => ?_) ?_
    | split
    | dsimp only

theorem State.prune_keeps (s0 s a1 a2 a3) (h : Keeps s0 s) :
    KeepsDone s0 (State.prune s a1 a2 a3) := by
  unfold State.prune
  repeat' first
    | with_reducible assumption
    | with_reducible refine Keeps.ite ?_ ?_
    | with_reducible refine State.lookPrune_keeps _ _ _ _ _ ?_
    | with_reducible refine State.lookReach_keeps _ _ _ _ ?_
    | with_reducible refine State.countConv_keeps _ _ _ _ _ ?_
    | with_reducible refine State.putWeevils_keeps _ _ _ _ _ _ ?_
    | with_reducible refine State.givenChk_keeps (fun _ => ?_) ?_
    | split

end Sys2Proof.Machine
end

