-- ==== Sys2Proof/Laws/KeepsErg.lean ====
section
/-!
SUPPORT. What the operations of Erg keep of a state.
-/
namespace Sys2Proof.Machine

theorem State.gatherRun_keeps (s0 s a1 a2 a3 a4 a5 a6) (h : Keeps s0 s) :
    KeepsDone s0 (State.gatherRun s a1 a2 a3 a4 a5 a6) := by
  unfold State.gatherRun
  repeat' first
    | with_reducible assumption
    | with_reducible refine Done.each_keeps _ _ _ _ (fun _ _ _ => ?_) ?_
    | with_reducible refine State.givenChk_keeps (fun _ => ?_) ?_
    | with_reducible refine State.putElems_keeps _ _ _ _ _ _ _ ?_

theorem State.scatterRun_keeps (s0 s a1 a2 a3 a4 a5 a6) (h : Keeps s0 s) :
    KeepsDone s0 (State.scatterRun s a1 a2 a3 a4 a5 a6) := by
  unfold State.scatterRun
  repeat' first
    | with_reducible assumption
    | with_reducible refine Done.each_keeps _ _ _ _ (fun _ _ _ => ?_) ?_
    | with_reducible refine State.givenChk_keeps (fun _ => ?_) ?_
    | with_reducible refine State.putElems_keeps _ _ _ _ _ _ _ ?_

theorem State.keysRun_keeps (s0 s a1 a2 a3 a4 a5 a6 a7) (h : Keeps s0 s) :
    KeepsDone s0 (State.keysRun s a1 a2 a3 a4 a5 a6 a7) := by
  unfold State.keysRun
  repeat' first
    | with_reducible assumption
    | with_reducible refine Keeps.ite ?_ ?_
    | with_reducible refine State.givenChk_keeps (fun _ => ?_) ?_
    | with_reducible refine State.putElems_keeps _ _ _ _ _ _ _ ?_
    | split
    | dsimp only

theorem State.decompressRun_keeps (s0 s a1 a2 a3 a4 a5 a6) (h : Keeps s0 s) :
    KeepsDone s0 (State.decompressRun s a1 a2 a3 a4 a5 a6) := by
  unfold State.decompressRun
  repeat' first
    | with_reducible assumption
    | with_reducible refine Done.each_keeps _ _ _ _ (fun _ _ _ => ?_) ?_
    | with_reducible refine State.givenChk_keeps (fun _ => ?_) ?_
    | with_reducible refine State.putElems_keeps _ _ _ _ _ _ _ ?_

theorem State.topkRun_keeps (s0 s a1 a2 a3 a4 a5 a6) (h : Keeps s0 s) :
    KeepsDone s0 (State.topkRun s a1 a2 a3 a4 a5 a6) := by
  unfold State.topkRun
  repeat' first
    | with_reducible assumption
    | with_reducible refine Done.each_keeps _ _ _ _ (fun _ _ _ => ?_) ?_
    | with_reducible refine State.givenChk_keeps (fun _ => ?_) ?_
    | with_reducible refine State.putElems_keeps _ _ _ _ _ _ _ ?_
    | split
    | dsimp only

theorem State.sumCheckRun_keeps (s0 s a1 a2 a3 a4 a5 a6) (h : Keeps s0 s) :
    KeepsDone s0 (State.sumCheckRun s a1 a2 a3 a4 a5 a6) := by
  unfold State.sumCheckRun
  repeat' first
    | with_reducible assumption
    | with_reducible refine Keeps.ite ?_ ?_
    | with_reducible refine State.putElems_keeps _ _ _ _ _ _ _ ?_
    | with_reducible refine State.givenChk_keeps (fun _ => ?_) ?_

theorem State.attnRun_keeps (s0 s a1 a2 a3 a4 a5 a6) (h : Keeps s0 s) :
    KeepsDone s0 (State.attnRun s a1 a2 a3 a4 a5 a6) := by
  unfold State.attnRun
  repeat' first
    | with_reducible assumption
    | with_reducible refine Keeps.ite ?_ ?_
    | with_reducible refine State.correct_keeps _ _ _ _ ?_
    | with_reducible refine State.store_keeps _ _ _ _ ?_
    | with_reducible refine State.givenChk_keeps (fun _ => ?_) ?_
    | with_reducible refine Keeps.foldl (fun _ _ _ => ?_) ?_
    | with_reducible refine Keeps.foldPair (fun _ _ _ => ?_) ?_
    | split

theorem State.mergeRun_keeps (s0 s a1 a2 a3 a4 a5) (h : Keeps s0 s) :
    KeepsDone s0 (State.mergeRun s a1 a2 a3 a4 a5) := by
  unfold State.mergeRun
  repeat' first
    | with_reducible assumption
    | with_reducible refine Keeps.ite ?_ ?_
    | with_reducible refine State.countConv_keeps _ _ _ _ _ ?_
    | with_reducible refine State.putElems_keeps _ _ _ _ _ _ _ ?_
    | with_reducible refine State.givenChk_keeps (fun _ => ?_) ?_
    | with_reducible refine Done.each_keeps _ _ _ _ (fun _ _ _ => ?_) ?_

theorem State.ergUe_keeps (s0 s a1 a2 a3 a4) (h : Keeps s0 s) :
    Keeps s0 (State.ergUe s a1 a2 a3 a4) := by
  unfold State.ergUe
  repeat' first
    | with_reducible assumption
    | with_reducible refine Keeps.ite ?_ ?_
    | with_reducible refine State.noteUe_keeps _ _ _ _ ?_
    | with_reducible refine State.midStream_keeps _ _ _ _ ?_
    | with_reducible refine State.ueBudgets_keeps _ _ _ ?_

theorem State.ergStop_keeps (s0 s a1 a2 a3) (h : Keeps s0 s) :
    Keeps s0 (State.ergStop s a1 a2 a3) := by
  unfold State.ergStop
  repeat' first
    | with_reducible assumption
    | with_reducible refine Keeps.ite ?_ ?_
    | with_reducible refine State.fault_keeps _ _ _ _ _ _ ?_
    | with_reducible refine State.xltStop_keeps _ _ _ _ _ _ _ _ _ _ ?_
    | with_reducible refine State.ueStop_keeps _ _ _ _ _ _ _ _ _ _ ?_
    | with_reducible refine State.ergUe_keeps _ _ _ _ _ _ ?_
    | split

theorem State.putErgLine_keeps (s0 s a1 a2) (h : Keeps s0 s) :
    Keeps s0 (State.putErgLine s a1 a2) := by
  unfold State.putErgLine
  repeat' first
    | with_reducible assumption
    | with_reducible refine Keeps.ite ?_ ?_
    | with_reducible refine State.putStack_keeps _ _ _ _ ?_

theorem State.ergPop_keeps (s0 s a1) (h : Keeps s0 s) :
    Keeps s0 (State.ergPop s a1) := by
  unfold State.ergPop
  repeat' first
    | with_reducible assumption
    | with_reducible refine Keeps.ite ?_ ?_
    | with_reducible refine State.putErgLine_keeps _ _ _ _ ?_
    | with_reducible refine State.bump_keeps _ _ _ _ _ ?_

theorem State.ergWork_keeps (s0 s a1 a2 a3 a4 a5) (h : Keeps s0 s) :
    KeepsDone s0 (State.ergWork s a1 a2 a3 a4 a5) := by
  unfold State.ergWork
  repeat' first
    | with_reducible assumption
    | with_reducible refine State.gatherRun_keeps _ _ _ _ _ _ _ _ ?_
    | with_reducible refine State.scatterRun_keeps _ _ _ _ _ _ _ _ ?_
    | with_reducible refine State.keysRun_keeps _ _ _ _ _ _ _ _ _ ?_
    | with_reducible refine State.decompressRun_keeps _ _ _ _ _ _ _ _ ?_
    | with_reducible refine State.topkRun_keeps _ _ _ _ _ _ _ _ ?_
    | with_reducible refine State.sumCheckRun_keeps _ _ _ _ _ _ _ _ ?_
    | with_reducible refine State.attnRun_keeps _ _ _ _ _ _ _ _ ?_
    | split

theorem State.ergRun_keeps (s0 s a1 a2 a3 a4 a5) (h : Keeps s0 s) :
    KeepsDone s0 (State.ergRun s a1 a2 a3 a4 a5) := by
  unfold State.ergRun
  repeat' first
    | with_reducible assumption
    | with_reducible refine Keeps.ite ?_ ?_
    | with_reducible refine State.lookReach_keeps _ _ _ _ ?_
    | with_reducible refine State.ergWork_keeps _ _ _ _ _ _ _ ?_
    | with_reducible refine State.givenChk_keeps (fun _ => ?_) ?_

theorem State.ergGo_keeps (s0 s a1 a2) (h : Keeps s0 s) :
    Keeps s0 (State.ergGo s a1 a2) := by
  unfold State.ergGo
  repeat' first
    | with_reducible assumption
    | with_reducible exact Nat.le_refl _
    | with_reducible exact Nat.le_add_right _ _
    | with_reducible exact List.prefix_refl _
    | with_reducible refine Keeps.ite ?_ ?_
    | with_reducible refine State.ergRun_keeps _ _ _ _ _ _ _ ?_
    | with_reducible refine State.countOob_keeps _ _ _ _ ?_
    | with_reducible refine State.ergStop_keeps _ _ _ _ _ ?_
    | with_reducible refine State.ergPop_keeps _ _ _ ?_
    | with_reducible refine State.putCtx_keeps _ _ _ _ ?_
    | split
    | dsimp only

theorem execGather_keeps (s0 a0 s) (h : Keeps s0 s) :
    KeepsRes s0 (execGather a0 s) := by
  unfold execGather
  repeat' first
    | with_reducible assumption
    | with_reducible refine KeepsRes.next ?_
    | with_reducible refine Keeps.ite ?_ ?_
    | with_reducible refine State.ergGo_keeps _ _ _ _ ?_

theorem execScatter_keeps (s0 a0 s) (h : Keeps s0 s) :
    KeepsRes s0 (execScatter a0 s) := by
  unfold execScatter
  repeat' first
    | with_reducible assumption
    | with_reducible refine KeepsRes.next ?_
    | with_reducible refine Keeps.ite ?_ ?_
    | with_reducible refine State.ergGo_keeps _ _ _ _ ?_

theorem execMerge_keeps (s0 a0 s) (h : Keeps s0 s) :
    KeepsRes s0 (execMerge a0 s) := by
  unfold execMerge
  repeat' first
    | with_reducible assumption
    | with_reducible refine KeepsRes.next ?_
    | with_reducible refine Keeps.ite ?_ ?_
    | with_reducible refine State.ergGo_keeps _ _ _ _ ?_

theorem execIntersect_keeps (s0 a0 s) (h : Keeps s0 s) :
    KeepsRes s0 (execIntersect a0 s) := by
  unfold execIntersect
  repeat' first
    | with_reducible assumption
    | with_reducible refine KeepsRes.next ?_
    | with_reducible refine Keeps.ite ?_ ?_
    | with_reducible refine State.ergGo_keeps _ _ _ _ ?_

theorem execDecompress_keeps (s0 a0 s) (h : Keeps s0 s) :
    KeepsRes s0 (execDecompress a0 s) := by
  unfold execDecompress
  repeat' first
    | with_reducible assumption
    | with_reducible refine KeepsRes.next ?_
    | with_reducible refine Keeps.ite ?_ ?_
    | with_reducible refine State.ergGo_keeps _ _ _ _ ?_

theorem execTopkRow_keeps (s0 a0 s) (h : Keeps s0 s) :
    KeepsRes s0 (execTopkRow a0 s) := by
  unfold execTopkRow
  repeat' first
    | with_reducible assumption
    | with_reducible refine KeepsRes.next ?_
    | with_reducible refine Keeps.ite ?_ ?_
    | with_reducible refine State.ergGo_keeps _ _ _ _ ?_

theorem execDecodeAttn_keeps (s0 a0 s) (h : Keeps s0 s) :
    KeepsRes s0 (execDecodeAttn a0 s) := by
  unfold execDecodeAttn
  repeat' first
    | with_reducible assumption
    | with_reducible refine KeepsRes.next ?_
    | with_reducible refine Keeps.ite ?_ ?_
    | with_reducible refine State.ergGo_keeps _ _ _ _ ?_

theorem State.mergeOn_keeps (s0 s a1 a2 a3) (h : Keeps s0 s) :
    KeepsDone s0 (State.mergeOn s a1 a2 a3) := by
  unfold State.mergeOn
  repeat' first
    | with_reducible assumption
    | with_reducible refine Keeps.ite ?_ ?_
    | with_reducible refine State.lookReach_keeps _ _ _ _ ?_
    | with_reducible refine State.correctAll_keeps _ _ _ ?_
    | with_reducible refine State.mergeRun_keeps _ _ _ _ _ _ _ ?_
    | with_reducible refine State.givenChk_keeps (fun _ => ?_) ?_
    | split

theorem execDecodeAttnMerge_keeps (s0 a0 s) (h : Keeps s0 s) :
    KeepsRes s0 (execDecodeAttnMerge a0 s) := by
  unfold execDecodeAttnMerge
  repeat' first
    | with_reducible assumption
    | with_reducible exact Nat.le_refl _
    | with_reducible exact Nat.le_add_right _ _
    | with_reducible exact List.prefix_refl _
    | with_reducible refine KeepsRes.next ?_
    | with_reducible refine Keeps.ite ?_ ?_
    | with_reducible refine State.mergeOn_keeps _ _ _ _ _ ?_
    | with_reducible refine State.countOob_keeps _ _ _ _ ?_
    | with_reducible refine State.stopBy_keeps _ _ _ _ _ _ _ _ _ _ ?_
    | with_reducible refine State.putCtx_keeps _ _ _ _ ?_
    | with_reducible refine State.givenChk_keeps (fun _ => ?_) ?_
    | split
    | dsimp only

theorem State.sendErg_keeps (s0 s a1 a2 a3) (h : Keeps s0 s) :
    Keeps s0 (State.sendErg s a1 a2 a3) := by
  unfold State.sendErg
  repeat' first
    | with_reducible assumption
    | with_reducible refine Keeps.ite ?_ ?_
    | with_reducible refine State.putErgLine_keeps _ _ _ _ ?_

theorem State.copyQuery_keeps (s0 s a1 a2) (h : Keeps s0 s) :
    KeepsChk s0 (State.copyQuery s a1 a2) := by
  unfold State.copyQuery
  repeat' first
    | with_reducible assumption
    | exact KeepsChk.error
    | with_reducible refine KeepsChk.ok ?_
    | with_reducible refine KeepsChk.pure ?_
    | with_reducible refine KeepsChk.mapState ?_ (fun _ _ => ?_)
    | with_reducible refine KeepsChk.map (fun _ => ?_)
    | refine KeepsChk.foldlOk (fun _ _ _ => ?_) ?_
    | with_reducible exact Keeps.ofOk rfl (by assumption)
    | with_reducible refine KeepsChk.ite ?_ ?_
    | refine KeepsChk.bind (fun _ => ?_)
    | with_reducible refine State.store_keeps _ _ _ _ ?_
    | with_reducible refine Keeps.foldl (fun _ _ _ => ?_) ?_

theorem State.judgePages_keeps (s0 s a1 a2 a3 a4 a5) (h : Keeps s0 s) :
    KeepsDone s0 (State.judgePages s a1 a2 a3 a4 a5) := by
  unfold State.judgePages
  repeat' first
    | with_reducible assumption
    | with_reducible refine Keeps.ite ?_ ?_
    | with_reducible refine State.lookReach_keeps _ _ _ _ ?_
    | with_reducible refine State.givenChk_keeps (fun _ => ?_) ?_
    | split
    | dsimp only

theorem State.firmwareStop_keeps (s0 s a1 a2) (h : Keeps s0 s) :
    Keeps s0 (State.firmwareStop s a1 a2) := by
  unfold State.firmwareStop
  repeat' first
    | with_reducible assumption
    | with_reducible refine Keeps.ite ?_ ?_
    | with_reducible refine State.firmwareUe_keeps _ _ _ _ _ ?_
    | with_reducible refine State.stopBy_keeps _ _ _ _ _ _ _ _ _ _ ?_
    | split

theorem State.sendAttn_keeps (s0 s a1 a2 a3 a4) (h : Keeps s0 s) :
    Keeps s0 (State.sendAttn s a1 a2 a3 a4) := by
  unfold State.sendAttn
  repeat' first
    | with_reducible assumption
    | with_reducible refine Keeps.ite ?_ ?_
    | with_reducible refine State.mend_keeps _ _ _ ?_
    | with_reducible refine State.judgePages_keeps _ _ _ _ _ _ _ ?_
    | with_reducible refine State.copyQuery_keeps _ _ _ _ ?_
    | with_reducible refine State.upTo_keeps _ _ _ ?_ ?_
    | with_reducible refine State.firmwareStop_keeps _ _ _ _ ?_
    | with_reducible refine State.sendErg_keeps _ _ _ _ _ ?_
    | with_reducible refine State.putCtx_keeps _ _ _ _ ?_
    | with_reducible refine Keeps.ofOk (by assumption) ?_
    | with_reducible refine Keeps.foldl (fun _ _ _ => ?_) ?_
    | with_reducible refine Keeps.foldPair (fun _ _ _ => ?_) ?_
    | split
    | dsimp only

theorem execErgRecordSend_keeps (s0 a0 s) (h : Keeps s0 s) :
    KeepsRes s0 (execErgRecordSend a0 s) := by
  unfold execErgRecordSend
  repeat' first
    | with_reducible assumption
    | with_reducible refine KeepsRes.next ?_
    | with_reducible refine Keeps.ite ?_ ?_
    | with_reducible refine State.sendAttn_keeps _ _ _ _ _ _ ?_
    | with_reducible refine State.sendErg_keeps _ _ _ _ _ ?_
    | with_reducible refine State.putCtx_keeps _ _ _ _ ?_
    | split
    | dsimp only

theorem execErgOpTimeout_keeps (s0 a0 s) (h : Keeps s0 s) :
    KeepsRes s0 (execErgOpTimeout a0 s) := by
  unfold execErgOpTimeout
  repeat' first
    | with_reducible assumption
    | with_reducible refine KeepsRes.next ?_
    | with_reducible refine Keeps.ite ?_ ?_
    | with_reducible refine State.engineFails_keeps _ _ _ _ ?_

theorem execHbmPatrol_keeps (s0 a0 a1 a2 s) (h : Keeps s0 s) :
    KeepsRes s0 (execHbmPatrol a0 a1 a2 s) := by
  unfold execHbmPatrol
  repeat' first
    | with_reducible assumption
    | with_reducible refine KeepsRes.next ?_
    | with_reducible refine Keeps.ite ?_ ?_
    | with_reducible refine State.bump_keeps _ _ _ _ _ ?_
    | with_reducible refine State.noteUe_keeps _ _ _ _ ?_
    | with_reducible refine State.ueBudget_keeps _ _ _ ?_
    | with_reducible refine State.correct_keeps _ _ _ _ ?_

theorem execPchNoResponse_keeps (s0 a0 s) (h : Keeps s0 s) :
    KeepsRes s0 (execPchNoResponse a0 s) := by
  unfold execPchNoResponse
  repeat' first
    | with_reducible assumption
    | with_reducible refine KeepsRes.next ?_
    | with_reducible refine Keeps.ite ?_ ?_
    | with_reducible refine State.stackFault_keeps _ _ _ _ ?_

end Sys2Proof.Machine
end

