-- ==== Sys2Proof/Laws/KeepsSpill.lean ====
section
/-!
SUPPORT. What the operations of Spill keep of a state.
-/
namespace Sys2Proof.Machine

theorem State.writeSpqCfg_keeps (s0 s a1 a2 a3 a4) (h : Keeps s0 s) :
    Keeps s0 (State.writeSpqCfg s a1 a2 a3 a4) := by
  unfold State.writeSpqCfg
  repeat' first
    | with_reducible assumption
    | with_reducible refine Keeps.ite ?_ ?_
    | with_reducible refine State.plainWrite_keeps _ _ _ _ _ ?_
    | with_reducible refine State.tryEnable_keeps _ _ _ ?_

theorem execSpqEnable_keeps (s0 a0 a1 s) (h : Keeps s0 s) :
    KeepsRes s0 (execSpqEnable a0 a1 s) := by
  unfold execSpqEnable
  repeat' first
    | with_reducible assumption
    | with_reducible refine KeepsRes.next ?_
    | with_reducible refine Keeps.ite ?_ ?_
    | with_reducible refine State.writeSpqCfg_keeps _ _ _ _ _ _ ?_

theorem State.requestFlush_keeps (s0 s a1) (h : Keeps s0 s) :
    Keeps s0 (State.requestFlush s a1) := by
  unfold State.requestFlush
  repeat' first
    | with_reducible assumption
    | with_reducible refine State.bump_keeps _ _ _ _ _ ?_
    | with_reducible refine State.putQ_keeps _ _ _ _ ?_

theorem execFlush_keeps (s0 a0 s) (h : Keeps s0 s) :
    KeepsRes s0 (execFlush a0 s) := by
  unfold execFlush
  repeat' first
    | with_reducible assumption
    | with_reducible refine KeepsRes.next ?_
    | with_reducible refine Keeps.ite ?_ ?_
    | with_reducible refine State.requestFlush_keeps _ _ _ ?_

theorem State.flushQueue_keeps (s0 s a1) (h : Keeps s0 s) :
    Keeps s0 (State.flushQueue s a1) := by
  unfold State.flushQueue
  repeat' first
    | with_reducible assumption
    | with_reducible exact Nat.le_refl _
    | with_reducible exact Nat.le_add_right _ _
    | with_reducible exact List.prefix_refl _
    | with_reducible refine Keeps.ite ?_ ?_
    | with_reducible refine State.setQueue_keeps _ _ _ _ ?_
    | with_reducible refine State.withWadi_keeps _ _ _ ?_

theorem execFlushEffect_keeps (s0 a0 s) (h : Keeps s0 s) :
    KeepsRes s0 (execFlushEffect a0 s) := by
  unfold execFlushEffect
  repeat' first
    | with_reducible assumption
    | with_reducible refine KeepsRes.next ?_
    | with_reducible refine Keeps.ite ?_ ?_
    | with_reducible refine State.flushQueue_keeps _ _ _ ?_

theorem execRelease_keeps (s0 a0 s) (h : Keeps s0 s) :
    KeepsRes s0 (execRelease a0 s) := by
  unfold execRelease
  repeat' first
    | with_reducible assumption
    | with_reducible refine KeepsRes.next ?_
    | with_reducible refine Keeps.ite ?_ ?_
    | with_reducible refine State.setQueue_keeps _ _ _ _ ?_

theorem execRewind_keeps (s0 a0 s) (h : Keeps s0 s) :
    KeepsRes s0 (execRewind a0 s) := by
  unfold execRewind
  repeat' first
    | with_reducible assumption
    | with_reducible refine KeepsRes.next ?_
    | with_reducible refine Keeps.ite ?_ ?_
    | with_reducible refine State.setQueue_keeps _ _ _ _ ?_

theorem execMark_keeps (s0 a0 s) (h : Keeps s0 s) :
    KeepsRes s0 (execMark a0 s) := by
  unfold execMark
  repeat' first
    | with_reducible assumption
    | with_reducible refine KeepsRes.next ?_
    | with_reducible refine Keeps.ite ?_ ?_
    | with_reducible refine State.setQueue_keeps _ _ _ _ ?_

theorem execClearMark_keeps (s0 a0 s) (h : Keeps s0 s) :
    KeepsRes s0 (execClearMark a0 s) := by
  unfold execClearMark
  repeat' first
    | with_reducible assumption
    | with_reducible refine KeepsRes.next ?_
    | with_reducible refine Keeps.ite ?_ ?_
    | with_reducible refine State.setQueue_keeps _ _ _ _ ?_

theorem State.spqCtl_keeps (s0 s a1 a2) (h : Keeps s0 s) :
    Keeps s0 (State.spqCtl s a1 a2) := by
  unfold State.spqCtl
  repeat' first
    | with_reducible assumption
    | with_reducible refine Keeps.ite ?_ ?_
    | with_reducible refine State.setQueue_keeps _ _ _ _ ?_
    | with_reducible refine State.requestFlush_keeps _ _ _ ?_

theorem execSpqPush_keeps (s0 a0 a1 a2 s) (h : Keeps s0 s) :
    KeepsRes s0 (execSpqPush a0 a1 a2 s) := by
  unfold execSpqPush
  repeat' first
    | with_reducible assumption
    | with_reducible refine KeepsRes.next ?_
    | with_reducible refine Keeps.ite ?_ ?_
    | with_reducible refine State.pushed_keeps _ _ _ _ ?_

theorem State.countSpillErr_keeps (s0 s a1 a2) (h : Keeps s0 s) :
    Keeps s0 (State.countSpillErr s a1 a2) := by
  unfold State.countSpillErr
  repeat' first
    | with_reducible assumption
    | with_reducible refine Keeps.ite ?_ ?_
    | with_reducible refine State.noteUe_keeps _ _ _ _ ?_
    | with_reducible refine State.noteParities_keeps _ _ _ _ _ _ ?_
    | with_reducible refine Keeps.elim ?_ (fun _ => ?_)
    | with_reducible refine Keeps.foldl (fun _ _ _ => ?_) ?_

theorem State.spillBudget_keeps (s0 s a1 a2 a3) (h : Keeps s0 s) :
    Keeps s0 (State.spillBudget s a1 a2 a3) := by
  unfold State.spillBudget
  repeat' first
    | with_reducible assumption
    | with_reducible refine Keeps.ite ?_ ?_
    | with_reducible refine State.ueBudget_keeps _ _ _ ?_
    | with_reducible refine State.parityBudget_keeps _ _ _ _ ?_
    | with_reducible refine Keeps.elim ?_ (fun _ => ?_)

theorem State.spillFault_keeps (s0 s a1 a2) (h : Keeps s0 s) :
    Keeps s0 (State.spillFault s a1 a2) := by
  unfold State.spillFault
  repeat' first
    | with_reducible assumption
    | with_reducible refine Keeps.ite ?_ ?_
    | with_reducible refine State.noteStream_keeps _ _ _ _ _ _ ?_
    | with_reducible refine State.midStream_keeps _ _ _ _ ?_

theorem State.loseWord_keeps (s0 s a1 a2) (h : Keeps s0 s) :
    Keeps s0 (State.loseWord s a1 a2) := by
  unfold State.loseWord
  repeat' first
    | with_reducible assumption
    | with_reducible exact Nat.le_refl _
    | with_reducible exact Nat.le_add_right _ _
    | with_reducible exact List.prefix_refl _
    | with_reducible refine Keeps.ite ?_ ?_
    | with_reducible refine State.countSpillErr_keeps _ _ _ _ ?_
    | with_reducible refine State.spillFault_keeps _ _ _ _ ?_
    | with_reducible refine State.setQueue_keeps _ _ _ _ ?_
    | with_reducible refine State.spillBudget_keeps _ _ _ _ _ ?_

theorem State.readSpill_keeps (s0 s a1 a2) (h : Keeps s0 s) :
    Keeps s0 (State.readSpill s a1 a2) := by
  unfold State.readSpill
  repeat' first
    | with_reducible assumption
    | with_reducible refine Keeps.ite ?_ ?_
    | with_reducible refine State.correctSpill_keeps _ _ _ _ ?_
    | with_reducible refine State.noteAcc_keeps _ _ _ _ ?_
    | with_reducible refine Keeps.elim ?_ (fun _ => ?_)

theorem State.readQueue_keeps (s0 s a1) (h : Keeps s0 s) :
    Keeps s0 (State.readQueue s a1) := by
  unfold State.readQueue
  repeat' first
    | with_reducible assumption
    | with_reducible refine Keeps.ite ?_ ?_
    | with_reducible refine State.readSpill_keeps _ _ _ _ ?_
    | with_reducible refine State.loseWord_keeps _ _ _ _ ?_
    | with_reducible refine State.setQueue_keeps _ _ _ _ ?_
    | split
    | dsimp only

theorem execSpqRead_keeps (s0 a0 s) (h : Keeps s0 s) :
    KeepsRes s0 (execSpqRead a0 s) := by
  unfold execSpqRead
  repeat' first
    | with_reducible assumption
    | with_reducible refine KeepsRes.next ?_
    | with_reducible refine Keeps.ite ?_ ?_
    | with_reducible refine State.readQueue_keeps _ _ _ ?_

theorem execSpqTimeout_keeps (s0 a0 s) (h : Keeps s0 s) :
    KeepsRes s0 (execSpqTimeout a0 s) := by
  unfold execSpqTimeout
  repeat' first
    | with_reducible assumption
    | with_reducible refine KeepsRes.next ?_
    | with_reducible refine Keeps.ite ?_ ?_
    | with_reducible refine State.bump_keeps _ _ _ _ _ ?_
    | with_reducible refine State.putQ_keeps _ _ _ _ ?_

theorem execSpqCloseArrival_keeps (s0 a0 s) (h : Keeps s0 s) :
    KeepsRes s0 (execSpqCloseArrival a0 s) := by
  unfold execSpqCloseArrival
  repeat' first
    | with_reducible assumption
    | with_reducible refine KeepsRes.next ?_
    | with_reducible refine Keeps.ite ?_ ?_
    | with_reducible refine State.setQueue_keeps _ _ _ _ ?_

theorem State.returnOne_keeps (s0 s a1) (h : Keeps s0 s) :
    Keeps s0 (State.returnOne s a1) := by
  unfold State.returnOne
  repeat' first
    | with_reducible assumption
    | with_reducible exact Nat.le_refl _
    | with_reducible exact Nat.le_add_right _ _
    | with_reducible exact List.prefix_refl _
    | with_reducible refine Keeps.ite ?_ ?_
    | with_reducible refine State.setQueue_keeps _ _ _ _ ?_
    | split
    | dsimp only
    | exact Nat.le_add_right _ _
    | exact Nat.le_refl _
    | exact List.prefix_refl _
    | with_reducible refine Keeps.setAnt ?_
    | with_reducible refine Keeps.upd ?_ ?_ ?_

theorem execSpqCreditReturn_keeps (s0 a0 s) (h : Keeps s0 s) :
    KeepsRes s0 (execSpqCreditReturn a0 s) := by
  unfold execSpqCreditReturn
  repeat' first
    | with_reducible assumption
    | with_reducible refine KeepsRes.next ?_
    | with_reducible refine Keeps.ite ?_ ?_
    | with_reducible refine State.returnOne_keeps _ _ _ ?_

end Sys2Proof.Machine
end

