-- ==== Sys2Proof/Laws/KeepsSwarm.lean ====
section
/-!
SUPPORT. What the operations of Swarm keep of a state.
-/
namespace Sys2Proof.Machine

theorem State.swarmSend_keeps (s0 s a1 a2 a3 a4) (h : Keeps s0 s) :
    Keeps s0 (State.swarmSend s a1 a2 a3 a4) := by
  unfold State.swarmSend
  repeat' first
    | with_reducible assumption
    | with_reducible refine Keeps.ite ?_ ?_
    | with_reducible refine State.sendFor_keeps _ _ _ _ _ _ _ ?_

theorem State.swarmAll_keeps (s0 s a1 a2 a3) (h : Keeps s0 s) :
    Keeps s0 (State.swarmAll s a1 a2 a3) := by
  unfold State.swarmAll
  repeat' first
    | with_reducible assumption
    | with_reducible refine State.swarmSend_keeps _ _ _ _ _ _ ?_
    | with_reducible refine Keeps.foldl (fun _ _ _ => ?_) ?_

theorem State.dropSwarm_keeps (s0 s a1 a2 a3) (h : Keeps s0 s) :
    Keeps s0 (State.dropSwarm s a1 a2 a3) := by
  unfold State.dropSwarm
  repeat' first
    | with_reducible assumption
    | with_reducible refine Keeps.ite ?_ ?_
    | with_reducible refine State.consumeHead_keeps _ _ _ _ _ ?_

theorem State.swarmTakes_keeps (s0 s a1 a2 a3 a4) (k4 : ∀ x0, Keeps s0 x0 → Keeps s0 (a4 x0)) (h : Keeps s0 s) :
    Keeps s0 (State.swarmTakes s a1 a2 a3 a4) := by
  unfold State.swarmTakes
  repeat' first
    | with_reducible assumption
    | with_reducible refine k4 _ ?_
    | with_reducible refine Keeps.ite ?_ ?_
    | with_reducible refine State.dropSwarm_keeps _ _ _ _ _ ?_

theorem State.putSwarm_keeps (s0 s a1) (h : Keeps s0 s) :
    Keeps s0 (State.putSwarm s a1) := by
  unfold State.putSwarm
  repeat' first
    | with_reducible assumption
    | with_reducible exact Nat.le_refl _
    | with_reducible exact Nat.le_add_right _ _
    | with_reducible exact List.prefix_refl _
    | dsimp only
    | exact Nat.le_add_right _ _
    | exact Nat.le_refl _
    | exact List.prefix_refl _
    | with_reducible refine Keeps.setAnt ?_
    | with_reducible refine Keeps.upd ?_ ?_ ?_

theorem State.sendPartial_keeps (s0 s a1 a2 a3 a4 a5 a6 a7 a8) (h : Keeps s0 s) :
    KeepsChk s0 (State.sendPartial s a1 a2 a3 a4 a5 a6 a7 a8) := by
  unfold State.sendPartial
  repeat' first
    | with_reducible assumption
    | exact KeepsChk.error
    | with_reducible refine KeepsChk.ok ?_
    | with_reducible refine KeepsChk.pure ?_
    | with_reducible refine KeepsChk.mapState ?_ (fun _ _ => ?_)
    | with_reducible refine KeepsChk.map (fun _ => ?_)
    | with_reducible refine KeepsChk.ite ?_ ?_
    | refine KeepsChk.bind (fun _ => ?_)
    | with_reducible refine State.putSwarm_keeps _ _ _ ?_
    | with_reducible refine State.swarmSend_keeps _ _ _ _ _ _ ?_

theorem State.writeCodes_keeps (s0 s a1 a2 a3 a4 a5 a6) (h : Keeps s0 s) :
    KeepsDone s0 (State.writeCodes s a1 a2 a3 a4 a5 a6) := by
  unfold State.writeCodes
  repeat' first
    | with_reducible assumption
    | with_reducible refine Keeps.ite ?_ ?_
    | with_reducible refine State.lookReach_keeps _ _ _ _ ?_
    | with_reducible refine State.putOn_keeps _ _ _ _ _ _ _ ?_
    | with_reducible refine State.givenChk_keeps (fun _ => ?_) ?_
    | split

theorem State.slotReduced_keeps (s0 s a1 a2 a3 a4 a5 a6) (h : Keeps s0 s) :
    KeepsDone s0 (State.slotReduced s a1 a2 a3 a4 a5 a6) := by
  unfold State.slotReduced
  repeat' first
    | with_reducible assumption
    | with_reducible exact Nat.le_refl _
    | with_reducible exact Nat.le_add_right _ _
    | with_reducible exact List.prefix_refl _
    | with_reducible refine Keeps.ite ?_ ?_
    | with_reducible refine State.readUp_keeps _ _ _ _ _ ?_
    | with_reducible refine State.putOn_keeps _ _ _ _ _ _ _ ?_
    | with_reducible refine State.putSwarm_keeps _ _ _ ?_
    | with_reducible refine State.givenChk_keeps (fun _ => ?_) ?_

theorem State.finishBlock_keeps (s0 s a1 a2 a3 a4 a5 a6) (h : Keeps s0 s) :
    KeepsDone s0 (State.finishBlock s a1 a2 a3 a4 a5 a6) := by
  unfold State.finishBlock
  repeat' first
    | with_reducible assumption
    | with_reducible exact Nat.le_refl _
    | with_reducible exact Nat.le_add_right _ _
    | with_reducible exact List.prefix_refl _
    | with_reducible refine Keeps.ite ?_ ?_
    | with_reducible refine State.putOn_keeps _ _ _ _ _ _ _ ?_
    | with_reducible refine State.writeCodes_keeps _ _ _ _ _ _ _ _ ?_
    | with_reducible refine State.putSwarm_keeps _ _ _ ?_
    | with_reducible refine State.slotReduced_keeps _ _ _ _ _ _ _ _ ?_
    | split
    | dsimp only

theorem State.writeResiduals_keeps (s0 s a1 a2 a3) (h : Keeps s0 s) :
    KeepsDone s0 (State.writeResiduals s a1 a2 a3) := by
  unfold State.writeResiduals
  repeat' first
    | with_reducible assumption
    | with_reducible refine Keeps.ite ?_ ?_
    | with_reducible refine State.lookReach_keeps _ _ _ _ ?_
    | with_reducible refine State.putOn_keeps _ _ _ _ _ _ _ ?_
    | with_reducible refine State.givenChk_keeps (fun _ => ?_) ?_
    | with_reducible refine Done.each_keeps _ _ _ _ (fun _ _ _ => ?_) ?_
    | split

theorem State.sendFirstHop_keeps (s0 s a1 a2 a3) (h : Keeps s0 s) :
    KeepsDone s0 (State.sendFirstHop s a1 a2 a3) := by
  unfold State.sendFirstHop
  repeat' first
    | with_reducible assumption
    | with_reducible refine Keeps.ite ?_ ?_
    | with_reducible refine State.lookReach_keeps _ _ _ _ ?_
    | with_reducible refine State.upTo_keeps _ _ _ ?_ ?_
    | with_reducible refine State.countConv_keeps _ _ _ _ _ ?_
    | with_reducible refine State.sendPartial_keeps _ _ _ _ _ _ _ _ _ _ ?_
    | with_reducible refine Keeps.givenState (fun _ _ => ?_) ?_ ?_
    | with_reducible refine State.givenChk_keeps (fun _ => ?_) ?_

theorem Done.orStop_keeps (s0 d c) (h : KeepsDone s0 d) : Keeps s0 (Done.orStop d c) := by
  unfold Done.orStop
  dsimp only
  split
  · exact h
  · exact State.stopBy_keeps _ _ _ _ _ _ _ _ _ _ h

theorem Done.orEnd_keeps (s0 d) (h : KeepsDone s0 d) : Keeps s0 (Done.orEnd d) := by
  unfold Done.orEnd
  split
  · exact h
  · exact State.firmwareStop_keeps _ _ _ _ h

theorem State.pumpHops_keeps (s0 a0 s) (h : Keeps s0 s) :
    Keeps s0 (State.pumpHops a0 s) := by
  induction a0 generalizing s with
  | zero => exact h
  | succ a0 ih =>
  unfold State.pumpHops
  repeat' first
    | with_reducible assumption
    | with_reducible refine ih _ ?_
    | with_reducible refine Keeps.ite ?_ ?_
    | with_reducible refine State.putSwarm_keeps _ _ _ ?_
    | with_reducible refine State.sendFirstHop_keeps _ _ _ _ _ ?_
    | with_reducible refine Done.orStop_keeps _ _ _ ?_
    | split
    | dsimp only

theorem State.sendChecks_keeps (s0 s a1 a2 a3) (h : Keeps s0 s) :
    KeepsDone s0 (State.sendChecks s a1 a2 a3) := by
  unfold State.sendChecks
  repeat' first
    | with_reducible assumption
    | with_reducible refine Keeps.ite ?_ ?_
    | with_reducible refine State.lookReach_keeps _ _ _ _ ?_
    | with_reducible refine State.swarmSend_keeps _ _ _ _ _ _ ?_
    | with_reducible refine State.givenChk_keeps (fun _ => ?_) ?_
    | with_reducible refine Done.each_keeps _ _ _ _ (fun _ _ _ => ?_) ?_

theorem State.startAccs_keeps (s0 s a1) (h : Keeps s0 s) :
    Keeps s0 (State.startAccs s a1) := by
  unfold State.startAccs
  repeat' first
    | with_reducible assumption
    | with_reducible exact Nat.le_refl _
    | with_reducible exact Nat.le_add_right _ _
    | with_reducible exact List.prefix_refl _
    | with_reducible refine Keeps.ite ?_ ?_
    | with_reducible refine State.lookReach_keeps _ _ _ _ ?_
    | with_reducible refine State.putSwarm_keeps _ _ _ ?_
    | with_reducible refine State.givenChk_keeps (fun _ => ?_) ?_
    | with_reducible refine Done.orStop_keeps _ _ _ ?_
    | with_reducible refine Keeps.foldl (fun _ _ _ => ?_) ?_

theorem State.issueCheck_keeps (s0 s a1 a2) (h : Keeps s0 s) :
    KeepsDone s0 (State.issueCheck s a1 a2) := by
  unfold State.issueCheck
  repeat' first
    | with_reducible assumption
    | with_reducible exact Nat.le_refl _
    | with_reducible exact Nat.le_add_right _ _
    | with_reducible exact List.prefix_refl _
    | with_reducible refine Keeps.ite ?_ ?_
    | with_reducible refine State.issued_keeps _ _ _ _ _ _ ?_
    | with_reducible refine State.putOn_keeps _ _ _ _ _ _ _ ?_
    | with_reducible refine State.sendErg_keeps _ _ _ _ _ ?_
    | with_reducible refine State.bump_keeps _ _ _ _ _ ?_
    | with_reducible refine State.putSwarm_keeps _ _ _ ?_
    | with_reducible refine State.givenChk_keeps (fun _ => ?_) ?_
    | split
    | dsimp only

theorem State.mismatch_keeps (s0 s a1 a2 a3) (h : Keeps s0 s) :
    Keeps s0 (State.mismatch s a1 a2 a3) := by
  unfold State.mismatch
  repeat' first
    | with_reducible assumption
    | with_reducible refine Keeps.ite ?_ ?_
    | with_reducible refine State.bump_keeps _ _ _ _ _ ?_
    | with_reducible refine State.swarmAll_keeps _ _ _ _ _ ?_
    | with_reducible refine State.fault_keeps _ _ _ _ _ _ ?_

theorem State.runCheck_keeps (s0 s a1 a2 a3) (h : Keeps s0 s) :
    Keeps s0 (State.runCheck s a1 a2 a3) := by
  unfold State.runCheck
  repeat' first
    | with_reducible assumption
    | with_reducible exact Nat.le_refl _
    | with_reducible exact Nat.le_add_right _ _
    | with_reducible exact List.prefix_refl _
    | with_reducible refine Keeps.ite ?_ ?_
    | with_reducible refine State.lookReach_keeps _ _ _ _ ?_
    | with_reducible refine State.ergStop_keeps _ _ _ _ _ ?_
    | with_reducible refine State.store_keeps _ _ _ _ ?_
    | with_reducible refine State.ergPop_keeps _ _ _ ?_
    | with_reducible refine State.putSwarm_keeps _ _ _ ?_
    | with_reducible refine State.mismatch_keeps _ _ _ _ _ ?_
    | with_reducible refine Keeps.elim ?_ (fun _ => ?_)
    | split
    | dsimp only

theorem State.pumpShadow_keeps (s0 a0 s) (h : Keeps s0 s) :
    Keeps s0 (State.pumpShadow a0 s) := by
  induction a0 generalizing s with
  | zero => exact h
  | succ a0 ih =>
  unfold State.pumpShadow
  repeat' first
    | with_reducible assumption
    | with_reducible refine ih _ ?_
    | with_reducible refine Keeps.ite ?_ ?_
    | with_reducible refine State.askCredits_keeps _ _ _ _ ?_
    | with_reducible refine State.readUp_keeps _ _ _ _ _ ?_
    | with_reducible refine State.firmwareStop_keeps _ _ _ _ ?_
    | with_reducible refine State.sendWindowWrite_keeps _ _ _ _ _ _ ?_
    | with_reducible refine State.putSwarm_keeps _ _ _ ?_
    | split
    | dsimp only

theorem State.pumpShadows_keeps (s0 s) (h : Keeps s0 s) :
    Keeps s0 (State.pumpShadows s) := by
  unfold State.pumpShadows
  repeat' first
    | with_reducible assumption
    | with_reducible refine State.pumpShadow_keeps _ _ _ ?_

theorem State.passChunk_keeps (s0 s a1 a2 a3 a4 a5) (h : Keeps s0 s) :
    KeepsDone s0 (State.passChunk s a1 a2 a3 a4 a5) := by
  unfold State.passChunk
  repeat' first
    | with_reducible assumption
    | with_reducible exact Nat.le_refl _
    | with_reducible exact Nat.le_add_right _ _
    | with_reducible exact List.prefix_refl _
    | with_reducible refine Keeps.ite ?_ ?_
    | with_reducible refine State.putSwarm_keeps _ _ _ ?_
    | with_reducible refine State.readUp_keeps _ _ _ _ _ ?_
    | with_reducible refine State.swarmSend_keeps _ _ _ _ _ _ ?_
    | with_reducible refine State.givenChk_keeps (fun _ => ?_) ?_
    | split

theorem State.startGather_keeps (s0 s a1) (h : Keeps s0 s) :
    KeepsDone s0 (State.startGather s a1) := by
  unfold State.startGather
  repeat' first
    | with_reducible assumption
    | with_reducible exact Nat.le_refl _
    | with_reducible exact Nat.le_add_right _ _
    | with_reducible exact List.prefix_refl _
    | with_reducible refine Keeps.ite ?_ ?_
    | with_reducible refine State.putSwarm_keeps _ _ _ ?_
    | with_reducible refine State.passChunk_keeps _ _ _ _ _ _ _ ?_
    | with_reducible refine State.pumpShadows_keeps _ _ ?_
    | with_reducible refine State.givenChk_keeps (fun _ => ?_) ?_
    | with_reducible refine Done.each_keeps _ _ _ _ (fun _ _ _ => ?_) ?_

theorem State.setAnchor_keeps (s0 s a1) (h : Keeps s0 s) :
    Keeps s0 (State.setAnchor s a1) := by
  unfold State.setAnchor
  repeat' first
    | with_reducible assumption
    | with_reducible refine Keeps.ite ?_ ?_
    | with_reducible refine State.putCtx_keeps _ _ _ _ ?_
    | with_reducible refine State.holdAnchor_keeps _ _ _ ?_
    | split

theorem State.setCounters_keeps (s0 s a1 a2) (h : Keeps s0 s) :
    Keeps s0 (State.setCounters s a1 a2) := by
  unfold State.setCounters
  repeat' first
    | with_reducible assumption
    | with_reducible refine State.setFld_keeps _ _ _ _ _ ?_
    | with_reducible refine Keeps.foldl (fun _ _ _ => ?_) ?_

theorem State.placeTiles_keeps (s0 s a1 a2) (h : Keeps s0 s) :
    Keeps s0 (State.placeTiles s a1 a2) := by
  unfold State.placeTiles
  repeat' first
    | with_reducible assumption
    | with_reducible refine State.putCtx_keeps _ _ _ _ ?_
    | with_reducible refine State.setCounters_keeps _ _ _ _ ?_
    | with_reducible refine State.equipStep_keeps _ _ _ _ ?_
    | with_reducible refine Keeps.foldl (fun _ _ _ => ?_) ?_

theorem State.startOptimizer_keeps (s0 s) (h : Keeps s0 s) :
    Keeps s0 (State.startOptimizer s) := by
  unfold State.startOptimizer
  repeat' first
    | with_reducible assumption
    | with_reducible exact Nat.le_refl _
    | with_reducible exact Nat.le_add_right _ _
    | with_reducible exact List.prefix_refl _
    | with_reducible refine Keeps.ite ?_ ?_
    | with_reducible refine State.putSwarm_keeps _ _ _ ?_
    | with_reducible refine State.placeTiles_keeps _ _ _ _ ?_

theorem State.writeNorm_keeps (s0 s a1) (h : Keeps s0 s) :
    KeepsDone s0 (State.writeNorm s a1) := by
  unfold State.writeNorm
  repeat' first
    | with_reducible assumption
    | with_reducible exact Nat.le_refl _
    | with_reducible exact Nat.le_add_right _ _
    | with_reducible exact List.prefix_refl _
    | with_reducible refine Keeps.ite ?_ ?_
    | with_reducible refine State.putOn_keeps _ _ _ _ _ _ _ ?_
    | with_reducible refine State.startOptimizer_keeps _ _ ?_
    | with_reducible refine State.givenChk_keeps (fun _ => ?_) ?_
    | split
    | dsimp only

theorem State.startNorm_keeps (s0 s a1) (h : Keeps s0 s) :
    KeepsDone s0 (State.startNorm s a1) := by
  unfold State.startNorm
  repeat' first
    | with_reducible assumption
    | with_reducible exact Nat.le_refl _
    | with_reducible exact Nat.le_add_right _ _
    | with_reducible exact List.prefix_refl _
    | with_reducible refine Keeps.ite ?_ ?_
    | with_reducible refine State.lookReach_keeps _ _ _ _ ?_
    | with_reducible refine State.putSwarm_keeps _ _ _ ?_
    | with_reducible refine State.swarmAll_keeps _ _ _ _ _ ?_
    | with_reducible refine State.givenChk_keeps (fun _ => ?_) ?_

theorem State.sendReady_keeps (s0 s) (h : Keeps s0 s) :
    Keeps s0 (State.sendReady s) := by
  unfold State.sendReady
  repeat' first
    | with_reducible assumption
    | with_reducible refine State.swarmAll_keeps _ _ _ _ _ ?_
    | with_reducible refine State.putSwarm_keeps _ _ _ ?_

theorem State.swarmStep_keeps (s0 s a1) (h : Keeps s0 s) :
    KeepsOptDone s0 (State.swarmStep s a1) := by
  unfold State.swarmStep
  repeat' first
    | with_reducible assumption
    | with_reducible exact Nat.le_refl _
    | with_reducible exact Nat.le_add_right _ _
    | with_reducible exact List.prefix_refl _
    | exact KeepsOptDone.none
    | with_reducible refine KeepsOptDone.some ?_
    | with_reducible refine Keeps.ite ?_ ?_
    | with_reducible refine State.startNorm_keeps _ _ _ ?_
    | with_reducible refine State.startOptimizer_keeps _ _ ?_
    | with_reducible refine State.writeNorm_keeps _ _ _ ?_
    | with_reducible refine State.putSwarm_keeps _ _ _ ?_
    | with_reducible refine State.startGather_keeps _ _ _ ?_
    | with_reducible refine State.sendReady_keeps _ _ ?_
    | split
    | dsimp only

theorem State.swarmRun_keeps (s0 a0 a1 s) (h : Keeps s0 s) :
    Keeps s0 (State.swarmRun a0 a1 s) := by
  induction a1 generalizing s with
  | zero => exact h
  | succ a1 ih =>
  unfold State.swarmRun
  repeat' first
    | with_reducible assumption
    | with_reducible refine ih _ ?_
    | with_reducible refine KeepsDone.ofSome (by assumption) ?_
    | with_reducible refine Keeps.ite ?_ ?_
    | with_reducible refine State.swarmStep_keeps _ _ _ ?_
    | with_reducible refine State.issueCheck_keeps _ _ _ _ ?_
    | with_reducible refine Done.orEnd_keeps _ _ ?_
    | with_reducible refine Done.each_keeps _ _ _ _ (fun _ _ _ => ?_) ?_
    | split

theorem State.swarmAdvance_keeps (s0 s) (h : Keeps s0 s) :
    Keeps s0 (State.swarmAdvance s) := by
  unfold State.swarmAdvance
  repeat' first
    | with_reducible assumption
    | with_reducible refine Keeps.ite ?_ ?_
    | with_reducible refine State.pumpHops_keeps _ _ _ ?_
    | with_reducible refine State.swarmRun_keeps _ _ _ _ ?_

theorem State.swarmOnward_keeps (s0 s) (h : Keeps s0 s) :
    Keeps s0 (State.swarmOnward s) := by
  unfold State.swarmOnward
  repeat' first
    | with_reducible assumption
    | with_reducible refine Keeps.ite ?_ ?_
    | with_reducible refine State.pumpHops_keeps _ _ _ ?_

theorem State.digestDiffers_keeps (s0 s) (h : Keeps s0 s) :
    Keeps s0 (State.digestDiffers s) := by
  unfold State.digestDiffers
  repeat' first
    | with_reducible assumption
    | with_reducible refine Keeps.ite ?_ ?_
    | with_reducible refine State.fault_keeps _ _ _ _ _ _ ?_

theorem State.startSwarm_keeps (s0 s a1) (h : Keeps s0 s) :
    Keeps s0 (State.startSwarm s a1) := by
  unfold State.startSwarm
  repeat' first
    | with_reducible assumption
    | with_reducible exact Nat.le_refl _
    | with_reducible exact Nat.le_add_right _ _
    | with_reducible exact List.prefix_refl _
    | with_reducible refine Keeps.ite ?_ ?_
    | with_reducible refine State.setupStaging_keeps _ _ _ _ ?_
    | with_reducible refine State.putSwarm_keeps _ _ _ ?_
    | with_reducible refine State.swarmAll_keeps _ _ _ _ _ ?_
    | with_reducible refine State.digestDiffers_keeps _ _ ?_
    | with_reducible refine State.writeResiduals_keeps _ _ _ _ _ ?_
    | with_reducible refine State.sendChecks_keeps _ _ _ _ _ ?_
    | with_reducible refine State.startAccs_keeps _ _ _ ?_
    | with_reducible refine State.swarmAdvance_keeps _ _ ?_
    | with_reducible refine State.givenChk_keeps (fun _ => ?_) ?_
    | with_reducible refine Done.orEnd_keeps _ _ ?_
    | with_reducible refine Done.each_keeps _ _ _ _ (fun _ _ _ => ?_) ?_
    | with_reducible refine Keeps.foldl (fun _ _ _ => ?_) ?_
    | with_reducible refine Keeps.foldPair (fun _ _ _ => ?_) ?_
    | split
    | dsimp only
    | exact Nat.le_add_right _ _
    | exact Nat.le_refl _
    | exact List.prefix_refl _
    | with_reducible refine Keeps.setAnt ?_
    | with_reducible refine Keeps.upd ?_ ?_ ?_

theorem execSwarmDigest_keeps (s0 a0 a1 a2 s) (h : Keeps s0 s) :
    KeepsRes s0 (execSwarmDigest a0 a1 a2 s) := by
  unfold execSwarmDigest
  repeat' first
    | with_reducible assumption
    | with_reducible exact Nat.le_refl _
    | with_reducible exact Nat.le_add_right _ _
    | with_reducible exact List.prefix_refl _
    | with_reducible refine KeepsRes.next ?_
    | with_reducible refine Keeps.ite ?_ ?_
    | with_reducible refine State.dropSwarm_keeps _ _ _ _ _ ?_
    | with_reducible refine State.putSwarm_keeps _ _ _ ?_
    | with_reducible refine State.digestDiffers_keeps _ _ ?_
    | split
    | dsimp only
    | exact Nat.le_add_right _ _
    | exact Nat.le_refl _
    | exact List.prefix_refl _
    | with_reducible refine Keeps.setAnt ?_
    | with_reducible refine Keeps.upd ?_ ?_ ?_

theorem State.addPartial_keeps (s0 s a1 a2 a3) (h : Keeps s0 s) :
    KeepsDone s0 (State.addPartial s a1 a2 a3) := by
  unfold State.addPartial
  repeat' first
    | with_reducible assumption
    | with_reducible refine Keeps.ite ?_ ?_
    | with_reducible refine State.lookReach_keeps _ _ _ _ ?_
    | with_reducible refine State.countConv_keeps _ _ _ _ _ ?_
    | with_reducible refine State.finishBlock_keeps _ _ _ _ _ _ _ _ ?_
    | with_reducible refine State.upTo_keeps _ _ _ ?_ ?_
    | with_reducible refine State.sendPartial_keeps _ _ _ _ _ _ _ _ _ _ ?_
    | with_reducible refine Keeps.givenState (fun _ _ => ?_) ?_ ?_
    | with_reducible refine State.givenChk_keeps (fun _ => ?_) ?_
    | with_reducible refine Keeps.ofOk (by assumption) ?_
    | split

theorem State.addArrival_keeps (s0 s a1 a2 a3) (h : Keeps s0 s) :
    KeepsDone s0 (State.addArrival s a1 a2 a3) := by
  unfold State.addArrival
  repeat' first
    | with_reducible assumption
    | with_reducible exact Nat.le_refl _
    | with_reducible exact Nat.le_add_right _ _
    | with_reducible exact List.prefix_refl _
    | with_reducible refine Keeps.ite ?_ ?_
    | with_reducible refine State.lookReach_keeps _ _ _ _ ?_
    | with_reducible refine State.putSwarm_keeps _ _ _ ?_
    | with_reducible refine State.finishBlock_keeps _ _ _ _ _ _ _ _ ?_
    | with_reducible refine State.givenChk_keeps (fun _ => ?_) ?_
    | split
    | dsimp only

theorem State.stage_keeps (s0 s a1 a2) (h : Keeps s0 s) :
    Keeps s0 (State.stage s a1 a2) := by
  unfold State.stage
  repeat' first
    | with_reducible assumption
    | with_reducible refine Keeps.ite ?_ ?_
    | with_reducible refine State.readQueue_keeps _ _ _ ?_
    | with_reducible refine State.pushItem_keeps _ _ _ _ ?_
    | with_reducible refine Keeps.foldl (fun _ _ _ => ?_) ?_

theorem State.unstage_keeps (s0 s a1) (h : Keeps s0 s) :
    Keeps s0 (State.unstage s a1) := by
  unfold State.unstage
  repeat' first
    | with_reducible assumption
    | with_reducible refine Keeps.ite ?_ ?_
    | with_reducible refine State.setQueue_keeps _ _ _ _ ?_

theorem State.addStaged_keeps (s0 s a1 a2 a3) (h : Keeps s0 s) :
    Keeps s0 (State.addStaged s a1 a2 a3) := by
  unfold State.addStaged
  repeat' first
    | with_reducible assumption
    | with_reducible refine Keeps.ite ?_ ?_
    | with_reducible refine State.addPartial_keeps _ _ _ _ _ ?_
    | with_reducible refine State.addArrival_keeps _ _ _ _ _ ?_
    | with_reducible refine State.unstage_keeps _ _ _ ?_
    | with_reducible refine Done.orStop_keeps _ _ _ ?_
    | split

theorem execSwarmPartial_keeps (s0 a0 a1 a2 s) (h : Keeps s0 s) :
    KeepsRes s0 (execSwarmPartial a0 a1 a2 s) := by
  unfold execSwarmPartial
  repeat' first
    | with_reducible assumption
    | with_reducible refine KeepsRes.next ?_
    | with_reducible refine Keeps.ite ?_ ?_
    | with_reducible refine State.swarmTakes_keeps _ _ _ _ _ _ (fun _ _ => ?_) ?_
    | with_reducible refine State.dropSwarm_keeps _ _ _ _ _ ?_
    | with_reducible refine State.stage_keeps _ _ _ _ ?_
    | with_reducible refine State.addStaged_keeps _ _ _ _ _ ?_
    | with_reducible refine State.swarmAdvance_keeps _ _ ?_

theorem State.openSlot_keeps (s0 s a1 a2 a3 a4 a5) (h : Keeps s0 s) :
    KeepsDone s0 (State.openSlot s a1 a2 a3 a4 a5) := by
  unfold State.openSlot
  repeat' first
    | with_reducible assumption
    | with_reducible exact Nat.le_refl _
    | with_reducible exact Nat.le_add_right _ _
    | with_reducible exact List.prefix_refl _
    | with_reducible refine Keeps.ite ?_ ?_
    | with_reducible refine State.putSwarm_keeps _ _ _ ?_
    | with_reducible refine State.lookReach_keeps _ _ _ _ ?_
    | with_reducible refine State.putOn_keeps _ _ _ _ _ _ _ ?_
    | with_reducible refine State.slotReduced_keeps _ _ _ _ _ _ _ _ ?_
    | with_reducible refine State.givenChk_keeps (fun _ => ?_) ?_
    | split
    | dsimp only

theorem State.takeCopy_keeps (s0 s a1 a2 a3 a4) (h : Keeps s0 s) :
    KeepsDone s0 (State.takeCopy s a1 a2 a3 a4) := by
  unfold State.takeCopy
  repeat' first
    | with_reducible assumption
    | with_reducible exact Nat.le_refl _
    | with_reducible exact Nat.le_add_right _ _
    | with_reducible exact List.prefix_refl _
    | with_reducible refine Keeps.ite ?_ ?_
    | with_reducible refine State.openSlot_keeps _ _ _ _ _ _ _ ?_
    | with_reducible refine State.putOn_keeps _ _ _ _ _ _ _ ?_
    | with_reducible refine State.putSwarm_keeps _ _ _ ?_
    | with_reducible refine State.givenChk_keeps (fun _ => ?_) ?_
    | split
    | dsimp only

theorem execCheckCopy_keeps (s0 a0 a1 a2 s) (h : Keeps s0 s) :
    KeepsRes s0 (execCheckCopy a0 a1 a2 s) := by
  unfold execCheckCopy
  repeat' first
    | with_reducible assumption
    | with_reducible refine KeepsRes.next ?_
    | with_reducible refine Keeps.ite ?_ ?_
    | with_reducible refine State.swarmTakes_keeps _ _ _ _ _ _ (fun _ _ => ?_) ?_
    | with_reducible refine State.dropSwarm_keeps _ _ _ _ _ ?_
    | with_reducible refine State.takeSlot_keeps _ _ _ _ _ ?_
    | with_reducible refine State.takeCopy_keeps _ _ _ _ _ _ ?_
    | with_reducible refine State.swarmAdvance_keeps _ _ ?_
    | with_reducible refine Done.orEnd_keeps _ _ ?_
    | split

theorem execSumCheck_keeps (s0 a0 s) (h : Keeps s0 s) :
    KeepsRes s0 (execSumCheck a0 s) := by
  unfold execSumCheck
  repeat' first
    | with_reducible assumption
    | with_reducible refine KeepsRes.next ?_
    | with_reducible refine Keeps.ite ?_ ?_
    | with_reducible refine State.swarmAdvance_keeps _ _ ?_
    | with_reducible refine State.runCheck_keeps _ _ _ _ _ ?_
    | with_reducible refine State.ergGo_keeps _ _ _ _ ?_
    | split

theorem execSwarmGather_keeps (s0 a0 a1 a2 a3 s) (h : Keeps s0 s) :
    KeepsRes s0 (execSwarmGather a0 a1 a2 a3 s) := by
  unfold execSwarmGather
  repeat' first
    | with_reducible assumption
    | with_reducible exact Nat.le_refl _
    | with_reducible exact Nat.le_add_right _ _
    | with_reducible exact List.prefix_refl _
    | with_reducible refine KeepsRes.next ?_
    | with_reducible refine Keeps.ite ?_ ?_
    | with_reducible refine State.swarmTakes_keeps _ _ _ _ _ _ (fun _ _ => ?_) ?_
    | with_reducible refine State.dropSwarm_keeps _ _ _ _ _ ?_
    | with_reducible refine State.putOn_keeps _ _ _ _ _ _ _ ?_
    | with_reducible refine State.passChunk_keeps _ _ _ _ _ _ _ ?_
    | with_reducible refine State.pumpShadows_keeps _ _ ?_
    | with_reducible refine State.swarmAdvance_keeps _ _ ?_
    | with_reducible refine State.givenChk_keeps (fun _ => ?_) ?_
    | with_reducible refine Done.orEnd_keeps _ _ ?_
    | split
    | dsimp only

theorem execReady_keeps (s0 a0 a1 s) (h : Keeps s0 s) :
    KeepsRes s0 (execReady a0 a1 s) := by
  unfold execReady
  repeat' first
    | with_reducible assumption
    | with_reducible exact Nat.le_refl _
    | with_reducible exact Nat.le_add_right _ _
    | with_reducible exact List.prefix_refl _
    | with_reducible refine KeepsRes.next ?_
    | with_reducible refine Keeps.ite ?_ ?_
    | with_reducible refine State.swarmTakes_keeps _ _ _ _ _ _ (fun _ _ => ?_) ?_
    | with_reducible refine State.dropSwarm_keeps _ _ _ _ _ ?_
    | with_reducible refine State.putSwarm_keeps _ _ _ ?_

theorem execNorm_keeps (s0 a0 a1 a2 s) (h : Keeps s0 s) :
    KeepsRes s0 (execNorm a0 a1 a2 s) := by
  unfold execNorm
  repeat' first
    | with_reducible assumption
    | with_reducible exact Nat.le_refl _
    | with_reducible exact Nat.le_add_right _ _
    | with_reducible exact List.prefix_refl _
    | with_reducible refine KeepsRes.next ?_
    | with_reducible refine Keeps.ite ?_ ?_
    | with_reducible refine State.swarmTakes_keeps _ _ _ _ _ _ (fun _ _ => ?_) ?_
    | with_reducible refine State.dropSwarm_keeps _ _ _ _ _ ?_
    | with_reducible refine State.putSwarm_keeps _ _ _ ?_
    | with_reducible refine State.swarmAdvance_keeps _ _ ?_

theorem State.shadowCommit_keeps (s0 s a1 a2) (h : Keeps s0 s) :
    Keeps s0 (State.shadowCommit s a1 a2) := by
  unfold State.shadowCommit
  repeat' first
    | with_reducible assumption
    | with_reducible exact Nat.le_refl _
    | with_reducible exact Nat.le_add_right _ _
    | with_reducible exact List.prefix_refl _
    | with_reducible refine Keeps.ite ?_ ?_
    | with_reducible refine Keeps.ofId ?_
    | split
    | dsimp only
    | exact Nat.le_add_right _ _
    | exact Nat.le_refl _
    | exact List.prefix_refl _
    | with_reducible refine Keeps.setAnt ?_
    | with_reducible refine Keeps.upd ?_ ?_ ?_

theorem execCommitted_keeps (s0 a0 a1 s) (h : Keeps s0 s) :
    KeepsRes s0 (execCommitted a0 a1 s) := by
  unfold execCommitted
  repeat' first
    | with_reducible assumption
    | with_reducible refine KeepsRes.next ?_
    | with_reducible refine Keeps.ite ?_ ?_
    | with_reducible refine State.dropSwarm_keeps _ _ _ _ _ ?_
    | with_reducible refine State.shadowCommit_keeps _ _ _ _ ?_

theorem State.commitSwarm_keeps (s0 s) (h : Keeps s0 s) :
    Keeps s0 (State.commitSwarm s) := by
  unfold State.commitSwarm
  repeat' first
    | with_reducible assumption
    | with_reducible exact Nat.le_refl _
    | with_reducible exact Nat.le_add_right _ _
    | with_reducible exact List.prefix_refl _
    | with_reducible refine Keeps.ite ?_ ?_
    | with_reducible refine State.bump_keeps _ _ _ _ _ ?_
    | with_reducible refine State.sendMsg_keeps _ _ _ _ _ _ ?_
    | with_reducible refine State.putSwarm_keeps _ _ _ ?_
    | split
    | dsimp only
    | exact Nat.le_add_right _ _
    | exact Nat.le_refl _
    | exact List.prefix_refl _
    | with_reducible refine Keeps.setAnt ?_
    | with_reducible refine Keeps.upd ?_ ?_ ?_

theorem State.abortSwarm_keeps (s0 s) (h : Keeps s0 s) :
    Keeps s0 (State.abortSwarm s) := by
  unfold State.abortSwarm
  repeat' first
    | with_reducible assumption
    | with_reducible refine State.abortAs_keeps _ _ _ _ _ _ ?_

theorem State.judgeAnswers_keeps (s0 s) (h : Keeps s0 s) :
    Keeps s0 (State.judgeAnswers s) := by
  unfold State.judgeAnswers
  repeat' first
    | with_reducible assumption
    | with_reducible refine Keeps.ite ?_ ?_
    | with_reducible refine State.putSwarm_keeps _ _ _ ?_
    | with_reducible refine State.abortSwarm_keeps _ _ ?_

theorem State.swarmLoses_keeps (s0 s a1) (h : Keeps s0 s) :
    Keeps s0 (State.swarmLoses s a1) := by
  unfold State.swarmLoses
  repeat' first
    | with_reducible assumption
    | with_reducible refine Keeps.ite ?_ ?_
    | with_reducible refine State.putSwarm_keeps _ _ _ ?_
    | with_reducible refine State.judgeAnswers_keeps _ _ ?_
    | with_reducible refine State.swarmSend_keeps _ _ _ _ _ _ ?_
    | with_reducible refine Keeps.foldl (fun _ _ _ => ?_) ?_

theorem State.askShadow_keeps (s0 s a1) (h : Keeps s0 s) :
    Keeps s0 (State.askShadow s a1) := by
  unfold State.askShadow
  repeat' first
    | with_reducible assumption
    | with_reducible exact Nat.le_refl _
    | with_reducible exact Nat.le_add_right _ _
    | with_reducible exact List.prefix_refl _
    | with_reducible refine Keeps.ofId ?_
    | with_reducible refine Keeps.ite ?_ ?_
    | with_reducible refine State.shadowCommit_keeps _ _ _ _ ?_
    | with_reducible refine State.sendMsg_keeps _ _ _ _ _ _ ?_
    | with_reducible refine Keeps.foldl (fun _ _ _ => ?_) ?_

theorem State.answerQuery_keeps (s0 s a1 a2) (h : Keeps s0 s) :
    Keeps s0 (State.answerQuery s a1 a2) := by
  unfold State.answerQuery
  repeat' first
    | with_reducible assumption
    | with_reducible exact Nat.le_refl _
    | with_reducible exact Nat.le_add_right _ _
    | with_reducible exact List.prefix_refl _
    | with_reducible refine Keeps.ite ?_ ?_
    | with_reducible refine State.sendMsg_keeps _ _ _ _ _ _ ?_

theorem State.takeAnswer_keeps (s0 s a1 a2 a3) (h : Keeps s0 s) :
    Keeps s0 (State.takeAnswer s a1 a2 a3) := by
  unfold State.takeAnswer
  repeat' first
    | with_reducible assumption
    | with_reducible exact Nat.le_refl _
    | with_reducible exact Nat.le_add_right _ _
    | with_reducible exact List.prefix_refl _
    | with_reducible refine Keeps.ite ?_ ?_
    | with_reducible refine State.shadowCommit_keeps _ _ _ _ ?_
    | with_reducible refine State.putSwarm_keeps _ _ _ ?_
    | with_reducible refine State.judgeAnswers_keeps _ _ ?_
    | with_reducible refine Keeps.foldl (fun _ _ _ => ?_) ?_

theorem State.takeMismatch_keeps (s0 s a1 a2 a3) (h : Keeps s0 s) :
    Keeps s0 (State.takeMismatch s a1 a2 a3) := by
  unfold State.takeMismatch
  repeat' first
    | with_reducible assumption
    | with_reducible refine Keeps.ite ?_ ?_
    | with_reducible refine State.fault_keeps _ _ _ _ _ _ ?_

theorem execSwarmCommitQuery_keeps (s0 a0 a1 a2 s) (h : Keeps s0 s) :
    KeepsRes s0 (execSwarmCommitQuery a0 a1 a2 s) := by
  unfold execSwarmCommitQuery
  repeat' first
    | with_reducible assumption
    | with_reducible refine KeepsRes.next ?_
    | with_reducible refine Keeps.ite ?_ ?_
    | with_reducible refine State.dropSwarm_keeps _ _ _ _ _ ?_
    | with_reducible refine State.answerQuery_keeps _ _ _ _ ?_
    | with_reducible refine State.answer_keeps _ _ _ ?_
    | with_reducible refine State.takeAnswer_keeps _ _ _ _ _ ?_
    | with_reducible refine State.mismatch_keeps _ _ _ _ _ ?_
    | with_reducible refine State.takeMismatch_keeps _ _ _ _ _ ?_
    | split

theorem execPruneRequest_keeps (s0 a0 a1 s) (h : Keeps s0 s) :
    KeepsRes s0 (execPruneRequest a0 a1 s) := by
  unfold execPruneRequest
  repeat' first
    | with_reducible assumption
    | with_reducible exact Nat.le_refl _
    | with_reducible exact Nat.le_add_right _ _
    | with_reducible exact List.prefix_refl _
    | with_reducible refine KeepsRes.next ?_
    | with_reducible refine Keeps.ite ?_ ?_
    | with_reducible refine State.prune_keeps _ _ _ _ _ ?_
    | with_reducible refine State.countOob_keeps _ _ _ _ ?_
    | with_reducible refine State.putSwarm_keeps _ _ _ ?_
    | with_reducible refine State.swarmAdvance_keeps _ _ ?_
    | with_reducible refine State.stopBy_keeps _ _ _ _ _ _ _ _ _ _ ?_
    | split
    | dsimp only

theorem execGrantArrival_keeps (s0 a0 s) (h : Keeps s0 s) :
    KeepsRes s0 (execGrantArrival a0 s) := by
  unfold execGrantArrival
  repeat' first
    | with_reducible assumption
    | with_reducible refine KeepsRes.next ?_
    | with_reducible refine State.swarmAdvance_keeps _ _ ?_
    | with_reducible refine State.grantArrives_keeps _ _ _ ?_

theorem execTileEnd_keeps (s0 a0 a1 s) (h : Keeps s0 s) :
    KeepsRes s0 (execTileEnd a0 a1 s) := by
  unfold execTileEnd
  repeat' first
    | with_reducible assumption
    | with_reducible refine KeepsRes.next ?_
    | with_reducible refine State.swarmAdvance_keeps _ _ ?_
    | with_reducible refine State.tileEnds_keeps _ _ _ _ ?_

theorem execTileWdogExpiry_keeps (s0 a0 a1 s) (h : Keeps s0 s) :
    KeepsRes s0 (execTileWdogExpiry a0 a1 s) := by
  unfold execTileWdogExpiry
  repeat' first
    | with_reducible assumption
    | with_reducible refine KeepsRes.next ?_
    | with_reducible refine State.swarmAdvance_keeps _ _ ?_
    | with_reducible refine State.wdogExpires_keeps _ _ _ _ ?_

theorem execMemoryWriteAck_keeps (s0 a0 s) (h : Keeps s0 s) :
    KeepsRes s0 (execMemoryWriteAck a0 s) := by
  unfold execMemoryWriteAck
  repeat' first
    | with_reducible assumption
    | with_reducible refine KeepsRes.next ?_
    | with_reducible refine State.swarmAdvance_keeps _ _ ?_
    | with_reducible refine State.writeAcked_keeps _ _ _ ?_

end Sys2Proof.Machine
end

