-- ==== Sys2Proof/Laws/KeepsWire.lean ====
section
/-!
SUPPORT. What the operations of Wire keep of a state.
-/
namespace Sys2Proof.Machine

theorem State.authFailure_keeps (s0 s) (h : Keeps s0 s) :
    Keeps s0 (State.authFailure s) := by
  unfold State.authFailure
  repeat' first
    | with_reducible assumption
    | with_reducible refine Keeps.ite ?_ ?_
    | with_reducible refine State.bump_keeps _ _ _ _ _ ?_
    | with_reducible refine State.bumpSat_keeps _ _ _ _ _ ?_
    | with_reducible refine State.withHmd_keeps _ _ _ ?_
    | with_reducible refine State.endSess_keeps _ _ ?_

theorem State.receive_keeps (s0 s a1 a2 a3 a4) (k4 : ∀ t, Keeps s0 t → Keeps s0 (a4 t)) (h : Keeps s0 s) :
    Keeps s0 (State.receive s a1 a2 a3 a4) := by
  unfold State.receive
  repeat' first
    | with_reducible assumption
    | with_reducible refine Keeps.ite ?_ ?_
    | with_reducible refine State.bump_keeps _ _ _ _ _ ?_
    | with_reducible refine State.endSess_keeps _ _ ?_
    | with_reducible refine State.authFailure_keeps _ _ ?_
    | with_reducible refine State.withHmd_keeps _ _ _ ?_
    | with_reducible refine State.withWadi_keeps _ _ _ ?_
    | with_reducible refine k4 _ ?_

theorem State.countDuplicate_keeps (s0 s) (h : Keeps s0 s) :
    Keeps s0 (State.countDuplicate s) := by
  unfold State.countDuplicate
  repeat' first
    | with_reducible assumption
    | with_reducible refine State.bump_keeps _ _ _ _ _ ?_

theorem State.request_keeps (s0 s a1 a2 a3) (k3 : ∀ t, Keeps s0 t → Keeps s0 (a3 t)) (h : Keeps s0 s) :
    Keeps s0 (State.request s a1 a2 a3) := by
  unfold State.request
  repeat' first
    | with_reducible assumption
    | with_reducible refine Keeps.ite ?_ ?_
    | with_reducible refine State.receive_keeps _ _ _ _ _ _ (fun _ _ => ?_) ?_
    | with_reducible refine State.countDuplicate_keeps _ _ ?_
    | with_reducible refine State.sendFrame_keeps _ _ _ _ _ _ _ ?_
    | with_reducible refine State.withWadi_keeps _ _ _ ?_
    | with_reducible refine k3 _ ?_
    | split
    | dsimp only

theorem State.manage_keeps (s0 s a1 a2) (k2 : ∀ t, Keeps s0 t → Keeps s0 (a2 t)) (h : Keeps s0 s) :
    Keeps s0 (State.manage s a1 a2) := by
  unfold State.manage
  repeat' first
    | with_reducible assumption
    | with_reducible refine State.request_keeps _ _ _ _ _ (fun _ _ => ?_) ?_
    | with_reducible refine k2 _ ?_

theorem State.manageMantis_keeps (s0 s a1 a2 a3) (k3 : ∀ t, Keeps s0 t → Keeps s0 (a3 t)) (h : Keeps s0 s) :
    Keeps s0 (State.manageMantis s a1 a2 a3) := by
  unfold State.manageMantis
  repeat' first
    | with_reducible assumption
    | with_reducible refine Keeps.ite ?_ ?_
    | with_reducible refine State.manage_keeps _ _ _ _ (fun _ _ => ?_) ?_
    | with_reducible refine State.mgmtReply_keeps _ _ _ _ _ _ _ _ ?_
    | with_reducible refine k3 _ ?_

theorem State.putRequest_keeps (s0 s a1 a2 a3 a4 a5 a6) (h : Keeps s0 s) :
    Keeps s0 (State.putRequest s a1 a2 a3 a4 a5 a6) := by
  unfold State.putRequest
  repeat' first
    | with_reducible assumption
    | with_reducible exact Nat.le_refl _
    | with_reducible exact Nat.le_add_right _ _
    | with_reducible exact List.prefix_refl _
    | with_reducible refine Keeps.ite ?_ ?_
    | with_reducible refine State.pushItem_keeps _ _ _ _ ?_
    | with_reducible refine State.setQueue_keeps _ _ _ _ ?_
    | with_reducible refine State.withWadi_keeps _ _ _ ?_
    | with_reducible refine State.sendFrame_keeps _ _ _ _ _ _ _ ?_

theorem State.sendAdmit_keeps (s0 s a1 a2 a3 a4) (h : Keeps s0 s) :
    Keeps s0 (State.sendAdmit s a1 a2 a3 a4) := by
  unfold State.sendAdmit
  repeat' first
    | with_reducible assumption
    | with_reducible refine State.sendFrame_keeps _ _ _ _ _ _ _ ?_

theorem State.submission_keeps (s0 s a1 a2 a3) (k3 : ∀ t, Keeps s0 t → Keeps s0 (a3 t)) (h : Keeps s0 s) :
    Keeps s0 (State.submission s a1 a2 a3) := by
  unfold State.submission
  repeat' first
    | with_reducible assumption
    | with_reducible refine Keeps.ite ?_ ?_
    | with_reducible refine State.receive_keeps _ _ _ _ _ _ (fun _ _ => ?_) ?_
    | with_reducible refine State.sendFrame_keeps _ _ _ _ _ _ _ ?_
    | with_reducible refine State.withWadi_keeps _ _ _ ?_
    | with_reducible refine State.countDuplicate_keeps _ _ ?_
    | with_reducible refine State.sendAdmit_keeps _ _ _ _ _ _ ?_
    | with_reducible refine k3 _ ?_

theorem State.grantCredits_keeps (s0 s) (h : Keeps s0 s) :
    Keeps s0 (State.grantCredits s) := by
  unfold State.grantCredits
  repeat' first
    | with_reducible assumption
    | with_reducible refine State.withWadi_keeps _ _ _ ?_
    | with_reducible refine State.sendFrame_keeps _ _ _ _ _ _ _ ?_

theorem State.openSess_keeps (s0 s a1 a2) (h : Keeps s0 s) :
    Keeps s0 (State.openSess s a1 a2) := by
  unfold State.openSess
  repeat' first
    | with_reducible assumption
    | with_reducible refine State.withHmd_keeps _ _ _ ?_
    | with_reducible refine State.setFld_keeps _ _ _ _ _ ?_
    | with_reducible refine State.bump_keeps _ _ _ _ _ ?_
    | with_reducible refine State.grantCredits_keeps _ _ ?_
    | with_reducible refine State.showSession_keeps _ _ ?_

theorem State.programFlash_keeps (s0 s a1 a2 a3) (h : Keeps s0 s) :
    Keeps s0 (State.programFlash s a1 a2 a3) := by
  have hp (m : List Host.Cell) (hm : Table.wf 0xFF m = true) : Table.wf 0xFF (programmed m a2 a3) = true := by
    unfold programmed
    refine Table.wf_foldl (d := 0xFF) _ (fun _ (p : Nat × Byte) => p.1) (fun m (p : Nat × Byte) => tget 0xFF m p.1 &&& p.2) ?_
    split
    · exact Table.wf_filter hm _
    · exact hm
  have hs : Keeps s0 (if a1 = 0 then { s with flash0 := programmed s.flash0 a2 a3 }
      else { s with flash1 := programmed s.flash1 a2 a3 }) := by
    split
    · exact h.setFlash (hp _) id
    · exact h.setFlash id (hp _)
  unfold State.programFlash
  refine Keeps.ite ?_ hs
  exact State.withWadi_keeps _ _ _ hs

theorem State.doFlash_keeps (s0 s a1 a2 a3 a4) (h : Keeps s0 s) :
    Keeps s0 (State.doFlash s a1 a2 a3 a4) := by
  unfold State.doFlash
  repeat' first
    | with_reducible assumption
    | with_reducible refine Keeps.ite ?_ ?_
    | with_reducible refine State.mgmtReply_keeps _ _ _ _ _ _ _ _ ?_
    | with_reducible refine State.programFlash_keeps _ _ _ _ _ ?_

theorem State.settleFlash_keeps (s0 s) (h : Keeps s0 s) :
    Keeps s0 (State.settleFlash s) := by
  unfold State.settleFlash
  repeat' first
    | with_reducible assumption
    | with_reducible refine Keeps.ite ?_ ?_
    | with_reducible refine State.doFlash_keeps _ _ _ _ _ _ ?_
    | with_reducible refine State.withWadi_keeps _ _ _ ?_
    | with_reducible refine Keeps.foldl (fun _ _ _ => ?_) ?_

end Sys2Proof.Machine
end

