-- ==== Sys2Proof/Laws/KeepsWindows.lean ====
section
/-!
SUPPORT. What the operations of Windows keep of a state.
-/
namespace Sys2Proof.Machine

theorem State.setOpen_keeps (s0 s a1 a2 a3) (h : Keeps s0 s) :
    Keeps s0 (State.setOpen s a1 a2 a3) := by
  unfold State.setOpen
  repeat' first
    | with_reducible assumption
    | with_reducible refine Keeps.ite ?_ ?_
    | with_reducible refine State.setFld_keeps _ _ _ _ _ ?_
    | with_reducible refine State.putWin_keeps _ _ _ _ ?_
    | with_reducible refine State.putGroup_keeps _ _ _ _ ?_
    | split

theorem State.openWindow_keeps (s0 s a1 a2 a3) (h : Keeps s0 s) :
    KeepsFst s0 (State.openWindow s a1 a2 a3) := by
  unfold State.openWindow
  repeat' first
    | with_reducible assumption
    | exact KeepsFst.error
    | with_reducible refine KeepsFst.ok ?_
    | with_reducible refine KeepsFst.ite ?_ ?_
    | refine KeepsFst.bindState ?_ (fun _ _ => ?_)
    | refine KeepsFst.bindFst ?_ (fun _ _ => ?_)
    | refine KeepsFst.bind (fun _ => ?_)
    | with_reducible refine State.setOpen_keeps _ _ _ _ _ ?_
    | refine KeepsFst.foldlOk (fun _ _ _ => ?_) ?_
    | with_reducible exact Keeps.ofOkPair rfl (by assumption)
    | split
    | dsimp only

theorem execWindowOpen_keeps (s0 a0 a1 a2 s) (h : Keeps s0 s) :
    KeepsRes s0 (execWindowOpen a0 a1 a2 s) := by
  unfold execWindowOpen
  repeat' first
    | with_reducible assumption
    | with_reducible refine Keeps.ofFst (by assumption) ?_
    | with_reducible refine Keeps.ofOkPair (by assumption) ?_
    | with_reducible refine KeepsRes.next ?_
    | with_reducible refine Keeps.ite ?_ ?_
    | with_reducible refine State.manageMantis_keeps _ _ _ _ _ (fun _ _ => ?_) ?_
    | with_reducible refine State.mgmtReply_keeps _ _ _ _ _ _ _ _ ?_
    | with_reducible refine State.openWindow_keeps _ _ _ _ _ ?_
    | split
    | dsimp only

theorem execWindowClose_keeps (s0 a0 a1 a2 s) (h : Keeps s0 s) :
    KeepsRes s0 (execWindowClose a0 a1 a2 s) := by
  unfold execWindowClose
  repeat' first
    | with_reducible assumption
    | with_reducible refine KeepsRes.next ?_
    | with_reducible refine Keeps.ite ?_ ?_
    | with_reducible refine State.manageMantis_keeps _ _ _ _ _ (fun _ _ => ?_) ?_
    | with_reducible refine State.mgmtReply_keeps _ _ _ _ _ _ _ _ ?_
    | with_reducible refine State.startClose_keeps _ _ _ ?_
    | with_reducible refine State.putWin_keeps _ _ _ _ ?_

theorem State.openByCmd_keeps (s0 s a1) (h : Keeps s0 s) :
    Keeps s0 (State.openByCmd s a1) := by
  unfold State.openByCmd
  repeat' first
    | with_reducible assumption
    | with_reducible refine Keeps.ite ?_ ?_
    | with_reducible refine State.setOpen_keeps _ _ _ _ _ ?_

theorem State.winCtl_keeps (s0 s a1 a2 a3 a4) (h : Keeps s0 s) :
    Keeps s0 (State.winCtl s a1 a2 a3 a4) := by
  unfold State.winCtl
  repeat' first
    | with_reducible assumption
    | with_reducible refine Keeps.ite ?_ ?_
    | with_reducible refine State.plainWrite_keeps _ _ _ _ _ ?_
    | with_reducible refine State.openByCmd_keeps _ _ _ ?_
    | with_reducible refine State.startClose_keeps _ _ _ ?_

theorem execWinOpenCmd_keeps (s0 a0 a1 s) (h : Keeps s0 s) :
    KeepsRes s0 (execWinOpenCmd a0 a1 s) := by
  unfold execWinOpenCmd
  repeat' first
    | with_reducible assumption
    | with_reducible refine KeepsRes.next ?_
    | with_reducible refine Keeps.ite ?_ ?_
    | with_reducible refine State.winCtl_keeps _ _ _ _ _ _ ?_

theorem execWinCloseCmd_keeps (s0 a0 s) (h : Keeps s0 s) :
    KeepsRes s0 (execWinCloseCmd a0 s) := by
  unfold execWinCloseCmd
  repeat' first
    | with_reducible assumption
    | with_reducible refine KeepsRes.next ?_
    | with_reducible refine Keeps.ite ?_ ?_
    | with_reducible refine State.startClose_keeps _ _ _ ?_

theorem execWinCloseTimeout_keeps (s0 a0 s) (h : Keeps s0 s) :
    KeepsRes s0 (execWinCloseTimeout a0 s) := by
  unfold execWinCloseTimeout
  repeat' first
    | with_reducible assumption
    | with_reducible refine KeepsRes.next ?_
    | with_reducible refine Keeps.ite ?_ ?_
    | with_reducible refine State.endClose_keeps _ _ _ ?_
    | with_reducible refine State.putWin_keeps _ _ _ _ ?_

theorem State.countRefusal_keeps (s0 s a1) (h : Keeps s0 s) :
    Keeps s0 (State.countRefusal s a1) := by
  unfold State.countRefusal
  repeat' first
    | with_reducible assumption
    | with_reducible refine Keeps.ite ?_ ?_
    | with_reducible refine State.bump_keeps _ _ _ _ _ ?_

theorem execCreditRequest_keeps (s0 a0 a1 a2 a3 s) (h : Keeps s0 s) :
    KeepsRes s0 (execCreditRequest a0 a1 a2 a3 s) := by
  unfold execCreditRequest
  repeat' first
    | with_reducible assumption
    | with_reducible refine KeepsRes.next ?_
    | with_reducible refine Keeps.ite ?_ ?_
    | with_reducible refine State.refuseCredit_keeps _ _ _ _ _ _ ?_
    | with_reducible refine State.serveWaiting_keeps _ _ _ _ ?_
    | with_reducible refine State.putWin_keeps _ _ _ _ ?_
    | split

theorem State.takeWrite_keeps (s0 s a1 a2) (h : Keeps s0 s) :
    Keeps s0 (State.takeWrite s a1 a2) := by
  unfold State.takeWrite
  repeat' first
    | with_reducible assumption
    | with_reducible refine Keeps.ite ?_ ?_
    | with_reducible refine State.consume_keeps _ _ _ _ ?_

theorem State.landWindow_keeps (s0 s a1 a2 a3 a4) (h : Keeps s0 s) :
    Keeps s0 (State.landWindow s a1 a2 a3 a4) := by
  unfold State.landWindow
  repeat' first
    | with_reducible assumption
    | with_reducible refine Keeps.ite ?_ ?_
    | with_reducible refine State.storeOut_keeps _ _ _ _ ?_
    | with_reducible refine State.putWin_keeps _ _ _ _ ?_
    | with_reducible refine State.sendMsg_keeps _ _ _ _ _ _ ?_

theorem execWindowWrite_keeps (s0 a0 a1 a2 s) (h : Keeps s0 s) :
    KeepsRes s0 (execWindowWrite a0 a1 a2 s) := by
  unfold execWindowWrite
  repeat' first
    | with_reducible assumption
    | with_reducible refine KeepsRes.next ?_
    | with_reducible refine Keeps.ite ?_ ?_
    | with_reducible refine State.takeWrite_keeps _ _ _ _ ?_
    | with_reducible refine State.countRefusal_keeps _ _ _ ?_
    | with_reducible refine State.sendMsg_keeps _ _ _ _ _ _ ?_
    | with_reducible refine State.landWindow_keeps _ _ _ _ _ _ ?_
    | split
    | dsimp only

theorem State.readWindow_keeps (s0 s a1 a2) (h : Keeps s0 s) :
    Keeps s0 (State.readWindow s a1 a2) := by
  unfold State.readWindow
  repeat' first
    | with_reducible assumption
    | with_reducible refine Keeps.ite ?_ ?_
    | with_reducible refine State.noteUe_keeps _ _ _ _ ?_
    | with_reducible refine State.ueBudgets_keeps _ _ _ ?_
    | with_reducible refine State.sendMsg_keeps _ _ _ _ _ _ ?_
    | with_reducible refine State.parityStop_keeps _ _ _ _ _ _ _ _ ?_
    | with_reducible refine State.correct_keeps _ _ _ _ ?_
    | split
    | dsimp only

theorem execWindowReadRequest_keeps (s0 a0 a1 s) (h : Keeps s0 s) :
    KeepsRes s0 (execWindowReadRequest a0 a1 s) := by
  unfold execWindowReadRequest
  repeat' first
    | with_reducible assumption
    | with_reducible refine KeepsRes.next ?_
    | with_reducible refine Keeps.ite ?_ ?_
    | with_reducible refine State.consume_keeps _ _ _ _ ?_
    | with_reducible refine State.countRefusal_keeps _ _ _ ?_
    | with_reducible refine State.sendMsg_keeps _ _ _ _ _ _ ?_
    | with_reducible refine State.readWindow_keeps _ _ _ _ ?_
    | split
    | dsimp only

theorem execFinishNotice_keeps (s0 a0 a1 a2 s) (h : Keeps s0 s) :
    KeepsRes s0 (execFinishNotice a0 a1 a2 s) := by
  unfold execFinishNotice
  repeat' first
    | with_reducible assumption
    | with_reducible refine KeepsRes.next ?_
    | with_reducible refine Keeps.ite ?_ ?_
    | with_reducible refine State.putWin_keeps _ _ _ _ ?_

theorem State.faultHandle_keeps (s0 s a1 a2) (h : Keeps s0 s) :
    Keeps s0 (State.faultHandle s a1 a2) := by
  unfold State.faultHandle
  repeat' first
    | with_reducible assumption
    | with_reducible refine Keeps.ite ?_ ?_
    | with_reducible refine State.fault_keeps _ _ _ _ _ _ ?_
    | with_reducible refine Keeps.foldl (fun _ _ _ => ?_) ?_

theorem State.checkBounds_keeps (s0 s a1 a2) (h : Keeps s0 s) :
    Keeps s0 (State.checkBounds s a1 a2) := by
  unfold State.checkBounds
  repeat' first
    | with_reducible assumption
    | with_reducible refine Keeps.ite ?_ ?_
    | with_reducible refine State.fault_keeps _ _ _ _ _ _ ?_
    | with_reducible refine Keeps.foldl (fun _ _ _ => ?_) ?_
    | with_reducible refine Keeps.foldPair (fun _ _ _ => ?_) ?_
    | split

theorem State.pumpGroup_keeps (s0 s a1) (h : Keeps s0 s) :
    Keeps s0 (State.pumpGroup s a1) := by
  unfold State.pumpGroup
  repeat' first
    | with_reducible assumption
    | with_reducible refine State.swarmAdvance_keeps _ _ ?_
    | with_reducible refine State.pumpShadows_keeps _ _ ?_
    | with_reducible refine State.pumpCore_keeps _ _ _ ?_
    | with_reducible refine Keeps.foldl (fun _ _ _ => ?_) ?_

theorem State.takeGrant_keeps (s0 s a1 a2 a3 a4) (h : Keeps s0 s) :
    Keeps s0 (State.takeGrant s a1 a2 a3 a4) := by
  unfold State.takeGrant
  repeat' first
    | with_reducible assumption
    | with_reducible refine Keeps.ite ?_ ?_
    | with_reducible refine State.sendMsg_keeps _ _ _ _ _ _ ?_
    | with_reducible refine State.putHandle_keeps _ _ _ _ ?_
    | with_reducible refine State.pumpGroup_keeps _ _ _ ?_
    | with_reducible refine State.checkBounds_keeps _ _ _ _ ?_

theorem State.takeRefusal_keeps (s0 s a1 a2) (h : Keeps s0 s) :
    Keeps s0 (State.takeRefusal s a1 a2) := by
  unfold State.takeRefusal
  repeat' first
    | with_reducible assumption
    | with_reducible refine Keeps.ite ?_ ?_
    | with_reducible refine State.putHandle_keeps _ _ _ _ ?_
    | with_reducible refine State.faultHandle_keeps _ _ _ _ ?_

theorem State.endTasks_keeps (s0 s a1 a2 a3) (h : Keeps s0 s) :
    Keeps s0 (State.endTasks s a1 a2 a3) := by
  unfold State.endTasks
  repeat' first
    | with_reducible assumption
    | with_reducible refine Keeps.ite ?_ ?_
    | with_reducible refine State.endTask_keeps _ _ _ _ _ ?_
    | with_reducible refine State.stopStep_keeps _ _ _ ?_
    | with_reducible refine Keeps.foldl (fun _ _ _ => ?_) ?_

theorem State.takeSlots_keeps (s0 s a1 a2 a3 a4 a5) (h : Keeps s0 s) :
    Keeps s0 (State.takeSlots s a1 a2 a3 a4 a5) := by
  unfold State.takeSlots
  repeat' first
    | with_reducible assumption
    | with_reducible exact Nat.le_refl _
    | with_reducible exact Nat.le_add_right _ _
    | with_reducible exact List.prefix_refl _
    | with_reducible refine Keeps.ofId ?_
    | with_reducible refine Keeps.ite ?_ ?_
    | with_reducible refine State.sendMsg_keeps _ _ _ _ _ _ ?_
    | with_reducible refine State.endTasks_keeps _ _ _ _ _ ?_
    | with_reducible refine State.putMcast_keeps _ _ _ _ ?_
    | with_reducible refine Keeps.elim ?_ (fun _ => ?_)

theorem State.lagEnded_keeps (s0 s a1 a2) (h : Keeps s0 s) :
    Keeps s0 (State.lagEnded s a1 a2) := by
  unfold State.lagEnded
  repeat' first
    | with_reducible assumption
    | with_reducible refine Keeps.ite ?_ ?_
    | with_reducible refine State.endTasks_keeps _ _ _ _ _ ?_
    | split

theorem execWindowCreditGrant_keeps (s0 a0 a1 a2 a3 a4 a5 a6 s) (h : Keeps s0 s) :
    KeepsRes s0 (execWindowCreditGrant a0 a1 a2 a3 a4 a5 a6 s) := by
  unfold execWindowCreditGrant
  repeat' first
    | with_reducible assumption
    | with_reducible refine KeepsRes.next ?_
    | with_reducible refine Keeps.ite ?_ ?_
    | with_reducible refine State.takeGrant_keeps _ _ _ _ _ _ ?_
    | with_reducible refine State.takeRefusal_keeps _ _ _ _ ?_
    | with_reducible refine State.lagEnded_keeps _ _ _ _ ?_
    | with_reducible refine State.takeSlots_keeps _ _ _ _ _ _ _ ?_
    | with_reducible refine State.endTasks_keeps _ _ _ _ _ ?_

theorem State.ackHandle_keeps (s0 s a1) (h : Keeps s0 s) :
    Keeps s0 (State.ackHandle s a1) := by
  unfold State.ackHandle
  repeat' first
    | with_reducible assumption
    | with_reducible refine Keeps.ite ?_ ?_
    | with_reducible refine State.sendMsg_keeps _ _ _ _ _ _ ?_
    | with_reducible refine State.putHandle_keeps _ _ _ _ ?_

theorem State.ackWrite_keeps (s0 s a1 a2 a3) (h : Keeps s0 s) :
    Keeps s0 (State.ackWrite s a1 a2 a3) := by
  unfold State.ackWrite
  repeat' first
    | with_reducible assumption
    | with_reducible refine Keeps.ite ?_ ?_
    | with_reducible refine State.ackHandle_keeps _ _ _ ?_
    | with_reducible refine State.pumpGroup_keeps _ _ _ ?_
    | with_reducible refine State.putCore_keeps _ _ _ _ ?_
    | with_reducible refine State.fault_keeps _ _ _ _ _ _ ?_
    | split

theorem State.ackShadow_keeps (s0 s a1 a2) (h : Keeps s0 s) :
    Keeps s0 (State.ackShadow s a1 a2) := by
  unfold State.ackShadow
  repeat' first
    | with_reducible assumption
    | with_reducible refine Keeps.ite ?_ ?_
    | with_reducible refine State.ackHandle_keeps _ _ _ ?_
    | with_reducible refine State.putSwarm_keeps _ _ _ ?_
    | with_reducible refine State.pumpGroup_keeps _ _ _ ?_
    | with_reducible refine State.faultHandle_keeps _ _ _ _ ?_

theorem State.ackUnit_keeps (s0 s a1 a2 a3 a4) (h : Keeps s0 s) :
    Keeps s0 (State.ackUnit s a1 a2 a3 a4) := by
  unfold State.ackUnit
  repeat' first
    | with_reducible assumption
    | with_reducible refine Keeps.ite ?_ ?_
    | with_reducible refine State.putMcast_keeps _ _ _ _ ?_
    | with_reducible refine State.runMcast_keeps _ _ _ ?_
    | with_reducible refine State.faultHandle_keeps _ _ _ _ ?_
    | with_reducible refine State.sendMsg_keeps _ _ _ _ _ _ ?_
    | with_reducible refine Keeps.foldl (fun _ _ _ => ?_) ?_
    | with_reducible refine Keeps.foldPair (fun _ _ _ => ?_) ?_
    | split
    | dsimp only

theorem execWriteAcknowledgement_keeps (s0 a0 a1 a2 a3 a4 s) (h : Keeps s0 s) :
    KeepsRes s0 (execWriteAcknowledgement a0 a1 a2 a3 a4 s) := by
  unfold execWriteAcknowledgement
  repeat' first
    | with_reducible assumption
    | with_reducible refine KeepsRes.next ?_
    | with_reducible refine Keeps.ofId ?_
    | with_reducible refine Keeps.ite ?_ ?_
    | with_reducible refine State.consume_keeps _ _ _ _ ?_
    | with_reducible refine State.ackUnit_keeps _ _ _ _ _ _ ?_
    | with_reducible refine State.ackShadow_keeps _ _ _ _ ?_
    | with_reducible refine State.ackWrite_keeps _ _ _ _ _ ?_
    | with_reducible refine Keeps.elim ?_ (fun _ => ?_)

theorem State.landRemote_keeps (s0 s a1 a2 a3) (h : Keeps s0 s) :
    Keeps s0 (State.landRemote s a1 a2 a3) := by
  unfold State.landRemote
  repeat' first
    | with_reducible assumption
    | with_reducible refine Keeps.ofId ?_
    | with_reducible refine Keeps.ite ?_ ?_
    | with_reducible refine State.dropTracker_keeps _ _ _ _ ?_
    | with_reducible refine State.landRead_keeps _ _ _ _ _ ?_
    | with_reducible refine State.antCapture_keeps _ _ _ _ ?_
    | with_reducible refine State.pumpCore_keeps _ _ _ ?_

theorem execWindowReadResponse_keeps (s0 a0 a1 a2 a3 a4 s) (h : Keeps s0 s) :
    KeepsRes s0 (execWindowReadResponse a0 a1 a2 a3 a4 s) := by
  unfold execWindowReadResponse
  repeat' first
    | with_reducible assumption
    | with_reducible refine KeepsRes.next ?_
    | with_reducible refine Keeps.ofId ?_
    | with_reducible refine Keeps.ite ?_ ?_
    | with_reducible refine State.consume_keeps _ _ _ _ ?_
    | with_reducible refine State.dropLate_keeps _ _ _ _ _ ?_
    | with_reducible refine State.pumpCore_keeps _ _ _ ?_
    | with_reducible refine State.dropTracker_keeps _ _ _ _ ?_
    | with_reducible refine State.landRemote_keeps _ _ _ _ _ ?_
    | with_reducible refine State.streamStop_keeps _ _ _ _ _ _ _ _ _ _ ?_
    | with_reducible refine State.errorStop_keeps _ _ _ _ _ _ _ _ _ _ _ ?_
    | split
    | dsimp only

theorem execClosingNotice_keeps (s0 a0 a1 a2 s) (h : Keeps s0 s) :
    KeepsRes s0 (execClosingNotice a0 a1 a2 s) := by
  unfold execClosingNotice
  repeat' first
    | with_reducible assumption
    | with_reducible refine KeepsRes.next ?_
    | with_reducible refine Keeps.ofId ?_
    | with_reducible refine Keeps.ite ?_ ?_
    | with_reducible refine State.giveBack_keeps _ _ _ _ ?_
    | with_reducible refine State.closeReceivers_keeps _ _ _ _ ?_
    | with_reducible refine Keeps.foldl (fun _ _ _ => ?_) ?_

theorem State.returnSlot_keeps (s0 s a1 a2 a3 a4) (h : Keeps s0 s) :
    Keeps s0 (State.returnSlot s a1 a2 a3 a4) := by
  unfold State.returnSlot
  repeat' first
    | with_reducible assumption
    | with_reducible exact Nat.le_refl _
    | with_reducible exact Nat.le_add_right _ _
    | with_reducible exact List.prefix_refl _
    | with_reducible refine Keeps.ofId ?_
    | with_reducible refine Keeps.ite ?_ ?_
    | with_reducible refine State.sendMsg_keeps _ _ _ _ _ _ ?_
    | with_reducible refine State.putMcast_keeps _ _ _ _ ?_
    | with_reducible refine Keeps.foldl (fun _ _ _ => ?_) ?_

theorem execCreditReturn_keeps (s0 a0 a1 a2 a3 a4 s) (h : Keeps s0 s) :
    KeepsRes s0 (execCreditReturn a0 a1 a2 a3 a4 s) := by
  unfold execCreditReturn
  repeat' first
    | with_reducible assumption
    | with_reducible refine KeepsRes.next ?_
    | with_reducible refine Keeps.ite ?_ ?_
    | with_reducible refine State.returnSlot_keeps _ _ _ _ _ _ ?_
    | with_reducible refine State.addFree_keeps _ _ _ _ ?_
    | with_reducible refine State.putWin_keeps _ _ _ _ ?_

end Sys2Proof.Machine
end

