-- ==== Sys2Proof/Laws/KeepsMembers.lean ====
section
/-!
SUPPORT. What the operations of Members keep of a state.
-/
namespace Sys2Proof.Machine

theorem State.dropSender_keeps (s0 s a1) (h : Keeps s0 s) :
    Keeps s0 (State.dropSender s a1) := by
  unfold State.dropSender
  repeat' first
    | with_reducible assumption
    | with_reducible refine Keeps.ite ?_ ?_
    | with_reducible refine State.putWin_keeps _ _ _ _ ?_
    | with_reducible refine State.addFree_keeps _ _ _ _ ?_
    | with_reducible refine Keeps.foldl (fun _ _ _ => ?_) ?_

theorem State.voidHandles_keeps (s0 s a1) (h : Keeps s0 s) :
    Keeps s0 (State.voidHandles s a1) := by
  unfold State.voidHandles
  repeat' first
    | with_reducible assumption
    | with_reducible refine Keeps.ite ?_ ?_
    | with_reducible refine State.putCore_keeps _ _ _ _ ?_
    | with_reducible refine State.putHandle_keeps _ _ _ _ ?_
    | with_reducible refine Keeps.foldl (fun _ _ _ => ?_) ?_

theorem State.dropReceiver_keeps (s0 s a1) (h : Keeps s0 s) :
    Keeps s0 (State.dropReceiver s a1) := by
  unfold State.dropReceiver
  repeat' first
    | with_reducible assumption
    | with_reducible refine Keeps.ite ?_ ?_
    | with_reducible refine State.runMcast_keeps _ _ _ ?_
    | with_reducible refine State.putMcast_keeps _ _ _ _ ?_
    | with_reducible refine Keeps.foldl (fun _ _ _ => ?_) ?_

theorem State.abortFor_keeps (s0 s a1 a2) (h : Keeps s0 s) :
    Keeps s0 (State.abortFor s a1 a2) := by
  unfold State.abortFor
  repeat' first
    | with_reducible assumption
    | with_reducible refine State.abortAs_keeps _ _ _ _ _ _ ?_
    | with_reducible refine Keeps.foldl (fun _ _ _ => ?_) ?_

theorem State.openSlice_keeps (s0 gi p b) (h : Keeps s0 p.1) : Keeps s0 (State.openSlice gi p b).1 := by
  unfold State.openSlice
  split
  · exact h
  · exact Keeps.ofOkPair (by assumption) (State.openWindow_keeps _ _ _ _ _ h)

theorem State.beginTakeover_keeps (s0 s a1 a2 a3 a4) (h : Keeps s0 s) :
    Keeps s0 (State.beginTakeover s a1 a2 a3 a4) := by
  unfold State.beginTakeover
  refine Keeps.foldl (fun _ _ k => State.sendMsg_keeps _ _ _ _ _ _ k) (Keeps.upd ?_ (Nat.le_refl _) (List.prefix_refl _))
  exact Keeps.foldPair (fun _ _ k => State.openSlice_keeps _ _ _ _ k) (State.raise_keeps _ _ _ (State.abortFor_keeps _ _ _ _ h))

theorem State.takeOver_keeps (s0 s a1 a2 a3) (h : Keeps s0 s) :
    Keeps s0 (State.takeOver s a1 a2 a3) := by
  unfold State.takeOver
  repeat' first
    | with_reducible assumption
    | with_reducible refine Keeps.ofId ?_
    | with_reducible refine Keeps.ite ?_ ?_
    | with_reducible refine State.endTasks_keeps _ _ _ _ _ ?_
    | with_reducible refine State.beginTakeover_keeps _ _ _ _ _ _ ?_
    | with_reducible refine Keeps.foldl (fun _ _ _ => ?_) ?_

theorem State.memberGone_keeps (s0 s a1 a2) (h : Keeps s0 s) :
    Keeps s0 (State.memberGone s a1 a2) := by
  unfold State.memberGone
  repeat' first
    | with_reducible assumption
    | with_reducible refine Keeps.ofId ?_
    | with_reducible refine Keeps.ite ?_ ?_
    | with_reducible refine State.dropSender_keeps _ _ _ ?_
    | with_reducible refine State.voidHandles_keeps _ _ _ ?_
    | with_reducible refine State.dropReceiver_keeps _ _ _ ?_
    | with_reducible refine State.abortFor_keeps _ _ _ _ ?_
    | with_reducible refine State.swarmLoses_keeps _ _ _ ?_
    | with_reducible refine State.askShadow_keeps _ _ _ ?_
    | with_reducible refine State.takeOver_keeps _ _ _ _ _ ?_

theorem State.announced_keeps (s0 s a1 a2 a3 a4 a5) (h : Keeps s0 s) :
    Keeps s0 (State.announced s a1 a2 a3 a4 a5) := by
  unfold State.announced
  repeat' first
    | with_reducible assumption
    | with_reducible refine Keeps.ite ?_ ?_
    | with_reducible refine State.setMember_keeps _ _ _ _ _ _ ?_
    | with_reducible refine State.flood_keeps _ _ _ _ ?_
    | with_reducible refine State.memberGone_keeps _ _ _ _ ?_

theorem State.announcement_keeps (s0 s a1 a2 a3 a4 a5) (h : Keeps s0 s) :
    Keeps s0 (State.announcement s a1 a2 a3 a4 a5) := by
  unfold State.announcement
  repeat' first
    | with_reducible assumption
    | with_reducible refine Keeps.ite ?_ ?_
    | with_reducible refine State.announced_keeps _ _ _ _ _ _ _ ?_

theorem execJoin_keeps (s0 a0 a1 a2 a3 s) (h : Keeps s0 s) :
    KeepsRes s0 (execJoin a0 a1 a2 a3 s) := by
  unfold execJoin
  repeat' first
    | with_reducible assumption
    | with_reducible refine KeepsRes.next ?_
    | with_reducible refine State.announcement_keeps _ _ _ _ _ _ _ ?_

theorem execWithdraw_keeps (s0 a0 a1 a2 a3 s) (h : Keeps s0 s) :
    KeepsRes s0 (execWithdraw a0 a1 a2 a3 s) := by
  unfold execWithdraw
  repeat' first
    | with_reducible assumption
    | with_reducible refine KeepsRes.next ?_
    | with_reducible refine State.announcement_keeps _ _ _ _ _ _ _ ?_

theorem execDeparted_keeps (s0 a0 a1 a2 a3 s) (h : Keeps s0 s) :
    KeepsRes s0 (execDeparted a0 a1 a2 a3 s) := by
  unfold execDeparted
  repeat' first
    | with_reducible assumption
    | with_reducible refine KeepsRes.next ?_
    | with_reducible refine State.announcement_keeps _ _ _ _ _ _ _ ?_

theorem State.swapPeers_keeps (s0 s a1) (h : Keeps s0 s) :
    Keeps s0 (State.swapPeers s a1) := by
  unfold State.swapPeers
  repeat' first
    | with_reducible assumption
    | with_reducible refine State.putGroup_keeps _ _ _ _ ?_
    | with_reducible refine Keeps.foldl (fun _ _ _ => ?_) ?_

theorem State.endBorrowers_keeps (s0 s a1) (h : Keeps s0 s) :
    Keeps s0 (State.endBorrowers s a1) := by
  unfold State.endBorrowers
  repeat' first
    | with_reducible assumption
    | with_reducible refine Keeps.ofId ?_
    | with_reducible refine Keeps.ite ?_ ?_
    | with_reducible refine State.endTasks_keeps _ _ _ _ _ ?_
    | with_reducible refine Keeps.foldl (fun _ _ _ => ?_) ?_
    | with_reducible refine Keeps.foldPair (fun _ _ _ => ?_) ?_
    | split

theorem execTakeoverNotice_keeps (s0 a0 a1 a2 s) (h : Keeps s0 s) :
    KeepsRes s0 (execTakeoverNotice a0 a1 a2 s) := by
  unfold execTakeoverNotice
  repeat' first
    | with_reducible assumption
    | with_reducible exact Nat.le_refl _
    | with_reducible exact Nat.le_add_right _ _
    | with_reducible exact List.prefix_refl _
    | with_reducible refine KeepsRes.next ?_
    | with_reducible refine Keeps.ofId ?_
    | with_reducible refine Keeps.ite ?_ ?_
    | with_reducible refine State.abortFor_keeps _ _ _ _ ?_
    | with_reducible refine State.voidHandles_keeps _ _ _ ?_
    | with_reducible refine State.putHandle_keeps _ _ _ _ ?_
    | with_reducible refine State.swapPeers_keeps _ _ _ ?_
    | with_reducible refine State.endBorrowers_keeps _ _ _ ?_
    | with_reducible refine Keeps.foldl (fun _ _ _ => ?_) ?_
    | with_reducible refine Keeps.foldPair (fun _ _ _ => ?_) ?_
    | split
    | dsimp only
    | exact Nat.le_add_right _ _
    | exact Nat.le_refl _
    | exact List.prefix_refl _
    | with_reducible refine Keeps.setAnt ?_
    | with_reducible refine Keeps.upd ?_ ?_ ?_

theorem State.writeCache_keeps (s0 s a1) (h : Keeps s0 s) :
    Keeps s0 (State.writeCache s a1) := by
  unfold State.writeCache
  repeat' first
    | with_reducible assumption
    | with_reducible refine Keeps.ite ?_ ?_
    | with_reducible refine State.writeVa_keeps _ _ _ _ _ ?_
    | with_reducible refine Keeps.ofOk (by assumption) ?_
    | split

theorem execTakeoverDone_keeps (s0 a0 s) (h : Keeps s0 s) :
    KeepsRes s0 (execTakeoverDone a0 s) := by
  unfold execTakeoverDone
  repeat' first
    | with_reducible assumption
    | with_reducible exact Nat.le_refl _
    | with_reducible exact Nat.le_add_right _ _
    | with_reducible exact List.prefix_refl _
    | with_reducible refine KeepsRes.next ?_
    | with_reducible refine Keeps.ofId ?_
    | with_reducible refine Keeps.ite ?_ ?_
    | with_reducible refine State.writeCache_keeps _ _ _ ?_
    | with_reducible refine State.replay_keeps _ _ _ _ ?_
    | with_reducible refine State.raise_keeps _ _ _ ?_
    | with_reducible refine Keeps.foldl (fun _ _ _ => ?_) ?_
    | with_reducible refine Keeps.foldPair (fun _ _ _ => ?_) ?_
    | split
    | dsimp only
    | exact Nat.le_add_right _ _
    | exact Nat.le_refl _
    | exact List.prefix_refl _
    | with_reducible refine Keeps.setAnt ?_
    | with_reducible refine Keeps.upd ?_ ?_ ?_

end Sys2Proof.Machine
end

