-- ==== Sys2Proof/Laws/KeepsLaunch.lean ====
section
/-!
SUPPORT. What the operations of Launch keep of a state.
-/
namespace Sys2Proof.Machine

theorem State.takeUp_keeps (s0 s a1 a2) (h : Keeps s0 s) :
    Keeps s0 (State.takeUp s a1 a2) := by
  unfold State.takeUp
  repeat' first
    | with_reducible assumption
    | with_reducible refine Keeps.ite ?_ ?_
    | with_reducible refine State.putCtx_keeps _ _ _ _ ?_

theorem State.launchStop_keeps (s0 s a1 a2 a3) (h : Keeps s0 s) :
    Keeps s0 (State.launchStop s a1 a2 a3) := by
  unfold State.launchStop
  repeat' first
    | with_reducible assumption
    | with_reducible refine Keeps.ite ?_ ?_
    | with_reducible refine State.raise_keeps _ _ _ ?_
    | with_reducible refine State.endTask_keeps _ _ _ _ _ ?_
    | with_reducible refine State.takeUp_keeps _ _ _ _ ?_
    | with_reducible refine State.firmwareUe_keeps _ _ _ _ _ ?_
    | split

theorem State.loadRegion_keeps (s0 s a1 a2) (h : Keeps s0 s) :
    KeepsChk s0 (State.loadRegion s a1 a2) := by
  unfold State.loadRegion
  repeat' first
    | with_reducible assumption
    | exact KeepsChk.error
    | with_reducible refine KeepsChk.ok ?_
    | with_reducible refine KeepsChk.pure ?_
    | with_reducible refine KeepsChk.mapState ?_ (fun _ _ => ?_)
    | with_reducible refine KeepsChk.map (fun _ => ?_)
    | with_reducible refine KeepsChk.ite ?_ ?_
    | refine KeepsChk.bind (fun _ => ?_)
    | with_reducible refine Keeps.ite ?_ ?_
    | with_reducible refine State.setFld_keeps _ _ _ _ _ ?_
    | with_reducible refine State.store_keeps _ _ _ _ ?_

theorem State.loadRegions_keeps (s0 s a1) (h : Keeps s0 s) :
    KeepsChk s0 (State.loadRegions s a1) := by
  unfold State.loadRegions
  repeat' first
    | with_reducible assumption
    | with_reducible refine State.loadRegion_keeps _ _ _ _ ?_
    | exact KeepsChk.error
    | with_reducible refine KeepsChk.ok ?_
    | with_reducible refine KeepsChk.pure ?_
    | with_reducible refine KeepsChk.mapState ?_ (fun _ _ => ?_)
    | with_reducible refine KeepsChk.map (fun _ => ?_)
    | refine KeepsChk.foldlOk (fun _ _ _ => ?_) ?_
    | with_reducible exact Keeps.ofOk rfl (by assumption)
    | with_reducible refine KeepsChk.ite ?_ ?_
    | refine KeepsChk.bindState ?_ (fun _ _ => ?_)
    | refine KeepsChk.bind (fun _ => ?_)
    | with_reducible refine Keeps.ofOk (by assumption) ?_
    | with_reducible refine State.loadRegion_keeps _ _ _ _ ?_
    | with_reducible refine Keeps.foldl (fun _ _ _ => ?_) ?_
    | with_reducible refine Keeps.foldPair (fun _ _ _ => ?_) ?_
    | split

theorem State.clearMarks_keeps (s0 s a1 a2) (h : Keeps s0 s) :
    KeepsChk s0 (State.clearMarks s a1 a2) := by
  unfold State.clearMarks
  repeat' first
    | with_reducible assumption
    | with_reducible refine State.setBitsVa_keeps _ _ _ _ _ _ ?_
    | exact KeepsChk.error
    | with_reducible refine KeepsChk.ok ?_
    | with_reducible refine KeepsChk.pure ?_
    | with_reducible refine KeepsChk.mapState ?_ (fun _ _ => ?_)
    | with_reducible refine KeepsChk.map (fun _ => ?_)
    | refine KeepsChk.foldlOk (fun _ _ _ => ?_) ?_
    | with_reducible exact Keeps.ofOk rfl (by assumption)
    | with_reducible refine KeepsChk.ite ?_ ?_
    | refine KeepsChk.bindState ?_ (fun _ _ => ?_)
    | refine KeepsChk.bind (fun _ => ?_)
    | with_reducible refine Keeps.ofOk (by assumption) ?_
    | with_reducible refine Keeps.ite ?_ ?_
    | with_reducible refine State.setBitsVa_keeps _ _ _ _ _ _ ?_
    | with_reducible refine Keeps.foldl (fun _ _ _ => ?_) ?_
    | with_reducible refine Keeps.foldPair (fun _ _ _ => ?_) ?_
    | split

theorem State.startPred_keeps (s0 s a1 a2 a3) (h : Keeps s0 s) :
    KeepsChk s0 (State.startPred s a1 a2 a3) := by
  unfold State.startPred
  repeat' first
    | with_reducible assumption
    | with_reducible refine State.writeVa_keeps _ _ _ _ _ ?_
    | exact KeepsChk.error
    | with_reducible refine KeepsChk.ok ?_
    | with_reducible refine KeepsChk.pure ?_
    | with_reducible refine KeepsChk.mapState ?_ (fun _ _ => ?_)
    | with_reducible refine KeepsChk.map (fun _ => ?_)
    | with_reducible refine KeepsChk.ite ?_ ?_
    | refine KeepsChk.bindState ?_ (fun _ _ => ?_)
    | refine KeepsChk.bind (fun _ => ?_)
    | with_reducible refine Keeps.ofOk (by assumption) ?_
    | with_reducible refine Keeps.ite ?_ ?_
    | with_reducible refine State.putCtx_keeps _ _ _ _ ?_
    | with_reducible refine State.writeVa_keeps _ _ _ _ _ ?_
    | split

theorem State.prepareRun_keeps (s0 s a1 a2) (h : Keeps s0 s) :
    KeepsChk s0 (State.prepareRun s a1 a2) := by
  unfold State.prepareRun
  repeat' first
    | with_reducible assumption
    | with_reducible refine State.loadRegions_keeps _ _ _ ?_
    | with_reducible refine State.clearMarks_keeps _ _ _ _ ?_
    | with_reducible refine State.startPred_keeps _ _ _ _ _ ?_
    | exact KeepsChk.error
    | with_reducible refine KeepsChk.ok ?_
    | with_reducible refine KeepsChk.pure ?_
    | with_reducible refine KeepsChk.mapState ?_ (fun _ _ => ?_)
    | with_reducible refine KeepsChk.map (fun _ => ?_)
    | with_reducible refine KeepsChk.ite ?_ ?_
    | refine KeepsChk.bindState ?_ (fun _ _ => ?_)

theorem State.judgeWindows_keeps (s0 s a1 a2) (h : Keeps s0 s) :
    Keeps s0 (State.judgeWindows s a1 a2) := by
  unfold State.judgeWindows
  repeat' first
    | with_reducible assumption
    | with_reducible refine State.fault_keeps _ _ _ _ _ _ ?_
    | split

theorem State.beginRun_keeps (s0 s a1 a2 a3) (h : Keeps s0 s) :
    Keeps s0 (State.beginRun s a1 a2 a3) := by
  unfold State.beginRun
  repeat' first
    | with_reducible assumption
    | with_reducible refine Keeps.ite ?_ ?_
    | with_reducible refine State.putCtx_keeps _ _ _ _ ?_
    | with_reducible refine State.setAnchor_keeps _ _ _ ?_
    | with_reducible refine State.judgeWindows_keeps _ _ _ _ ?_
    | with_reducible refine State.placeTiles_keeps _ _ _ _ ?_
    | with_reducible refine State.dispatch_keeps _ _ _ ?_
    | with_reducible refine State.equipStep_keeps _ _ _ _ ?_
    | with_reducible refine State.startSwarm_keeps _ _ _ ?_
    | with_reducible refine Keeps.foldl (fun _ _ _ => ?_) ?_
    | with_reducible refine Keeps.foldPair (fun _ _ _ => ?_) ?_
    | split

theorem State.sayReplay_keeps (s0 s a1) (h : Keeps s0 s) :
    Keeps s0 (State.sayReplay s a1) := by
  unfold State.sayReplay
  repeat' first
    | with_reducible assumption
    | with_reducible refine State.raise_keeps _ _ _ ?_

theorem State.ringLost_keeps (s0 s a1 a2 a3 a4) (h : Keeps s0 s) :
    Keeps s0 (State.ringLost s a1 a2 a3 a4) := by
  unfold State.ringLost
  repeat' first
    | with_reducible assumption
    | with_reducible refine Keeps.ite ?_ ?_
    | with_reducible refine State.endTasks_keeps _ _ _ _ _ ?_

theorem State.withPeers_keeps (s0 s a1 a2 a3 a4) (k4 : Keeps s0 a4) (h : Keeps s0 s) :
    Keeps s0 (State.withPeers s a1 a2 a3 a4) := by
  unfold State.withPeers
  repeat' first
    | with_reducible assumption
    | with_reducible refine Keeps.ite ?_ ?_
    | with_reducible refine State.endTasks_keeps _ _ _ _ _ ?_
    | with_reducible refine State.launchStop_keeps _ _ _ _ _ ?_
    | with_reducible refine State.ringLost_keeps _ _ _ _ _ _ ?_
    | split

theorem State.waitLost_keeps (s0 s a1 a2) (h : Keeps s0 s) :
    Keeps s0 (State.waitLost s a1 a2) := by
  unfold State.waitLost
  repeat' first
    | with_reducible assumption
    | with_reducible refine Keeps.ite ?_ ?_
    | with_reducible refine State.endTask_keeps _ _ _ _ _ ?_
    | split
    | dsimp only

theorem State.firstRun_keeps (s0 s a1 a2 a3 a4 a5) (h : Keeps s0 s) :
    Keeps s0 (State.firstRun s a1 a2 a3 a4 a5) := by
  unfold State.firstRun
  repeat' first
    | with_reducible assumption
    | with_reducible exact Nat.le_refl _
    | with_reducible exact Nat.le_add_right _ _
    | with_reducible exact List.prefix_refl _
    | with_reducible refine Keeps.ite ?_ ?_
    | with_reducible refine State.mend_keeps _ _ _ ?_
    | with_reducible refine State.prepareRun_keeps _ _ _ _ ?_
    | with_reducible refine State.launchStop_keeps _ _ _ _ _ ?_
    | with_reducible refine State.putCtx_keeps _ _ _ _ ?_
    | with_reducible refine State.doneReqs_keeps _ _ _ ?_
    | with_reducible refine State.sayReplay_keeps _ _ _ ?_
    | with_reducible refine State.beginRun_keeps _ _ _ _ _ ?_
    | with_reducible refine Keeps.ofOk (by assumption) ?_
    | split
    | dsimp only

theorem State.launchStep_keeps (s0 s a1 a2 a3) (h : Keeps s0 s) :
    Keeps s0 (State.launchStep s a1 a2 a3) := by
  unfold State.launchStep
  repeat' first
    | with_reducible assumption
    | with_reducible refine Keeps.ite ?_ ?_
    | with_reducible refine State.mend_keeps _ _ _ ?_
    | with_reducible refine State.launchStop_keeps _ _ _ _ _ ?_
    | with_reducible refine State.waitLost_keeps _ _ _ _ ?_
    | with_reducible refine State.withPeers_keeps _ _ _ _ _ _ ?_ ?_
    | with_reducible refine State.firstRun_keeps _ _ _ _ _ _ _ ?_
    | split
    | dsimp only

theorem execStepLaunch_keeps (s0 a0 s) (h : Keeps s0 s) :
    KeepsRes s0 (execStepLaunch a0 s) := by
  unfold execStepLaunch
  repeat' first
    | with_reducible assumption
    | with_reducible refine KeepsRes.next ?_
    | with_reducible refine Keeps.ite ?_ ?_
    | with_reducible refine State.launchStep_keeps _ _ _ _ _ ?_
    | split

theorem State.replayStep_keeps (s0 s a1 a2) (h : Keeps s0 s) :
    Keeps s0 (State.replayStep s a1 a2) := by
  unfold State.replayStep
  repeat' first
    | with_reducible assumption
    | with_reducible exact Nat.le_refl _
    | with_reducible exact Nat.le_add_right _ _
    | with_reducible exact List.prefix_refl _
    | with_reducible refine Keeps.ite ?_ ?_
    | with_reducible refine State.withPeers_keeps _ _ _ _ _ _ ?_ ?_
    | with_reducible refine State.mend_keeps _ _ _ ?_
    | with_reducible refine State.prepareRun_keeps _ _ _ _ ?_
    | with_reducible refine State.launchStop_keeps _ _ _ _ _ ?_
    | with_reducible refine State.sayReplay_keeps _ _ _ ?_
    | with_reducible refine State.beginRun_keeps _ _ _ _ _ ?_
    | with_reducible refine Keeps.ofOk (by assumption) ?_
    | split
    | dsimp only

theorem execStepReplay_keeps (s0 a0 s) (h : Keeps s0 s) :
    KeepsRes s0 (execStepReplay a0 s) := by
  unfold execStepReplay
  repeat' first
    | with_reducible assumption
    | with_reducible refine KeepsRes.next ?_
    | with_reducible refine Keeps.ite ?_ ?_
    | with_reducible refine State.replayStep_keeps _ _ _ _ ?_
    | with_reducible refine State.launchStep_keeps _ _ _ _ _ ?_
    | split

theorem State.orderOne_keeps (s0 s a1 a2 a3 a4 a5 a6) (h : Keeps s0 s) :
    KeepsDone s0 (State.orderOne s a1 a2 a3 a4 a5 a6) := by
  unfold State.orderOne
  repeat' first
    | with_reducible assumption
    | with_reducible refine Keeps.ite ?_ ?_
    | with_reducible refine State.readUp_keeps _ _ _ _ _ ?_
    | with_reducible refine State.lookUp_keeps _ _ _ _ _ ?_
    | with_reducible refine State.setBitsVa_keeps _ _ _ _ _ _ ?_
    | with_reducible refine State.putCtx_keeps _ _ _ _ ?_
    | with_reducible refine Keeps.givenState (fun _ _ => ?_) ?_ ?_
    | with_reducible refine State.givenChk_keeps (fun _ => ?_) ?_
    | with_reducible refine KeepsChk.naming ?_
    | with_reducible refine Keeps.ofOk (by assumption) ?_
    | split

theorem State.orderedPass_keeps (s0 s a1 a2 a3) (h : Keeps s0 s) :
    KeepsDone s0 (State.orderedPass s a1 a2 a3) := by
  unfold State.orderedPass
  repeat' first
    | with_reducible assumption
    | with_reducible refine Keeps.ite ?_ ?_
    | with_reducible refine State.orderOne_keeps _ _ _ _ _ _ _ _ ?_
    | with_reducible refine Done.each_keeps _ _ _ _ (fun _ _ _ => ?_) ?_
    | split

theorem State.commitMasses_keeps (s0 s a1 a2 a3) (h : Keeps s0 s) :
    KeepsChk s0 (State.commitMasses s a1 a2 a3) := by
  unfold State.commitMasses
  repeat' first
    | with_reducible assumption
    | with_reducible refine State.writeVa_keeps _ _ _ _ _ ?_
    | exact KeepsChk.error
    | with_reducible refine KeepsChk.ok ?_
    | with_reducible refine KeepsChk.pure ?_
    | with_reducible refine KeepsChk.mapState ?_ (fun _ _ => ?_)
    | with_reducible refine KeepsChk.map (fun _ => ?_)
    | refine KeepsChk.foldlOk (fun _ _ _ => ?_) ?_
    | with_reducible exact Keeps.ofOk rfl (by assumption)
    | with_reducible refine KeepsChk.ite ?_ ?_
    | refine KeepsChk.bindState ?_ (fun _ _ => ?_)
    | refine KeepsChk.bind (fun _ => ?_)
    | with_reducible refine Keeps.ofOk (by assumption) ?_
    | with_reducible refine Keeps.ite ?_ ?_
    | with_reducible refine State.writeVa_keeps _ _ _ _ _ ?_
    | with_reducible refine State.raise_keeps _ _ _ ?_
    | with_reducible refine Keeps.foldl (fun _ _ _ => ?_) ?_
    | with_reducible refine Keeps.foldPair (fun _ _ _ => ?_) ?_
    | split

theorem State.noteStop_keeps (s0 s a1 a2) (h : Keeps s0 s) :
    Keeps s0 (State.noteStop s a1 a2) := by
  unfold State.noteStop
  repeat' first
    | with_reducible assumption
    | with_reducible refine Keeps.ite ?_ ?_
    | with_reducible refine State.raise_keeps _ _ _ ?_
    | with_reducible refine State.noteUe_keeps _ _ _ _ ?_
    | with_reducible refine State.ueBudgets_keeps _ _ _ ?_
    | split

theorem State.addMasses_keeps (s0 s a1 a2) (h : Keeps s0 s) :
    Keeps s0 (State.addMasses s a1 a2) := by
  unfold State.addMasses
  repeat' first
    | with_reducible assumption
    | with_reducible refine Keeps.ite ?_ ?_
    | with_reducible refine State.mend_keeps _ _ _ ?_
    | with_reducible refine State.commitMasses_keeps _ _ _ _ _ ?_
    | with_reducible refine State.noteStop_keeps _ _ _ _ ?_
    | with_reducible refine Keeps.ofOk (by assumption) ?_
    | split
    | dsimp only

theorem State.sendFinish_keeps (s0 s a1 a2) (h : Keeps s0 s) :
    Keeps s0 (State.sendFinish s a1 a2) := by
  unfold State.sendFinish
  repeat' first
    | with_reducible assumption
    | with_reducible refine State.sendMsg_keeps _ _ _ _ _ _ ?_
    | with_reducible refine Keeps.foldl (fun _ _ _ => ?_) ?_

theorem State.enterUnits_keeps (s0 s a1) (h : Keeps s0 s) :
    Keeps s0 (State.enterUnits s a1) := by
  unfold State.enterUnits
  repeat' first
    | with_reducible assumption
    | with_reducible refine State.runMcast_keeps _ _ _ ?_
    | with_reducible refine State.putMcast_keeps _ _ _ _ ?_
    | with_reducible refine Keeps.foldl (fun _ _ _ => ?_) ?_

theorem State.returnSlots_keeps (s0 s a1 a2) (h : Keeps s0 s) :
    Keeps s0 (State.returnSlots s a1 a2) := by
  unfold State.returnSlots
  repeat' first
    | with_reducible assumption
    | with_reducible refine Keeps.ite ?_ ?_
    | with_reducible refine State.sendMsg_keeps _ _ _ _ _ _ ?_
    | split

theorem State.keepTokens_keeps (s0 s a1 a2) (h : Keeps s0 s) :
    Keeps s0 (State.keepTokens s a1 a2) := by
  unfold State.keepTokens
  repeat' first
    | with_reducible assumption
    | with_reducible exact Nat.le_refl _
    | with_reducible exact Nat.le_add_right _ _
    | with_reducible exact List.prefix_refl _
    | with_reducible refine Keeps.ite ?_ ?_
    | with_reducible refine Keeps.foldl (fun _ _ _ => ?_) ?_
    | with_reducible refine Keeps.foldPair (fun _ _ _ => ?_) ?_
    | split
    | dsimp only
    | exact Nat.le_add_right _ _
    | exact Nat.le_refl _
    | exact List.prefix_refl _
    | with_reducible refine Keeps.setAnt ?_
    | with_reducible refine Keeps.upd ?_ ?_ ?_

theorem State.pushItems_keeps (s0 s a1 a2) (h : Keeps s0 s) :
    Keeps s0 (State.pushItems s a1 a2) := by
  unfold State.pushItems
  repeat' first
    | with_reducible assumption
    | with_reducible refine State.pushItem_keeps _ _ _ _ ?_
    | with_reducible refine Keeps.foldl (fun _ _ _ => ?_) ?_

theorem State.endIfEnding_keeps (s0 s a1) (h : Keeps s0 s) :
    Keeps s0 (State.endIfEnding s a1) := by
  unfold State.endIfEnding
  repeat' first
    | with_reducible assumption
    | with_reducible refine Keeps.ite ?_ ?_
    | with_reducible refine State.endTask_keeps _ _ _ _ _ ?_

theorem State.commitStep_keeps (s0 s a1 a2 a3) (h : Keeps s0 s) :
    Keeps s0 (State.commitStep s a1 a2 a3) := by
  unfold State.commitStep
  repeat' first
    | with_reducible assumption
    | with_reducible refine Keeps.ite ?_ ?_
    | with_reducible refine State.putTask_keeps _ _ _ ?_
    | with_reducible refine State.pushItems_keeps _ _ _ _ ?_
    | with_reducible refine State.keepTokens_keeps _ _ _ _ ?_
    | with_reducible refine State.sendFinish_keeps _ _ _ _ ?_
    | with_reducible refine State.enterUnits_keeps _ _ _ ?_
    | with_reducible refine State.returnSlots_keeps _ _ _ _ ?_
    | with_reducible refine State.addMasses_keeps _ _ _ _ ?_
    | with_reducible refine State.commitSwarm_keeps _ _ ?_
    | with_reducible refine State.putCtx_keeps _ _ _ _ ?_
    | with_reducible refine State.endIfEnding_keeps _ _ _ ?_
    | with_reducible refine State.nextTests_keeps _ _ ?_

theorem State.preCommit_keeps (s0 s a1 a2) (h : Keeps s0 s) :
    KeepsDone s0 (State.preCommit s a1 a2) := by
  unfold State.preCommit
  repeat' first
    | with_reducible assumption
    | with_reducible refine Keeps.ite ?_ ?_
    | with_reducible refine State.orderedPass_keeps _ _ _ _ _ ?_

theorem execStepCommit_keeps (s0 a0 a1 s) (h : Keeps s0 s) :
    KeepsRes s0 (execStepCommit a0 a1 s) := by
  unfold execStepCommit
  repeat' first
    | with_reducible assumption
    | with_reducible refine KeepsRes.next ?_
    | with_reducible refine Keeps.ite ?_ ?_
    | with_reducible refine State.preCommit_keeps _ _ _ _ ?_
    | with_reducible refine State.stopBy_keeps _ _ _ _ _ _ _ _ _ _ ?_
    | with_reducible refine State.commitStep_keeps _ _ _ _ _ ?_
    | split
    | dsimp only

end Sys2Proof.Machine
end

