-- ==== Sys2Proof/Laws/KeepsStart.lean ====
section
/-!
SUPPORT. What the operations of Start keep of a state.
-/
namespace Sys2Proof.Machine

theorem State.withStart_keeps (s0 s a1) (h : Keeps s0 s) :
    Keeps s0 (State.withStart s a1) := by
  unfold State.withStart
  repeat' first
    | with_reducible assumption
    | with_reducible exact Nat.le_refl _
    | with_reducible exact Nat.le_add_right _ _
    | with_reducible exact List.prefix_refl _
    | dsimp only
    | exact Nat.le_add_right _ _
    | exact Nat.le_refl _
    | exact List.prefix_refl _
    | with_reducible refine Keeps.setAnt ?_
    | with_reducible refine Keeps.upd ?_ ?_ ?_

theorem State.withKept_keeps (s0 s a1) (h : Keeps s0 s) :
    Keeps s0 (State.withKept s a1) := by
  unfold State.withKept
  repeat' first
    | with_reducible assumption
    | with_reducible refine State.withStart_keeps _ _ _ ?_

theorem State.makeRoom_keeps (s0 s) (h : Keeps s0 s) :
    Keeps s0 (State.makeRoom s) := by
  unfold State.makeRoom
  repeat' first
    | with_reducible assumption
    | with_reducible refine Keeps.ite ?_ ?_
    | with_reducible refine State.writeSummary_keeps _ _ _ ?_
    | with_reducible refine State.endErase_keeps _ _ ?_
    | with_reducible refine State.beginErase_keeps _ _ _ ?_
    | split
    | dsimp only

theorem State.logStart_keeps (s0 s a1 a2 a3 a4 a5 a6) (h : Keeps s0 s) :
    Keeps s0 (State.logStart s a1 a2 a3 a4 a5 a6) := by
  unfold State.logStart
  repeat' first
    | with_reducible assumption
    | with_reducible refine State.writeRec_keeps _ _ _ _ _ _ _ _ ?_
    | with_reducible refine State.makeRoom_keeps _ _ ?_

theorem State.fenceAtStart_keeps (s0 s a1) (h : Keeps s0 s) :
    Keeps s0 (State.fenceAtStart s a1) := by
  unfold State.fenceAtStart
  repeat' first
    | with_reducible assumption
    | with_reducible refine State.withKept_keeps _ _ _ ?_
    | with_reducible refine State.setFence_keeps _ _ _ ?_

theorem State.initSpads_keeps (s0 s a1) (h : Keeps s0 s) :
    Keeps s0 (State.initSpads s a1) := by
  unfold State.initSpads
  repeat' first
    | with_reducible assumption
    | with_reducible refine State.wipe_keeps _ _ _ _ ?_
    | with_reducible refine Keeps.foldl (fun _ _ _ => ?_) ?_

theorem State.placeQueue_keeps (s0 s a1 a2 a3 a4 a5 a6 a7) (h : Keeps s0 s) :
    Keeps s0 (State.placeQueue s a1 a2 a3 a4 a5 a6 a7) := by
  unfold State.placeQueue
  repeat' first
    | with_reducible assumption
    | with_reducible refine State.setupQueue_keeps _ _ _ _ _ _ _ _ _ _ _ ?_

theorem State.startQueues_keeps (s0 s) (h : Keeps s0 s) :
    Keeps s0 (State.startQueues s) := by
  unfold State.startQueues
  repeat' first
    | with_reducible assumption
    | with_reducible refine State.placeQueue_keeps _ _ _ _ _ _ _ _ _ ?_
    | with_reducible refine Keeps.foldl (fun _ _ _ => ?_) ?_

theorem State.imageEntry_keeps (s0 s a1) (h : Keeps s0 s) :
    Keeps s0 (State.imageEntry s a1) := by
  unfold State.imageEntry
  repeat' first
    | with_reducible assumption
    | with_reducible refine Keeps.ite ?_ ?_
    | with_reducible refine State.plainWrite_keeps _ _ _ _ _ ?_
    | with_reducible refine Keeps.foldl (fun _ _ _ => ?_) ?_

theorem State.startRegs_keeps (s0 s) (h : Keeps s0 s) :
    Keeps s0 (State.startRegs s) := by
  unfold State.startRegs
  repeat' first
    | with_reducible assumption
    | with_reducible refine State.putReg_keeps _ _ _ _ ?_
    | with_reducible refine State.imageEntry_keeps _ _ _ ?_
    | with_reducible refine State.withStart_keeps _ _ _ ?_
    | with_reducible refine Keeps.foldl (fun _ _ _ => ?_) ?_

theorem State.useConfig_keeps (s0 s a1 a2) (h : Keeps s0 s) :
    Keeps s0 (State.useConfig s a1 a2) := by
  unfold State.useConfig
  repeat' first
    | with_reducible assumption
    | with_reducible exact Nat.le_refl _
    | with_reducible exact Nat.le_add_right _ _
    | with_reducible exact List.prefix_refl _
    | with_reducible refine Keeps.ite ?_ ?_
    | with_reducible refine State.putReg_keeps _ _ _ _ ?_
    | with_reducible refine State.setFld_keeps _ _ _ _ _ ?_
    | with_reducible refine State.putMember_keeps _ _ _ _ ?_
    | with_reducible refine State.setCap_keeps _ _ _ ?_
    | with_reducible refine State.withKept_keeps _ _ _ ?_
    | dsimp only
    | exact Nat.le_add_right _ _
    | exact Nat.le_refl _
    | exact List.prefix_refl _
    | with_reducible refine Keeps.setAnt ?_
    | with_reducible refine Keeps.upd ?_ ?_ ?_

theorem State.beginWork_keeps (s0 s a1 a2) (h : Keeps s0 s) :
    Keeps s0 (State.beginWork s a1 a2) := by
  unfold State.beginWork
  repeat' first
    | with_reducible assumption
    | with_reducible refine Keeps.ite ?_ ?_
    | with_reducible refine State.setFld_keeps _ _ _ _ _ ?_
    | with_reducible refine State.setPortState_keeps _ _ _ _ ?_
    | with_reducible refine State.sendHello_keeps _ _ _ ?_
    | with_reducible refine State.joinSelf_keeps _ _ ?_
    | with_reducible refine State.withKept_keeps _ _ _ ?_
    | with_reducible refine State.writeSummary_keeps _ _ _ ?_
    | with_reducible refine State.beginErase_keeps _ _ _ ?_
    | with_reducible refine Keeps.foldl (fun _ _ _ => ?_) ?_
    | with_reducible refine Keeps.foldPair (fun _ _ _ => ?_) ?_
    | split

theorem State.passWork_keeps (s0 s a1 a2 a3 a4) (h : Keeps s0 s) :
    Keeps s0 (State.passWork s a1 a2 a3 a4) := by
  unfold State.passWork
  repeat' first
    | with_reducible assumption
    | with_reducible exact Nat.le_refl _
    | with_reducible exact Nat.le_add_right _ _
    | with_reducible exact List.prefix_refl _
    | with_reducible refine Keeps.ite ?_ ?_
    | with_reducible refine State.setFld_keeps _ _ _ _ _ ?_
    | with_reducible refine State.withStart_keeps _ _ _ ?_
    | with_reducible refine State.useConfig_keeps _ _ _ _ ?_
    | with_reducible refine State.wipe_keeps _ _ _ _ ?_
    | with_reducible refine State.fenceAtStart_keeps _ _ _ ?_
    | with_reducible refine State.initSpads_keeps _ _ _ ?_
    | with_reducible refine State.setFence_keeps _ _ _ ?_
    | with_reducible refine State.startQueues_keeps _ _ ?_
    | with_reducible refine State.startRegs_keeps _ _ ?_
    | with_reducible refine State.trainUp_keeps _ _ _ _ _ ?_
    | with_reducible refine State.endErase_keeps _ _ ?_
    | with_reducible refine Keeps.foldl (fun _ _ _ => ?_) ?_
    | with_reducible refine Keeps.foldPair (fun _ _ _ => ?_) ?_
    | split
    | dsimp only
    | exact Nat.le_add_right _ _
    | exact Nat.le_refl _
    | exact List.prefix_refl _
    | with_reducible refine Keeps.setAnt ?_
    | with_reducible refine Keeps.upd ?_ ?_ ?_

theorem State.keepWork_keeps (s0 s a1 a2 a3) (h : Keeps s0 s) :
    Keeps s0 (State.keepWork s a1 a2 a3) := by
  unfold State.keepWork
  repeat' first
    | with_reducible assumption
    | with_reducible refine Keeps.ite ?_ ?_
    | with_reducible refine State.withKept_keeps _ _ _ ?_

theorem State.exclude_keeps (s0 s a1 a2) (h : Keeps s0 s) :
    Keeps s0 (State.exclude s a1 a2) := by
  unfold State.exclude
  repeat' first
    | with_reducible assumption
    | with_reducible refine Keeps.ite ?_ ?_
    | with_reducible refine State.logStart_keeps _ _ _ _ _ _ _ _ ?_
    | with_reducible refine State.withStart_keeps _ _ _ ?_
    | with_reducible refine State.fenceMantis_keeps _ _ _ ?_
    | with_reducible refine State.failErg_keeps _ _ _ _ ?_
    | with_reducible refine State.setFence_keeps _ _ _ ?_

theorem State.openStep_keeps (s0 s a1) (h : Keeps s0 s) :
    Keeps s0 (State.openStep s a1) := by
  unfold State.openStep
  repeat' first
    | with_reducible assumption
    | with_reducible refine Keeps.ite ?_ ?_
    | with_reducible refine State.setFld_keeps _ _ _ _ _ ?_
    | with_reducible refine State.withStart_keeps _ _ _ ?_
    | with_reducible refine State.exclude_keeps _ _ _ _ ?_
    | with_reducible refine State.enterHold_keeps _ _ _ _ _ ?_
    | with_reducible refine Keeps.foldl (fun _ _ _ => ?_) ?_

theorem State.enterStep_keeps (s0 a0 s a2) (h : Keeps s0 s) :
    Keeps s0 (State.enterStep a0 s a2) := by
  induction a0 generalizing s a2 with
  | zero => exact h
  | succ a0 ih =>
  unfold State.enterStep
  repeat' first
    | with_reducible assumption
    | with_reducible refine Keeps.ite ?_ ?_
    | with_reducible refine State.openStep_keeps _ _ _ ?_
    | with_reducible refine ih _ _ ?_

theorem State.nextStep_keeps (s0 s) (h : Keeps s0 s) :
    Keeps s0 (State.nextStep s) := by
  unfold State.nextStep
  repeat' first
    | with_reducible assumption
    | with_reducible refine Keeps.ite ?_ ?_
    | with_reducible refine State.restartNow_keeps _ _ ?_
    | with_reducible refine State.openStep_keeps _ _ _ ?_
    | with_reducible refine State.enterStep_keeps _ _ _ _ ?_

theorem State.endUnit_keeps (s0 s a1 a2) (h : Keeps s0 s) :
    Keeps s0 (State.endUnit s a1 a2) := by
  unfold State.endUnit
  repeat' first
    | with_reducible assumption
    | with_reducible refine Keeps.ite ?_ ?_
    | with_reducible refine State.withStart_keeps _ _ _ ?_
    | with_reducible refine State.nextStep_keeps _ _ ?_

theorem State.beginUnit_keeps (s0 s a1 a2 a3) (h : Keeps s0 s) :
    Keeps s0 (State.beginUnit s a1 a2 a3) := by
  unfold State.beginUnit
  repeat' first
    | with_reducible assumption
    | with_reducible refine Keeps.ite ?_ ?_
    | with_reducible refine State.logStart_keeps _ _ _ _ _ _ _ _ ?_
    | with_reducible refine State.setFld_keeps _ _ _ _ _ ?_
    | with_reducible refine State.withStart_keeps _ _ _ ?_
    | with_reducible refine State.beginWork_keeps _ _ _ _ ?_

theorem State.exhaust_keeps (s0 s a1 a2) (h : Keeps s0 s) :
    Keeps s0 (State.exhaust s a1 a2) := by
  unfold State.exhaust
  repeat' first
    | with_reducible assumption
    | with_reducible exact Nat.le_refl _
    | with_reducible exact Nat.le_add_right _ _
    | with_reducible exact List.prefix_refl _
    | with_reducible refine Keeps.ite ?_ ?_
    | with_reducible refine State.fenceMantis_keeps _ _ _ ?_
    | with_reducible refine State.enterHold_keeps _ _ _ _ _ ?_
    | with_reducible refine State.endUnit_keeps _ _ _ _ ?_
    | with_reducible refine State.failErg_keeps _ _ _ _ ?_
    | with_reducible refine State.fenceAtStart_keeps _ _ _ ?_
    | with_reducible refine State.setPortState_keeps _ _ _ _ ?_
    | split
    | dsimp only
    | exact Nat.le_add_right _ _
    | exact Nat.le_refl _
    | exact List.prefix_refl _
    | with_reducible refine Keeps.setAnt ?_
    | with_reducible refine Keeps.upd ?_ ?_ ?_

theorem State.failUnit_keeps (s0 s a1 a2 a3 a4) (h : Keeps s0 s) :
    Keeps s0 (State.failUnit s a1 a2 a3 a4) := by
  unfold State.failUnit
  repeat' first
    | with_reducible assumption
    | with_reducible refine Keeps.ite ?_ ?_
    | with_reducible refine State.logStart_keeps _ _ _ _ _ _ _ _ ?_
    | with_reducible refine State.withStart_keeps _ _ _ ?_
    | with_reducible refine State.nextStep_keeps _ _ ?_
    | with_reducible refine State.beginUnit_keeps _ _ _ _ _ ?_
    | with_reducible refine State.exhaust_keeps _ _ _ _ ?_

theorem State.takeLedger_keeps (s0 s a1 a2 a3) (h : Keeps s0 s) :
    Keeps s0 (State.takeLedger s a1 a2 a3) := by
  unfold State.takeLedger
  repeat' first
    | with_reducible assumption
    | with_reducible exact Nat.le_refl _
    | with_reducible exact Nat.le_add_right _ _
    | with_reducible exact List.prefix_refl _
    | with_reducible refine Keeps.ite ?_ ?_
    | with_reducible refine State.withStart_keeps _ _ _ ?_
    | with_reducible refine State.setFld_keeps _ _ _ _ _ ?_
    | with_reducible refine State.eraseSector_keeps _ _ _ ?_
    | with_reducible refine State.logStart_keeps _ _ _ _ _ _ _ _ ?_
    | with_reducible refine State.enterHold_keeps _ _ _ _ _ ?_
    | with_reducible refine State.endUnit_keeps _ _ _ _ ?_
    | split
    | dsimp only
    | exact Nat.le_add_right _ _
    | exact Nat.le_refl _
    | exact List.prefix_refl _
    | with_reducible refine Keeps.setAnt ?_
    | with_reducible refine Keeps.upd ?_ ?_ ?_

theorem State.passUnit_keeps (s0 s a1 a2 a3 a4) (h : Keeps s0 s) :
    Keeps s0 (State.passUnit s a1 a2 a3 a4) := by
  unfold State.passUnit
  repeat' first
    | with_reducible assumption
    | with_reducible refine Keeps.ite ?_ ?_
    | with_reducible refine State.keepWork_keeps _ _ _ _ _ ?_
    | with_reducible refine State.passWork_keeps _ _ _ _ _ _ ?_
    | with_reducible refine State.logStart_keeps _ _ _ _ _ _ _ _ ?_
    | with_reducible refine State.enterHold_keeps _ _ _ _ _ ?_
    | with_reducible refine State.endUnit_keeps _ _ _ _ ?_

theorem State.closeUnit_keeps (s0 s a1 a2 a3 a4 a5 a6) (h : Keeps s0 s) :
    Keeps s0 (State.closeUnit s a1 a2 a3 a4 a5 a6) := by
  unfold State.closeUnit
  repeat' first
    | with_reducible assumption
    | with_reducible exact Nat.le_refl _
    | with_reducible exact Nat.le_add_right _ _
    | with_reducible exact List.prefix_refl _
    | with_reducible refine Keeps.ite ?_ ?_
    | with_reducible refine State.endUnit_keeps _ _ _ _ ?_
    | with_reducible refine State.takeLedger_keeps _ _ _ _ _ ?_
    | with_reducible refine State.failUnit_keeps _ _ _ _ _ _ ?_
    | with_reducible refine State.passUnit_keeps _ _ _ _ _ _ ?_
    | split
    | dsimp only
    | exact Nat.le_add_right _ _
    | exact Nat.le_refl _
    | exact List.prefix_refl _
    | with_reducible refine Keeps.setAnt ?_
    | with_reducible refine Keeps.upd ?_ ?_ ?_

theorem execStartStep_keeps (s0 a0 a1 a2 a3 s) (h : Keeps s0 s) :
    KeepsRes s0 (execStartStep a0 a1 a2 a3 s) := by
  unfold execStartStep
  repeat' first
    | with_reducible assumption
    | with_reducible refine KeepsRes.next ?_
    | with_reducible refine Keeps.ite ?_ ?_
    | with_reducible refine State.settleFlash_keeps _ _ ?_
    | with_reducible refine State.closeUnit_keeps _ _ _ _ _ _ _ _ ?_
    | with_reducible refine State.beginUnit_keeps _ _ _ _ _ ?_
    | split

theorem execStartStepLimit_keeps (s0 a0 s) (h : Keeps s0 s) :
    KeepsRes s0 (execStartStepLimit a0 s) := by
  unfold execStartStepLimit
  repeat' first
    | with_reducible assumption
    | with_reducible exact Nat.le_refl _
    | with_reducible exact Nat.le_add_right _ _
    | with_reducible exact List.prefix_refl _
    | with_reducible refine KeepsRes.next ?_
    | with_reducible refine Keeps.ite ?_ ?_
    | with_reducible refine State.settleFlash_keeps _ _ ?_
    | with_reducible refine State.failUnit_keeps _ _ _ _ _ _ ?_
    | split
    | dsimp only
    | exact Nat.le_add_right _ _
    | exact Nat.le_refl _
    | exact List.prefix_refl _
    | with_reducible refine Keeps.setAnt ?_
    | with_reducible refine Keeps.upd ?_ ?_ ?_

end Sys2Proof.Machine
end

