-- ==== Sys2Proof/Laws/KeepsAdmit.lean ====
section
/-!
SUPPORT. What the operations of Admit keep of a state.
-/
namespace Sys2Proof.Machine

theorem State.writeTables_keeps (s0 s a1 a2) (h : Keeps s0 s) :
    Keeps s0 (State.writeTables s a1 a2) := by
  unfold State.writeTables
  repeat' first
    | with_reducible assumption
    | with_reducible refine State.wipe_keeps _ _ _ _ ?_
    | with_reducible refine State.store_keeps _ _ _ _ ?_
    | with_reducible refine Keeps.foldl (fun _ _ _ => ?_) ?_

theorem State.giveRegion_keeps (s0 s a1 a2) (h : Keeps s0 s) :
    Keeps s0 (State.giveRegion s a1 a2) := by
  unfold State.giveRegion
  repeat' first
    | with_reducible assumption
    | with_reducible refine Keeps.ite ?_ ?_
    | with_reducible refine State.putGroup_keeps _ _ _ _ ?_
    | with_reducible refine State.dropRegion_keeps _ _ _ _ ?_
    | with_reducible refine State.setFld_keeps _ _ _ _ _ ?_
    | with_reducible refine Keeps.foldl (fun _ _ _ => ?_) ?_

theorem State.giveContext_keeps (s0 s a1 a2 a3) (h : Keeps s0 s) :
    Keeps s0 (State.giveContext s a1 a2 a3) := by
  unfold State.giveContext
  repeat' first
    | with_reducible assumption
    | with_reducible refine State.putCtx_keeps _ _ _ _ ?_
    | with_reducible refine State.setFld_keeps _ _ _ _ _ ?_
    | with_reducible refine State.placeQueue_keeps _ _ _ _ _ _ _ _ _ ?_
    | with_reducible refine State.putCore_keeps _ _ _ _ ?_
    | with_reducible refine State.putTask_keeps _ _ _ ?_
    | with_reducible refine Keeps.foldl (fun _ _ _ => ?_) ?_

theorem State.createMcast_keeps (s0 s a1 a2 a3) (h : Keeps s0 s) :
    Keeps s0 (State.createMcast s a1 a2 a3) := by
  unfold State.createMcast
  repeat' first
    | with_reducible assumption
    | with_reducible refine State.setFld_keeps _ _ _ _ _ ?_
    | with_reducible refine State.putMcast_keeps _ _ _ _ ?_
    | with_reducible refine State.sendMsg_keeps _ _ _ _ _ _ ?_
    | with_reducible refine Keeps.foldl (fun _ _ _ => ?_) ?_

theorem State.giveShadow_keeps (s0 s a1 a2) (h : Keeps s0 s) :
    Keeps s0 (State.giveShadow s a1 a2) := by
  unfold State.giveShadow
  repeat' first
    | with_reducible assumption
    | with_reducible exact Nat.le_refl _
    | with_reducible exact Nat.le_add_right _ _
    | with_reducible exact List.prefix_refl _
    | with_reducible refine Keeps.ite ?_ ?_
    | with_reducible refine State.putGroup_keeps _ _ _ _ ?_
    | split
    | dsimp only
    | exact Nat.le_add_right _ _
    | exact Nat.le_refl _
    | exact List.prefix_refl _
    | with_reducible refine Keeps.setAnt ?_
    | with_reducible refine Keeps.upd ?_ ?_ ?_

theorem State.openAll_keeps (s0 s a1 a2 a3) (h : Keeps s0 s) :
    KeepsChk s0 (State.openAll s a1 a2 a3) := by
  induction a3 generalizing s with
  | nil => exact KeepsChk.ok h
  | cons r l ih =>
    unfold State.openAll
    split
    · exact KeepsChk.error
    · exact ih _ (Keeps.ofOkPair (by assumption) (State.openWindow_keeps _ _ _ _ _ h))

theorem State.createGroup_keeps (s0 s a1 a2 a3 a4) (h : Keeps s0 s) :
    KeepsFst s0 (State.createGroup s a1 a2 a3 a4) := by
  unfold State.createGroup
  repeat' first
    | with_reducible assumption
    | with_reducible exact Nat.le_refl _
    | with_reducible exact Nat.le_add_right _ _
    | with_reducible exact List.prefix_refl _
    | exact KeepsFst.error
    | with_reducible refine KeepsFst.ok ?_
    | with_reducible refine KeepsFst.ite ?_ ?_
    | with_reducible refine Keeps.ite ?_ ?_
    | with_reducible refine State.writeTables_keeps _ _ _ _ ?_
    | with_reducible refine State.putGroup_keeps _ _ _ _ ?_
    | with_reducible refine State.openAll_keeps _ _ _ _ _ ?_
    | with_reducible refine State.putHandle_keeps _ _ _ _ ?_
    | with_reducible refine State.createMcast_keeps _ _ _ _ _ ?_
    | with_reducible refine State.giveRegion_keeps _ _ _ _ ?_
    | with_reducible refine State.giveShadow_keeps _ _ _ _ ?_
    | with_reducible refine State.giveContext_keeps _ _ _ _ _ ?_
    | with_reducible refine KeepsFst.map ?_ (fun _ _ => ?_)
    | with_reducible refine Keeps.ofOk (by assumption) ?_
    | with_reducible refine Keeps.foldl (fun _ _ _ => ?_) ?_
    | with_reducible refine Keeps.foldPair (fun _ _ _ => ?_) ?_
    | split
    | dsimp only
    | exact Nat.le_add_right _ _
    | exact Nat.le_refl _
    | exact List.prefix_refl _
    | with_reducible refine Keeps.setAnt ?_
    | with_reducible refine Keeps.upd ?_ ?_ ?_

theorem State.refuseGroup_keeps (s0 s a1 a2 a3 a4 a5 a6) (h : Keeps s0 s) :
    Keeps s0 (State.refuseGroup s a1 a2 a3 a4 a5 a6) := by
  unfold State.refuseGroup
  repeat' first
    | with_reducible assumption
    | with_reducible refine State.raise_keeps _ _ _ ?_
    | with_reducible refine State.doneReqs_keeps _ _ _ ?_
    | with_reducible refine State.sendAdmit_keeps _ _ _ _ _ _ ?_

theorem State.sayWindows_keeps (s0 s a1 a2) (h : Keeps s0 s) :
    Keeps s0 (State.sayWindows s a1 a2) := by
  unfold State.sayWindows
  repeat' first
    | with_reducible assumption
    | with_reducible refine Keeps.ite ?_ ?_
    | with_reducible refine State.sendFrame_keeps _ _ _ _ _ _ _ ?_
    | with_reducible refine Keeps.foldl (fun _ _ _ => ?_) ?_

theorem State.admitOne_keeps (s0 s a1) (h : Keeps s0 s) :
    KeepsOpt s0 (State.admitOne s a1) := by
  unfold State.admitOne
  repeat' first
    | with_reducible assumption
    | exact KeepsOpt.none
    | with_reducible refine KeepsOpt.some ?_
    | with_reducible refine KeepsOpt.ite ?_ ?_
    | with_reducible refine Keeps.ite ?_ ?_
    | with_reducible refine State.mend_keeps _ _ _ ?_
    | with_reducible refine State.refuseGroup_keeps _ _ _ _ _ _ _ _ ?_
    | with_reducible refine State.noteUe_keeps _ _ _ _ ?_
    | with_reducible refine State.ueBudgets_keeps _ _ _ ?_
    | with_reducible refine State.createGroup_keeps _ _ _ _ _ _ ?_
    | with_reducible refine State.sendAdmit_keeps _ _ _ _ _ _ ?_
    | with_reducible refine State.sayWindows_keeps _ _ _ _ ?_
    | with_reducible refine State.doneReqs_keeps _ _ _ ?_
    | with_reducible refine Keeps.ofFst (by assumption) ?_
    | with_reducible refine Keeps.ofOkPair (by assumption) ?_
    | split
    | dsimp only

theorem State.admitList_keeps (s0 a0 s) (h : Keeps s0 s) :
    Keeps s0 (State.admitList a0 s) := by
  induction a0 generalizing s with
  | nil => exact h
  | cons r l ih =>
    unfold State.admitList
    split
    · exact h
    · exact ih _ (Keeps.ofSome (by assumption) (State.admitOne_keeps _ _ _ h))

theorem State.admitAll_keeps (s0 s) (h : Keeps s0 s) :
    Keeps s0 (State.admitAll s) := by
  unfold State.admitAll
  repeat' first
    | with_reducible assumption
    | with_reducible refine State.admitList_keeps _ _ _ ?_

theorem State.discardCopy_keeps (s0 s a1 a2) (h : Keeps s0 s) :
    Keeps s0 (State.discardCopy s a1 a2) := by
  unfold State.discardCopy
  repeat' first
    | with_reducible assumption
    | with_reducible refine Keeps.ite ?_ ?_
    | with_reducible refine State.withWadi_keeps _ _ _ ?_

theorem State.endGroupOf_keeps (s0 s a1) (h : Keeps s0 s) :
    Keeps s0 (State.endGroupOf s a1) := by
  unfold State.endGroupOf
  repeat' first
    | with_reducible assumption
    | with_reducible refine Keeps.ite ?_ ?_
    | with_reducible refine State.putGroup_keeps _ _ _ _ ?_
    | with_reducible refine State.tryEndGroup_keeps _ _ _ ?_
    | with_reducible refine State.endTask_keeps _ _ _ _ _ ?_
    | with_reducible refine Keeps.foldl (fun _ _ _ => ?_) ?_

theorem State.scanOne_keeps (s0 s a1 a2) (h : Keeps s0 s) :
    Keeps s0 (State.scanOne s a1 a2) := by
  unfold State.scanOne
  repeat' first
    | with_reducible assumption
    | with_reducible refine Keeps.ite ?_ ?_
    | with_reducible refine State.discardCopy_keeps _ _ _ _ ?_
    | with_reducible refine State.putCtx_keeps _ _ _ _ ?_
    | with_reducible refine State.doneReqs_keeps _ _ _ ?_
    | with_reducible refine State.endGroupOf_keeps _ _ _ ?_
    | split

theorem State.scanList_keeps (s0 a0 a1 s) (h : Keeps s0 s) :
    Keeps s0 (State.scanList a0 a1 s) := by
  induction a1 generalizing a0 s with
  | nil => exact h
  | cons r l ih =>
    unfold State.scanList
    split
    · exact ih _ _ h
    · exact ih _ _ (State.scanOne_keeps _ _ _ _ h)

theorem State.workRequests_keeps (s0 s) (h : Keeps s0 s) :
    Keeps s0 (State.workRequests s) := by
  unfold State.workRequests
  repeat' first
    | with_reducible assumption
    | with_reducible refine Keeps.ite ?_ ?_
    | with_reducible refine State.admitAll_keeps _ _ ?_
    | with_reducible refine State.scanList_keeps _ _ _ _ ?_

theorem execSubmitGroup_keeps (s0 a0 a1 a2 a3 a4 a5 s) (h : Keeps s0 s) :
    KeepsRes s0 (execSubmitGroup a0 a1 a2 a3 a4 a5 s) := by
  unfold execSubmitGroup
  repeat' first
    | with_reducible assumption
    | with_reducible refine KeepsRes.next ?_
    | with_reducible refine Keeps.ite ?_ ?_
    | with_reducible refine State.submission_keeps _ _ _ _ _ (fun _ _ => ?_) ?_
    | with_reducible refine State.putRequest_keeps _ _ _ _ _ _ _ _ ?_
    | with_reducible refine State.workRequests_keeps _ _ ?_

theorem execHeldAdmission_keeps (s0 s) (h : Keeps s0 s) :
    KeepsRes s0 (execHeldAdmission s) := by
  unfold execHeldAdmission
  repeat' first
    | with_reducible assumption
    | with_reducible refine KeepsRes.next ?_
    | with_reducible refine State.workRequests_keeps _ _ ?_

theorem execStepWord_keeps (s0 a0 a1 s) (h : Keeps s0 s) :
    KeepsRes s0 (execStepWord a0 a1 s) := by
  unfold execStepWord
  repeat' first
    | with_reducible assumption
    | with_reducible exact Nat.le_refl _
    | with_reducible exact Nat.le_add_right _ _
    | with_reducible exact List.prefix_refl _
    | with_reducible refine KeepsRes.next ?_
    | with_reducible refine Keeps.ite ?_ ?_
    | with_reducible refine State.submission_keeps _ _ _ _ _ (fun _ _ => ?_) ?_
    | with_reducible refine State.putRequest_keeps _ _ _ _ _ _ _ _ ?_
    | with_reducible refine State.withWadi_keeps _ _ _ ?_
    | with_reducible refine State.workRequests_keeps _ _ ?_

theorem execEndGroup_keeps (s0 a0 a1 s) (h : Keeps s0 s) :
    KeepsRes s0 (execEndGroup a0 a1 s) := by
  unfold execEndGroup
  repeat' first
    | with_reducible assumption
    | with_reducible refine KeepsRes.next ?_
    | with_reducible refine Keeps.ite ?_ ?_
    | with_reducible refine State.submission_keeps _ _ _ _ _ (fun _ _ => ?_) ?_
    | with_reducible refine State.putRequest_keeps _ _ _ _ _ _ _ _ ?_
    | with_reducible refine State.workRequests_keeps _ _ ?_

end Sys2Proof.Machine
end

