-- ==== Sys2Proof/Laws/KeepsBulk.lean ====
section
/-!
SUPPORT. What the operations of Bulk keep of a state.
-/
namespace Sys2Proof.Machine

theorem State.bulkAck_keeps (s0 s a1 a2 a3 a4) (h : Keeps s0 s) :
    Keeps s0 (State.bulkAck s a1 a2 a3 a4) := by
  unfold State.bulkAck
  repeat' first
    | with_reducible assumption
    | with_reducible refine State.reply_keeps _ _ _ _ _ _ ?_

theorem execBulkWrite_keeps (s0 a0 a1 a2 s) (h : Keeps s0 s) :
    KeepsRes s0 (execBulkWrite a0 a1 a2 s) := by
  unfold execBulkWrite
  repeat' first
    | with_reducible assumption
    | with_reducible refine KeepsRes.next ?_
    | with_reducible refine Keeps.ite ?_ ?_
    | with_reducible refine State.request_keeps _ _ _ _ _ (fun _ _ => ?_) ?_
    | with_reducible refine State.bulkAck_keeps _ _ _ _ _ _ ?_
    | with_reducible refine State.withWadi_keeps _ _ _ ?_
    | with_reducible refine State.store_keeps _ _ _ _ ?_
    | split

theorem execBulkAck_keeps (s0 a0 s) (h : Keeps s0 s) :
    KeepsRes s0 (execBulkAck a0 s) := by
  unfold execBulkAck
  repeat' first
    | with_reducible assumption
    | with_reducible refine KeepsRes.next ?_
    | with_reducible refine State.bulkAck_keeps _ _ _ _ _ _ ?_
    | with_reducible refine State.withWadi_keeps _ _ _ ?_
    | split

theorem execBulkRead_keeps (s0 a0 a1 a2 s) (h : Keeps s0 s) :
    KeepsRes s0 (execBulkRead a0 a1 a2 s) := by
  unfold execBulkRead
  repeat' first
    | with_reducible assumption
    | with_reducible refine KeepsRes.next ?_
    | with_reducible refine Keeps.ite ?_ ?_
    | with_reducible refine State.request_keeps _ _ _ _ _ (fun _ _ => ?_) ?_
    | with_reducible refine State.bulkAck_keeps _ _ _ _ _ _ ?_
    | with_reducible refine State.noteUe_keeps _ _ _ _ ?_
    | with_reducible refine State.ueBudgets_keeps _ _ _ ?_
    | with_reducible refine State.correct_keeps _ _ _ _ ?_
    | with_reducible refine State.reply_keeps _ _ _ _ _ _ ?_
    | split

theorem execEvents_keeps (s0 a0 s) (h : Keeps s0 s) :
    KeepsRes s0 (execEvents a0 s) := by
  unfold execEvents
  repeat' first
    | with_reducible assumption
    | with_reducible refine KeepsRes.next ?_
    | with_reducible refine State.sendItems_keeps _ _ _ _ _ _ _ ?_

theorem execCompletions_keeps (s0 a0 a1 s) (h : Keeps s0 s) :
    KeepsRes s0 (execCompletions a0 a1 s) := by
  unfold execCompletions
  repeat' first
    | with_reducible assumption
    | with_reducible refine KeepsRes.next ?_
    | with_reducible refine Keeps.ite ?_ ?_
    | with_reducible refine State.sendItems_keeps _ _ _ _ _ _ _ ?_

theorem execTokens_keeps (s0 a0 a1 s) (h : Keeps s0 s) :
    KeepsRes s0 (execTokens a0 a1 s) := by
  unfold execTokens
  repeat' first
    | with_reducible assumption
    | with_reducible refine KeepsRes.next ?_
    | with_reducible refine Keeps.ite ?_ ?_
    | with_reducible refine State.sendItems_keeps _ _ _ _ _ _ _ ?_

end Sys2Proof.Machine
end

