-- ==== Sys2Proof/Laws/KeepsHamada.lean ====
section
/-!
SUPPORT. What the operations of Hamada keep of a state.
-/
namespace Sys2Proof.Machine

theorem execLockstepMismatch_keeps (s0 a0 a1 s) (h : Keeps s0 s) :
    KeepsRes s0 (execLockstepMismatch a0 a1 s) := by
  unfold execLockstepMismatch
  repeat' first
    | with_reducible assumption
    | with_reducible refine KeepsRes.next ?_
    | with_reducible refine Keeps.ite ?_ ?_
    | with_reducible refine State.trip_keeps _ _ _ _ _ ?_

theorem execMantisHeartbeat_keeps (s0 a0 s) (h : Keeps s0 s) :
    KeepsRes s0 (execMantisHeartbeat a0 s) := by
  unfold execMantisHeartbeat
  repeat' first
    | with_reducible assumption
    | with_reducible exact Nat.le_refl _
    | with_reducible exact Nat.le_add_right _ _
    | with_reducible exact List.prefix_refl _
    | with_reducible refine KeepsRes.next ?_
    | with_reducible refine Keeps.ite ?_ ?_
    | split
    | dsimp only
    | exact Nat.le_add_right _ _
    | exact Nat.le_refl _
    | exact List.prefix_refl _
    | with_reducible refine Keeps.setAnt ?_
    | with_reducible refine Keeps.upd ?_ ?_ ?_

theorem State.dropManaged_keeps (s0 s a1) (h : Keeps s0 s) :
    Keeps s0 (State.dropManaged s a1) := by
  unfold State.dropManaged
  repeat' first
    | with_reducible assumption
    | with_reducible exact Nat.le_refl _
    | with_reducible exact Nat.le_add_right _ _
    | with_reducible exact List.prefix_refl _
    | with_reducible refine Keeps.ite ?_ ?_
    | with_reducible refine State.abortAs_keeps _ _ _ _ _ _ ?_
    | with_reducible refine Keeps.foldl (fun _ _ _ => ?_) ?_
    | with_reducible refine Keeps.foldPair (fun _ _ _ => ?_) ?_
    | split
    | dsimp only
    | exact Nat.le_add_right _ _
    | exact Nat.le_refl _
    | exact List.prefix_refl _
    | with_reducible refine Keeps.setAnt ?_
    | with_reducible refine Keeps.upd ?_ ?_ ?_

theorem State.loseMantis_keeps (s0 s a1) (h : Keeps s0 s) :
    Keeps s0 (State.loseMantis s a1) := by
  unfold State.loseMantis
  repeat' first
    | with_reducible assumption
    | with_reducible exact Nat.le_refl _
    | with_reducible exact Nat.le_add_right _ _
    | with_reducible exact List.prefix_refl _
    | with_reducible refine Keeps.ite ?_ ?_
    | with_reducible refine State.fenceMantis_keeps _ _ _ ?_
    | with_reducible refine State.withdraw_keeps _ _ _ _ ?_
    | with_reducible refine State.raise_keeps _ _ _ ?_
    | with_reducible refine State.dropManaged_keeps _ _ _ ?_
    | split
    | dsimp only
    | exact Nat.le_add_right _ _
    | exact Nat.le_refl _
    | exact List.prefix_refl _
    | with_reducible refine Keeps.setAnt ?_
    | with_reducible refine Keeps.upd ?_ ?_ ?_

theorem execMantisFailover_keeps (s0 a0 s) (h : Keeps s0 s) :
    KeepsRes s0 (execMantisFailover a0 s) := by
  unfold execMantisFailover
  repeat' first
    | with_reducible assumption
    | with_reducible refine KeepsRes.next ?_
    | with_reducible refine Keeps.ite ?_ ?_
    | with_reducible refine State.loseMantis_keeps _ _ _ ?_

theorem execBridgeFailure_keeps (s0 a0 a1 s) (h : Keeps s0 s) :
    KeepsRes s0 (execBridgeFailure a0 a1 s) := by
  unfold execBridgeFailure
  repeat' first
    | with_reducible assumption
    | with_reducible refine KeepsRes.next ?_
    | with_reducible refine Keeps.ite ?_ ?_
    | with_reducible refine State.withdraw_keeps _ _ _ _ ?_

theorem State.landBulk_keeps (s0 s) (h : Keeps s0 s) :
    Keeps s0 (State.landBulk s) := by
  unfold State.landBulk
  repeat' first
    | with_reducible assumption
    | with_reducible exact Nat.le_refl _
    | with_reducible exact Nat.le_add_right _ _
    | with_reducible exact List.prefix_refl _
    | with_reducible refine State.store_keeps _ _ _ _ ?_
    | with_reducible refine Keeps.foldl (fun _ _ _ => ?_) ?_
    | with_reducible refine Keeps.foldPair (fun _ _ _ => ?_) ?_
    | dsimp only
    | exact Nat.le_add_right _ _
    | exact Nat.le_refl _
    | exact List.prefix_refl _
    | with_reducible refine Keeps.setAnt ?_
    | with_reducible refine Keeps.upd ?_ ?_ ?_

theorem execScrubDone_keeps (s0 s) (h : Keeps s0 s) :
    KeepsRes s0 (execScrubDone s) := by
  unfold execScrubDone
  repeat' first
    | with_reducible assumption
    | with_reducible exact Nat.le_refl _
    | with_reducible exact Nat.le_add_right _ _
    | with_reducible exact List.prefix_refl _
    | with_reducible refine KeepsRes.next ?_
    | with_reducible refine Keeps.ite ?_ ?_
    | with_reducible refine State.wipe_keeps _ _ _ _ ?_
    | with_reducible refine State.landBulk_keeps _ _ ?_
    | with_reducible refine Keeps.foldl (fun _ _ _ => ?_) ?_
    | with_reducible refine Keeps.foldPair (fun _ _ _ => ?_) ?_
    | split
    | dsimp only
    | exact Nat.le_add_right _ _
    | exact Nat.le_refl _
    | exact List.prefix_refl _
    | with_reducible refine Keeps.setAnt ?_
    | with_reducible refine Keeps.upd ?_ ?_ ?_

end Sys2Proof.Machine
end

