-- ==== Sys2Proof/Laws/KeepsManage.lean ====
section
/-!
SUPPORT. What the operations of Manage keep of a state.
-/
namespace Sys2Proof.Machine

theorem execCommitQuery_keeps (s0 a0 a1 s) (h : Keeps s0 s) :
    KeepsRes s0 (execCommitQuery a0 a1 s) := by
  unfold execCommitQuery
  repeat' first
    | with_reducible assumption
    | with_reducible refine KeepsRes.next ?_
    | with_reducible refine Keeps.ite ?_ ?_
    | with_reducible refine State.manageMantis_keeps _ _ _ _ _ (fun _ _ => ?_) ?_
    | with_reducible refine State.mgmtReply_keeps _ _ _ _ _ _ _ _ ?_
    | split

theorem execRoutes_keeps (s0 a0 a1 a2 s) (h : Keeps s0 s) :
    KeepsRes s0 (execRoutes a0 a1 a2 s) := by
  unfold execRoutes
  repeat' first
    | refine Keeps.setRoutes ?_ (fun hr => Table.wf_foldl (d := 0) _ (fun _ (p : Nat × BitVec 32) => p.1) (fun _ p => p.2) hr)
    | with_reducible assumption
    | with_reducible exact Nat.le_refl _
    | with_reducible exact Nat.le_add_right _ _
    | with_reducible exact List.prefix_refl _
    | with_reducible refine KeepsRes.next ?_
    | with_reducible refine Keeps.ite ?_ ?_
    | with_reducible refine State.manageMantis_keeps _ _ _ _ _ (fun _ _ => ?_) ?_
    | with_reducible refine State.mgmtReply_keeps _ _ _ _ _ _ _ _ ?_

theorem execShadowSwitch_keeps (s0 a0 a1 a2 a3 s) (h : Keeps s0 s) :
    KeepsRes s0 (execShadowSwitch a0 a1 a2 a3 s) := by
  unfold execShadowSwitch
  repeat' first
    | with_reducible assumption
    | with_reducible exact Nat.le_refl _
    | with_reducible exact Nat.le_add_right _ _
    | with_reducible exact List.prefix_refl _
    | with_reducible refine KeepsRes.next ?_
    | with_reducible refine Keeps.ite ?_ ?_
    | with_reducible refine State.manageMantis_keeps _ _ _ _ _ (fun _ _ => ?_) ?_
    | with_reducible refine State.mgmtReply_keeps _ _ _ _ _ _ _ _ ?_
    | split
    | dsimp only
    | exact Nat.le_add_right _ _
    | exact Nat.le_refl _
    | exact List.prefix_refl _
    | with_reducible refine Keeps.setAnt ?_
    | with_reducible refine Keeps.upd ?_ ?_ ?_

theorem execPowerCap_keeps (s0 a0 a1 s) (h : Keeps s0 s) :
    KeepsRes s0 (execPowerCap a0 a1 s) := by
  unfold execPowerCap
  repeat' first
    | with_reducible assumption
    | with_reducible refine KeepsRes.next ?_
    | with_reducible refine Keeps.ite ?_ ?_
    | with_reducible refine State.manage_keeps _ _ _ _ (fun _ _ => ?_) ?_
    | with_reducible refine State.mgmtReply_keeps _ _ _ _ _ _ _ _ ?_
    | with_reducible refine State.setCap_keeps _ _ _ ?_

theorem execLedgerRead_keeps (s0 a0 a1 a2 s) (h : Keeps s0 s) :
    KeepsRes s0 (execLedgerRead a0 a1 a2 s) := by
  unfold execLedgerRead
  repeat' first
    | with_reducible assumption
    | with_reducible exact Nat.le_refl _
    | with_reducible exact Nat.le_add_right _ _
    | with_reducible exact List.prefix_refl _
    | with_reducible refine KeepsRes.next ?_
    | with_reducible refine Keeps.ite ?_ ?_
    | with_reducible refine State.manage_keeps _ _ _ _ (fun _ _ => ?_) ?_
    | with_reducible refine State.mgmtReply_keeps _ _ _ _ _ _ _ _ ?_
    | split
    | dsimp only
    | exact Nat.le_add_right _ _
    | exact Nat.le_refl _
    | exact List.prefix_refl _
    | with_reducible refine Keeps.setAnt ?_
    | with_reducible refine Keeps.upd ?_ ?_ ?_

theorem execFlashWrite_keeps (s0 a0 a1 a2 a3 s) (h : Keeps s0 s) :
    KeepsRes s0 (execFlashWrite a0 a1 a2 a3 s) := by
  unfold execFlashWrite
  repeat' first
    | with_reducible assumption
    | with_reducible refine KeepsRes.next ?_
    | with_reducible refine Keeps.ite ?_ ?_
    | with_reducible refine State.manage_keeps _ _ _ _ (fun _ _ => ?_) ?_
    | with_reducible refine State.withWadi_keeps _ _ _ ?_
    | with_reducible refine State.doFlash_keeps _ _ _ _ _ _ ?_

theorem execClear_keeps (s0 a0 a1 a2 s) (h : Keeps s0 s) :
    KeepsRes s0 (execClear a0 a1 a2 s) := by
  unfold execClear
  repeat' first
    | with_reducible assumption
    | with_reducible refine KeepsRes.next ?_
    | with_reducible refine Keeps.ite ?_ ?_
    | with_reducible refine State.manage_keeps _ _ _ _ (fun _ _ => ?_) ?_
    | with_reducible refine State.mgmtReply_keeps _ _ _ _ _ _ _ _ ?_
    | with_reducible refine State.writeRec_keeps _ _ _ _ _ _ _ _ ?_
    | with_reducible refine State.makeRoom_keeps _ _ ?_

theorem execRestart_keeps (s0 a0 s) (h : Keeps s0 s) :
    KeepsRes s0 (execRestart a0 s) := by
  unfold execRestart
  repeat' first
    | with_reducible assumption
    | with_reducible refine KeepsRes.next ?_
    | with_reducible refine Keeps.ite ?_ ?_
    | with_reducible refine State.manage_keeps _ _ _ _ (fun _ _ => ?_) ?_
    | with_reducible refine State.mgmtReply_keeps _ _ _ _ _ _ _ _ ?_
    | with_reducible refine State.withStart_keeps _ _ _ ?_
    | with_reducible refine State.restartNow_keeps _ _ ?_

theorem execSvnRaise_keeps (s0 a0 a1 s) (h : Keeps s0 s) :
    KeepsRes s0 (execSvnRaise a0 a1 s) := by
  unfold execSvnRaise
  repeat' first
    | with_reducible assumption
    | with_reducible refine KeepsRes.next ?_
    | with_reducible refine Keeps.ite ?_ ?_
    | with_reducible refine State.manage_keeps _ _ _ _ (fun _ _ => ?_) ?_
    | with_reducible refine State.mgmtReply_keeps _ _ _ _ _ _ _ _ ?_
    | with_reducible refine State.withHmd_keeps _ _ _ ?_

theorem execSetActive_keeps (s0 a0 a1 a2 s) (h : Keeps s0 s) :
    KeepsRes s0 (execSetActive a0 a1 a2 s) := by
  unfold execSetActive
  repeat' first
    | with_reducible assumption
    | with_reducible refine KeepsRes.next ?_
    | with_reducible refine Keeps.ite ?_ ?_
    | with_reducible refine State.manage_keeps _ _ _ _ (fun _ _ => ?_) ?_
    | with_reducible refine State.mgmtReply_keeps _ _ _ _ _ _ _ _ ?_
    | with_reducible refine State.withKept_keeps _ _ _ ?_
    | with_reducible refine State.writeSummary_keeps _ _ _ ?_
    | with_reducible refine State.makeRoom_keeps _ _ ?_

theorem execAttestationRequest_keeps (s0 a0 a1 s) (h : Keeps s0 s) :
    KeepsRes s0 (execAttestationRequest a0 a1 s) := by
  unfold execAttestationRequest
  repeat' first
    | with_reducible assumption
    | with_reducible exact Nat.le_refl _
    | with_reducible exact Nat.le_add_right _ _
    | with_reducible exact List.prefix_refl _
    | with_reducible refine KeepsRes.next ?_
    | with_reducible refine State.manage_keeps _ _ _ _ (fun _ _ => ?_) ?_
    | with_reducible refine State.reply_keeps _ _ _ _ _ _ ?_
    | dsimp only
    | exact Nat.le_add_right _ _
    | exact Nat.le_refl _
    | exact List.prefix_refl _
    | with_reducible refine Keeps.setAnt ?_
    | with_reducible refine Keeps.upd ?_ ?_ ?_

end Sys2Proof.Machine
end

