-- ==== Sys2Proof/Laws/KeepsSession.lean ====
section
/-!
SUPPORT. What the operations of Session keep of a state.
-/
namespace Sys2Proof.Machine

theorem State.countFrame_keeps (s0 s) (h : Keeps s0 s) :
    Keeps s0 (State.countFrame s) := by
  unfold State.countFrame
  repeat' first
    | with_reducible assumption
    | with_reducible refine State.bump_keeps _ _ _ _ _ ?_

theorem State.answerHello_keeps (s0 s a1 a2 a3 a4 a5 a6) (h : Keeps s0 s) :
    Keeps s0 (State.answerHello s a1 a2 a3 a4 a5 a6) := by
  unfold State.answerHello
  repeat' first
    | with_reducible assumption
    | with_reducible refine State.showSession_keeps _ _ ?_
    | with_reducible refine State.withHmd_keeps _ _ _ ?_
    | with_reducible refine State.sendFrame_keeps _ _ _ _ _ _ _ ?_

theorem execHelloC_keeps (s0 a0 a1 a2 a3 a4 s) (h : Keeps s0 s) :
    KeepsRes s0 (execHelloC a0 a1 a2 a3 a4 s) := by
  unfold execHelloC
  repeat' first
    | with_reducible assumption
    | with_reducible exact Nat.le_refl _
    | with_reducible exact Nat.le_add_right _ _
    | with_reducible exact List.prefix_refl _
    | with_reducible refine KeepsRes.next ?_
    | with_reducible refine Keeps.ite ?_ ?_
    | with_reducible refine State.countFrame_keeps _ _ ?_
    | with_reducible refine State.sendRefuse_keeps _ _ _ ?_
    | with_reducible refine State.answerHello_keeps _ _ _ _ _ _ _ _ ?_
    | split
    | dsimp only
    | exact Nat.le_add_right _ _
    | exact Nat.le_refl _
    | exact List.prefix_refl _
    | with_reducible refine Keeps.setAnt ?_
    | with_reducible refine Keeps.upd ?_ ?_ ?_

theorem execFinishC_keeps (s0 a0 s) (h : Keeps s0 s) :
    KeepsRes s0 (execFinishC a0 s) := by
  unfold execFinishC
  repeat' first
    | with_reducible assumption
    | with_reducible refine KeepsRes.next ?_
    | with_reducible refine Keeps.ite ?_ ?_
    | with_reducible refine State.countFrame_keeps _ _ ?_
    | with_reducible refine State.openSess_keeps _ _ _ _ ?_
    | with_reducible refine State.endSess_keeps _ _ ?_
    | with_reducible refine State.sendRefuse_keeps _ _ _ ?_
    | with_reducible refine State.showSession_keeps _ _ ?_
    | with_reducible refine State.withHmd_keeps _ _ _ ?_
    | split

theorem execEndSession_keeps (s0 a0 s) (h : Keeps s0 s) :
    KeepsRes s0 (execEndSession a0 s) := by
  unfold execEndSession
  repeat' first
    | with_reducible assumption
    | with_reducible refine KeepsRes.next ?_
    | with_reducible refine Keeps.ite ?_ ?_
    | with_reducible refine State.endSess_keeps _ _ ?_
    | with_reducible refine State.countFrame_keeps _ _ ?_

theorem execFrameDiscard_keeps (s0 a0 s) (h : Keeps s0 s) :
    KeepsRes s0 (execFrameDiscard a0 s) := by
  unfold execFrameDiscard
  repeat' first
    | with_reducible assumption
    | with_reducible refine KeepsRes.next ?_
    | with_reducible refine Keeps.ite ?_ ?_
    | with_reducible refine State.bump_keeps _ _ _ _ _ ?_
    | with_reducible refine State.authFailure_keeps _ _ ?_
    | split

theorem execWadiLos_keeps (s0 a0 a1 s) (h : Keeps s0 s) :
    KeepsRes s0 (execWadiLos a0 a1 s) := by
  unfold execWadiLos
  repeat' first
    | with_reducible assumption
    | with_reducible refine KeepsRes.next ?_
    | with_reducible refine Keeps.ite ?_ ?_
    | with_reducible refine State.setFld_keeps _ _ _ _ _ ?_

theorem execSidebandRead_keeps (s0 a0 s) (h : Keeps s0 s) :
    KeepsRes s0 (execSidebandRead a0 s) := by
  unfold execSidebandRead
  repeat' first
    | with_reducible assumption
    | with_reducible refine KeepsRes.next ?_
    | with_reducible refine Keeps.ite ?_ ?_
    | with_reducible refine State.emit_keeps _ _ _ ?_
    | split

theorem State.setScan_keeps (s0 s a1 a2) (h : Keeps s0 s) :
    Keeps s0 (State.setScan s a1 a2) := by
  unfold State.setScan
  repeat' first
    | with_reducible assumption
    | with_reducible exact Nat.le_refl _
    | with_reducible exact Nat.le_add_right _ _
    | with_reducible exact List.prefix_refl _
    | with_reducible refine Keeps.ite ?_ ?_
    | split
    | dsimp only
    | exact Nat.le_add_right _ _
    | exact Nat.le_refl _
    | exact List.prefix_refl _
    | with_reducible refine Keeps.setAnt ?_
    | with_reducible refine Keeps.upd ?_ ?_ ?_

theorem State.setPins_keeps (s0 s a1 a2) (h : Keeps s0 s) :
    Keeps s0 (State.setPins s a1 a2) := by
  unfold State.setPins
  repeat' first
    | with_reducible assumption
    | with_reducible exact Nat.le_refl _
    | with_reducible exact Nat.le_add_right _ _
    | with_reducible exact List.prefix_refl _
    | with_reducible refine Keeps.ite ?_ ?_
    | split
    | dsimp only
    | exact Nat.le_add_right _ _
    | exact Nat.le_refl _
    | exact List.prefix_refl _
    | with_reducible refine Keeps.setAnt ?_
    | with_reducible refine Keeps.upd ?_ ?_ ?_

theorem execBypass_keeps (s0 a0 s) (h : Keeps s0 s) :
    KeepsRes s0 (execBypass a0 s) := by
  unfold execBypass
  repeat' first
    | with_reducible assumption
    | with_reducible refine KeepsRes.next ?_
    | with_reducible refine Keeps.ite ?_ ?_
    | with_reducible refine State.setScan_keeps _ _ _ _ ?_

theorem execIdcode_keeps (s0 a0 s) (h : Keeps s0 s) :
    KeepsRes s0 (execIdcode a0 s) := by
  unfold execIdcode
  repeat' first
    | with_reducible assumption
    | with_reducible refine KeepsRes.next ?_
    | with_reducible refine Keeps.ite ?_ ?_
    | with_reducible refine State.emit_keeps _ _ _ ?_
    | with_reducible refine State.setScan_keeps _ _ _ _ ?_

theorem execSamplePreload_keeps (s0 a0 a1 s) (h : Keeps s0 s) :
    KeepsRes s0 (execSamplePreload a0 a1 s) := by
  unfold execSamplePreload
  repeat' first
    | with_reducible assumption
    | with_reducible refine KeepsRes.next ?_
    | with_reducible refine Keeps.ite ?_ ?_
    | with_reducible refine State.setPins_keeps _ _ _ _ ?_
    | with_reducible refine State.setScan_keeps _ _ _ _ ?_

theorem execExtest_keeps (s0 a0 s) (h : Keeps s0 s) :
    KeepsRes s0 (execExtest a0 s) := by
  unfold execExtest
  repeat' first
    | with_reducible assumption
    | with_reducible refine KeepsRes.next ?_
    | with_reducible refine Keeps.ite ?_ ?_
    | with_reducible refine State.setScan_keeps _ _ _ _ ?_

theorem execTrst_keeps (s0 s) (h : Keeps s0 s) :
    KeepsRes s0 (execTrst s) := by
  unfold execTrst
  repeat' first
    | with_reducible assumption
    | with_reducible exact Nat.le_refl _
    | with_reducible exact Nat.le_add_right _ _
    | with_reducible exact List.prefix_refl _
    | with_reducible refine KeepsRes.next ?_
    | dsimp only
    | exact Nat.le_add_right _ _
    | exact Nat.le_refl _
    | exact List.prefix_refl _
    | with_reducible refine Keeps.setAnt ?_
    | with_reducible refine Keeps.upd ?_ ?_ ?_

end Sys2Proof.Machine
end

