-- ==== Sys2Proof/Laws/KeepsRegIo.lean ====
section
/-!
SUPPORT. What the operations of RegIo keep of a state.
-/
namespace Sys2Proof.Machine

theorem State.writeRes_keeps (s0 s a1 a2 a3 a4 a5) (h : Keeps s0 s) :
    Keeps s0 (State.writeRes s a1 a2 a3 a4 a5) := by
  unfold State.writeRes
  repeat' first
    | with_reducible assumption
    | with_reducible refine Keeps.ite ?_ ?_
    | with_reducible refine State.plainWrite_keeps _ _ _ _ _ ?_
    | with_reducible refine State.setFld_keeps _ _ _ _ _ ?_

theorem State.writeReg_keeps (s0 s a1 a2 a3) (h : Keeps s0 s) :
    Keeps s0 (State.writeReg s a1 a2 a3) := by
  unfold State.writeReg
  repeat' first
    | with_reducible assumption
    | with_reducible refine Keeps.ite ?_ ?_
    | with_reducible refine State.writeSpqCfg_keeps _ _ _ _ _ _ ?_
    | with_reducible refine State.spqCtl_keeps _ _ _ _ ?_
    | with_reducible refine State.plainWrite_keeps _ _ _ _ _ ?_
    | with_reducible refine State.flushCache_keeps _ _ _ ?_
    | with_reducible refine State.pumpCore_keeps _ _ _ ?_
    | with_reducible refine State.writeRes_keeps _ _ _ _ _ _ _ ?_
    | with_reducible refine State.invalidateXlt_keeps _ _ _ _ ?_
    | with_reducible refine State.winCtl_keeps _ _ _ _ _ _ ?_
    | split

theorem State.noteAperture_keeps (s0 s a1) (h : Keeps s0 s) :
    Keeps s0 (State.noteAperture s a1) := by
  unfold State.noteAperture
  repeat' first
    | with_reducible assumption
    | with_reducible refine Keeps.ite ?_ ?_
    | with_reducible refine State.noteAcc_keeps _ _ _ _ ?_
    | with_reducible refine State.noteParities_keeps _ _ _ _ _ _ ?_
    | with_reducible refine State.parityBudget_keeps _ _ _ _ ?_

theorem State.unloadAt_keeps (s0 s a1 a2) (h : Keeps s0 s) :
    Keeps s0 (State.unloadAt s a1 a2) := by
  unfold State.unloadAt
  repeat' first
    | with_reducible assumption
    | with_reducible refine Keeps.ite ?_ ?_
    | with_reducible refine State.setFld_keeps _ _ _ _ _ ?_
    | with_reducible refine Keeps.foldl (fun _ _ _ => ?_) ?_

theorem State.mantisWrite_keeps (s0 s a1 a2 a3) (h : Keeps s0 s) :
    Keeps s0 (State.mantisWrite s a1 a2 a3) := by
  unfold State.mantisWrite
  repeat' first
    | with_reducible assumption
    | with_reducible refine Keeps.ite ?_ ?_
    | with_reducible refine State.land_keeps _ _ _ _ _ _ ?_
    | with_reducible refine State.store_keeps _ _ _ _ ?_
    | with_reducible refine State.unloadAt_keeps _ _ _ _ ?_
    | with_reducible refine State.writeReg_keeps _ _ _ _ _ ?_

theorem execRegisterWrite_keeps (s0 a0 a1 a2 s) (h : Keeps s0 s) :
    KeepsRes s0 (execRegisterWrite a0 a1 a2 s) := by
  unfold execRegisterWrite
  repeat' first
    | with_reducible assumption
    | with_reducible refine KeepsRes.next ?_
    | with_reducible refine Keeps.ite ?_ ?_
    | with_reducible refine State.mantisWrite_keeps _ _ _ _ _ ?_

theorem execSpadSplitWrite_keeps (s0 a0 a1 s) (h : Keeps s0 s) :
    KeepsRes s0 (execSpadSplitWrite a0 a1 s) := by
  unfold execSpadSplitWrite
  repeat' first
    | with_reducible assumption
    | with_reducible refine KeepsRes.next ?_
    | with_reducible refine Keeps.ite ?_ ?_
    | with_reducible refine State.writeReg_keeps _ _ _ _ _ ?_

theorem execRegRead_keeps (s0 a0 a1 s) (h : Keeps s0 s) :
    KeepsRes s0 (execRegRead a0 a1 s) := by
  unfold execRegRead
  repeat' first
    | with_reducible assumption
    | with_reducible refine KeepsRes.next ?_
    | with_reducible refine Keeps.ite ?_ ?_
    | with_reducible refine State.manage_keeps _ _ _ _ (fun _ _ => ?_) ?_
    | with_reducible refine State.mgmtReply_keeps _ _ _ _ _ _ _ _ ?_
    | with_reducible refine State.noteUe_keeps _ _ _ _ ?_
    | with_reducible refine State.ueBudgets_keeps _ _ _ ?_
    | with_reducible refine State.correctAll_keeps _ _ _ ?_
    | with_reducible refine State.noteAperture_keeps _ _ _ ?_
    | with_reducible refine Keeps.foldl (fun _ _ _ => ?_) ?_
    | with_reducible refine Keeps.foldPair (fun _ _ _ => ?_) ?_
    | split

theorem execRegWrite_keeps (s0 a0 a1 s) (h : Keeps s0 s) :
    KeepsRes s0 (execRegWrite a0 a1 s) := by
  unfold execRegWrite
  repeat' first
    | with_reducible assumption
    | with_reducible refine KeepsRes.next ?_
    | with_reducible refine Keeps.ite ?_ ?_
    | with_reducible refine State.manageMantis_keeps _ _ _ _ _ (fun _ _ => ?_) ?_
    | with_reducible refine State.mgmtReply_keeps _ _ _ _ _ _ _ _ ?_
    | with_reducible refine State.mantisWrite_keeps _ _ _ _ _ ?_
    | with_reducible refine Keeps.foldl (fun _ _ _ => ?_) ?_

end Sys2Proof.Machine
end

