-- ==== Sys2Proof/Laws/KeepsSeif.lean ====
section
/-!
SUPPORT. What the operations of Seif keep of a state.
-/
namespace Sys2Proof.Machine

theorem State.firstUp_keeps (s0 s) (h : Keeps s0 s) :
    Keeps s0 (State.firstUp s) := by
  unfold State.firstUp
  repeat' first
    | with_reducible assumption
    | with_reducible refine Keeps.ite ?_ ?_
    | with_reducible refine State.joinSelf_keeps _ _ ?_

theorem State.loseFlit_keeps (s0 s a1) (h : Keeps s0 s) :
    Keeps s0 (State.loseFlit s a1) := by
  unfold State.loseFlit
  repeat' first
    | with_reducible assumption
    | with_reducible refine Keeps.ite ?_ ?_
    | with_reducible refine State.streamStop_keeps _ _ _ _ _ _ _ _ _ _ ?_
    | with_reducible refine Keeps.foldl (fun _ _ _ => ?_) ?_
    | with_reducible refine Keeps.foldPair (fun _ _ _ => ?_) ?_
    | split

theorem State.lostPartner_keeps (s0 s a1 a2) (h : Keeps s0 s) :
    Keeps s0 (State.lostPartner s a1 a2) := by
  unfold State.lostPartner
  repeat' first
    | with_reducible assumption
    | with_reducible exact Nat.le_refl _
    | with_reducible exact Nat.le_add_right _ _
    | with_reducible exact List.prefix_refl _
    | with_reducible refine Keeps.ite ?_ ?_
    | with_reducible refine State.announced_keeps _ _ _ _ _ _ _ ?_
    | with_reducible refine Keeps.ofId ?_
    | split
    | dsimp only
    | exact Nat.le_add_right _ _
    | exact Nat.le_refl _
    | exact List.prefix_refl _
    | with_reducible refine Keeps.setAnt ?_
    | with_reducible refine Keeps.upd ?_ ?_ ?_

theorem State.portDown_keeps (s0 s a1) (h : Keeps s0 s) :
    Keeps s0 (State.portDown s a1) := by
  unfold State.portDown
  repeat' first
    | with_reducible assumption
    | with_reducible refine State.setLanes_keeps _ _ _ _ _ _ _ ?_
    | with_reducible refine State.putPort_keeps _ _ _ _ ?_
    | with_reducible refine State.sendFlit_keeps _ _ _ ?_
    | with_reducible refine State.loseFlit_keeps _ _ _ ?_
    | with_reducible refine State.lostPartner_keeps _ _ _ _ ?_
    | with_reducible refine Keeps.foldl (fun _ _ _ => ?_) ?_

theorem State.sendMask_keeps (s0 s a1) (h : Keeps s0 s) :
    Keeps s0 (State.sendMask s a1) := by
  unfold State.sendMask
  repeat' first
    | with_reducible assumption
    | with_reducible refine Keeps.ite ?_ ?_
    | with_reducible refine State.putPort_keeps _ _ _ _ ?_
    | with_reducible refine State.sendControl_keeps _ _ _ _ ?_

theorem State.startRetrain_keeps (s0 s a1) (h : Keeps s0 s) :
    Keeps s0 (State.startRetrain s a1) := by
  unfold State.startRetrain
  repeat' first
    | with_reducible assumption
    | with_reducible exact Nat.le_refl _
    | with_reducible exact Nat.le_add_right _ _
    | with_reducible exact List.prefix_refl _
    | with_reducible refine Keeps.ite ?_ ?_
    | with_reducible refine State.putPort_keeps _ _ _ _ ?_
    | with_reducible refine State.setPortState_keeps _ _ _ _ ?_
    | with_reducible refine State.bump_keeps _ _ _ _ _ ?_
    | with_reducible refine State.sendMask_keeps _ _ _ ?_

theorem State.sendAgain_keeps (s0 s a1 a2) (h : Keeps s0 s) :
    Keeps s0 (State.sendAgain s a1 a2) := by
  unfold State.sendAgain
  repeat' first
    | with_reducible assumption
    | with_reducible refine State.emit_keeps _ _ _ ?_
    | with_reducible refine State.putPort_keeps _ _ _ _ ?_
    | with_reducible refine Keeps.foldl (fun _ _ _ => ?_) ?_

theorem State.replayFrom_keeps (s0 s a1 a2) (h : Keeps s0 s) :
    Keeps s0 (State.replayFrom s a1 a2) := by
  unfold State.replayFrom
  repeat' first
    | with_reducible assumption
    | with_reducible refine Keeps.ite ?_ ?_
    | with_reducible refine State.bump_keeps _ _ _ _ _ ?_
    | with_reducible refine State.sendAgain_keeps _ _ _ _ ?_

theorem State.replay_keeps (s0 s a1 a2) (h : Keeps s0 s) :
    Keeps s0 (State.replay s a1 a2) := by
  unfold State.replay
  repeat' first
    | with_reducible assumption
    | with_reducible exact Nat.le_refl _
    | with_reducible exact Nat.le_add_right _ _
    | with_reducible exact List.prefix_refl _
    | with_reducible refine Keeps.ite ?_ ?_
    | with_reducible refine State.putPort_keeps _ _ _ _ ?_
    | with_reducible refine State.startRetrain_keeps _ _ _ ?_
    | with_reducible refine State.replayFrom_keeps _ _ _ _ ?_
    | with_reducible refine State.pump_keeps _ _ _ ?_

theorem execNak_keeps (s0 a0 a1 s) (h : Keeps s0 s) :
    KeepsRes s0 (execNak a0 a1 s) := by
  unfold execNak
  repeat' first
    | with_reducible assumption
    | with_reducible refine KeepsRes.next ?_
    | with_reducible refine Keeps.ite ?_ ?_
    | with_reducible refine State.replay_keeps _ _ _ _ ?_
    | with_reducible refine State.putPort_keeps _ _ _ _ ?_

theorem execSeifRetryTimeout_keeps (s0 a0 s) (h : Keeps s0 s) :
    KeepsRes s0 (execSeifRetryTimeout a0 s) := by
  unfold execSeifRetryTimeout
  repeat' first
    | with_reducible assumption
    | with_reducible refine KeepsRes.next ?_
    | with_reducible refine Keeps.ite ?_ ?_
    | with_reducible refine State.putPort_keeps _ _ _ _ ?_
    | with_reducible refine State.replay_keeps _ _ _ _ ?_
    | split
    | dsimp only

theorem State.sendNak_keeps (s0 s a1) (h : Keeps s0 s) :
    Keeps s0 (State.sendNak s a1) := by
  unfold State.sendNak
  repeat' first
    | with_reducible assumption
    | with_reducible refine Keeps.ite ?_ ?_
    | with_reducible refine State.emit_keeps _ _ _ ?_
    | with_reducible refine State.putPort_keeps _ _ _ _ ?_

theorem State.discardFlit_keeps (s0 s a1 a2 a3) (h : Keeps s0 s) :
    Keeps s0 (State.discardFlit s a1 a2 a3) := by
  unfold State.discardFlit
  repeat' first
    | with_reducible assumption
    | with_reducible refine Keeps.ite ?_ ?_
    | with_reducible refine State.bump_keeps _ _ _ _ _ ?_
    | with_reducible refine State.sendNak_keeps _ _ _ ?_

theorem State.answer_keeps (s0 s a1) (h : Keeps s0 s) :
    Keeps s0 (State.answer s a1) := by
  unfold State.answer
  repeat' first
    | with_reducible assumption
    | with_reducible refine State.pump_keeps _ _ _ ?_
    | with_reducible refine State.returnCredits_keeps _ _ _ ?_
    | with_reducible refine State.sendRaw_keeps _ _ _ _ ?_

theorem State.deliver_keeps (s0 s a1 a2) (h : Keeps s0 s) :
    Keeps s0 (State.deliver s a1 a2) := by
  unfold State.deliver
  repeat' first
    | with_reducible assumption
    | with_reducible refine Keeps.ite ?_ ?_
    | with_reducible refine State.putPort_keeps _ _ _ _ ?_
    | with_reducible refine State.freeSlot_keeps _ _ _ _ ?_
    | with_reducible refine State.bump_keeps _ _ _ _ _ ?_
    | split

theorem State.readAck_keeps (s0 s a1 a2) (h : Keeps s0 s) :
    Keeps s0 (State.readAck s a1 a2) := by
  unfold State.readAck
  repeat' first
    | with_reducible assumption
    | with_reducible refine Keeps.ite ?_ ?_
    | with_reducible refine State.putPort_keeps _ _ _ _ ?_

theorem State.takeCredits_keeps (s0 s a1 a2) (h : Keeps s0 s) :
    Keeps s0 (State.takeCredits s a1 a2) := by
  unfold State.takeCredits
  repeat' first
    | with_reducible assumption
    | with_reducible exact Nat.le_refl _
    | with_reducible exact Nat.le_add_right _ _
    | with_reducible exact List.prefix_refl _
    | with_reducible refine Keeps.ite ?_ ?_
    | with_reducible refine State.putPort_keeps _ _ _ _ ?_

theorem State.takeData_keeps (s0 s a1 a2) (h : Keeps s0 s) :
    Keeps s0 (State.takeData s a1 a2) := by
  unfold State.takeData
  repeat' first
    | with_reducible assumption
    | with_reducible refine Keeps.ite ?_ ?_
    | with_reducible refine State.takeCredits_keeps _ _ _ _ ?_
    | with_reducible refine State.putPort_keeps _ _ _ _ ?_
    | with_reducible refine State.deliver_keeps _ _ _ _ ?_
    | with_reducible refine State.answer_keeps _ _ _ ?_
    | with_reducible refine State.sendNak_keeps _ _ _ ?_

theorem State.takeFlit_keeps (s0 s a1 a2 a3) (h : Keeps s0 s) :
    Keeps s0 (State.takeFlit s a1 a2 a3) := by
  unfold State.takeFlit
  repeat' first
    | with_reducible assumption
    | with_reducible refine Keeps.ite ?_ ?_
    | with_reducible refine State.discardFlit_keeps _ _ _ _ _ ?_
    | with_reducible refine State.readAck_keeps _ _ _ _ ?_
    | with_reducible refine State.takeData_keeps _ _ _ _ ?_
    | with_reducible refine State.takeCredits_keeps _ _ _ _ ?_
    | with_reducible refine State.pump_keeps _ _ _ ?_

theorem State.takeSlot_keeps (s0 s a1 a2 a3) (h : Keeps s0 s) :
    Keeps s0 (State.takeSlot s a1 a2 a3) := by
  unfold State.takeSlot
  repeat' first
    | with_reducible assumption
    | with_reducible refine State.freeSlot_keeps _ _ _ _ ?_
    | with_reducible refine State.putPort_keeps _ _ _ _ ?_

theorem execFlitForward_keeps (s0 a0 a1 s) (h : Keeps s0 s) :
    KeepsRes s0 (execFlitForward a0 a1 s) := by
  unfold execFlitForward
  repeat' first
    | with_reducible assumption
    | with_reducible refine KeepsRes.next ?_
    | with_reducible refine Keeps.ite ?_ ?_
    | with_reducible refine State.returnCredits_keeps _ _ _ ?_
    | with_reducible refine State.bump_keeps _ _ _ _ _ ?_
    | with_reducible refine State.takeSlot_keeps _ _ _ _ _ ?_
    | with_reducible refine State.pump_keeps _ _ _ ?_
    | with_reducible refine State.putPort_keeps _ _ _ _ ?_
    | split
    | dsimp only

theorem execMessageQueueCommit_keeps (s0 a0 a1 s) (h : Keeps s0 s) :
    KeepsRes s0 (execMessageQueueCommit a0 a1 s) := by
  unfold execMessageQueueCommit
  repeat' first
    | with_reducible assumption
    | with_reducible refine KeepsRes.next ?_
    | with_reducible refine Keeps.ite ?_ ?_
    | with_reducible refine State.pushed_keeps _ _ _ _ ?_
    | with_reducible refine State.returnCredits_keeps _ _ _ ?_
    | with_reducible refine State.takeSlot_keeps _ _ _ _ _ ?_
    | with_reducible refine Keeps.foldl (fun _ _ _ => ?_) ?_
    | with_reducible refine Keeps.foldPair (fun _ _ _ => ?_) ?_
    | split
    | dsimp only

theorem State.enterLow_keeps (s0 s a1) (h : Keeps s0 s) :
    Keeps s0 (State.enterLow s a1) := by
  unfold State.enterLow
  repeat' first
    | with_reducible assumption
    | with_reducible refine State.portDown_keeps _ _ _ ?_
    | with_reducible refine State.setLanes_keeps _ _ _ _ _ _ _ ?_
    | split
    | dsimp only

theorem State.laneUnhealthy_keeps (s0 s a1 a2) (h : Keeps s0 s) :
    Keeps s0 (State.laneUnhealthy s a1 a2) := by
  unfold State.laneUnhealthy
  repeat' first
    | with_reducible assumption
    | with_reducible exact Nat.le_refl _
    | with_reducible exact Nat.le_add_right _ _
    | with_reducible exact List.prefix_refl _
    | with_reducible refine Keeps.ite ?_ ?_
    | with_reducible refine State.putPort_keeps _ _ _ _ ?_
    | with_reducible refine State.sendMask_keeps _ _ _ ?_
    | with_reducible refine State.startRetrain_keeps _ _ _ ?_
    | with_reducible refine State.enterLow_keeps _ _ _ ?_

theorem execLaneUnhealthy_keeps (s0 a0 a1 s) (h : Keeps s0 s) :
    KeepsRes s0 (execLaneUnhealthy a0 a1 s) := by
  unfold execLaneUnhealthy
  repeat' first
    | with_reducible assumption
    | with_reducible refine KeepsRes.next ?_
    | with_reducible refine Keeps.ite ?_ ?_
    | with_reducible refine State.laneUnhealthy_keeps _ _ _ _ ?_

theorem State.takeCode_keeps (s0 s a1 a2) (h : Keeps s0 s) :
    Keeps s0 (State.takeCode s a1 a2) := by
  unfold State.takeCode
  repeat' first
    | with_reducible assumption
    | with_reducible refine Keeps.ite ?_ ?_
    | with_reducible refine State.bump_keeps _ _ _ _ _ ?_
    | with_reducible refine State.putPort_keeps _ _ _ _ ?_
    | with_reducible refine State.laneUnhealthy_keeps _ _ _ _ ?_

theorem execFlitReceive_keeps (s0 a0 a1 a2 s) (h : Keeps s0 s) :
    KeepsRes s0 (execFlitReceive a0 a1 a2 s) := by
  unfold execFlitReceive
  repeat' first
    | with_reducible assumption
    | with_reducible refine KeepsRes.next ?_
    | with_reducible refine Keeps.ite ?_ ?_
    | with_reducible refine State.takeCode_keeps _ _ _ _ ?_
    | with_reducible refine State.takeFlit_keeps _ _ _ _ _ ?_
    | with_reducible refine State.swarmOnward_keeps _ _ ?_
    | with_reducible refine Keeps.foldl (fun _ _ _ => ?_) ?_

theorem State.exchange_keeps (s0 s a1 a2) (h : Keeps s0 s) :
    Keeps s0 (State.exchange s a1 a2) := by
  unfold State.exchange
  repeat' first
    | with_reducible assumption
    | with_reducible refine Keeps.ite ?_ ?_
    | with_reducible refine State.portDown_keeps _ _ _ ?_
    | with_reducible refine State.putPort_keeps _ _ _ _ ?_
    | with_reducible refine State.setLanes_keeps _ _ _ _ _ _ _ ?_
    | split
    | dsimp only

theorem execPortRetrain_keeps (s0 a0 a1 s) (h : Keeps s0 s) :
    KeepsRes s0 (execPortRetrain a0 a1 s) := by
  unfold execPortRetrain
  repeat' first
    | with_reducible assumption
    | with_reducible refine KeepsRes.next ?_
    | with_reducible refine Keeps.ite ?_ ?_
    | with_reducible refine State.exchange_keeps _ _ _ _ ?_
    | with_reducible refine State.startRetrain_keeps _ _ _ ?_

theorem execRetrainDone_keeps (s0 a0 s) (h : Keeps s0 s) :
    KeepsRes s0 (execRetrainDone a0 s) := by
  unfold execRetrainDone
  repeat' first
    | with_reducible assumption
    | with_reducible exact Nat.le_refl _
    | with_reducible exact Nat.le_add_right _ _
    | with_reducible exact List.prefix_refl _
    | with_reducible refine KeepsRes.next ?_
    | with_reducible refine Keeps.ite ?_ ?_
    | with_reducible refine State.putPort_keeps _ _ _ _ ?_
    | with_reducible refine State.setPortState_keeps _ _ _ _ ?_
    | with_reducible refine State.enterLow_keeps _ _ _ ?_
    | with_reducible refine State.replayFrom_keeps _ _ _ _ ?_
    | with_reducible refine State.sendHello_keeps _ _ _ ?_
    | with_reducible refine State.returnCredits_keeps _ _ _ ?_
    | with_reducible refine State.pump_keeps _ _ _ ?_
    | split

theorem execRetrainTimeout_keeps (s0 a0 s) (h : Keeps s0 s) :
    KeepsRes s0 (execRetrainTimeout a0 s) := by
  unfold execRetrainTimeout
  repeat' first
    | with_reducible assumption
    | with_reducible refine KeepsRes.next ?_
    | with_reducible refine Keeps.ite ?_ ?_
    | with_reducible refine State.portDown_keeps _ _ _ ?_
    | with_reducible refine State.startRetrain_keeps _ _ _ ?_
    | with_reducible refine State.putPort_keeps _ _ _ _ ?_

theorem execPortTrainRetry_keeps (s0 a0 a1 s) (h : Keeps s0 s) :
    KeepsRes s0 (execPortTrainRetry a0 a1 s) := by
  unfold execPortTrainRetry
  repeat' first
    | with_reducible assumption
    | with_reducible refine KeepsRes.next ?_
    | with_reducible refine Keeps.ite ?_ ?_
    | with_reducible refine State.trainUp_keeps _ _ _ _ _ ?_
    | with_reducible refine State.sendHello_keeps _ _ _ ?_
    | with_reducible refine State.firstUp_keeps _ _ ?_

theorem execHello_keeps (s0 a0 a1 a2 a3 s) (h : Keeps s0 s) :
    KeepsRes s0 (execHello a0 a1 a2 a3 s) := by
  unfold execHello
  repeat' first
    | with_reducible assumption
    | with_reducible refine KeepsRes.next ?_
    | with_reducible refine Keeps.ite ?_ ?_
    | with_reducible refine State.raise_keeps _ _ _ ?_
    | with_reducible refine State.setPortState_keeps _ _ _ _ ?_
    | with_reducible refine State.putReg_keeps _ _ _ _ ?_
    | with_reducible refine State.putPort_keeps _ _ _ _ ?_

theorem execHeartbeat_keeps (s0 a0 s) (h : Keeps s0 s) :
    KeepsRes s0 (execHeartbeat a0 s) := by
  unfold execHeartbeat
  repeat' first
    | with_reducible assumption
    | with_reducible refine KeepsRes.next ?_
    | with_reducible refine Keeps.ite ?_ ?_
    | with_reducible refine State.sendControl_keeps _ _ _ _ ?_

theorem execHeartbeatMiss_keeps (s0 a0 s) (h : Keeps s0 s) :
    KeepsRes s0 (execHeartbeatMiss a0 s) := by
  unfold execHeartbeatMiss
  repeat' first
    | with_reducible assumption
    | with_reducible refine KeepsRes.next ?_
    | with_reducible refine Keeps.ite ?_ ?_
    | with_reducible refine State.portDown_keeps _ _ _ ?_

theorem execWakeFlitSend_keeps (s0 a0 s) (h : Keeps s0 s) :
    KeepsRes s0 (execWakeFlitSend a0 s) := by
  unfold execWakeFlitSend
  repeat' first
    | with_reducible assumption
    | with_reducible refine KeepsRes.next ?_
    | with_reducible refine Keeps.ite ?_ ?_
    | with_reducible refine State.pump_keeps _ _ _ ?_
    | with_reducible refine State.putPort_keeps _ _ _ _ ?_

theorem execPartnerLowMode_keeps (s0 a0 a1 s) (h : Keeps s0 s) :
    KeepsRes s0 (execPartnerLowMode a0 a1 s) := by
  unfold execPartnerLowMode
  repeat' first
    | with_reducible assumption
    | with_reducible refine KeepsRes.next ?_
    | with_reducible refine Keeps.ite ?_ ?_
    | with_reducible refine State.enterLow_keeps _ _ _ ?_
    | with_reducible refine State.putPort_keeps _ _ _ _ ?_

theorem State.rampCores_keeps (s0 s) (h : Keeps s0 s) :
    Keeps s0 (State.rampCores s) := by
  unfold State.rampCores
  repeat' first
    | with_reducible assumption
    | with_reducible refine State.initSpads_keeps _ _ _ ?_
    | with_reducible refine State.setFld_keeps _ _ _ _ _ ?_
    | with_reducible refine State.putCore_keeps _ _ _ _ ?_
    | with_reducible refine Keeps.foldl (fun _ _ _ => ?_) ?_

theorem State.wakeUp_keeps (s0 s) (h : Keeps s0 s) :
    Keeps s0 (State.wakeUp s) := by
  unfold State.wakeUp
  repeat' first
    | with_reducible assumption
    | with_reducible exact Nat.le_refl _
    | with_reducible exact Nat.le_add_right _ _
    | with_reducible exact List.prefix_refl _
    | with_reducible refine State.rampCores_keeps _ _ ?_
    | with_reducible refine State.putPort_keeps _ _ _ _ ?_
    | with_reducible refine Keeps.foldl (fun _ _ _ => ?_) ?_
    | with_reducible refine Keeps.foldPair (fun _ _ _ => ?_) ?_
    | dsimp only
    | exact Nat.le_add_right _ _
    | exact Nat.le_refl _
    | exact List.prefix_refl _
    | with_reducible refine Keeps.setAnt ?_
    | with_reducible refine Keeps.upd ?_ ?_ ?_

theorem State.enterAest_keeps (s0 s) (h : Keeps s0 s) :
    Keeps s0 (State.enterAest s) := by
  unfold State.enterAest
  repeat' first
    | with_reducible assumption
    | with_reducible exact Nat.le_refl _
    | with_reducible exact Nat.le_add_right _ _
    | with_reducible exact List.prefix_refl _
    | with_reducible refine Keeps.ite ?_ ?_
    | with_reducible refine State.returnCredits_keeps _ _ _ ?_
    | with_reducible refine State.enterLow_keeps _ _ _ ?_
    | with_reducible refine State.wake_keeps _ _ ?_
    | with_reducible refine State.wakeUp_keeps _ _ ?_
    | with_reducible refine Keeps.foldl (fun _ _ _ => ?_) ?_
    | with_reducible refine Keeps.foldPair (fun _ _ _ => ?_) ?_
    | split
    | dsimp only
    | exact Nat.le_add_right _ _
    | exact Nat.le_refl _
    | exact List.prefix_refl _
    | with_reducible refine Keeps.setAnt ?_
    | with_reducible refine Keeps.upd ?_ ?_ ?_

theorem State.tryAest_keeps (s0 s) (h : Keeps s0 s) :
    Keeps s0 (State.tryAest s) := by
  unfold State.tryAest
  repeat' first
    | with_reducible assumption
    | with_reducible refine Keeps.ite ?_ ?_
    | with_reducible refine State.enterAest_keeps _ _ ?_

theorem execAestivationEntry_keeps (s0 s) (h : Keeps s0 s) :
    KeepsRes s0 (execAestivationEntry s) := by
  unfold execAestivationEntry
  repeat' first
    | with_reducible assumption
    | with_reducible refine KeepsRes.next ?_
    | with_reducible refine State.tryAest_keeps _ _ ?_

theorem State.wake_keeps (s0 s) (h : Keeps s0 s) :
    Keeps s0 (State.wake s) := by
  unfold State.wake
  repeat' first
    | with_reducible assumption
    | with_reducible exact Nat.le_refl _
    | with_reducible exact Nat.le_add_right _ _
    | with_reducible exact List.prefix_refl _
    | with_reducible refine Keeps.ite ?_ ?_
    | with_reducible refine State.wakeUp_keeps _ _ ?_
    | split
    | dsimp only
    | exact Nat.le_add_right _ _
    | exact Nat.le_refl _
    | exact List.prefix_refl _
    | with_reducible refine Keeps.setAnt ?_
    | with_reducible refine Keeps.upd ?_ ?_ ?_

theorem execWake_keeps (s0 a0 s) (h : Keeps s0 s) :
    KeepsRes s0 (execWake a0 s) := by
  unfold execWake
  repeat' first
    | with_reducible assumption
    | with_reducible refine KeepsRes.next ?_
    | with_reducible refine Keeps.ite ?_ ?_
    | with_reducible refine State.putPort_keeps _ _ _ _ ?_
    | with_reducible refine State.wake_keeps _ _ ?_

theorem execWakeStage_keeps (s0 a0 s) (h : Keeps s0 s) :
    KeepsRes s0 (execWakeStage a0 s) := by
  unfold execWakeStage
  repeat' first
    | with_reducible assumption
    | with_reducible exact Nat.le_refl _
    | with_reducible exact Nat.le_add_right _ _
    | with_reducible exact List.prefix_refl _
    | with_reducible refine KeepsRes.next ?_
    | with_reducible refine Keeps.ite ?_ ?_
    | with_reducible refine State.putPort_keeps _ _ _ _ ?_
    | with_reducible refine State.setPortState_keeps _ _ _ _ ?_
    | with_reducible refine State.returnCredits_keeps _ _ _ ?_
    | with_reducible refine State.pump_keeps _ _ _ ?_
    | with_reducible refine State.startRetrain_keeps _ _ _ ?_

theorem execAestivateEnter_keeps (s0 a0 s) (h : Keeps s0 s) :
    KeepsRes s0 (execAestivateEnter a0 s) := by
  unfold execAestivateEnter
  repeat' first
    | with_reducible assumption
    | with_reducible exact Nat.le_refl _
    | with_reducible exact Nat.le_add_right _ _
    | with_reducible exact List.prefix_refl _
    | with_reducible refine KeepsRes.next ?_
    | with_reducible refine Keeps.ite ?_ ?_
    | with_reducible refine State.manageMantis_keeps _ _ _ _ _ (fun _ _ => ?_) ?_
    | with_reducible refine State.mgmtReply_keeps _ _ _ _ _ _ _ _ ?_
    | with_reducible refine State.tryAest_keeps _ _ ?_
    | split
    | dsimp only
    | exact Nat.le_add_right _ _
    | exact Nat.le_refl _
    | exact List.prefix_refl _
    | with_reducible refine Keeps.setAnt ?_
    | with_reducible refine Keeps.upd ?_ ?_ ?_

theorem execAestivateWake_keeps (s0 a0 s) (h : Keeps s0 s) :
    KeepsRes s0 (execAestivateWake a0 s) := by
  unfold execAestivateWake
  repeat' first
    | with_reducible assumption
    | with_reducible exact Nat.le_refl _
    | with_reducible exact Nat.le_add_right _ _
    | with_reducible exact List.prefix_refl _
    | with_reducible refine KeepsRes.next ?_
    | with_reducible refine Keeps.ite ?_ ?_
    | with_reducible refine State.manageMantis_keeps _ _ _ _ _ (fun _ _ => ?_) ?_
    | with_reducible refine State.wake_keeps _ _ ?_
    | with_reducible refine State.mgmtReply_keeps _ _ _ _ _ _ _ _ ?_
    | split
    | dsimp only
    | exact Nat.le_add_right _ _
    | exact Nat.le_refl _
    | exact List.prefix_refl _
    | with_reducible refine Keeps.setAnt ?_
    | with_reducible refine Keeps.upd ?_ ?_ ?_

end Sys2Proof.Machine
end

