-- ==== Sys2Proof/Laws/KeepsSelftest.lean ====
section
/-!
SUPPORT. What the operations of Selftest keep of a state.
-/
namespace Sys2Proof.Machine

theorem State.askTest_keeps (s0 s a1 a2) (h : Keeps s0 s) :
    Keeps s0 (State.askTest s a1 a2) := by
  unfold State.askTest
  repeat' first
    | with_reducible assumption
    | with_reducible refine Keeps.ite ?_ ?_
    | with_reducible refine State.putCore_keeps _ _ _ _ ?_
    | with_reducible refine State.answerTests_keeps _ _ _ _ _ ?_
    | with_reducible refine State.nextTests_keeps _ _ ?_

theorem execSelfTest_keeps (s0 a0 a1 s) (h : Keeps s0 s) :
    KeepsRes s0 (execSelfTest a0 a1 s) := by
  unfold execSelfTest
  repeat' first
    | with_reducible assumption
    | with_reducible refine KeepsRes.next ?_
    | with_reducible refine Keeps.ite ?_ ?_
    | with_reducible refine State.manageMantis_keeps _ _ _ _ _ (fun _ _ => ?_) ?_
    | with_reducible refine State.mgmtReply_keeps _ _ _ _ _ _ _ _ ?_
    | with_reducible refine State.withWadi_keeps _ _ _ ?_
    | with_reducible refine State.askTest_keeps _ _ _ _ ?_

theorem execHamadaScheduledTest_keeps (s0 a0 s) (h : Keeps s0 s) :
    KeepsRes s0 (execHamadaScheduledTest a0 s) := by
  unfold execHamadaScheduledTest
  repeat' first
    | with_reducible assumption
    | with_reducible refine KeepsRes.next ?_
    | with_reducible refine Keeps.ite ?_ ?_
    | with_reducible refine State.askTest_keeps _ _ _ _ ?_

theorem execCoreTestDone_keeps (s0 a0 a1 s) (h : Keeps s0 s) :
    KeepsRes s0 (execCoreTestDone a0 a1 s) := by
  unfold execCoreTestDone
  repeat' first
    | with_reducible assumption
    | with_reducible refine KeepsRes.next ?_
    | with_reducible refine Keeps.ite ?_ ?_
    | with_reducible refine State.answerTests_keeps _ _ _ _ _ ?_
    | with_reducible refine State.raise_keeps _ _ _ ?_
    | with_reducible refine State.putCore_keeps _ _ _ _ ?_
    | with_reducible refine State.settle_keeps _ _ ?_
    | with_reducible refine State.nextTests_keeps _ _ ?_
    | with_reducible refine State.fenceCore_keeps _ _ _ _ ?_

theorem execModuleTest_keeps (s0 s) (h : Keeps s0 s) :
    KeepsRes s0 (execModuleTest s) := by
  unfold execModuleTest
  repeat' first
    | with_reducible assumption
    | with_reducible refine KeepsRes.next ?_
    | with_reducible refine Keeps.ite ?_ ?_
    | with_reducible refine State.withWadi_keeps _ _ _ ?_

theorem State.fenceUnit_keeps (s0 s a1) (h : Keeps s0 s) :
    Keeps s0 (State.fenceUnit s a1) := by
  unfold State.fenceUnit
  repeat' first
    | with_reducible assumption
    | with_reducible refine Keeps.ite ?_ ?_
    | with_reducible refine State.fenceCore_keeps _ _ _ _ ?_
    | with_reducible refine State.loseMantis_keeps _ _ _ ?_
    | with_reducible refine State.engineFails_keeps _ _ _ _ ?_

theorem execModuleTestEnd_keeps (s0 a0 s) (h : Keeps s0 s) :
    KeepsRes s0 (execModuleTestEnd a0 s) := by
  unfold execModuleTestEnd
  repeat' first
    | with_reducible assumption
    | with_reducible exact Nat.le_refl _
    | with_reducible exact Nat.le_add_right _ _
    | with_reducible exact List.prefix_refl _
    | with_reducible refine KeepsRes.next ?_
    | with_reducible refine Keeps.ite ?_ ?_
    | with_reducible refine State.withWadi_keeps _ _ _ ?_
    | with_reducible refine State.raise_keeps _ _ _ ?_
    | with_reducible refine State.fenceUnit_keeps _ _ _ ?_
    | with_reducible refine State.settle_keeps _ _ ?_
    | with_reducible refine State.workRequests_keeps _ _ ?_
    | with_reducible refine Keeps.foldl (fun _ _ _ => ?_) ?_

end Sys2Proof.Machine
end

