-- ==== Sys2Proof/Laws/Links.lean ====
section
/-!
SUPPORT. What the shared operations of a Seif port do: the stamp on an outbound flit, raw flits, idle flits, the pump and the answer to
a data flit leave the port's slots and expected number alone, and touch no other port and no register.
-/
namespace Sys2Proof.Machine

theorem stamp_parts (x : Port) (low : Bool) (f : Flit) : ∃ (o : List Nat) (r : Nat) (g : Nat × Nat), x.stamp low f = ({ f with ack := (x.expSeq + 4095) % 4096, ackValid := true, credits := g.1, creditVl := g.2 }, { x with owed := o, rrCredit := r }) := by
  unfold Port.stamp
  cases owedLane x.rrCredit (x.owing low) with
  | none => exact ⟨_, _, (f.credits, f.creditVl), rfl⟩
  | some v => exact ⟨_, _, (_, _), rfl⟩

theorem OnlyPort.refl (s : State) (p : Nat) (rs : List Nat) : OnlyPort s s p rs := ⟨fun _ _ => rfl, fun _ _ => rfl, rfl⟩

theorem OnlyPort.trans {a b c : State} {p : Nat} {rs : List Nat} (h : OnlyPort a b p rs) (k : OnlyPort b c p rs) : OnlyPort a c p rs := by
  refine ⟨fun i hi => (k.1 i hi).trans (h.1 i hi), fun i hi => (k.2.1 i hi).trans (h.2.1 i hi), ?_⟩
  have e1 := h.2.2
  have e2 := k.2.2
  obtain ⟨⟩ := a; obtain ⟨⟩ := b; obtain ⟨⟩ := c
  simp only [State.mk.injEq] at e1 e2 ⊢
  simp_all

theorem putPort_only (s : State) (p : Nat) (x : Port) (rs : List Nat) : OnlyPort s (s.putPort p x) p rs :=
  ⟨fun k hk => by rw [State.putPort_port, if_neg hk], fun _ _ => rfl, rfl⟩
theorem emit_onlyPort (s : State) (p : Nat) (o : Out) (rs : List Nat) : OnlyPort s (s.emit o) p rs := ⟨fun _ _ => rfl, fun _ _ => rfl, rfl⟩

/-- What pump and idles leave of a port. -/
def PortKept (s t : State) (p : Nat) : Prop :=
  OnlyPort s t p [] ∧ (∃ l, t.out = s.out ++ l) ∧ (t.port p).slots = (s.port p).slots ∧ (t.port p).expSeq = (s.port p).expSeq ∧ (t.port p).nakFor = (s.port p).nakFor

theorem PortKept.refl (s : State) (p : Nat) : PortKept s s p := ⟨OnlyPort.refl _ _ _, ⟨[], (List.append_nil _).symm⟩, rfl, rfl, rfl⟩
theorem PortKept.trans {a b c : State} {p : Nat} (h : PortKept a b p) (k : PortKept b c p) : PortKept a c p := by
  obtain ⟨l, hl⟩ := h.2.1
  obtain ⟨m, hm⟩ := k.2.1
  exact ⟨h.1.trans k.1, ⟨l ++ m, by rw [hm, hl, List.append_assoc]⟩, k.2.2.1.trans h.2.2.1, k.2.2.2.1.trans h.2.2.2.1, k.2.2.2.2.trans h.2.2.2.2⟩

theorem putPort_kept (s : State) (p : Nat) (x : Port) (h1 : x.slots = (s.port p).slots) (h2 : x.expSeq = (s.port p).expSeq)
    (h3 : x.nakFor = (s.port p).nakFor) : PortKept s (s.putPort p x) p := by
  refine ⟨putPort_only _ _ _ _, ⟨[], (List.append_nil _).symm⟩, ?_, ?_, ?_⟩ <;> rw [State.putPort_port, if_pos rfl] <;> assumption

theorem emit_kept (s : State) (p : Nat) (o : Out) : PortKept s (s.emit o) p := ⟨emit_onlyPort _ _ _ _, ⟨[o], rfl⟩, rfl, rfl, rfl⟩

theorem sendRaw_kept (s : State) (p : Nat) (f : Flit) : PortKept s (s.sendRaw p f) p := by
  obtain ⟨o, r, g, e⟩ := stamp_parts (s.port p) (s.portLow p) f
  unfold State.sendRaw
  rw [e]
  exact (putPort_kept s p { s.port p with owed := o, rrCredit := r } rfl rfl rfl).trans (emit_kept _ _ _)

theorem sendIdles_kept : ∀ (n : Nat) (s : State) (p : Nat), PortKept s (s.sendIdles n p) p
  | 0, s, p => PortKept.refl s p
  | n + 1, s, p => by
    unfold State.sendIdles
    split
    · exact (sendRaw_kept s p _).trans (sendIdles_kept n _ p)
    · exact PortKept.refl s p

theorem returnCredits_kept (s : State) (p : Nat) : PortKept s (s.returnCredits p) p := by
  unfold State.returnCredits
  split
  · exact sendIdles_kept _ _ _
  · exact PortKept.refl s p

theorem pumpPort_kept : ∀ (n : Nat) (s : State) (p : Nat), PortKept s (s.pumpPort n p) p
  | 0, s, p => PortKept.refl s p
  | n + 1, s, p => by
    unfold State.pumpPort
    dsimp only
    split
    · exact PortKept.refl s p
    · split
      · exact PortKept.refl s p
      · obtain ⟨o, r, g, e⟩ := stamp_parts { s.port p with
            waiting := dropAt (s.port p).waiting _
            credits := mapAt (s.port p).credits _ (fun k => k - 1)
            nextSeq := ((s.port p).nextSeq + 1) % 4096
            rrSend := _ } (s.portLow p) _
        rw [e]
        refine PortKept.trans ?_ (pumpPort_kept n _ p)
        refine PortKept.trans ?_ (emit_kept _ _ _)
        exact putPort_kept _ _ _ rfl rfl rfl

theorem pump_kept (s : State) (p : Nat) : PortKept s (s.pump p) p := pumpPort_kept _ _ _

theorem pump_none (s : State) (p : Nat) (h : (s.port p).waiting = []) : s.pump p = s := by unfold State.pump; rw [h]; rfl
theorem answer_kept (s : State) (p : Nat) : PortKept s (s.answer p) p :=
  ((sendRaw_kept s p _).trans (returnCredits_kept _ p)).trans (pump_kept _ p)
theorem answer_out (s : State) (p : Nat) : ∃ g rest, (s.answer p).out = s.out ++ .flit p (flitBytes g) :: rest ∧ g.type = 0 ∧ g.ackValid = true ∧ g.ack = ((s.port p).expSeq + 4095) % 4096 := by
  obtain ⟨o, r, g, e⟩ := stamp_parts (s.port p) (s.portLow p) (idleFlit s.ownId)
  obtain ⟨l, hl⟩ := ((returnCredits_kept (s.sendRaw p (idleFlit s.ownId)) p).trans (pump_kept _ p)).2.1
  unfold State.answer
  rw [hl]
  unfold State.sendRaw
  rw [e]
  exact ⟨_, l, List.append_assoc _ _ _, rfl, rfl, rfl⟩

end Sys2Proof.Machine
end

