-- ==== Sys2Proof/WellFormed.lean ====
section
/-!
DEFINITION. Which commands are well formed: every unit number, field and length lies in the range that the manual gives it. The
machine is total on ill-formed commands as well; these are those that no sender of the block can send.
-/
namespace Sys2Proof

/-! The checks. -/

/-- A core ID (R2). -/
def okCore (c : Nat) : Bool := c < 288
/-- A core ID, or 288 for the shadow writes of a Swarm step. -/
def okWriter (c : Nat) : Bool := c ≤ 288
/-- A context (R308). -/
def okCtx (x : Nat) : Bool := x < 16
/-- A Seif port or a stack: twelve of each (R3, R374). -/
def okPort (p : Nat) : Bool := p < 12
/-- A compute die. -/
def okDie (d : Nat) : Bool := d < 2
/-- A window entry (R415). -/
def okEntry (e : Nat) : Bool := e < 4096
/-- A Mantis core. -/
def okMantis (m : Nat) : Bool := m < 16
/-- A multicast group, or a receiver of one (R429). -/
def okGroup (g : Nat) : Bool := g < 64
/-- A module ID (R397). -/
def okModule (i : Nat) : Bool := i < 16384
/-- A virtual lane of a port, or one of its eight lanes. -/
def okLane (v : Nat) : Bool := v < 8
/-- A position among the grants that a core holds, three at most (R120). -/
def okGrant (g : Nat) : Bool := g < 3
/-- A queue's register set: 64 bytes, aligned (R301). -/
def okQueue (q : Nat) : Bool := q % 64 == 0 && q < 2 ^ 48
/-- The size of a register access (R8). -/
def okSize (n : Nat) : Bool := n == 4 || n == 8
/-- The reason of a fence (R491). -/
def okReason (r : Nat) : Bool := r < 3
/-- The cause of a lockstep stop (R529). -/
def okCause (c : Nat) : Bool := c == 3 || c == 4
/-- A field of `n` bits. -/
def okBits (n v : Nat) : Bool := v < 2 ^ n
/-- A list of exactly `n` items. -/
def okLen {α : Type} (n : Nat) (l : List α) : Bool := l.length == n
/-- Data of at most `n` bytes. -/
def okData {α : Type} (n : Nat) (l : List α) : Bool := l.length ≤ n
/-- A list of core IDs. -/
def okCores (l : List Nat) : Bool := l.all okCore

/-- R330: a unit of the whole-module test. -/
def okUnit (u : Nat) : Bool := u < 288 || (0x200 ≤ u && u < 0x210) || (0x300 ≤ u && u < 0x30C)
/-- A multicast group, or the key of a handle. -/
def okHandle (mcast : Bool) (h : Nat) : Bool := if mcast then h < 64 else h < 2 ^ 20

/-- A frame header (R552). -/
def FrameHdr.wf (h : FrameHdr) : Bool := okBits 64 h.counter && okBits 64 h.reqId

/-- A codeword (R375). -/
def Code.wf (c : Code) : Bool := okLane c.lane && c.bad ≤ 224

/-- The header of a window write or read (R421). -/
def WinHdr.wf (h : WinHdr) : Bool :=
  okBits 16 h.entry && okBits 16 h.gen && okBits 64 h.offset && okBits 32 h.length && okBits 32 h.seq && okBits 16 h.taskref

/-- A window-opening entry (R558). -/
def WinReq.wf (r : WinReq) : Bool :=
  okBits 64 r.vaddr && okBits 64 r.size && okBits 8 r.unitLog2 && okBits 8 r.rights && okBits 8 r.peerMode && okBits 16 r.peerLo &&
    okBits 16 r.peerHi && okBits 32 r.pool && okBits 16 r.perPeerMax

/-- The header of a Swarm message (R455). -/
def SwarmHdr.wf (h : SwarmHdr) : Bool :=
  okBits 32 h.step && okBits 16 h.gen && okBits 2 h.fmt && okBits 32 h.bucket && okBits 16 h.shard && okBits 16 h.hop &&
    okBits 32 h.block && okBits 32 h.escMask && okBits 16 h.sender

/-- R464: an element of a block. -/
def SwarmWord.wf : SwarmWord → Bool
  | .mismatch e => e < 1024
  | _ => true

/-! Every command. -/

/-- A command with every operand in range. -/
def Instr.wf : Instr → Bool
  | .powerOn _ _ straps => okBits 2 straps
  | .inputOff _ => true
  | .currentFault _ _ => true
  | .hotSwapRetry _ _ straps => okBits 2 straps
  | .presentOpen => true
  | .startStep unit _ _ rnd => okBits 16 unit && okBits 40 rnd
  | .startStepLimit unit => okBits 16 unit
  | .powerSample _ _ _ _ t0 t1 stackTemps _ _ => okLen 16 t0 && okLen 16 t1 && okLen 12 stackTemps
  | .clockStep die _ => okDie die
  | .clockChange die => okDie die
  | .corePark die => okDie die
  | .coreUnpark die => okDie die
  | .lockstepMismatch cause _ => okCause cause
  | .mantisHeartbeat m => okMantis m
  | .mantisFailover m => okMantis m
  | .bridgeFailure _ _ => true
  | .coreFence core reason => okCore core && okReason reason
  | .scrubDone => true
  | .helloC nonce nodeKey kemKey nm _ => okLen 32 nonce && okLen 2592 nodeKey && okLen 1568 kemKey && okLen 32 nm
  | .finishC sig => okLen 4627 sig
  | .endSession hdr => FrameHdr.wf hdr
  | .submitGroup hdr desc len tag _ _ => FrameHdr.wf hdr && okBits 64 desc && okBits 32 len && okBits 64 tag
  | .heldAdmission => true
  | .stepWord hdr word => FrameHdr.wf hdr && okLen 64 word
  | .endGroup hdr tag => FrameHdr.wf hdr && okBits 64 tag
  | .bulkWrite hdr addr data => FrameHdr.wf hdr && okBits 64 addr && okData 9148 data
  | .bulkAck reqId => okBits 64 reqId
  | .bulkRead hdr addr len => FrameHdr.wf hdr && okBits 64 addr && okBits 32 len
  | .regRead hdr _ => FrameHdr.wf hdr
  | .regWrite hdr _ => FrameHdr.wf hdr
  | .commitQuery hdr task => FrameHdr.wf hdr && okBits 64 task
  | .routes hdr first _ => FrameHdr.wf hdr && okBits 16 first
  | .windowOpen hdr core req => FrameHdr.wf hdr && okCore core && WinReq.wf req
  | .windowClose hdr entry gen => FrameHdr.wf hdr && okEntry entry && okBits 16 gen
  | .shadowSwitch hdr tag copy version => FrameHdr.wf hdr && okBits 64 tag && okBits 8 copy && okBits 64 version
  | .selfTest hdr unit => FrameHdr.wf hdr && okBits 16 unit
  | .coreTestDone core _ => okCore core
  | .moduleTest => true
  | .aestivateEnter hdr => FrameHdr.wf hdr
  | .aestivationEntry => true
  | .aestivateWake hdr => FrameHdr.wf hdr
  | .wakeStage port => okPort port
  | .powerCap hdr watts => FrameHdr.wf hdr && okBits 16 watts
  | .ledgerRead hdr first count => FrameHdr.wf hdr && okBits 16 first && okBits 32 count
  | .flashWrite hdr dev off data => FrameHdr.wf hdr && okBits 8 dev && okBits 32 off && okData 8192 data
  | .clear hdr step unit => FrameHdr.wf hdr && okBits 8 step && okBits 16 unit
  | .restart hdr => FrameHdr.wf hdr
  | .svnRaise hdr kind => FrameHdr.wf hdr && okBits 8 kind
  | .setActive hdr kind image => FrameHdr.wf hdr && okBits 8 kind && okBits 8 image
  | .attestationRequest hdr nonce => FrameHdr.wf hdr && okLen 64 nonce
  | .events count => okBits 32 count
  | .completions ctx count => okCtx ctx && okBits 32 count
  | .tokens ctx count => okCtx ctx && okBits 32 count
  | .sidebandRead cmd => okBits 8 cmd
  | .bypass die => okDie die
  | .idcode die => okDie die
  | .samplePreload die _ => okDie die
  | .extest die => okDie die
  | .trst => true
  | .sliceBoundary => true
  | .coreMove core => okCore core
  | .stepLaunch ctx => okCtx ctx
  | .stepReplay ctx => okCtx ctx
  | .stepCommit ctx _ => okCtx ctx
  | .grantRequest core => okCore core
  | .grantArrival core => okCore core
  | .tileStart core g => okCore core && okGrant g
  | .tileEnd core g => okCore core && okGrant g
  | .tileWdogExpiry core g => okCore core && okGrant g
  | .nop core g _ => okCore core && okGrant g
  | .load core g _ => okCore core && okGrant g
  | .loadComplete core => okCore core
  | .matchOp core g _ => okCore core && okGrant g
  | .mma core g _ => okCore core && okGrant g
  | .rowfn core g _ => okCore core && okGrant g
  | .mma2 core g _ => okCore core && okGrant g
  | .drain core g _ => okCore core && okGrant g
  | .ksplitCombine core => okCore core
  | .store core g _ => okCore core && okGrant g
  | .storeComplete core => okCore core
  | .tokwait core g _ => okCore core && okGrant g
  | .tokwaitPass core g _ => okCore core && okGrant g
  | .tokpost core g _ => okCore core && okGrant g
  | .tokpostEffect core g _ => okCore core && okGrant g
  | .fence core g _ => okCore core && okGrant g
  | .fencePass core g _ => okCore core && okGrant g
  | .pruneRequest core req => okCore core && okBits 48 req
  | .streamEnd core => okCore core
  | .seti core => okCore core
  | .addi core => okCore core
  | .muli core => okCore core
  | .andi core => okCore core
  | .shri core => okCore core
  | .add core => okCore core
  | .sub core => okCore core
  | .mul core => okCore core
  | .ldc core => okCore core
  | .ldp core => okCore core
  | .loopOp core => okCore core
  | .endl core => okCore core
  | .jge core => okCore core
  | .emit core => okCore core
  | .antRowArrival core row _ => okCore core && okBits 24 row
  | .streamReadResponse core _ epoch _ => okCore core && okBits 8 epoch
  | .strmRespTimeout core _ => okCore core
  | .streamCancel core => okCore core
  | .cacheFill core line => okCore core && okBits 48 line
  | .xltInvalidate core _ => okCore core
  | .invalidate core => okCore core
  | .spadSplitWrite core _ => okCore core
  | .spqEnable q _ => okQueue q
  | .flush q => okQueue q
  | .flushEffect q => okQueue q
  | .release q => okQueue q
  | .rewind q => okQueue q
  | .mark q => okQueue q
  | .clearMark q => okQueue q
  | .spqPush q data _ => okQueue q && okData 32 data
  | .spqRead q => okQueue q
  | .spqTimeout q => okQueue q
  | .spqCloseArrival q => okQueue q
  | .spqCreditReturn q => okQueue q
  | .winOpenCmd entry _ => okEntry entry
  | .winCloseCmd entry => okEntry entry
  | .registerWrite addr size _ => okBits 64 addr && okSize size
  | .ergRecordSend ctx => okCtx ctx
  | .gather stack => okPort stack
  | .scatter stack => okPort stack
  | .merge stack => okPort stack
  | .intersect stack => okPort stack
  | .decompress stack => okPort stack
  | .topkRow stack => okPort stack
  | .sumCheck stack => okPort stack
  | .decodeAttn stack => okPort stack
  | .decodeAttnMerge ctx => okCtx ctx
  | .ergOpTimeout stack => okPort stack
  | .hbmPatrol stack off _ => okPort stack && okBits 32 off
  | .pchNoResponse stack => okPort stack
  | .flitReceive port bytes codes => okPort port && bytes.length == 256 && codes.all Code.wf
  | .flitForward port vl => okPort port && okLane vl
  | .messageQueueCommit port vl => okPort port && okLane vl
  | .nak port seq => okPort port && okBits 12 seq
  | .seifRetryTimeout port => okPort port
  | .laneUnhealthy port lane => okPort port && okLane lane
  | .portRetrain port peerMask => okPort port && okBits 8 peerMask
  | .retrainDone port => okPort port
  | .retrainTimeout port => okPort port
  | .portTrainRetry port lanes => okPort port && okBits 8 lanes
  | .hello port id peerPort inc => okPort port && okModule id && okBits 4 peerPort && okBits 64 inc
  | .join port id inc ann => okPort port && okModule id && okBits 64 inc && okBits 32 ann
  | .withdraw port id inc ann => okPort port && okModule id && okBits 64 inc && okBits 32 ann
  | .departed port id inc ann => okPort port && okModule id && okBits 64 inc && okBits 32 ann
  | .heartbeat port => okPort port
  | .heartbeatMiss port => okPort port
  | .wake port => okPort port
  | .wakeFlitSend port => okPort port
  | .creditRequest src entry gen count => okModule src && okEntry entry && okBits 16 gen && okBits 32 count
  | .windowCreditGrant mcast handle rcv gen size count status => okHandle mcast handle && okGroup rcv && okBits 16 gen && okBits 64 size && okBits 32 count && okBits 16 status
  | .windowWrite src hdr data => okModule src && WinHdr.wf hdr && okData 65536 data.bytes && data.part.all (fun p => decide (p.1 + p.2 ≤ 524288))
  | .windowReadRequest src hdr => okModule src && WinHdr.wf hdr
  | .windowReadResponse src core _ epoch reply => okModule src && okCore core && okBits 8 epoch && okBits 16 reply.status && okData 4096 reply.data
  | .writeAcknowledgement mcast handle core status unit => okHandle mcast handle && okWriter core && okBits 16 status && okBits 32 unit
  | .finishNotice entry gen bytes => okEntry entry && okBits 16 gen && okBits 64 bytes
  | .closingNotice src entry gen => okModule src && okEntry entry && okBits 16 gen
  | .creditReturn src entry gen count _ => okModule src && okEntry entry && okBits 16 gen && okBits 32 count
  | .winCloseTimeout entry => okEntry entry
  | .multicastUnitSend group rcv => okGroup group && okGroup rcv
  | .multicastDetach late => okGroup late.group && late.rcvs.all okGroup
  | .swarmDigest src hdr _ => okModule src && SwarmHdr.wf hdr
  | .swarmPartial src hdr data => okModule src && SwarmHdr.wf hdr && okData 4096 data
  | .checkCopy src hdr data => okModule src && SwarmHdr.wf hdr && okData 4096 data
  | .swarmGather src hdr entry data => okModule src && SwarmHdr.wf hdr && okBits 16 entry && okData 4096 data
  | .ready src hdr => okModule src && SwarmHdr.wf hdr
  | .norm src hdr _ => okModule src && SwarmHdr.wf hdr
  | .committed src hdr => okModule src && SwarmHdr.wf hdr
  | .swarmCommitQuery src hdr word => okModule src && SwarmHdr.wf hdr && SwarmWord.wf word
  | .takeoverNotice src id _ => okModule src && okModule id
  | .takeoverDone r => okModule r.id && r.cache.all (fun q => q.1 < 256 && q.2.1 < 2 ^ 48)
  | .memoryWriteAck core => okCore core
  | .tableWalk core => okCore core
  | .moduleTestEnd failed => failed.all okUnit
  | .hamadaScheduledTest core => okCore core
  | .frameDiscard _ => true
  | .wadiLos _ _ => true
  | .partnerLowMode port _ => okPort port

end Sys2Proof
end

