-- ==== Sys2Proof/Tests/Slice0.lean ====
section
/-!
SUPPORT. Tests: an ill-formed command for each check of well-formedness, single steps on small states with results worked out from the
manual, and for each statement with hypotheses a state and operands that meet them.
-/
-- One theorem at a time: each `decide` waits for the checks before it, and the waiting threads would fill the memory.
set_option Elab.async false
namespace Sys2Proof.Tests
open Sys2Proof Sys2Proof.Machine

/-! Well-formedness: each check refuses a term. -/

/-- A frame header in range. -/
def hdr : FrameHdr := ⟨false, 5, 9, true⟩
/-- A flit in range: data for module 7, in order from number 3. -/
def flit : Flit := ⟨7, 2, 3, 0, false, 0, 0, 3, 0, 1, 1, 15, [1, 2], true, true, none⟩
/-- A window header in range. -/
def winHdr : WinHdr := ⟨4, 1, 0, 32, 1, 0, true, false⟩
/-- A Swarm header in range. -/
def swHdr : SwarmHdr := ⟨1, 1, 0, false, 0, 0, 1, 0, 0, 3⟩

theorem test_wf_core : Instr.wf (.coreFence 288 0) = false ∧ Instr.wf (.coreFence 287 0) = true := by decide
theorem test_wf_writer : Instr.wf (.writeAcknowledgement false 0 289 0 0) = false ∧ Instr.wf (.writeAcknowledgement false 0 288 0 0) = true := by decide
theorem test_wf_ctx : Instr.wf (.stepLaunch 16) = false ∧ Instr.wf (.stepLaunch 15) = true := by decide
theorem test_wf_port : Instr.wf (.heartbeat 12) = false ∧ Instr.wf (.heartbeat 11) = true := by decide
theorem test_wf_die : Instr.wf (.clockChange 2) = false ∧ Instr.wf (.clockChange 1) = true := by decide
theorem test_wf_entry : Instr.wf (.winCloseCmd 4096) = false ∧ Instr.wf (.winCloseCmd 4095) = true := by decide
theorem test_wf_mantis : Instr.wf (.mantisHeartbeat 16) = false ∧ Instr.wf (.mantisHeartbeat 15) = true := by decide
theorem test_wf_group : Instr.wf (.multicastDetach ⟨64, []⟩) = false ∧ Instr.wf (.multicastDetach ⟨63, [64]⟩) = false ∧ Instr.wf (.multicastDetach ⟨63, [63]⟩) = true := by
  decide
theorem test_wf_module : Instr.wf (.takeoverDone ⟨16384, []⟩) = false ∧ Instr.wf (.takeoverDone ⟨16383, []⟩) = true := by decide
theorem test_wf_cache : Instr.wf (.takeoverDone ⟨0, [(256, 0, [])]⟩) = false ∧ Instr.wf (.takeoverDone ⟨0, [(0, 2 ^ 48, [])]⟩) = false ∧
    Instr.wf (.takeoverDone ⟨0, [(255, 2 ^ 48 - 1, [])]⟩) = true := by decide
theorem test_wf_part : Instr.wf (.windowWrite 0 ⟨4, 1, 0, 32, 1, 0, true, false⟩ ⟨[], some (524288, 1)⟩) = false ∧
    Instr.wf (.windowWrite 0 ⟨4, 1, 0, 32, 1, 0, true, false⟩ ⟨[], some (524287, 1)⟩) = true := by decide
theorem test_wf_element : Instr.wf (.swarmCommitQuery 0 ⟨1, 1, 0, false, 0, 0, 1, 0, 0, 3⟩ (.mismatch 1024)) = false ∧
    Instr.wf (.swarmCommitQuery 0 ⟨1, 1, 0, false, 0, 0, 1, 0, 0, 3⟩ (.mismatch 1023)) = true := by decide
theorem test_wf_lane : Instr.wf (.laneUnhealthy 0 8) = false ∧ Instr.wf (.laneUnhealthy 0 7) = true := by decide
theorem test_wf_grant : Instr.wf (.nop 0 3 true) = false ∧ Instr.wf (.nop 0 2 true) = true := by decide
theorem test_wf_queue : Instr.wf (.release 0x21) = false ∧ Instr.wf (.release 0x40) = true := by decide
theorem test_wf_size : Instr.wf (.registerWrite 0 2 0) = false ∧ Instr.wf (.registerWrite 0 4 0) = true := by decide
theorem test_wf_reason : Instr.wf (.coreFence 0 3) = false ∧ Instr.wf (.coreFence 0 2) = true := by decide
theorem test_wf_cause : Instr.wf (.lockstepMismatch 5 0) = false ∧ Instr.wf (.lockstepMismatch 4 0) = true := by decide
theorem test_wf_bits : Instr.wf (.nak 0 4096) = false ∧ Instr.wf (.nak 0 4095) = true := by decide
theorem test_wf_len : Instr.wf (.stepWord hdr (zeros 63)) = false ∧ Instr.wf (.stepWord hdr (zeros 64)) = true := by decide
theorem test_wf_data : Instr.wf (.spqPush 0x40 (zeros 33) true) = false ∧ Instr.wf (.spqPush 0x40 (zeros 32) true) = true := by decide
theorem test_wf_cores : Instr.wf (.moduleTestEnd [0, 288]) = false ∧ Instr.wf (.moduleTestEnd [0, 287]) = true := by decide
theorem test_wf_handle : Instr.wf (.writeAcknowledgement true 64 0 0 0) = false ∧ Instr.wf (.writeAcknowledgement false 64 0 0 0) = true := by decide
theorem test_wf_hdr : FrameHdr.wf { hdr with counter := 2 ^ 64 } = false ∧ FrameHdr.wf hdr = true := by decide
theorem test_wf_code : Code.wf ⟨8, 0, 0⟩ = false ∧ Code.wf ⟨7, 0, 225⟩ = false ∧ Code.wf ⟨7, 0, 224⟩ = true := by decide
theorem test_wf_flit : Instr.wf (.flitReceive 11 (zeros 255) []) = false ∧ Instr.wf (.flitReceive 11 (zeros 256) [⟨8, 0, 0⟩]) = false ∧
    Instr.wf (.flitReceive 11 (zeros 256) [⟨7, 0, 224⟩]) = true := by decide +kernel
theorem test_wf_winHdr : WinHdr.wf { winHdr with gen := 65536 } = false ∧ WinHdr.wf winHdr = true := by decide
theorem test_wf_winReq : WinReq.wf ⟨0, 4096, 5, 1, 0, 0, 65536, 8, 8⟩ = false ∧ WinReq.wf ⟨0, 4096, 5, 1, 0, 0, 65535, 8, 8⟩ = true := by decide
theorem test_wf_swHdr : SwarmHdr.wf { swHdr with fmt := 4 } = false ∧ SwarmHdr.wf swHdr = true := by decide

/-! Decoding: the table of operations gives no row any bits. -/

theorem test_decode_none : decodeTableWord 64 0x0123456789ABCDEF = none := by decide

/-! Single steps. -/

/-- The reset state with empty flash: what the devices hold as supplied is not known. -/
def off : State := { State.reset with flash0 := [], flash1 := [] }

/-- A small live module: Ready, its registers given. -/
def up (regs : Table Word) : State := { off with power := .ready, regs := regs }

/-- A value of SEIF_WIDTH: state, healthy, active, width (R409). -/
def seifWidth (state healthy active width : Nat) : Word := BitVec.ofNat 64 (state * 2 ^ 24 + healthy * 2 ^ 16 + active * 2 ^ 8 + width)

/-- Bits 39:32 of a register written with 4 bytes at its upper half (R8). -/
theorem test_access_mask : accessMask 0x104 4 = 0xFFFFFFFF00000000 ∧ accessMask 0x102 4 = 0 := by decide

/-- An entry equal to what an unlisted address reads as leaves the memory (R6, R12). -/
theorem test_store_canonical : ((off.store 0x40 [1, 0, 3]).store 0x40 [0]).mem = [(0x42, 3)] := by decide

/-- Little-endian numbers (R12). -/
theorem test_little_endian : (off.store 0x100 [0x78, 0x56, 0x34, 0x12]).num 0x100 4 = 0x12345678 := by decide

/-- R388: the widest lane set that is healthy; of equal widths the first listed. -/
theorem test_lane_choice : laneChoice 0xFE = some (0xF0, 4) ∧ laneChoice 0x7F = some (0x0F, 4) ∧ laneChoice 0x02 = some (2, 1) ∧ laneChoice 0 = none := by
  decide

/-- R2: the die of a core. -/
theorem test_die : dieOf 143 = 0 ∧ dieOf 144 = 1 := by decide

/-! For each statement with hypotheses, a state and operands that meet them. -/

/-- A Ready module. -/
def ready : State := ({ off with power := .ready }).setFld Reg.START_STATUS Fld.START_STATUS_READY 1
/-- A Ready module with the Wadi link trained. -/
def linked : State := (ready.setFld Reg.START_STATUS Fld.START_STATUS_STEP 25).setFld Reg.WADI_LINK Fld.WADI_LINK_STATE 2
/-- A Ready module with a session, one word of credit on each side. -/
def session : State := { linked with hmd := { linked.hmd with sessOpen := true }, wadi := { linked.wadi with nodeReq := 8, nodeBulk := 8, nodeMgmt := 8 } }
/-- A queue set enabled with further settings of SPQ_CFG, standing as `x`. -/
def queued (q cfg : Nat) (x : Queue) : State := { session.putReg (Reg.SPQ_CFG q) (2 ^ 63 + cfg) with queues := [(q, x)] }
/-- A data word of a spill queue. -/
def dataWord (n : Nat) : QWord := ⟨0, n, 1, zeros 8, none, true⟩
/-- A gap marker and a flush marker. -/
def gapWord (n : Nat) : QWord := ⟨1, n, 0, leBytes 4 1, none, false⟩
/-- A start at step `n`, both ledger devices at hand, with the units that run and those that have ended. -/
def starting (n : Nat) (running : List (Nat × Nat)) (ended : List Nat) : State :=
  ({ off with power := .starting, start := { off.start with devs := 3, running := running, finished := ended } }).setFld Reg.START_STATUS Fld.START_STATUS_STEP n
/-- A step of a tile program with the operations, buffers of one row and streams given. -/
def stepOf (ops : List Nat) (streams : List StreamEnt) : Launch :=
  { Launch.empty with prog := { Launch.empty.prog with ops := ops, bufs := List.replicate 16 ⟨0, 1, false⟩ }, streams := streams }
/-- Context 15 runs a step, and core 287 serves it. -/
def onCore (l : Launch) (k : Core) : State :=
  { session with ctxs := [(15, { Ctx.idle with live := true, run := .running, launch := some l })], cores := [(287, { k with ctx := some 15 })] }
/-- A grant of tile 0 whose sections stand as given. -/
def grantOf (pf cp : Sect) : Grant :=
  ⟨0, 0, 0, false, false, true, false, false, 0, 0, 0, 0, 0, false, pf, cp, true, false, false, [], 0, false, false, false, true, [], false, false, []⟩
/-- A stream operation of tile 0 on stream 0, begun. -/
def opOf (id : Nat) : StrmOp := ⟨id, 15, 0, 0, 0, true, 0, false, 0, 0, spadBase 287, 128, 0, 0, 0, 0, 0, none, none, false, false, true, false, 0⟩
/-- A program stream of the code given. -/
def program (code : List Nat) : StreamEnt := ⟨2, 0, 0, 0, 0, [], 0, 0, 0, 0, 0, 0, [1, 2, 3, 4, 5, 6, 7, 8], code, 0⟩
/-- Core 287 runs a stream program, at `pc` with its address registers and counters at the values given. -/
def runAt (code : List Nat) (pc : Nat) (a : BitVec 64) (n : BitVec 32) : State :=
  onCore (stepOf [] [program code]) { Core.idle with ops := [opOf 0], prog := some ⟨0, pc, List.replicate 16 a, List.replicate 8 n, 0, 0⟩ }
/-- What `runAt` fetches. -/
def fetchAt (code : List Nat) (pc : Nat) (a : BitVec 64) (n : BitVec 32) : Fetch :=
  ⟨⟨0, pc, List.replicate 16 a, List.replicate 8 n, 0, 0⟩, opOf 0, program code, nth 0 code pc⟩
/-- An operation word of a compute section. -/
def opWord (op low : Nat) : Nat := op * 2 ^ 56 + low
/-- Core 287 holds one grant of a tile program. -/
def tileOf (ops : List Nat) (g : Grant) : State := onCore (stepOf ops []) { Core.idle with grants := [g] }
/-- The next operation of a section of it. -/
def nextOf (ops : List Nat) (g : Grant) (pf : Bool) : Next := ⟨15, nth 0 ops (g.sect pf).pc, g⟩
/-- A grant of tile 0 at its beginning. -/
def tile0 : Grant := grantOf .start .start
/-- Port 11 in a state of R409 with eight lanes, standing as `x`. -/
def portAt (state : Nat) (x : Port) : State :=
  { session.putReg (Reg.SEIF_WIDTH 11) (state * 2 ^ 24 + 0xFF * 2 ^ 16 + 0xFF * 2 ^ 8 + 8) with ports := [(11, x)] }
/-- A data flit of message kind `kind` on lane `vl` for a module. -/
def dataFlit (dst kind vl hops seq : Nat) : Flit := ⟨dst, 9, seq, 0, false, 0, 0, 3, kind, vl, 1, hops, [1, 2], true, true, none⟩
/-- Window 4095 over the first kilobyte of HBM, in units of 128 bytes, open to peers by number range 0 to 16383: its state, generation,
rights, credits free and pool, and what the firmware holds of it. -/
def windowAt (state gen rights credits pool : Nat) (x : Win) : State :=
  { ((session.putReg (Reg.WIN_LIMIT 4095) 1024).putReg (Reg.WIN_CTL 4095) (gen * 2 ^ 48 + state * 2 ^ 46 + 7 * 2 ^ 39 + rights * 2 ^ 36 + 2 ^ 34 + 0x3FFF * 2 ^ 14)).putReg
      (Reg.WIN_CREDIT 4095) (pool * 2 ^ 40 + credits * 2 ^ 16) with wins := [(4095, x)] }
/-- A piece of operation `op`: 1024 bits from the start of a line, to the start of core 287's scratchpad. -/
def pieceOf (op win : Nat) : Piece := ⟨op, 0, 0, 0, 1024, spadBase 287 * 8, 0, false, win, false, false, 0, 0, false, false, [], false⟩
/-- A launch whose one tile has every extent. -/
def oneTile (ops : List Nat) : Launch := { stepOf ops [] with extM := 1, extN := 1, extK := 1 }
/-- Core 287 serves context 15, which runs `l`, with the grants given. -/
def granting (l : Launch) (gs : List Grant) : State := onCore l { Core.idle with grants := gs }
/-- A tile that has run to its end. -/
def doneTile : Grant := { grantOf { Sect.start with pc := 1 } { Sect.start with pc := 1 } with issued := true }
/-- The bytes of a descriptor without a fill or a tag, whole in its valid region: address, format, sparse form, and stride and extent of each dimension. -/
def descBytes (base fmt form : Nat) (dims : List (Nat × Nat)) : List Byte :=
  leBytes 6 base ++ zeros 2 ++ leBytes 1 fmt ++ leBytes 1 form ++ leBytes 1 dims.length ++ zeros 21 ++
    dims.flatMap (fun p => leBytes 8 p.1 ++ leBytes 4 p.2 ++ leBytes 4 0 ++ leBytes 4 p.2 ++ zeros 4) ++ zeros (160 - 24 * dims.length)
/-- The bytes of a memory from an address on that are not zero. -/
def cellsOf : Nat → List Byte → List Host.Cell
  | _, [] => []
  | a, b :: l => if b = 0 then cellsOf (a + 1) l else (a, b) :: cellsOf (a + 1) l
/-- Context 15 has an Erg step of one record, which stands before engine 0; core 287 is its anchor, and its tables map the first
2 MB of its addresses onto those of HBM, where the bytes given, in order, stand. -/
def recorded (r : ErgRec) (bs : List (Nat × List Byte)) : State :=
  let s := onCore { Launch.empty with kind := 1, erg := [r] } Core.idle
  let s := { s with groups := [(0, { Group.none with live := true, root := 0x400000 })], ctxs := [(15, { s.ctx 15 with anchor := 287 })], stackTab := [(0, ⟨[⟨15, 0, 0, false⟩], [], 0, 0, []⟩)] }
  let s := (s.setFld (Reg.XLT_ROOT 287) Fld.XLT_ROOT_ENABLE 1).setFld (Reg.XLT_ROOT 287) Fld.XLT_ROOT_ROOT 32
  { s with mem := (bs ++ [(0x400000, leBytes 8 0x420001), (0x420000, leBytes 8 7)]).flatMap (fun (b : Nat × List Byte) => cellsOf b.1 b.2) }
/-- What that launch has read of the record's operands. -/
def readJobs (r : ErgRec) (bs : List (Nat × List Byte)) : List ErgJob := ((recorded r bs).ergJob 0x400000 noTile r).toOption.toList
/-- The state in which that step runs. -/
def erged (r : ErgRec) (bs : List (Nat × List Byte)) : State :=
  let s := recorded r bs
  s.putCtx 15 { s.ctx 15 with launch := some { s.launchOf 15 with jobs := readJobs r bs } }
/-- The state with the tables of core 287 at 4 MB, which map the first 2 MB. -/
def tabled (s : State) : State :=
  { ((s.setFld (Reg.XLT_ROOT 287) Fld.XLT_ROOT_ENABLE 1).setFld (Reg.XLT_ROOT 287) Fld.XLT_ROOT_ROOT 32) with mem := cellsOf 0x400000 (leBytes 8 0x420001) ++ cellsOf 0x420000 (leBytes 8 7) }
/-- A record for engine 0. -/
def recOf (op p0 src0 src1 src2 dst0 dst1 p1 : Nat) : ErgRec := ⟨op, 0, p0, src0, src1, src2, dst0, dst1, p1, 0, 0⟩
/-- The bytes that a work of engine 0 reaches. -/
def reachOf (r : ErgRec) (bs : List (Nat × List Byte)) (j : ErgJob) : List Reach := ((erged r bs).ergReach 0x400000 j).toOption.getD []
/-- The state with those bytes looked up in the anchor's translation unit. -/
def looked (r : ErgRec) (bs : List (Nat × List Byte)) (j : ErgJob) : State := (erged r bs).lookReach 287 (reachOf r bs j)
/-- What a check that answers answers. -/
theorem ok_of {α : Type} : ∀ {c : Chk α} {a : α}, c.toOption = some a → c = .ok a := by
  intro c a h
  cases c with
  | error z => cases h
  | ok b => exact congrArg Except.ok (Option.some.inj h)
/-- The record of engine 0 and its work, as facts to decide. -/
theorem front_of {r : ErgRec} {bs : List (Nat × List Byte)} {j : ErgJob} (h1 : (erged r bs).serving 15 ≠ [])
    (h2 : ((erged r bs).ctx 15).run = .running ∧ ((erged r bs).ctx 15).gen = 0 ∧ (erged r bs).urgentOf 0 = [] ∧
      (erged r bs).ergLine 0 = [⟨15, 0, 0, false⟩] ∧ ((erged r bs).launchOf 15).erg[0]? = some r)
    (h3 : ((erged r bs).launchOf 15).jobs[0]? = some j) : ErgFront (erged r bs) 0 r.op ⟨15, 0, 0, false⟩ [] r j := by
  obtain ⟨hr, hn, hu, hl, he⟩ := h2
  exact ⟨by decide, hl, he, h3, rfl, hr, hn, h1, hu⟩
/-- The checks of an operation of engine 0 and its work, as facts to decide. -/
theorem runs_of {r : ErgRec} {bs : List (Nat × List Byte)} {j : ErgJob} (h1 : (erged r bs).serving 15 ≠ [])
    (h2 : ((erged r bs).ctx 15).run = .running ∧ ((erged r bs).ctx 15).gen = 0 ∧ (erged r bs).urgentOf 0 = [] ∧
      (erged r bs).ergLine 0 = [⟨15, 0, 0, false⟩] ∧ ((erged r bs).launchOf 15).erg[0]? = some r)
    (h : (erged r bs).coreRoot 287 = some 0x400000 ∧ ((erged r bs).ctx 15).anchor = 287 ∧ (erged r bs).rootOf 15 = 0x400000)
    (h3 : ((erged r bs).launchOf 15).jobs[0]? = some j)
    (h4 : ((erged r bs).ergReach 0x400000 j).toOption = some (reachOf r bs j))
    (h5 : (eachChk (reachOf r bs j) ((looked r bs j).checkReach 0x400000 0 0)).toOption = some ()) :
    ErgRuns (erged r bs) 0 r.op ⟨15, 0, 0, false⟩ [] r 0x400000 j (reachOf r bs j) := by
  obtain ⟨hc, ha, hg⟩ := h
  refine ⟨front_of h1 h2 h3, (congrArg _ ha).trans hc, ?_, ?_⟩
  · exact (congrArg (fun g => (erged r bs).ergReach g j) hg).trans (ok_of h4)
  · exact (congrArg (fun c => eachChk (reachOf r bs j) (((erged r bs).lookReach c (reachOf r bs j)).checkReach 0x400000 0 0)) ha).trans (ok_of h5)
/-- The scratchpad of core 287 is memory. -/
theorem spad_isMemory {a k n : Nat} (h : spadBase 287 ≤ a) (h2 : k ≤ n) (h3 : a + n ≤ spadBase 287 + 0x80000) : ∀ i < k, isMemory (a + i) = true := by
  intro i hi
  have hb : spadBase 287 = 0x010008F80000 := rfl
  have : inSpad (a + i) = true := by
    unfold inSpad
    simp only [Bool.and_eq_true, decide_eq_true_eq]
    omega
  simp [isMemory, this]

theorem wit_StepIdles : State.reset.pending = [] := rfl

theorem wit_StepKeepsSound : off.sound = true ∧ step off = .next off := ⟨by decide, rfl⟩

theorem wit_InputPowerSwitches : State.reset.power = .off ∧ State.reset.retry = false ∧ 44000 < 44001 ∧ 58999 < 59000 ∧
    { State.reset with retry := true }.power = .off ∧ { State.reset with retry := true }.retry = true ∧ 44000 ≤ 44000 ∧
    ready.power ≠ .off ∧ 39999 < 40000 ∧ 59000 < 59001 ∧ 90000 < 90001 := by decide

theorem wit_PowerSamples : (ready.power = .ready ∧ 4500 ≤ 4500 ∧ 4500 ≤ 5700 ∧ (∀ x ∈ [99], x < 100) ∧ ∀ x ∈ [100], x ≤ 100) ∧
    (ready.power = .ready ∨ ready.power = .aest) ∧ { ready with hmd := { ready.hmd with hot := [15] } }.fld Reg.HMD_TRIP_LOG Fld.HMD_TRIP_LOG_VALID = 0 ∧
    15 ∈ { ready with hmd := { ready.hmd with hot := [15] } }.hmd.hot ∧ 15 < 16 ∧ 115 ≤ nth 0 (List.replicate 16 115) 15 := by decide

/-- A module whose cores 64 to 287 are parked. -/
def halfParked : State := { ready with hmd := { ready.hmd with parked := (List.range 288).filter (fun c => c ≥ 65) } }
theorem wit_ClocksAndParking_1 : ready.power = .ready ∧ { ready with hmd := { ready.hmd with capRun := 1000 } }.avgPower + 20 < 1000 ∧
    ready.hmd.parked = [] ∧ (ready.setFld Reg.HMD_PWR_STAT Fld.HMD_PWR_STAT_PIN 1001).avgPower > 1000 ∧ ready.dieMax 0 ≤ 97 ∧
    (ready.setFld Reg.HMD_THERM Fld.HMD_THERM_DIE1_MAX 97).dieMax 1 ≤ 97 := by decide +kernel
/-- Over the cap at the floor: die 0 has 144 cores free and gives up the last. -/
theorem wit_ClocksAndParking_2 : let s := { ready with hmd := { ready.hmd with capRun := 1000, pwrTarget := floorOf 1000 } }.setFld Reg.HMD_PWR_STAT Fld.HMD_PWR_STAT_PIN 1001
    s.power = .ready ∧ s.belowFloor 0 = true ∧ (s.unparked 0).length > 64 ∧
    (s.unparked 0).reverse.find? (fun n => !s.isAnchor n) = some 143 := by decide +kernel
theorem wit_ClocksAndParking_3 : let s := { ready with hmd := { ready.hmd with capRun := 1000, parked := [7] } }
    s.power = .ready ∧ s.wouldRise 0 = true ∧
    (List.range 288).find? (fun n => dieOf n == 0 && s.hmd.parked.contains n) = some 7 := by decide +kernel

theorem wit_ModuleFailures_1 : ready.power ≠ .off ∧ ready.power ≠ .hold ∧ ready.fld Reg.HMD_TRIP_LOG Fld.HMD_TRIP_LOG_VALID = 0 ∧
    ready.live = true ∧ 8 ≤ 8 := by decide
/-- A module with Mantis cores 1 to 7 fenced. -/
def lastMantis : State := { ready with hmd := { ready.hmd with mantisFence := 0xFE } }
theorem wit_ModuleFailures_2 : lastMantis.live = true ∧ lastMantis.mantisFenced 0 = false ∧
    ∀ k, k / 8 = 0 / 8 → k ≠ 0 → lastMantis.mantisFenced k = true :=
  ⟨by decide, by decide, fun k h h' => by
    have : k < 8 := by omega
    exact (by decide : ∀ k, k < 8 → k ≠ 0 → lastMantis.mantisFenced k = true) k this h'⟩
theorem wit_ModuleFailures_3 : ready.live = true ∧ ready.mantisFenced 15 = false ∧ ready.mantisFenced 8 = false ∧ 8 / 8 = 15 / 8 ∧
    (∀ x, x < 16 → (ready.ctx x).run ≠ .running) := by decide
theorem wit_ModuleFailures_4 : { ready with hmd := { ready.hmd with scrub := [(4096, 32)] } }.hmd.scrub ≠ [] ∧ ready.wadi.bulkWr = [] := by decide

/-- A module with its identity and one node listed. -/
def known : State := { linked with start := { linked.start with identity := true }, cfg := some { linked.conf with nodes := [Config.sha3 []] } }
theorem wit_SessionFrames_1 : known.mayGreet = true ∧ known.start.identity = true ∧ known.hmd.hs = none ∧ known.nodeOf [] = some 0 :=
  ⟨by decide, rfl, rfl, by simp [known, State.nodeOf, lowest, nth]⟩
theorem wit_SessionFrames_2 : let s := { linked with start := { linked.start with identity := true } }
    s.mayGreet = true ∧ s.start.identity = true ∧ s.hmd.hs = none ∧ s.nodeOf [] = none := by decide
/-- A handshake is open: whatever the verification answers, one of the two clauses of FINISH_C applies. -/
theorem wit_SessionFrames_3 (sig : List Byte) : let h : Handshake := ⟨0, [], [], [], []⟩
    let s := { linked with hmd := { linked.hmd with hs := some h } }
    s.mayGreet = true ∧ s.hmd.hs = some h ∧ (Config.verify h.nodeKey (Config.sha3 (h.t ++ h.sigM)) sig = true ∨
      Config.verify h.nodeKey (Config.sha3 (h.t ++ h.sigM)) sig = false) := by
  refine ⟨by decide, rfl, ?_⟩
  cases Config.verify [] (Config.sha3 ([] ++ [])) sig <;> simp
theorem wit_SessionFrames_4 : session.linkUp = true ∧ session.hmd.sessOpen = true ∧ linked.linkUp = true ∧ linked.hmd.sessOpen = false ∧
    linked.power ≠ .off ∧ 22 ≤ (linked.setFld Reg.START_STATUS Fld.START_STATUS_STEP 22).stepNo := by decide

theorem accepts_session : Accepts session hdr := by unfold Accepts Admissible; decide
theorem wit_MantisRequests_1 : let s := { session with tasks := [⟨4, 9, 0, 0, true⟩] }
    Accepts s hdr ∧ s.power ≠ .hold ∧ s.tasks.find? (fun t => t.tag == 4) = some ⟨4, 9, 0, 0, true⟩ := ⟨by unfold Accepts Admissible; decide, by decide, by decide⟩
/-- The last routes of the table, and a route field outside it. -/
theorem wit_MantisRequests_2 : session.power ≠ .hold ∧ ([0xB0000000] : List (BitVec 32)) ≠ [] ∧ 16383 + 1 ≤ 16384 ∧ 16384 < 16384 + 1 ∧
    ([0] : List (BitVec 32)).all routeGood = true ∧ ([0xFFFFFFFF] : List (BitVec 32)).all routeGood = false := by decide
theorem wit_MantisRequests_3 : let s := { session with shadowOf := [(0, ⟨1, 0, 0, 0, 0, 0⟩)], groups := [(0, { Group.none with live := true, tag := 6 })] }
    Accepts s hdr ∧ s.power ≠ .hold ∧ ∃ p ∈ s.shadowOf, (s.group p.2.group).live = true ∧ (s.group p.2.group).tag = 6 :=
  ⟨by unfold Accepts Admissible; decide, by decide, by decide⟩
theorem wit_MantisRequests_4 : Accepts { session with power := .hold } hdr ∧ { session with power := .hold }.power = .hold :=
  ⟨by unfold Accepts Admissible; decide, rfl⟩

theorem wit_HamadaRequests_1 : Accepts session hdr ∧ session.live = true ∧ session.power ≠ .starting ∧ session.conf.powerCap = 2100 ∧
    600 ≤ 600 ∧ 600 ≤ session.conf.powerCap ∧ session.conf.powerCap < 2101 ∧ 599 < 600 ∧ 3968 + 128 ≤ 4096 :=
  ⟨by unfold Accepts Admissible; decide, by decide, by decide, by decide, by decide, by decide, by decide, by decide, by decide⟩
/-- Both devices at hand and the last slot of the journal written: the next is slot 0. -/
theorem wit_HamadaRequests_2 : let s := { session with start := { session.start with devs := 3 } }
    s.power ≠ .starting ∧ s.nextSlot = some (0, 0) ∧
    ((s.setFld Reg.LEDGER_STATUS Fld.LEDGER_STATUS_HEAD_SEQ 4096).setFld Reg.LEDGER_STATUS Fld.LEDGER_STATUS_HEAD_SLOT 4095).nextSlot = some (0, 0) := by
  decide +kernel
theorem wit_HamadaRequests_3 : Accepts { session with power := .starting } hdr ∧ { session with power := .starting }.power = .starting :=
  ⟨by unfold Accepts Admissible; decide, rfl⟩

theorem wit_BulkAndFlash_1 : AcceptsBulk session hdr ∧ session.power ≠ .hold ∧ session.underScrub 0 8192 = false ∧ session.firstUe 0 8192 = none ∧
    session.linkUp = true ∧ session.hmd.sessOpen = true :=
  ⟨by unfold AcceptsBulk Admissible; decide, by decide, by decide, by decide +kernel, by decide, by decide⟩
/-- The longest transfer at the start of HBM and the shortest at its end fit; one past the end does not. -/
theorem wit_BulkAndFlash_2 : BulkFits 0 8192 ∧ BulkFits (hbmSize - 32) 32 ∧ bulkRange (hbmSize - 32) 64 = false := by
  unfold BulkFits; decide
theorem wit_BulkAndFlash_3 : let s := { session with hmd := { session.hmd with scrub := [(0, 32)] } }
    AcceptsBulk s hdr ∧ s.underScrub 0 32 = true := ⟨by unfold AcceptsBulk Admissible; decide, by decide⟩
theorem wit_BulkAndFlash_4 : AcceptsBulk { session with power := .hold } hdr ∧ Accepts { session with power := .starting } hdr :=
  ⟨by unfold AcceptsBulk Admissible; decide, by unfold Accepts Admissible; decide⟩
theorem wit_BulkAndFlash_5 : ({ session with wadi := { session.wadi with bulkWr := [⟨5, 64, zeros 32, true⟩] } } : State).wadi.bulkWr.find? (fun (b : BulkWr) => b.reqId == 5 && b.landed) =
    some ⟨5, 64, zeros 32, true⟩ := by decide
/-- A write at the start of a free sector is allowed; one inside a sector not erased in this session, or over the ledger, is not. -/
theorem wit_BulkAndFlash_6 : session.flashAllowed 1 0x1FFF0000 8192 = true ∧ session.flashAllowed 1 0x1FFF0001 1 = false ∧
    session.flashAllowed 0 ledgerPart 32 = false := by decide

/-- The settings of SPQ_CFG: words of 32 bytes, credits; then also closing at an item's end; then neither credits. -/
def qCred : Nat := 2 * 2 ^ 61 + 2 ^ 60
def qOpen : Nat := 2 * 2 ^ 61 + 2 ^ 59
theorem wit_QueueProducer_1 : let s := queued qEvent qCred { Queue.idle with credits := 1 }
    s.qOn qEvent = true ∧ 32 ≤ (s.qcfg qEvent).width ∧ (s.qcfg qEvent).credited = true ∧ (s.queue qEvent).draining = false ∧
    (s.queue qEvent).backlog = [] ∧ 0 < (s.queue qEvent).credits := by decide
/-- The second item of an open word ends it; a first one leaves it open. -/
theorem wit_QueueProducer_2 : let s := queued qEvent qCred { Queue.idle with opened := zeros 32 }
    s.qOn qEvent = true ∧ (s.queue qEvent).opened ≠ [] ∧ 64 ≤ ((s.queue qEvent).opened ++ padTo (s.qcfg qEvent).width []).length ∧
    ([] ++ padTo (s.qcfg qEvent).width []).length < 64 ∧ (s.qcfg qEvent).wordClose = false := by decide
theorem wit_QueueProducer_3 : let s := queued qEvent qCred Queue.idle
    s.qOn qEvent = true ∧ (s.queue qEvent).opened = [] ∧ (s.queue qEvent).credits = 0 ∧ (s.queue qEvent).draining = false := by decide
theorem wit_QueueProducer_4 : let s := queued qEvent qCred { Queue.idle with draining := true }
    s.qOn qEvent = true ∧ (s.queue qEvent).draining = true := by decide
theorem wit_QueueProducer_5 : let s := queued qEvent qOpen Queue.idle
    s.qOn qEvent = true ∧ (s.qcfg qEvent).credited = false ∧ (s.queue qEvent).draining = false ∧
    (padTo (s.qcfg qEvent).width []).length ≤ 512 ∧ ceilDiv 32 64 + 1 + (s.queue qEvent).words.length + (s.queue qEvent).returns ≤ (s.qcfg qEvent).capacity := by
  decide
/-- An uncredited queue of 16 words, all of them taken. -/
theorem wit_QueueProducer_6 : let s := queued qEvent qOpen { Queue.idle with words := (List.range 16).map dataWord }
    s.qOn qEvent = true ∧ (s.qcfg qEvent).credited = false ∧ (s.queue qEvent).draining = false ∧
    (s.qcfg qEvent).capacity ≤ (s.queue qEvent).words.length + (s.queue qEvent).returns ∧ (s.queue qEvent).lastUnread 1 = false := by decide
theorem wit_QueueProducer_7 : let s := queued qEvent qCred { Queue.idle with closing := true, opened := zeros 32 }
    s.qOn qEvent = true ∧ (s.queue qEvent).closing = true ∧ (s.queue qEvent).opened ≠ [] := by decide
theorem wit_QueueProducer_8 : let s := queued qEvent qCred { Queue.idle with returns := 1 }
    let u := queued qEvent qOpen { Queue.idle with returns := 1 }
    let w := queued qWadi qCred { Queue.idle with returns := 1 }
    (s.qOn qEvent = true ∧ qEvent ≠ qWadi ∧ 0 < (s.queue qEvent).returns ∧ (s.queue qEvent).backlog = [] ∧ (s.qcfg qEvent).credited = true) ∧
    (u.qOn qEvent = true ∧ 0 < (u.queue qEvent).returns ∧ (u.qcfg qEvent).credited = false) ∧
    (w.qOn qWadi = true ∧ 0 < (w.queue qWadi).returns ∧ (w.queue qWadi).backlog = [] ∧ (w.qcfg qWadi).credited = true) := by decide
/-- An enable with settings that R301 admits, and one with a region kind that it does not. -/
theorem wit_QueueProducer_9 : isQueue qEvent = true ∧ (0xD000000000000000 : Word).getLsbD 63 = true ∧ (session.qcfg qEvent).enable = false ∧
    ((session.plainWrite qEvent 8 0xD000000000000000).qcfg qEvent).enable = true ∧
    (session.plainWrite qEvent 8 0xD000000000000000).mayEnable qEvent = true ∧
    ((session.plainWrite qEvent 8 0xD300000000000000).qcfg qEvent).enable = true ∧
    (session.plainWrite qEvent 8 0xD300000000000000).mayEnable qEvent = false := by decide
/-- A queue without a region keeps the slot of its ninth word, one with a region too where the word has one. -/
theorem wit_QueueProducer_10 : let x := { Queue.idle with words := (List.range 9).map dataWord }
    let y := { Queue.idle with words := (List.range 8).map dataWord ++ [{ dataWord 8 with slot := some 3 }] }
    let c := session.qcfg qEvent
    x.words[7]? = some (dataWord 7) ∧ (fun (_ : QWord) => false) (dataWord 7) = false ∧ y.words[8]? = some { dataWord 8 with slot := some 3 } ∧ c.region = 0 ∧
    x.words[8]? = some (dataWord 8) := by decide

theorem wit_QueueConsumer_1 : let s := queued qEvent qCred { Queue.idle with words := [dataWord 0, gapWord 1], held := 2, mark := some 2 }
    s.qOn qEvent = true ∧ (s.queue qEvent).mark = some 2 ∧ 2 ≤ (s.queue qEvent).held ∧
    (s.queue qEvent).words.length ≤ (s.queue qEvent).held := by decide
theorem wit_QueueConsumer_2 : let s := queued qEvent qCred { Queue.idle with words := [dataWord 0, gapWord 1], held := 1 }
    s.qOn qEvent = true ∧ (s.queue qEvent).mark = none ∧ (s.queue qEvent).words[(s.queue qEvent).held]? = some (gapWord 1) ∧
    s.badSpill qEvent (gapWord 1) = false ∧ (s.qcfg qEvent).autoRel = false ∧ (s.queue qEvent).lastUnread 2 = false := by decide
theorem wit_QueueConsumer_3 : let s := queued qEvent (qCred + 2 ^ 58 + 2 ^ 51) { Queue.idle with words := [dataWord 0] , flushes := 1 }
    s.qOn qEvent = true ∧ (s.queue qEvent).words[(s.queue qEvent).held]? = some (dataWord 0) ∧ s.badSpill qEvent (dataWord 0) = false ∧
    (s.qcfg qEvent).autoRel = true ∧ (s.queue qEvent).mark = none ∧ 0 < (s.qcfg qEvent).timeout ∧ (s.queue qEvent).unread = true ∧
    0 < (s.queue qEvent).flushes ∧ (s.queue qEvent).lastUnread 2 = false := by decide
/-- A queue whose last word is a flush marker that no reader has seen, and a reduction staging queue, which has no reader but the vector engine. -/
theorem wit_QueueConsumer_4 : let m : QWord := ⟨2, 1, 0, [], none, false⟩
    let s := queued qEvent qCred { Queue.idle with words := [dataWord 0, m], flushes := 1, lastEnd := true }
    let u := queued (qStaging 287) (2 ^ 60) { Queue.idle with words := [dataWord 0], held := 1 }
    s.qOn qEvent = true ∧ 0 < (s.queue qEvent).flushes ∧ (s.queue qEvent).lastUnread 2 = true ∧ (s.queue qEvent).words.getLast? = some m ∧
    (s.queue qEvent).backlog = [] ∧ u.qOn (qStaging 287) = true ∧ mantisReads (qStaging 287) = false ∧ (u.queue (qStaging 287)).mark = none := by decide

theorem wit_QueueItemsLeave : let s := { session with queues := [(qEvent, { Queue.idle with inbox := [zeros 9156] }), (qCompletion 15, { Queue.idle with inbox := [zeros 16] }),
      (qToken 15, { Queue.idle with inbox := [zeros 9] })] }
    (s.live = true ∧ s.hmd.sessOpen = true ∧ s.linkUp = true) ∧ 1 ≤ (s.queue qEvent).inbox.length ∧
    8 + (((s.queue qEvent).inbox.take 1).flatMap id).length ≤ 9164 ∧ 1 ≤ (s.queue (qCompletion 15)).inbox.length ∧
    8 + (((s.queue (qCompletion 15)).inbox.take 1).flatMap id).length ≤ 9164 ∧ 1 ≤ (s.queue (qToken 15)).inbox.length ∧
    8 + (((s.queue (qToken 15)).inbox.take 1).flatMap (fun i => leBytes 2 i.length ++ zeros 2 ++ i)).length ≤ 9164 := by decide +kernel

theorem wit_SidebandAndScan : let s := { ready with start := { ready.start with identity := true } }
    s.power ≠ .off ∧ s.start.identity = true ∧ s.sideband 0 = some (s.reg Reg.HMD_SERIAL) ∧ s.sideband 0xFF = none ∧ s.power ≠ .hold ∧
    { s with power := .hold }.power = .hold := by
  refine ⟨by decide, rfl, rfl, rfl, by decide, rfl⟩

theorem wit_AccessCodes : (∀ f ∈ fieldsAt (Reg.SPQ_CFG qEvent), f.lo ≤ f.hi ∧ f.hi < 64) ∧
    (fieldsAt (Reg.SPQ_CFG qEvent)).Pairwise (fun f g => f.hi < g.lo ∨ g.hi < f.lo) ∧ fieldsAt (Reg.SPQ_CFG qEvent) ≠ [] ∧ 63 < 64 := by decide

theorem wit_RegisterCommands_1 : let a := Reg.SPQ_REGION qEvent
    session.powered = true ∧ inMemory (a + 4) 4 = false ∧ PlainReg a ∧ fieldsAt a ≠ [] ∧
    refusedWhole a (boundReg a (writeFields session.start.locked (fieldsAt a) (session.reg a) (placed a 1) (accessMask a 8 &&& session.openBits a))) = false := by
  refine ⟨by decide, by decide, ?_, by decide, by decide⟩
  have h : regAt (Reg.SPQ_REGION qEvent) = .spq qEvent 8 := by decide
  simp [PlainReg, h]
theorem wit_RegisterCommands_2 : let a := mantisBase + 0xFF8
    session.powered = true ∧ inMemory a 8 = false ∧ fieldsAt a = [] ∧ inMemory 0 8 = true ∧ inMemory (hbmSize - 8) 8 = true := by decide
theorem wit_RegisterCommands_3 : session.powered = true ∧ 287 < 288 ∧ bitAt (0x41 : Word).toNat 0 = true ∧ bitAt (0x41 : Word).toNat 6 = true ∧
    bitAt (0x01 : Word).toNat 6 = false := by decide
theorem wit_RegisterCommands_4 : Accepts session hdr ∧ session.power ≠ .hold ∧ ([0] : List Nat) ≠ [] ∧ inSpad 0 = false ∧ inMemory 0 8 = true ∧
    session.firstUe 0 8 = none ∧ inSpad (spadBase 287) = true ∧ session.badWords 287 (spadBase 287) 8 = [] ∧ 128 < 129 := ⟨by unfold Accepts Admissible; decide, by decide⟩
/-- A write into a valid resident region of core 287, whose row 1 is not loaded after it, and the registers of that region. -/
theorem wit_RegisterCommands_6 : let r := Reg.SPAD_RES 287 0
    let s := session.putReg r (2 ^ 40 + 2 ^ 12 + 1)
    let a := spadBase 287 + 128
    s.powered = true ∧ inMemory a 8 = true ∧ inSpad a = true ∧ spadCore a = 287 ∧ s.fld r Fld.SPAD_RESn_VALID = 1 ∧
    spadBase (spadCore a) + 128 * bitsOf (s.reg r) 11 0 < a + 8 ∧
    a < spadBase (spadCore a) + 128 * bitsOf (s.reg r) 11 0 + 128 * bitsOf (s.reg r) 24 12 ∧ 287 < 288 ∧ 1 < 2 := by decide
/-- A core whose engine rests, with and without a window open on its scratchpad. -/
theorem wit_RegisterCommands_7 : session.powered = true ∧ session.spadWindow 287 = false ∧ EngineRests session 287 ∧
    (let s := (windowAt wsOpen 1 3 8 8 Win.idle).putReg (Reg.WIN_BASE 4095) (spadBase 287)
     s.spadWindow 287 = true) := by unfold EngineRests; decide
/-- A pair written to a reserved address leaves the link and the session. -/
theorem wit_RegisterCommands_5 : let u := ([(0, 0)] : List (Nat × Word)).foldl (fun u (p : Nat × Word) => u.mantisWrite p.1 8 p.2.toNat) (session.accepted hdr)
    u.linkUp = true ∧ u.hmd.sessOpen = true := by decide

theorem wit_StartSteps_1 : let s := starting 11 [] []
    s.erasedAhead 16 = true ∧ s.nextSlot = some (0, 0) ∧ s.wadi.flashHeld = [] ∧ s.power = .starting ∧ s.stepNo = 11 ∧ 11 ∈ s.stepUnits 11 ∧
    11 ∉ s.start.finished ∧ (∀ r ∈ s.start.running, r.1 ≠ 11) ∧ s.mayBegin 11 11 = true := by decide +kernel
theorem wit_StartSteps_2 : let s := starting 8 [(wholeStep, 0)] []
    s.erasedAhead 16 = true ∧ s.nextSlot = some (0, 0) ∧ s.stepNo = 8 ∧ s.start.running = [(wholeStep, 0)] ∧ s.start.restart = false ∧
    s.start.kept.mantisExcl = 0 ∧ s.noMantis = false := by decide +kernel
theorem wit_StartSteps_3 : let s := starting 12 [(11, 0)] [0]
    s.erasedAhead 16 = true ∧ s.nextSlot = some (0, 0) ∧ s.stepNo = 12 ∧ 11 < 12 ∧ 11 ∉ s.start.finished ∧ s.start.running = [(11, 0)] ∧
    (∃ v < 12, v ≠ 11 ∧ v ∉ s.start.finished) := ⟨by decide +kernel, by decide +kernel, by decide, by decide, by decide, by decide, 1, by decide⟩
theorem wit_StartSteps_4 : let s := starting 23 [(wholeStep, 0)] []
    s.erasedAhead 16 = true ∧ s.nextSlot = some (0, 0) ∧ s.stepNo = 23 ∧ s.start.finished = [] ∧ s.start.running = [(wholeStep, 0)] ∧
    s.start.restart = false := by decide +kernel
/-- The first of two methods runs out of time; the second of two does. -/
theorem wit_StartSteps_5 : let s := starting 21 [(wholeStep, 0)] []
    let u := starting 21 [(wholeStep, 1)] []
    s.erasedAhead 16 = true ∧ s.nextSlot = some (0, 0) ∧ (∀ j < 33, s.slotFree ((0 + j) % 4096) = true) ∧
    s.start.running.find? (fun r => r.1 == wholeStep) = some (wholeStep, 0) ∧ 0 + 1 < numMethods 21 ∧
    u.erasedAhead 16 = true ∧ u.nextSlot = some (0, 0) ∧ u.start.running.find? (fun r => r.1 == wholeStep) = some (wholeStep, 1) ∧ numMethods 21 ≤ 1 + 1 := by
  decide +kernel
theorem wit_StartSteps_6 : let s := { starting 24 [(wholeStep, 0)] [] with power := .ready }
    s.erasedAhead 16 = true ∧ s.nextSlot = some (0, 0) ∧ s.wadi.flashHeld = [] ∧ s.power = .ready ∧ s.stepNo = 24 ∧ s.start.finished = [] ∧
    s.start.running = [(wholeStep, 0)] ∧ s.start.restart = false := by decide +kernel

/-- A module with core 287 under test, and a request that waits for its end. -/
def underTest (l : List Nat) : State := { session with cores := [(287, { Core.idle with test := 2, testReq := l })] }
theorem wit_SelfTests_1 : Accepts session hdr ∧ session.power ≠ .hold ∧ 288 ≤ 288 ∧ 288 ≠ 0xFFFF := ⟨by unfold Accepts Admissible; decide, by decide⟩
theorem wit_SelfTests_2 : Accepts (underTest []) hdr ∧ (underTest []).power ≠ .hold ∧ 287 < 288 ∧ (underTest []).fenced 287 = false ∧
    (∀ k < 288, ((underTest []).core k).test ≠ 3) ∧ ((underTest []).core 287).test = 2 := ⟨by unfold Accepts Admissible; decide, by decide +kernel⟩
theorem wit_SelfTests_3 : session.ready = true ∧ session.fenced 287 = false ∧ session.keptCore 287 = false ∧ 0 < session.conf.testCores ∧
    (∀ k < 288, (session.core k).test = 0) ∧ (session.core 287).ctx = none := by decide +kernel
theorem wit_SelfTests_4 : (underTest []).live = true ∧ (∀ k < 288, k ≠ 287 → ((underTest []).core k).test ≠ 3) ∧
    (∀ k < 288, ((underTest []).core k).lines = [] ∧ ((underTest []).core k).again = []) ∧ ((underTest []).core 287).testReq = [] ∧ ((underTest [5]).core 287).testReq = [5] ∧
    (underTest [5]).linkUp = true ∧ (underTest [5]).hmd.sessOpen = true := by decide +kernel
theorem wit_SelfTests_5 : let s := { session with wadi := { session.wadi with modTest := true } }
    let u := { session with wadi := { session.wadi with testing := true } }
    (s.ready = true ∧ s.wadi.modTest = true ∧ s.launched = false ∧ s.wadi.reqs = []) ∧ u.wadi.testing = true ∧ u.wadi.reqs = [] ∧
    ∀ k < 288, (u.core k).lines = [] ∧ (u.core k).again = [] := by decide +kernel

/-- A task group of one task at address 0: 16 KB of HBM asked for, the task in class 1 at weight 1, on as many cores as it can have. -/
def grouped : State :=
  ((session.store 0 (leBytes 2 1 ++ leBytes 2 1 ++ zeros 4 ++ leBytes 8 77 ++ leBytes 8 16384 ++ zeros 8)).store 32
    (leBytes 2 1 ++ zeros 2 ++ leBytes 4 1 ++ leBytes 8 64)).store 64
    (leBytes 8 78 ++ leBytes 1 1 ++ leBytes 1 1 ++ leBytes 2 288 ++ leBytes 1 0 ++ leBytes 1 0 ++ zeros 2 ++ leBytes 4 256 ++ leBytes 4 256 ++ leBytes 4 256)
/-- Its submission. -/
def groupReq : Req := ⟨9, 1, 1, leBytes 8 0 ++ leBytes 4 48 ++ zeros 4 ++ leBytes 8 77 ++ zeros 8, [0x100000], false, true, false⟩
/-- The group as the firmware reads it. -/
def groupRead : GroupDesc := ⟨0, 77, 16384, [⟨78, 1, 1, 288, 0, 0, 256, 256, 256⟩], [], [], [], [], [], [], none⟩
theorem wit_Submissions_1 : AcceptsSubmission session hdr ∧ session.power ≠ .hold ∧
    { session with wadi := { session.wadi with testing := true } }.wadi.testing = true ∧ (∀ r ∈ session.wadi.reqs, r.kind = 1) :=
  ⟨by unfold AcceptsSubmission Admissible; decide, by decide⟩
theorem wit_Submissions_2 : AcceptsSubmission { session with power := .hold } hdr := by unfold AcceptsSubmission Admissible; decide
theorem wit_Submissions_3 : let s := { grouped with wadi := { grouped.wadi with reqs := [groupReq] } }
    s.ready = true ∧ s.wadi.testing = false ∧ s.wadi.reqs = [groupReq] ∧ groupReq.kind = 1 ∧ groupReq.done = false ∧
    s.mend groupReq.judged = s ∧ (groupReq.judged s).toOption = some groupRead ∧ s.holds groupRead [0x100000] = false ∧
    lowest 256 s.groupFree = some 0 := by decide +kernel
/-- What a creation keeps besides most registers: the session and the task groups. -/
def held (s : State) : Hmd × Table Group := (s.hmd, s.groups)
theorem held_eq {a b : State} (h : held a = held b) : a.hmd = b.hmd ∧ a.groups = b.groups := Prod.mk.inj h
theorem putQ_held (s : State) (q : Nat) (x : Queue) : held (s.putQ q x) = held s := rfl
theorem setFld_held (s : State) (a : Nat) (f : Fld) (v : Nat) : held (s.setFld a f v) = held s := rfl
/-- What gives a task its context leaves the other registers, the session and the groups. -/
theorem tryEnable_keeps (s : State) (q a : Nat) (h : a ≠ Reg.SPQ_CFG q) : (s.tryEnable q).reg a = s.reg a ∧ held (s.tryEnable q) = held s := by
  unfold State.tryEnable State.enableQueue
  split
  · exact ⟨State.putQ_reg s q _ a, (putQ_held s q _)⟩
  · exact ⟨(State.putQ_reg _ q _ a).trans (State.reg_setFld_ne s Fld.SPQ_CFG_ENABLE 0 h), (putQ_held _ q _).trans (setFld_held s _ _ _)⟩
theorem enabled_keeps (s : State) (q b v a : Nat) (h : a ≠ Reg.SPQ_REGION q) (h' : a ≠ Reg.SPQ_CFG q) :
    (((s.putReg (Reg.SPQ_REGION q) b).putReg (Reg.SPQ_CFG q) v).tryEnable q).reg a = s.reg a ∧
    held (((s.putReg (Reg.SPQ_REGION q) b).putReg (Reg.SPQ_CFG q) v).tryEnable q) = held s := by
  refine ⟨(tryEnable_keeps _ q a h').1.trans ?_, (tryEnable_keeps _ q a h').2⟩
  rw [State.reg_putReg, if_neg h', State.reg_putReg, if_neg h]
theorem placeQueue_keeps (s : State) (q w : Nat) (c e r : Bool) (n k a : Nat) (h : a ≠ Reg.SPQ_REGION q) (h' : a ≠ Reg.SPQ_CFG q) :
    (s.placeQueue q w c e r n k).reg a = s.reg a ∧ held (s.placeQueue q w c e r n k) = held s := by
  unfold State.placeQueue State.setupQueue
  exact enabled_keeps s q _ _ a h h'
theorem coresFold_keeps (l : List Nat) (f : State → Nat → Core) (a : Nat) : ∀ s : State,
    (l.foldl (fun s c => s.putCore c (f s c)) s).reg a = s.reg a ∧ held (l.foldl (fun s c => s.putCore c (f s c)) s) = held s := by
  induction l with
  | nil => intro s; exact ⟨rfl, rfl⟩
  | cons c l ih => intro s; exact ⟨(ih _).1.trans rfl, (ih _).2.trans rfl⟩
theorem putTask_keeps (s : State) (r : TaskRec) (a : Nat) : (s.putTask r).reg a = s.reg a ∧ held (s.putTask r) = held s := ⟨rfl, rfl⟩
theorem giveContext_link (s : State) (g : Nat) (t : TaskEnt) : (s.giveContext g 0 t).reg Reg.WADI_LINK = s.reg Reg.WADI_LINK := by
  unfold State.giveContext
  rw [(putTask_keeps _ _ _).1, (coresFold_keeps _ (fun s c => { s.core c with tlb := (s.core c).tlb.filter (fun f => f.ctx != 0) }) _ _).1,
    (placeQueue_keeps _ _ _ _ _ _ _ _ _ (by decide) (by decide)).1, (placeQueue_keeps _ _ _ _ _ _ _ _ _ (by decide) (by decide)).1]
  dsimp only [List.foldl]
  rw [State.reg_setFld_ne _ _ _ (by decide), State.reg_setFld_ne _ _ _ (by decide), State.reg_setFld_ne _ _ _ (by decide), State.reg_setFld_ne _ _ _ (by decide)]
  rfl
theorem giveContext_held (s : State) (g : Nat) (t : TaskEnt) : held (s.giveContext g 0 t) = held s := by
  unfold State.giveContext
  rw [(putTask_keeps _ _ 0).2, (coresFold_keeps _ (fun s c => { s.core c with tlb := (s.core c).tlb.filter (fun f => f.ctx != 0) }) 0 _).2,
    (placeQueue_keeps _ _ _ _ _ _ _ _ Reg.WADI_LINK (by decide) (by decide)).2, (placeQueue_keeps _ _ _ _ _ _ _ _ Reg.WADI_LINK (by decide) (by decide)).2]
  dsimp only [List.foldl]
  rw [setFld_held, setFld_held, setFld_held, setFld_held]
  rfl
theorem giveContext_hmd (s : State) (g : Nat) (t : TaskEnt) : (s.giveContext g 0 t).hmd = s.hmd := (held_eq (giveContext_held s g t)).1
theorem giveContext_groups (s : State) (g : Nat) (t : TaskEnt) : (s.giveContext g 0 t).groups = s.groups := (held_eq (giveContext_held s g t)).2
theorem wit_Submissions_3b : ∀ p, grouped.createGroup groupRead [0x100000] true 0 = .ok p → p.1.linkUp = true ∧ p.1.hmd.sessOpen = true ∧ p.2 = 1 ∧
    p.1.hmd.nextTx + (p.1.group 0).windows.length < counterLimit := by
  intro p h
  have hx : ((List.range 16).filter grouped.ctxFree).take groupRead.tasks.length = [0] := by decide +kernel
  have hm : grouped.mcastsFree.take groupRead.mcasts.length = [] := rfl
  unfold State.createGroup at h
  rw [if_neg (by exact Nat.not_lt_zero _), if_neg (by decide), hx, hm] at h
  injection h with h
  rw [← h]
  unfold State.linkUp State.fld State.group
  rw [show ([0] : List Nat).zip groupRead.tasks = [(0, ⟨78, 1, 1, 288, 0, 0, 256, 256, 256⟩)] from rfl]
  rw [show ([] : List Nat).zip groupRead.mcasts = [] from rfl]
  dsimp only [List.foldl]
  rw [giveContext_link, giveContext_hmd, giveContext_groups]
  decide +kernel
theorem wit_Submissions_3c : (match grouped.createGroup groupRead [0x100000] true 0 with | .ok _ => true | .error _ => false) = true := by
  have hx : ((List.range 16).filter grouped.ctxFree).take groupRead.tasks.length = [0] := by decide +kernel
  have hm : grouped.mcastsFree.take groupRead.mcasts.length = [] := rfl
  unfold State.createGroup
  rw [if_neg (by exact Nat.not_lt_zero _), if_neg (by decide), hx, hm]
  rfl
theorem wit_Submissions_4 : let s := { session with wadi := { session.wadi with reqs := [groupReq] } }
    s.ready = true ∧ s.wadi.testing = false ∧ s.linkUp = true ∧ s.hmd.sessOpen = true ∧
    groupReq.judged (s.mend groupReq.judged) = .error (.refuse stFormat 0 none32 none32 0) :=
  ⟨by decide, by decide, by decide, by decide, by rfl⟩
theorem wit_Submissions_5 : AcceptsSubmission { session with ctxs := [(15, { Ctx.idle with live := true, task := 78 })] } hdr ∧ hdr.urgent = false ∧
    session.wadi.reqs = [] ∧ session.wadi.urgent = [] ∧ session.wadi.urgWait = [] ∧ session.queuedStep hdr.reqId = false ∧
    { session with ctxs := [(15, { Ctx.idle with live := true, task := 78 })] }.ctxOf (fieldLE (padTo 64 (zeros 8 ++ leBytes 8 78)) 8 8) = some 15 ∧
    session.ctxOf (fieldLE (padTo 64 (zeros 8 ++ leBytes 8 78)) 8 8) = none :=
  ⟨by unfold AcceptsSubmission Admissible; decide, by decide +kernel⟩
theorem wit_Submissions_6 : let g : Group := { Group.none with live := true, tag := 77 }
    let s := { session with groups := [(255, g)] }
    let u := { s with ctxs := [(15, { Ctx.idle with live := true, group := 255, run := .running })] }
    AcceptsSubmission s hdr ∧ s.groups.find? (fun g => g.2.live && g.2.tag == 77) = some (255, g) ∧ s.group 255 = g ∧
    (∀ x < 16, (s.ctx x).live = true → (s.ctx x).group ≠ 255) ∧ (∃ x < 16, (u.ctx x).live = true ∧ (u.ctx x).group = 255) ∧
    (∀ x < 16, (u.ctx x).live = true → (u.ctx x).group = 255 → (u.ctx x).run ≠ .idle) :=
  ⟨by unfold AcceptsSubmission Admissible; decide, by decide, by decide, by decide, by decide, by decide⟩

theorem wit_StreamRegisters : ∀ op, 1 ≤ op → op ≤ 0x0A → StandsAt (runAt [op * 2 ^ 26, 0] 0 0 0) 287 op (fetchAt [op * 2 ^ 26, 0] 0 0 0) := by
  intro op h h'
  have : ∀ op < 11, 1 ≤ op → StandsAt (runAt [op * 2 ^ 26, 0] 0 0 0) 287 op (fetchAt [op * 2 ^ 26, 0] 0 0 0) := by unfold StandsAt; decide
  exact this op (by omega) h

theorem wit_StreamControl_1 : let k := [0x0B * 2 ^ 26 + 1, 0x0C * 2 ^ 26, 0]
    let f := fetchAt k 0 0 0
    (runAt k 0 0 0).instAt 287 = some f ∧ f.r.insts < 16384 ∧ f.r.a.length = 16 ∧ f.r.n.length = 8 ∧ spCode f.w = 0x0B ∧ bitAt f.w 22 = false ∧
    0 < f.w % 2 ^ 18 ∧ f.r.pc + 1 < f.e.code.length := by decide
theorem wit_StreamControl_2 : let k := [0x0B * 2 ^ 26 + 2 ^ 22, 0x0C * 2 ^ 26, 0]
    let f := fetchAt k 0 1 0
    (runAt k 0 1 0).instAt 287 = some f ∧ spCode f.w = 0x0B ∧ bitAt f.w 22 = true ∧ 0 < (f.r.ar (f.w / 2 ^ 18 % 16)).toInt ∧
    f.r.pc + 1 < f.e.code.length := by decide
/-- A loop of no rounds goes past its ENDL, the nearest of its counter. -/
theorem wit_StreamControl_3 : let k := [0x0B * 2 ^ 26, 0x0C * 2 ^ 26, 0]
    let f := fetchAt k 0 0 0
    (runAt k 0 0 0).instAt 287 = some f ∧ (bitAt f.w 22 = false ∧ f.w % 2 ^ 18 = 0) ∧ f.r.pc < 1 ∧ f.e.code[1]? = some (0x0C * 2 ^ 26) ∧
    spCode (0x0C * 2 ^ 26) = 0x0C ∧ spC (0x0C * 2 ^ 26) = f.w / 2 ^ 23 % 8 ∧ 1 + 1 < f.e.code.length ∧
    ∀ j v, f.r.pc < j → j < 1 → f.e.code[j]? = some v → spCode v ≠ 0x0C ∨ spC v ≠ f.w / 2 ^ 23 % 8 :=
  ⟨by decide, by decide, by decide, by decide, by decide, by decide, by decide, fun j _ h h' _ => by
    have : 0 < j := h
    omega⟩
theorem wit_StreamControl_4 : let k := [0, 0x0C * 2 ^ 26, 0]
    (runAt k 1 0 1).instAt 287 = some (fetchAt k 1 0 1) ∧ nth 0 (fetchAt k 1 0 1).r.n 0 = 1 ∧ (fetchAt k 1 0 1).r.pc + 1 < 3 ∧
    (runAt k 1 0 0).instAt 287 = some (fetchAt k 1 0 0) ∧ nth 0 (fetchAt k 1 0 0).r.n 0 ≠ 1 ∧ (fetchAt k 1 0 0).w % 64 < 3 := by decide
theorem wit_StreamControl_5 : let k := [0x0D * 2 ^ 26, 0]
    let f := fetchAt k 0 0 0
    (runAt k 0 0 0).instAt 287 = some f ∧ spCode f.w = 0x0D ∧ (f.r.ar (f.w / 2 ^ 14 % 16)).toInt ≤ (f.r.ar (f.w / 2 ^ 18 % 16)).toInt ∧
    f.w % 64 < f.e.code.length := by decide
theorem wit_StreamControl_6 : let k := [0x0D * 2 ^ 26 + 2 ^ 18, 0]
    let r : ProgRun := ⟨0, 0, 1 :: List.replicate 15 0, List.replicate 8 0, 0, 0⟩
    let f : Fetch := ⟨r, opOf 0, program k, 0x0D * 2 ^ 26 + 2 ^ 18⟩
    let s := onCore (stepOf [] [program k]) { Core.idle with ops := [opOf 0], prog := some r }
    s.instAt 287 = some f ∧ f.r.a.length = 16 ∧ (f.r.ar (f.w / 2 ^ 18 % 16)).toInt < (f.r.ar (f.w / 2 ^ 14 % 16)).toInt ∧
    f.r.pc + 1 < f.e.code.length := by decide
theorem wit_StreamControl_7 : let s := runAt [0] 0 0 0
    s.instAt 287 = some (fetchAt [0] 0 0 0) ∧ spCode 0 = 0 ∧ (s.core 287).ops = [opOf 0] ∧ (opOf 0).begun = true ∧ (s.core 287).lines = [] := by decide
/-- An EMIT while four blocks stand, and one whose block fits. -/
theorem wit_StreamControl_8 : let k := [0x0E * 2 ^ 26, 0]
    let s := runAt k 0 0 0
    let u := s.putCore 287 { s.core 287 with lines := [0, 1, 2, 3].map (fun b => ⟨0, b, 0, 0, 8, 0, 0, false, 0, false, false, 0, 0, false, false, [], false⟩) }
    let f := fetchAt k 0 0 0
    u.instAt 287 = some f ∧ (u.core 287).blocksFull = true ∧ s.instAt 287 = some f ∧ (s.core 287).blocksFull = false ∧ f.r.emits < 4096 ∧
    0 ≤ (f.r.ar 0).toInt ∧ (0 + 1) * s.opBlock f.o ≤ f.o.size ∧ f.r.pc + 1 < f.e.code.length ∧
    (((s.moveBlock 287 f.o ((List.range 6).map (fun i => (f.r.ar i).toInt)) 0).core 287).opOf f.o.id).isSome = true := by decide

theorem wit_SectionOperations_1 : ∀ op < 0x0B, op ≠ 5 → IssuesAt (tileOf [opWord op 0] tile0) 287 0 false op (nextOf [opWord op 0] tile0 false) ∧
    ((stepOf [opWord op 0] []).isNop tile0 false 0 (opWord op 0) = false) := by unfold IssuesAt; decide
/-- A tile of the re-issue list whose combine is still ahead: its operations before the DRAIN are passed as NOP. -/
theorem wit_SectionOperations_2 : let g := { tile0 with relist := true, combine := true }
    ∀ op < 0x0B, op ≠ 6 → IssuesAt (tileOf [opWord op 0, opWord 6 0] g) 287 0 false op (nextOf [opWord op 0, opWord 6 0] g false) ∧
    (stepOf [opWord op 0, opWord 6 0] []).isNop g false 0 (opWord op 0) = true := by unfold IssuesAt; decide
theorem wit_SectionOperations_3 : fScope (opWord opFence (3 * 2 ^ 48)) ≠ 0 ∧ fScope (opWord opFence 0) = 0 ∧
    IssuesAt (tileOf [opWord opFence (3 * 2 ^ 48)] tile0) 287 0 false opFence (nextOf [opWord opFence (3 * 2 ^ 48)] tile0 false) ∧
    IssuesAt (tileOf [opWord opStore 0] { tile0 with mute := true }) 287 0 false opStore (nextOf [opWord opStore 0] { tile0 with mute := true } false) := by
  unfold IssuesAt; decide
/-- A queue of sixteen stream operations is full; an empty one takes the operation, and a stream that is not a window's begins it. -/
theorem wit_SectionOperations_4 : let s := onCore (stepOf [opWord opLoad 0] []) { Core.idle with grants := [tile0], ops := (List.range 16).map opOf }
    IssuesAt s 287 0 false opLoad (nextOf [opWord opLoad 0] tile0 false) ∧ 16 ≤ (s.core 287).ops.length ∧
    ((tileOf [opWord opLoad 0] tile0).core 287).ops = [] ∧ ((tileOf [opWord opLoad 0] tile0).core 287).lines = [] ∧
    ((stepOf [opWord opLoad 0] []).stream 0).kind ≠ 1 := by unfold IssuesAt; decide
/-- A LOAD of a masked tile before the LOAD of its mask: the engine holds it. -/
theorem wit_SectionOperations_8 : let ops := [opWord opLoad 0, opWord opMatch 0, opWord opLoad (2 * 2 ^ 41)]
    let l := { stepOf ops [] with pred := some ⟨0, 0, 0, 0, 0, 0, Desc.blank, 0, false⟩ }
    let s := granting l [tile0]
    IssuesAt s 287 0 false opLoad ⟨15, opWord opLoad 0, tile0⟩ ∧ l.isNop tile0 false 0 (opWord opLoad 0) = false ∧ (s.core 287).ops = [] ∧ EngineRests s 287 ∧
    (streamOp 287 l 15 tile0 false (opWord opLoad 0) (s.core 287).nextOp).held = true := by unfold IssuesAt EngineRests; decide +kernel
/-- A TOKWAIT that the token lets pass, and one that it does not. -/
theorem wit_SectionOperations_5 : let g := { tile0 with cp := { Sect.start with wait := some (15, true) } }
    let s := tileOf [opWord opNop 0] g
    let u := onCore (stepOf [opWord opNop 0] []) { Core.idle with grants := [g], tokens := 2 ^ 15 }
    s.grantAt 287 0 = some g ∧ (g.sect false).wait = some (15, true) ∧ (s.core 287).ctx = some 15 ∧ (stepOf [opWord opNop 0] []).isPair = false ∧
    bitAt (s.core 287).tokens 15 ≠ true ∧ u.grantAt 287 0 = some g ∧ bitAt (u.core 287).tokens 15 = true := by decide
theorem wit_SectionOperations_6 : let g := { tile0 with cp := { Sect.start with posts := [(1, 15, true)] } }
    let h := { tile0 with cp := { Sect.start with posts := [(1, 15, true)], open_ := [0] } }
    (tileOf [] g).grantAt 287 0 = some g ∧ (∀ k ∈ (g.sect false).open_, 1 ≤ k) ∧ (tileOf [] h).grantAt 287 0 = some h ∧
    (∃ k ∈ (h.sect false).open_, k < 1) := ⟨by decide, by decide, by decide, 0, by decide⟩
theorem wit_SectionOperations_7 : let g := { tile0 with cp := { Sect.start with fence := some (3 + 16) } }
    let u := onCore (stepOf [] []) { Core.idle with grants := [g], ops := [opOf 0] }
    (tileOf [] g).grantAt 287 0 = some g ∧ (g.sect false).fence = some (3 + 16) ∧ (tileOf [] g).fenceDone 287 g (3 + 16) = true ∧
    u.grantAt 287 0 = some g ∧ u.fenceDone 287 g (3 + 16) = false := by decide

/-- An unarmed tile with no operand bound: nothing to check and nothing to read. -/
theorem wit_MatrixOperations_1 : let n := nextOf [opWord opMatch 0, 0] tile0 false
    let s := tileOf [opWord opMatch 0, 0] tile0
    let l := s.launchOf n.x
    let v := l.view n.g
    l.isNop n.g false 0 n.w = false ∧ IssuesAt s 287 0 false opMatch n ∧
    s.anyBad (structReads (v.slotDesc 0) (v.shapes false (v.slotDesc 0) (v.slotDesc 0)).1 (v.bufsOf 287 n.g 0 0 0 0) ++
      structReads (v.slotDesc 0) (v.shapes false (v.slotDesc 0) (v.slotDesc 0)).2 (v.bufsOf 287 n.g 0 0 0 0)) = false ∧
    operandFault (v.slotDesc 0) (s.structBytes (v.slotDesc 0) (v.shapes false (v.slotDesc 0) (v.slotDesc 0)).1 (v.bufsOf 287 n.g 0 0 0 0))
      (fun r => v.rowLive (l.passAt n.g) n.g.mb r) (v.shapes false (v.slotDesc 0) (v.slotDesc 0)).1
      (v.productK false (l.passAt n.g) n.g) (v.productStart false (l.passAt n.g) n.g) (v.productExt false) = none ∧
    operandFault (v.slotDesc 0) (s.structBytes (v.slotDesc 0) (v.shapes false (v.slotDesc 0) (v.slotDesc 0)).2 (v.bufsOf 287 n.g 0 0 0 0))
      (v.colLive false (l.passAt n.g) n.g) (v.shapes false (v.slotDesc 0) (v.slotDesc 0)).2
      (v.productK false (l.passAt n.g) n.g) (v.productStart false (l.passAt n.g) n.g) (v.productExt false) = none := by
  unfold IssuesAt; decide +kernel
/-- A predictor's tile is not checked; neither is one under audit. -/
theorem wit_MatrixOperations_2 : let g := { tile0 with audit := true }
    IssuesAt (tileOf [opWord opMatch 0, 0] g) 287 0 false opMatch (nextOf [opWord opMatch 0, 0] g false) ∧
    (nextOf [opWord opMatch 0, 0] g false).g.audit = true ∧
    (stepOf [opWord opMatch 0, 0] []).isNop g false 0 (opWord opMatch 0) = false := by
  unfold IssuesAt; decide
theorem wit_MatrixOperations_3 : let n := nextOf [opWord opMma 0, 0] tile0 false
    let s := tileOf [opWord opMma 0, 0] tile0
    let l := s.launchOf n.x
    IssuesAt s 287 0 false opMma n ∧ l.isNop n.g false 0 n.w = false ∧ fAccIn n.w = false ∧ s.partServed 287 false n = true ∧ s.anyBad (productReads s 287 false n false) = false ∧
    l.prog.firstMma false (n.g.sect false).pc = true ∧ l.isPair = false ∧ (l.passCoord (l.passAt n.g)).k = 0 := by
  unfold IssuesAt; decide +kernel
/-- The second MMA of a program goes on from the accumulators. -/
theorem wit_MatrixOperations_4 : let g := { tile0 with cp := { Sect.start with pc := 1 } }
    let n := nextOf [opWord opMma 0, opWord opMma 0] g false
    let s := tileOf [opWord opMma 0, opWord opMma 0] g
    IssuesAt s 287 0 false opMma n ∧ (s.launchOf n.x).prog.firstMma false (n.g.sect false).pc = false := by
  unfold IssuesAt; decide
theorem wit_MatrixOperations_5 : let n := nextOf [opWord opMma2 0, 0] tile0 false
    let s := tileOf [opWord opMma2 0, 0] tile0
    IssuesAt s 287 0 false opMma2 n ∧ (s.launchOf n.x).isNop n.g false 0 n.w = false ∧ ((s.launchOf n.x).view n.g).predPair = false ∧
    s.anyBad (productReads s 287 false n true) = false := by
  unfold IssuesAt; decide +kernel

/-- The first MMA with ACC_IN, and the first MMA of the second of two K passes, whose first pass left its partial at address 0, alone and behind
an urgent read of that controller. -/
theorem wit_MatrixOperations_6 : let w := opWord opMma (2 ^ 24)
    let n := nextOf [w, 0] tile0 false
    let s := tileOf [w, 0] tile0
    let l := s.launchOf n.x
    let g := { tile0 with tile := 1 }
    let u := tabled (granting { oneTile [opWord opMma 0, 0] with extK := 2, prog := { (oneTile [opWord opMma 0, 0]).prog with planK := 1 } } [g])
    let m := nextOf [opWord opMma 0, 0] g false
    let r : Tracker := ⟨63, pieceOf 0 0, 0, 0, false⟩
    let v := { (u.putCore 287 { u.core 287 with rd := [r] }) with stackTab := [(0, { Stack.idle with urgent := [.read 287 63 0] })] }
    IssuesAt s 287 0 false opMma n ∧ l.prog.firstMma false (n.g.sect false).pc = true ∧ l.isPair = false ∧ fAccIn n.w = true ∧ (l.passCoord (l.passAt n.g)).k = 0 ∧
    (l.loadsAccIn (l.passAt n.g) false n && s.anyBad [l.bufRead 287 n.g (fPartialBr n.w) l.partSize]) = false ∧ IssuesAt u 287 0 false opMma m ∧
    (u.launchOf 15).prog.firstMma false (m.g.sect false).pc = true ∧ 0 < ((u.launchOf 15).passCoord ((u.launchOf 15).passAt g)).k ∧
    (u.readBy 287 ((u.launchOf 15).partVa m.g.mb m.g.nb 0) (u.launchOf 15).partSize).toOption.isSome = true ∧ u.partServed 287 false m = true ∧
    IssuesAt v 287 0 false opMma m ∧ v.partServed 287 false m = false := by
  unfold IssuesAt; decide +kernel

theorem wit_BlockSums : ([FV.nan, FV.inf true] : List FV).Perm [FV.inf true, FV.nan] ∧ FV.nan ∈ [FV.nan] ∧
    (FV.inf true ∈ [FV.inf true, FV.inf false] ∧ FV.inf false ∈ [FV.inf true, FV.inf false]) ∧
    (FV.nan ∉ [FV.inf false] ∧ FV.inf false ∈ [FV.inf false] ∧ FV.inf true ∉ [FV.inf false]) :=
  ⟨List.Perm.swap _ _ _, by decide, by decide, by decide⟩

theorem witness_ZeroBlock :
    (([(true, 3, -2), (false, 3, -2)] : List (Bool × Nat × Int)).map (fun p => FV.fin p.1 p.2.1 p.2.2)).foldl BlockAcc.add BlockAcc.empty = BlockAcc.empty := by
  decide

theorem wit_DetachedBits : let s := { session with mcasts := [(63, { Mcast.idle with rcvs := List.replicate 64 ⟨5, 0, 0, 0, 0, 0, [], 0, false, 0, true, false⟩ })] }
    63 < 64 ∧ (s.mcast 63).rcvs.length ≤ 64 ∧ 63 < (s.mcast 63).rcvs.length := by decide

/-- A flit as a partner reads it from the bytes sent. -/
def heard (f : Flit) : Flit := readFlit (flitBytes f)
theorem heard_eq {f : Flit} (h : Sys2Proof.Laws.FlitFits f) : heard f = { f with crcOk := true, resOk := true, own := none } :=
  Sys2Proof.Laws.readFlit_flitBytes h
/-- A flit of an unknown type, and one with a codeword of lane 7 lost, the first of that lane. -/
theorem wit_FlitsReceived_1 : (portAt psUp Port.idle).portUp 11 = true ∧ (portAt psLow Port.idle).portUp 11 = true ∧ (portAt psUp Port.idle).swarm.live = false ∧
    ¬ WellFlit (heard { flit with type := 4 }) [] ∧ ¬ WellFlit (heard (dataFlit 0 7 7 15 0)) [⟨7, 0, 13⟩] ∧ WellFlit (heard (dataFlit 0 7 7 15 0)) [⟨7, 0, 12⟩] ∧
    (∀ c ∈ ([⟨7, 0, 13⟩] : List Code), codeLost c = true → bitAt ((portAt psUp Port.idle).port 11).unhealthy c.lane = true ∨
      (nth [] ((portAt psUp Port.idle).port 11).bad c.lane).length + 1 ≤ (portAt psUp Port.idle).conf.laneLimit) := by
  rw [heard_eq (by unfold Sys2Proof.Laws.FlitFits; decide), heard_eq (by unfold Sys2Proof.Laws.FlitFits; decide)]
  unfold WellFlit; decide
/-- Lane 7 stands at its limit of 16 lost codewords among the latest 2^20, and one more comes. -/
theorem wit_FlitsReceived_4 : let x := { Port.idle with codes := List.replicate 8 (2 ^ 20 - 1), bad := List.replicate 8 (List.range' 1 16) }
    let s := portAt psUp x
    codeLost ⟨7, 0, 224⟩ = true ∧ 2 ^ 20 = nth 0 x.codes 7 + 0 + 1 ∧ s.conf.laneLimit ≤ (nth [] (s.port 11).bad 7).length ∧
    (∀ i ∈ nth [] (s.port 11).bad 7, 2 ^ 20 < i + 2 ^ 20) ∧ bitAt (s.port 11).unhealthy 7 = false ∧ s.portState 11 = psUp ∧
    bitAt (s.fld (Reg.SEIF_WIDTH 11) Fld.SEIF_WIDTH_ACTIVE) 7 = true := by decide +kernel
/-- The last of two flits in the retry buffer is acknowledged, over the wrap of the sequence. -/
theorem wit_FlitsReceived_2 : let x := { Port.idle with retry := [dataFlit 0 0 0 0 4095, dataFlit 0 0 0 0 0] }
    let f := heard { dataFlit 0 0 0 0 0 with type := 0, ackValid := true, ack := 0 }
    (portAt psUp x).portUp 11 = true ∧ (WellFlit f [] ∧ f.type = 0 ∧ f.ackValid = true ∧ f.ack = (4095 + 1) % 4096) ∧ ((portAt psUp x).port 11).waiting = [] ∧
    1 < x.retry.length ∧ x.inOrder 4095 := by
  refine ⟨by decide, by rw [heard_eq (by unfold Sys2Proof.Laws.FlitFits; decide)]; unfold WellFlit; decide, by decide, by decide, by decide, fun i f h => ?_⟩
  match i with
  | 0 => obtain rfl := Option.some.inj h; rfl
  | 1 => obtain rfl := Option.some.inj h; rfl
  | i + 2 => simp at h
/-- Flits in order for this module, for one with a route and for one without; flits behind the order and ahead of it. -/
theorem wit_FlitsReceived_3 : let s := portAt psUp Port.idle
    let r := { s with routes := [(7, 0x80000000 + 11 * 2 ^ 24)] }
    s.ownId = 0 ∧ (∀ dst < 16384, ∀ hops < 16, ∀ seq < 4096, let f := heard (dataFlit dst 3 7 hops seq)
      WellFlit f [] ∧ f.type = 1 ∧ f.dst = dst ∧ f.hops = hops ∧ f.seq = seq) ∧ s.route 7 = .noRoute ∧ 7 ≠ s.ownId ∧ r.route 7 ≠ .noRoute ∧
    (0 + 4096 - (s.port 11).expSeq) % 4096 = 0 ∧ 2048 ≤ (4095 + 4096 - (s.port 11).expSeq) % 4096 ∧ 2048 ≤ (2048 + 4096 - (s.port 11).expSeq) % 4096 ∧
    0 < (2047 + 4096 - (s.port 11).expSeq) % 4096 ∧ (2047 + 4096 - (s.port 11).expSeq) % 4096 < 2048 ∧ (s.port 11).nakFor ≠ some (s.port 11).expSeq := by
  refine ⟨by decide, fun dst hd hops hh seq hs => ?_, by decide⟩
  have fits : Sys2Proof.Laws.FlitFits (dataFlit dst 3 7 hops seq) := by simp [Sys2Proof.Laws.FlitFits, dataFlit]; omega
  simp only [heard_eq fits]
  simp [WellFlit, dataFlit]

theorem wit_LinkRetry_1 : let x := { Port.idle with retry := [dataFlit 0 0 0 0 4095, dataFlit 0 0 0 0 0] }
    (x.replays < (portAt psUp x).fld (Reg.SEIF_CTL 11) Fld.SEIF_CTL_SEIF_RETRY_LIMIT ∧
      (portAt psUp x).fld (Reg.SEIF_CTL 11) Fld.SEIF_CTL_SEIF_RETRY_LIMIT ≤ { x with replays := 255 }.replays) ∧ (portAt psUp x).portUp 11 = true ∧ 1 < x.retry.length ∧ x.inOrder 4095 ∧ (portAt psRetrain x).portUp 11 = false ∧ (portAt psRetrain x).portState 11 = psRetrain ∧
    (portAt psUp Port.idle).portUp 11 = true ∧ ((portAt psUp Port.idle).port 11).retry = [] := by
  refine ⟨by decide, by decide, by decide, ⟨by decide, fun i f h => ?_⟩, by decide, by decide, by decide, by decide⟩
  match i with
  | 0 => obtain rfl := Option.some.inj h; rfl
  | 1 => obtain rfl := Option.some.inj h; rfl
  | i + 2 => simp at h
/-- A flit for module 7 waits behind one of this module's: it goes on by port 0, waits there for credit, or has no route. -/
theorem wit_LinkRetry_2 : let a := [dataFlit 0 3 7 15 0]
    let f := dataFlit 7 3 7 15 1
    let s := portAt psUp { Port.idle with slots := a ++ f :: [] }
    let u := { (s.setFld (Reg.SEIF_WIDTH 0) Fld.SEIF_WIDTH_STATE psUp) with routes := [(7, 0x80000000)] }
    let v := u.putPort 0 { Port.idle with credits := List.replicate 8 1 }
    s.portUp 11 = true ∧ s.power ≠ .aest ∧ (s.port 11).slots = a ++ f :: [] ∧ f.vl = 7 ∧ f.dst ≠ s.ownId ∧ (∀ g ∈ a, g.vl ≠ 7 ∨ g.dst = s.ownId) ∧
    s.route 7 = .noRoute ∧ u.route 7 = .port 0 ∧ nth 0 (u.port 0).credits 7 = 0 ∧
    v.route 7 = .port 0 ∧ 0 < nth 0 (v.port 0).credits 7 ∧ (v.port 0).retry.length < 512 ∧ v.portState 0 ≠ psLow ∧ (v.port 0).waiting = [] ∧
    v.portUp 11 = true ∧ (v.port 11).slots = a ++ f :: [] := by decide
/-- A message for the queue of its lane, which has a credit for its word; and one whose queue has none. -/
theorem wit_LinkRetry_3 : let a := [dataFlit 7 3 7 15 0]
    let f := dataFlit 0 3 7 15 1
    let s := ({ portAt psUp { Port.idle with slots := a ++ f :: [] } with queues := [(qSeif 11 7, { Queue.idle with credits := 1 })] }).putReg (Reg.SPQ_CFG (qSeif 11 7)) (2 ^ 63 + 2 * 2 ^ 61 + 2 ^ 60)
    let u := { s with queues := [(qSeif 11 7, Queue.idle)] }
    let us := queueUnits (s.qcfg (qSeif 11 7)).width f.payload (f.msg == 2 || f.msg == 3)
    s.portUp 11 = true ∧ (s.port 11).slots = a ++ f :: [] ∧ f.dst = s.ownId ∧ queuedKind f.kind = true ∧
    (∀ g ∈ a, g.vl ≠ 7 ∨ g.dst ≠ s.ownId ∨ queuedKind g.kind = false) ∧ s.qOn (qSeif 11 7) = true ∧ u.qOn (qSeif 11 7) = true ∧
    (s.queue (qSeif 11 7)).fits (s.qcfg (qSeif 11 7)) us = true ∧ (u.queue (qSeif 11 7)).fits (u.qcfg (qSeif 11 7)) us = false := by decide +kernel

/-- Port 11 with port 10 up beside it, both to the same partner. -/
def spare (state : Nat) (x : Port) : State := (portAt state x).setFld (Reg.SEIF_WIDTH 10) Fld.SEIF_WIDTH_STATE psUp
theorem wit_Retrains_1 : let s := portAt psUp Port.idle
    bitAt ((s.setFld (Reg.SEIF_WIDTH 11) Fld.SEIF_WIDTH_ACTIVE 0x0F).fld (Reg.SEIF_WIDTH 11) Fld.SEIF_WIDTH_ACTIVE) 7 = false ∧
    bitAt (s.fld (Reg.SEIF_WIDTH 11) Fld.SEIF_WIDTH_ACTIVE) 7 = true ∧ s.portState 11 = psUp ∧ laneChoice (s.ownLanes 11 &&& 0xFF) = some (0xFF, 8) := by decide
theorem wit_Retrains_2 : let s := spare psRetrain { Port.idle with fails := 2 }
    s.portState 11 = psRetrain ∧ laneChoice (s.ownLanes 11 &&& 0) = none ∧ 3 ≤ (s.port 11).fails + 1 ∧ Spare s 11 :=
  ⟨by decide, by decide, by decide, by decide, by decide, 10, by decide⟩
/-- A retrain whose masks are not exchanged, one whose masks are, and one of a port that must be low. -/
theorem wit_Retrains_3 : let s := spare psRetrain Port.idle
    let u := spare psRetrain { Port.idle with peerMask := some 0xFF }
    let v := spare psRetrain { Port.idle with peerMask := some 0xFF, peerLow := true }
    s.portState 11 = psRetrain ∧ (s.port 11).peerMask = none ∧ (s.port 11).fails + 1 < 3 ∧ u.portState 11 = psRetrain ∧ (u.port 11).peerMask.isSome = true ∧
    u.mustBeLow 11 = false ∧ v.portState 11 = psRetrain ∧ (v.port 11).peerMask.isSome = true ∧ v.mustBeLow 11 = true ∧ keptLane (v.ownLanes 11) = some 0 := by decide
theorem wit_Retrains_4 : let s := spare psDown Port.idle
    s.power = .ready ∧ s.portState 11 = psDown ∧ bitAt s.conf.portMask 11 = true ∧ laneChoice (255 - (255 &&& (s.port 11).unhealthy)) = some (0xFF, 8) ∧
    (∃ k, k ≠ 11 ∧ k < 12 ∧ s.portUp k = true) := ⟨by decide, by decide, by decide, by decide, 10, by decide⟩

theorem wit_Partners_1 : let s := { portAt psUp Port.idle with members := [(7, ⟨1, 3, 1, 0⟩)] }
    s.portUp 11 = true ∧ 7 ≠ s.ownId ∧ (s.member 7).state = 1 ∧ (s.member 7).inc = 3 ∧ (s.member 7).inc ≠ 4 ∧ (s.port 11).waiting = [] ∧
    (s.port 11).retry = [] ∧ (s.setFld (Reg.SEIF_WIDTH 10) Fld.SEIF_WIDTH_STATE psUp).portUp 10 = true ∧
    s.fld (Reg.SEIF_PEER 10) Fld.SEIF_PEER_MODULE = s.fld (Reg.SEIF_PEER 11) Fld.SEIF_PEER_MODULE ∧ keptLane (s.ownLanes 11) = some 0 := by decide
theorem wit_Partners_2 : let s := { (portAt psLow Port.idle).setFld (Reg.SEIF_CTL 11) Fld.SEIF_CTL_AEST_WAKE_BY_PEER 1 with power := .aest }
    s.portUp 11 = true ∧ s.power = .aest ∧ s.fld (Reg.SEIF_CTL 11) Fld.SEIF_CTL_AEST_WAKE_BY_PEER = 1 ∧ s.portState 11 = psLow ∧ (s.port 11).peerLow = false ∧
    (portAt psUp Port.idle).power ≠ .aest ∧ (portAt psUp Port.idle).entering = false ∧
    (let u := { (portAt psUp Port.idle).setFld (Reg.SEIF_CTL 11) Fld.SEIF_CTL_AEST_WAKE_BY_PEER 1 with wadi := { session.wadi with aestEnter := true } }
     u.portUp 11 = true ∧ u.entering = true ∧ u.fld (Reg.SEIF_CTL 11) Fld.SEIF_CTL_AEST_WAKE_BY_PEER = 1) := by decide
theorem wit_Partners_3 : let s := portAt psLow { Port.idle with peerLow := true, waiting := [dataFlit 7 0 7 15 0], credits := List.replicate 8 1 }
    s.portState 11 = psLow ∧ (s.port 11).peerLow = true ∧ s.power = .ready ∧ s.waitsFor 11 = true ∧ 0 < nth 0 (s.port 11).credits 0 ∧
    (s.port 11).retry.length < 512 := by decide
theorem wit_Partners_4 : ((portAt psLow { Port.idle with wakeStage := 1 }).port 11).wakeStage = 1 ∧ ((portAt psUp { Port.idle with wakeStage := 2 }).port 11).wakeStage = 2 ∧
    (portAt psUp { Port.idle with wakeStage := 2 }).portState 11 = psUp ∧ (portAt psLow { Port.idle with wakeStage := 1 }).portState 11 = psLow := by decide

theorem wit_Aestivation_1 : Accepts { session with power := .aest } hdr ∧ Accepts { session with power := .hold } hdr ∧ Accepts session hdr ∧
    session.power ≠ .aest ∧ session.power ≠ .hold := ⟨by unfold Accepts Admissible; decide, by unfold Accepts Admissible; decide, by unfold Accepts Admissible; decide, by decide, by decide⟩
/-- A module with one port up and nothing in it may enter; one whose context runs may not. -/
theorem wit_Aestivation_2 : let s := portAt psUp Port.idle
    Accepts s hdr ∧ (s.ready = true ∧ s.launched = false ∧ s.portsQuiet = true) ∧ (∀ p, p < 12 → s.portUp p = true → ∃ k < 8, keptLane (s.ownLanes p) = some k) ∧
    { s with wadi := { s.wadi with aestEnter := true } }.wadi.aestEnter = true ∧ s.wadi.aestEnter = false ∧
    (onCore (stepOf [] []) Core.idle).launched = true ∧ s.wadi.aestWake = false ∧ s.entering = false ∧
    { s with wadi := { s.wadi with aestEnter := true, aestWake := true } }.wadi.aestWake = true ∧
    { s with wadi := { s.wadi with aestEnter := true } }.entering = true := ⟨by unfold Accepts Admissible; decide, by decide, by decide, by decide, by decide, by decide⟩

theorem wit_Membership_1 : let s := { portAt psUp Port.idle with members := [(16383, ⟨1, 3, 1, 0⟩)] }
    s.portUp 11 = true ∧ 16383 ≠ s.ownId ∧ 2 < (s.member 16383).inc ∧ 3 = (s.member 16383).inc ∧ (s.member 16383).inc < 4 ∧ (s.member 16383).state = 1 ∧
    (∀ q, q < 12 → q ≠ 11 → (s.port q).waiting = []) ∧ s.shadowOf = [] ∧ s.swarm.live = false ∧ s.mcasts = [] ∧ (∀ x, x < 16 → (s.ctx x).run ≠ .running) ∧
    (∀ c, c < 288 → (s.core c).wr = []) := by decide +kernel
/-- A port up beside it passes the announcement on. -/
theorem wit_Membership_2 : let s := ((portAt psUp Port.idle).setFld (Reg.SEIF_WIDTH 0) Fld.SEIF_WIDTH_STATE psUp).putPort 0 { Port.idle with credits := List.replicate 8 1 }
    s.portUp 0 = true ∧ 0 < nth 0 (s.port 0).credits 0 ∧ (s.port 0).retry.length < 512 ∧ s.portUp 11 = true := by decide

theorem wit_Takeovers : let h : Handle := { Handle.none with live := true, module_ := 16383, entry := 4095 }
    let s := { session with handles := [(0, h)], takeover := [⟨16383, 0, 0, false, 0, [], []⟩] }
    s.ready = true ∧ 5 ≠ 16383 ∧ 16383 ≠ s.ownId ∧ (∀ x, x < 16 → (s.ctx x).run ≠ .running) ∧ (∀ c, c < 288 → (s.core c).wr = []) ∧
    (s.handle 0).live = true ∧ (s.handle 0).mcast = false ∧ (s.handle 0).module_ = 16383 ∧
    ([(4095, 1, 2)] : List (Nat × Nat × Nat)).find? (fun e => e.1 == (s.handle 0).entry) = some (4095, 1, 2) ∧
    (∃ k ∈ s.takeover, k.id = 16383 ∧ k.by_ = s.ownId ∧ k.done = false) ∧ off.ready = false ∧
    (∀ k ∈ session.takeover, k.id = 16383 → k.by_ = session.ownId → k.done = true) := by decide +kernel

/-- A group that borrows from the module that has gone, whose entry the notice names, and from another. -/
theorem wit_Takeovers_borrow : let s : State := { session with groups := [(3, { Group.none with live := true, borrow := [(16383, 4095, 0, 0), (9, 1, 0, 0)] })] }
    ∀ g, (s.group g).live = true → (∃ b ∈ (s.group g).borrow, b.1 = 16383) → ∀ b ∈ (s.group g).borrow,
      (b.1 = 16383 ∧ b.2.1 ∈ ([(4095, 1, 2)] : List (Nat × Nat × Nat)).map (·.1)) ∨ s.goneStatus b.1 = none := by
  intro s g _ h b hb
  by_cases e : g = 3
  · subst e
    exact (by decide : ∀ b ∈ (s.group 3).borrow, (b.1 = 16383 ∧ b.2.1 ∈ ([(4095, 1, 2)] : List (Nat × Nat × Nat)).map (·.1)) ∨ s.goneStatus b.1 = none) b hb
  · simp [s, State.group, tget, Ne.symm e, Group.none] at hb

/-- A group whose table maps its first 2 MB onto the first of HBM, readable and writable; core 287 serves its task. -/
def mapped : State :=
  let s : State := { session with groups := [(255, { Group.none with live := true, root := 0x400000 })], ctxs := [(15, { Ctx.idle with live := true, group := 255 })],
                                  cores := [(287, { Core.idle with ctx := some 15 })] }
  (s.store 0x400000 (leBytes 8 0x420001)).store 0x420000 (leBytes 8 7)
theorem wit_WindowOpening_1 : Accepts mapped hdr ∧ mapped.power ≠ .hold ∧ (mapped.core 287).ctx = some 15 ∧
    mapped.walkUe (mapped.group 255).root 0 (min 1024 0x10000000000) = false ∧ mapped.physicalRun (mapped.group 255).root 0 1024 = some 0 ∧
    mapped.winRefusal ⟨0, 1024, 7, 3, 1, 0, 16383, 8, 0⟩ = none ∧ lowest 4096 mapped.winUsable = some 0 ∧
    mapped.winRefusal ⟨0, 1024, 6, 3, 1, 0, 16383, 8, 0⟩ = some stFormat ∧
    mapped.physicalRun (mapped.group 255).root 0x200000 1024 = none ∧ mapped.walkUe (mapped.group 255).root 0x200000 (min 1024 0x10000000000) = false :=
  ⟨by unfold Accepts Admissible; decide, by decide +kernel⟩
theorem wit_WindowOpening_2 : let s := windowAt wsOpen 0xFFFF 3 8 8 Win.idle
    let u := windowAt wsClosing 0xFFFF 3 7 8 Win.idle
    let v := windowAt wsClosed 0xFFFF 3 8 8 { Win.idle with hold := true }
    (Accepts s hdr ∧ Accepts u hdr ∧ Accepts v hdr) ∧ s.winState 4095 = wsOpen ∧ s.winGen 4095 = 0xFFFF ∧ (s.win 4095).held = [] ∧ (s.win 4095).waiting = [] ∧
    (s.win 4095).reply = [] ∧ s.winFree 4095 = s.winPool 4095 ∧ u.winState 4095 = wsClosing ∧ u.winGen 4095 = 0xFFFF ∧ v.winState 4095 = wsClosed ∧
    (v.win 4095).hold = true ∧ s.winGen 4095 ≠ 1 ∧ (windowAt wsOpen 1 3 7 8 Win.idle).winFree 4095 ≠ (windowAt wsOpen 1 3 7 8 Win.idle).winPool 4095 ∧
    (windowAt wsOpen 1 3 7 8 Win.idle).winState 4095 = wsOpen ∧ session.winState 4095 = wsClosed ∧ (session.win 4095).hold = false :=
  ⟨⟨by unfold Accepts Admissible; decide, by unfold Accepts Admissible; decide, by unfold Accepts Admissible; decide⟩, by decide⟩
/-- CMD 1 on an entry set up and CLOSED, and on one without credits. -/
theorem wit_WindowOpening_3 : let v : Word := BitVec.ofNat 64 (2 ^ 44 + 7 * 2 ^ 39 + 3 * 2 ^ 36 + 2 ^ 34)
    let u := (windowAt wsClosed 1 0 8 8 Win.idle).plainWrite (Reg.WIN_CTL 4095) 8 v.toNat
    let w := (windowAt wsClosed 1 0 0 0 Win.idle).plainWrite (Reg.WIN_CTL 4095) 8 v.toNat
    bitsOf v.toNat 45 44 = 1 ∧ (windowAt wsClosed 1 0 8 8 Win.idle).ready = true ∧ u.winUsable 4095 = true ∧ u.winRefusal (u.winSpec 4095) = none ∧
    inHbm (u.winSpec 4095).base = true ∧ (w.winRefusal (w.winSpec 4095)).isSome = true := by decide

theorem wit_WindowTraffic_1 : let s := windowAt wsOpen 1 3 8 8 Win.idle
    s.ready = true ∧ s.judgeCredit 5 4095 1 = none ∧ (s.win 4095).waiting = [] ∧ 0 < s.winFree 4095 ∧
    (windowAt wsOpen 1 3 0 8 Win.idle).judgeCredit 5 4095 1 = none ∧ (windowAt wsOpen 1 3 0 8 Win.idle).winFree 4095 = 0 ∧
    s.judgeCredit 5 4095 2 = some stWindowClosed ∧ (windowAt wsOpen 1 0 8 8 Win.idle).judgeCredit 5 4095 1 = some stAddrProt := by decide
/-- A write and a read of the last unit of the window, and of one past its end. -/
theorem wit_WindowTraffic_2 : let s := windowAt wsOpen 1 3 8 8 Win.idle
    let h : WinHdr := ⟨4095, 1, 896, 128, 0, 0, true, false⟩
    s.judge 5 h true = none ∧ (zeros 128).length = h.length ∧ (∀ i, i < h.length → isMemory (0 + h.offset + i) = true) ∧ s.judge 5 { h with offset := 1024 } true = some stAddrProt ∧
    s.judge 5 h false = none ∧ s.firstUe 896 128 = none ∧ s.hasBad 896 128 = false ∧ s.judge 5 { h with gen := 2 } false = some stWindowClosed := by decide +kernel
theorem wit_WindowTraffic_3 : let s := windowAt wsOpen 1 4 8 8 Win.idle
    let h : WinHdr := ⟨4095, 1, 0, 128, 0, 0, true, true⟩
    s.judge 5 h true = none ∧ h.seq = (s.win 4095).nextUnit % 2 ^ 32 ∧ (s.win 4095).early = [] := by decide +kernel
theorem wit_WindowTraffic_4 : let s := windowAt wsOpen 1 3 7 8 { Win.idle with held := [(5, 1)] }
    let u := windowAt wsClosing 1 3 7 8 { Win.idle with held := [(5, 1)] }
    let v := windowAt wsClosing 1 3 6 8 { Win.idle with held := [(5, 2)] }
    s.winGen 4095 = 1 ∧ s.winState 4095 = wsOpen ∧ (s.win 4095).waiting = [] ∧ u.winState 4095 = wsClosing ∧
    u.winPool 4095 ≤ u.winFree 4095 + min 1 (tget 0 (u.win 4095).held 5) ∧ (u.win 4095).reply = [] ∧
    v.winState 4095 = wsClosing ∧ v.winFree 4095 + min 1 (tget 0 (v.win 4095).held 5) < v.winPool 4095 ∧ s.winGen 4095 ≠ 2 ∧
    session.winState 4095 = wsClosed := by decide
/-- The write of a unit of a window on a scratchpad whose cells have just read that row. -/
theorem wit_WindowTraffic_5 : let s := { ((windowAt wsOpen 1 3 8 8 Win.idle).putReg (Reg.WIN_BASE 4095) (spadBase 287)).putReg (Reg.WIN_LIMIT 4095)
      (spadBase 287 + 1024) with spadAcc := [(287, [⟨.cells, false, [(spadBase 287 + 896, 128)], none⟩])] }
    let h : WinHdr := ⟨4095, 1, 896, 128, 0, 0, true, false⟩
    let a := s.fld (Reg.WIN_BASE 4095) Fld.WIN_BASE_ADDR * 128 + h.offset
    s.judge 5 h true = none ∧ (zeros 128).length = h.length ∧ (∀ i, i < h.length → isMemory (a + i) = true) ∧ inSpad a = true ∧
    (∃ x ∈ s.accesses (spadCore a), x.meets a h.length ≠ []) ∧
    (∀ x ∈ session.accesses (spadCore a), x.meets a h.length = []) := by decide +kernel
/-- A write of the last 13 bits of a unit, from bit 1011 on, which needs bytes 126 and 127 of it; and a port that holds the read request. -/
theorem wit_WindowTraffic_6 : let s := windowAt wsOpen 1 3 8 8 Win.idle
    let h : WinHdr := ⟨4095, 1, 896, 128, 0, 0, true, false⟩
    let r := portAt psUp { Port.idle with slots := [{ dataFlit 0 1 7 15 0 with src := 5 }] }
    s.judge 5 h true = none ∧ 0 < 13 ∧ 1011 + 13 ≤ 8 * h.length ∧ inSpad (896 + 1011 / 8) = false ∧
    (∀ i, i < (1011 % 8 + 13 + 7) / 8 → isMemory (896 + 1011 / 8 + i) = true) ∧ HoldsAt r 5 (fun f => f.kind == 1) 11 [] [] := by
  refine ⟨by decide, by decide, by decide, by decide, by decide, by decide, ⟨_, rfl, ⟨rfl, rfl, rfl⟩, rfl⟩, (fun g h => nomatch h), fun q hq g hg => ?_⟩
  exact (by decide : ∀ q < 11, ∀ g ∈ ((portAt psUp { Port.idle with slots := [{ dataFlit 0 1 7 15 0 with src := 5 }] }).port q).slots, False) q hq g hg |>.elim

/-- A module that sends to a window of another by handle 5 of group 3. -/
def sender (h : Handle) : State := { session with handles := [(3 * 4096 + 5, h)] }
def handle5 : Handle := { Handle.none with live := true, asked := true, module_ := 7, entry := 4095, gen := 1, size := 1024, inUse := 1 }
theorem wit_SendersAndGroups_1 : let s := sender handle5
    s.ready = true ∧ s.handle (3 * 4096 + 5) = handle5 ∧ s.swarm.live = false ∧ s.swarm.shadowQ = [] ∧ (s.core 287).wr = [] ∧ s.mcasts = [] ∧
    (∀ x, x < 16 → s.usesHandle x (3 * 4096 + 5) = false) ∧ { handle5 with size := 0 }.size = 0 ∧ { handle5 with live := false, inUse := 0 }.inUse = 0 ∧ stWindowClosed ≠ stOk := by
  decide +kernel
theorem wit_SendersAndGroups_2 : ∀ c x, c < 288 → ((sender handle5).core c).ctx = some x → ((sender handle5).ctx x).group ≠ (3 * 4096 + 5) / 4096 :=
  fun c x _ h => by rw [show ((sender handle5).core c).ctx = none from rfl] at h; cases h
theorem wit_SendersAndGroups_3 : let w : WrTracker := ⟨{ pieceOf 0 6 with write := true }, 0, 15, 0, 0, 0⟩
    let s := { sender handle5 with ctxs := [(15, { Ctx.idle with group := 3 })], cores := [(287, { Core.idle with wr := [w] })] }
    s.firstWrite 287 (3 * 4096 + 5) = some (0, w) ∧ s.handle (3 * 4096 + 5) = handle5 ∧ handle5.closing = false ∧ 0 < handle5.inUse := by decide
/-- A multicast group of two receivers, the second behind by the 16 units of 64 KB that a lag of 1 MB allows. -/
def rcvOf (acked credits : Nat) : McastRcv := ⟨7, 4095, 1, 4096, acked, acked, [], credits, false, 0, false, false⟩
theorem wit_SendersAndGroups_4 : let m : Mcast := { Mcast.idle with pushed := 16, units := List.replicate 16 [], rcvs := [rcvOf 16 0, rcvOf 0 1] }
    let s := ({ session with mcasts := [(63, m)] }.setFld (Reg.MCAST_CFG 63) Fld.MCAST_CFG_UNIT_LOG2 16).setFld (Reg.MCAST_CFG 63) Fld.MCAST_CFG_LAG_LIMIT 1
    (s.mcast 63).rcvs[0]? = some (rcvOf 16 0) ∧ (s.mcast 63).rcvs[1]? = some (rcvOf 0 1) ∧ 1 * s.mcastUnit 63 = 65536 ∧ m.released ≤ (rcvOf 0 1).cursor ∧
    (m.units[(rcvOf 0 1).cursor - m.released]?).isSome = true ∧ 0 < (rcvOf 0 1).credits ∧ (rcvOf 16 0).credits = 0 ∧ m.waiting = [] ∧ 0 < m.pushed ∧
    (rcvOf 0 1).early = [] ∧ (∀ o ∈ m.rcvs, o.detached = false) ∧ s.lagLimit 63 ≤ m.pushed + 1 - (rcvOf 0 1).acked ∧
    (∃ o ∈ m.rcvs, o.removed = false ∧ o.detached = false ∧ (rcvOf 0 1).acked < o.acked) ∧
    (∀ j < 2, ∀ o, m.rcvs[j]? = some o → o.attached = true → j ∉ [1] → (rcvOf 0 1).acked < o.acked) ∧
    (∀ o ∈ ({ Mcast.idle with pushed := 1, rcvs := [rcvOf 1 0, rcvOf 1 1] } : Mcast).rcvs,
      ({ Mcast.idle with pushed := 1, rcvs := [rcvOf 1 0, rcvOf 1 1] } : Mcast).lags (s.lagLimit 63) o = false) := by decide +kernel

/-- A receiver whose window closes: its unit in flight is acknowledged, and the owner counts a slot; a close that finds it alone with a credit. -/
theorem wit_SendersAndGroups_5 : let r := { rcvOf 0 0 with closing := true, owed := 1 }
    let m : Mcast := { Mcast.idle with pushed := 1, units := [[]], rcvs := [r] }
    let n : Mcast := { Mcast.idle with rcvs := [rcvOf 0 1] }
    let s := { session with mcasts := [(63, m)] }
    let u := { session with mcasts := [(63, n)] }
    s.ready = true ∧ (s.mcast 63).rcvs[0]? = some r ∧ r.closing = true ∧ 0 = r.acked ∧ r.early = [] ∧ 0 < m.pushed ∧ m.waiting = [] ∧
    (∀ o ∈ m.rcvs, o.detached = false) ∧ s.mcasts = [(63, m)] ∧ m.rcvs = [r] ∧ 0 < min 1 r.owed ∧ (u.mcast 63).rcvs[0]? = some (rcvOf 0 1) ∧
    (rcvOf 0 1).closing = false ∧ u.handles = [] ∧ u.mcasts = [(63, n)] ∧ 0 < (rcvOf 0 1).credits := by decide

theorem wit_StreamAnswers_1 : let r : Tracker := ⟨63, pieceOf 0 0, 0, 0, false⟩
    let w : Tracker := ⟨62, pieceOf 0 6, 0, 0, false⟩
    let s := onCore (stepOf [] []) { Core.idle with ops := [opOf 0], rd := [r, w] }
    let x := s.core 287
    x.tracker 61 0 = none ∧ x.tracker 63 0 = some r ∧ x.tracker 62 0 = some w ∧ x.opOf r.piece.op = some (opOf 0) ∧ { x with ops := [] }.opOf r.piece.op = none ∧
    r.piece.win = 0 ∧ w.piece.win ≠ 0 ∧ r.piece.ant = false ∧ x.lines = [] ∧
    (∀ i < (0 + 1024 + 7) / 8, isMemory (r.piece.dst / 8 + 0 / 8 + i) = true) ∧ r.piece.dst % 8 = 0 ∧ s.firstUe (r.pa + r.piece.sbit / 8) 128 = none ∧
    (unitsOf w.piece.sbit w.piece.nbits).2 = (zeros 128).length ∧ stAddrProt ≠ stOk ∧ stAddrProt ≠ stMemUncorrectable ∧
    x.rd.find? (fun r => r.id == 61) = none ∧ x.rd.find? (fun r => r.id == 63) = some r := by decide +kernel
/-- A write of the running generation to memory, and one of an earlier generation. -/
theorem wit_StreamAnswers_2 : let w : WrTracker := ⟨{ pieceOf 0 0 with write := true }, 0, 15, 0, 0, 0⟩
    let s := onCore (stepOf [] []) { Core.idle with wr := [w] }
    (s.core 287).wr = [w] ∧ w.piece.win = 0 ∧ (s.core 287).lines = [] ∧ s.swarm.live = false ∧ (s.ctx w.ctx).gen = w.gen ∧ 0 < w.piece.nbits ∧
    (∀ i < (0 + 1024 + 7) / 8, isMemory (w.pa + 0 / 8 + i) = true) ∧ (s.ctx w.ctx).gen ≠ { w with gen := 1 }.gen := by decide +kernel

/-- What an answer needs beside its tracker: the engine stands still, no access of the cycle meets the bytes, and no urgent read stands before
it; and a read behind an urgent one. -/
theorem wit_StreamAnswers_3 : let r : Tracker := ⟨63, pieceOf 0 0, 0, 0, false⟩
    let w : Tracker := ⟨62, pieceOf 0 6, 0, 0, false⟩
    let s := onCore (stepOf [] []) { Core.idle with ops := [opOf 0], rd := [r, w], late := [(61, 0)] }
    let v : State := { s with stackTab := [(0, { Stack.idle with urgent := [.read 287 62 0] })] }
    (s.core 287).busy = 0 ∧ (s.core 287).again = [] ∧ (s.core 287).sender = some (opOf 0) ∧ (opOf 0).begun = true ∧ ((s.launchOf 15).stream 0).kind ≠ 1 ∧
    s.mayServe r.pa (.read 287 63 0) = true ∧ (∀ y ∈ s.accesses (spadCore (spadBase 287)), y.meets (spadBase 287) 128 = []) ∧ (s.ctx 15).gen = (opOf 0).gen ∧
    r.piece.meta_ = false ∧ r.piece.more = [] ∧ 0 < r.piece.nbits ∧ v.mayServe r.pa (.read 287 63 0) = false ∧ v.noUrgent 0 = false ∧ s.noUrgent 0 = true := by
  decide +kernel
/-- A list stream that reads the entry of its next block. -/
theorem wit_StreamAnswers_5 : let s := onCore (stepOf [] [{ program [] with kind := 1 }]) { Core.idle with ops := [opOf 0] }
    ((s.core 287).ops.filter (fun o => o.begun && ((s.launchOf o.ctx).stream o.stream).kind == 1))[0]? = some (opOf 0) ∧
    (s.ctx (opOf 0).ctx).gen = (opOf 0).gen := by decide
/-- A cache miss, a walk and a write on their way, each with what waits for it. -/
theorem wit_StreamAnswers_4 : let p := { pieceOf 0 0 with cache := true, va := 0x1000 }
    let w : WrTracker := ⟨{ pieceOf 0 0 with write := true }, 0, 15, 0, 0, 0⟩
    let s := tabled (onCore (stepOf [] []) { Core.idle with ops := [opOf 0], lines := [p], misses := [0x1000], walks := [⟨0, false, false⟩], wr := [w] })
    (s.core 287).misses[0]? = some 0x1000 ∧ s.lineWaiter 287 0x1000 = some (opOf 0, p) ∧ (s.core 287).walks[0]? = some ⟨0, false, false⟩ ∧
    (s.core 287).waiter 0 = some (opOf 0, p) ∧ (s.core 287).wr[0]? = some w ∧ (s.ctx 15).gen = (opOf 0).gen ∧ (s.ctx w.ctx).gen = w.gen := by decide +kernel

/-- A core with a cache of 64 sets that waits for a line of it. -/
def filling : State := (onCore (stepOf [] []) { Core.idle with misses := [0x1000] }).setFld (Reg.SPAD_SPLIT 287) Fld.SPAD_SPLIT_SPLIT 1
theorem wit_StreamFills_1 : 0 ∉ (filling.core 287).misses ∧ 0x1000 ∈ (filling.core 287).misses ∧ filling.firstUe 0x1000 128 = none ∧ (filling.core 287).lines = [] ∧
    0 < 64 * filling.fld (Reg.SPAD_SPLIT 287) Fld.SPAD_SPLIT_SPLIT ∧
    (∀ i < 128, isMemory (spadBase 287 + 128 * (4096 - 8 * 64 + 8 * (0x1000 / 128 % 64) + (filling.core 287).victim (0x1000 / 128 % 64)) + i) = true) ∧
    64 * (onCore (stepOf [] []) { Core.idle with misses := [0x1000] }).fld (Reg.SPAD_SPLIT 287) Fld.SPAD_SPLIT_SPLIT = 0 := by decide +kernel
/-- A walk of page 0 by tables at 4 MB, and of a page that they do not hold, with and without a piece that waits for it; one overtaken
by an invalidation; and one behind an urgent read of the same controller. -/
theorem wit_StreamFills_2 : let s := ((onCore (stepOf [] []) { Core.idle with walks := [⟨0, false, false⟩] }).store 0x400000 (leBytes 8 0x420001)).store 0x420000 (leBytes 8 7)
    let u := (s.setFld (Reg.XLT_ROOT 287) Fld.XLT_ROOT_ENABLE 1).setFld (Reg.XLT_ROOT 287) Fld.XLT_ROOT_ROOT 32
    let r : Tracker := ⟨63, pieceOf 0 0, 0, 0, false⟩
    let v := { (u.putCore 287 { u.core 287 with rd := [r] }) with stackTab := [(stackOf (u.walkAt 287 0), { Stack.idle with urgent := [.read 287 63 0] })] }
    (u.core 287).walks = [⟨0, false, false⟩] ∧ u.mayServe (u.walkAt 287 0) (.walk 287 0) = true ∧ u.fld (Reg.XLT_ROOT 287) Fld.XLT_ROOT_ENABLE = 1 ∧
    u.fld (Reg.XLT_ROOT 287) Fld.XLT_ROOT_ROOT * 2 ^ 17 = 0x400000 ∧
    (∀ a ∈ u.walkReads 0x400000 0, u.firstUe a 8 = none) ∧ u.walk 0x400000 0 = .ok 7 ∧ (u.core 287).lines = [] ∧ u.walk 0x400000 (1 * 2 ^ 21) = .bad 3 ∧
    (u.core 287).waiter 1 = none ∧
    { Core.idle with ops := [opOf 0], lines := [{ pieceOf 0 0 with va := 2 ^ 21 }] }.waiter 1 = some (opOf 0, { pieceOf 0 0 with va := 2 ^ 21 }) ∧
    { Core.idle with walks := [⟨0, true, false⟩] }.walks = ⟨0, true, false⟩ :: [] ∧ Core.idle.walks = [] ∧
    (v.core 287).walks = [⟨0, false, false⟩] ∧ v.mayServe (v.walkAt 287 0) (.walk 287 0) = false := by decide +kernel
theorem wit_StreamFills_still : EngineStill filling 287 ∧
    EngineStill (onCore (stepOf [] []) { Core.idle with walks := [⟨0, false, false⟩] }) 287 ∧ filling.mayServe 0x1000 (.fill 287 0x1000) = true :=
  ⟨⟨by decide, by decide, fun o h => by cases h⟩, ⟨by decide, by decide, fun o h => by cases h⟩, by decide +kernel⟩
theorem wit_StreamFills_3 : let y : Taker := ⟨287, ⟨4, [0, 0, 0, 0, 0, 0], 0⟩, spadBase 287⟩
    let e : AntEntry := ⟨[], 286, ⟨15, 0, 0, 0, true⟩, 0, 0, spadBase 286, 256, true, [y], true, [], [0, 1], [(1, zeros 128)], []⟩
    let s := { session with ant := [(23, [e])], cores := [(287, { Core.idle with ops := [opOf 4] })] }
    tget [] s.ant (287 / 12) = [e] ∧ e.takers.filter (fun k => k.core == 287 && !e.landed.contains (k, 1)) = [y] ∧
    e.rows.find? (fun r => r.1 == 1) = some (1, zeros 128) ∧ (s.core 287).opOf y.at_.op = some (opOf 4) ∧
    (∀ i < (zeros 128).length, isMemory (spadBase 287 + 128 * 1 + i) = true) ∧ (∀ y ∈ s.accesses 287, y.meets (spadBase 287 + 128) 128 = []) ∧
    (∀ r ∈ e.rows, r.1 ≠ 0) ∧ tget [] session.ant (287 / 12) = [] := by decide +kernel
/-- A cancellation while no request bears the next epoch, and one while a late response still does. -/
theorem wit_StreamFills_4 : let r : Tracker := ⟨63, pieceOf 0 0, 0, 0, false⟩
    let s := onCore (stepOf [] []) { Core.idle with ops := [opOf 0], rd := [r], prog := some ⟨0, 0, [], [], 0, 0⟩, packs := [⟨0, 0, [], 0, []⟩] }
    let u := s.putCore 287 { s.core 287 with late := [(62, 1)] }
    tget [] s.ant (287 / 12) = [] ∧ (∀ r ∈ (s.core 287).rd, ∃ o ∈ (s.core 287).ops, o.id = r.piece.op) ∧
    (∀ r ∈ (s.core 287).prog, ∃ o ∈ (s.core 287).ops, o.id = r.op) ∧ (∀ k ∈ (s.core 287).packs, ∃ o ∈ (s.core 287).ops, o.id = k.op) ∧
    (s.core 287).busy = 0 ∧ (∀ r ∈ (s.core 287).late ++ (s.core 287).rd.map (fun r => (r.id, r.epoch)), r.2 ≠ ((s.core 287).epoch + 1) % 256) ∧
    (∃ r ∈ (u.core 287).late, r.2 = ((u.core 287).epoch + 1) % 256) := ⟨by decide, by decide, by decide, by decide, by decide, by decide, (62, 1), by decide⟩
theorem wit_StreamFills_5 (k : Nat) : let s := onCore (stepOf [] []) { Core.idle with ops := [opOf 0], rd := [⟨63, pieceOf 0 0, 0, 0, false⟩] }
    (s.core k).lines = [] ∧ (s.core k).again = [] := by
  by_cases h : k = 287
  · subst h; exact ⟨rfl, rfl⟩
  · simp [onCore, State.core, tget, Ne.symm h]; exact ⟨rfl, rfl⟩

theorem wit_StreamOperationsEnd : let o := { opOf 0 with sent := true }
    let s := onCore (stepOf [] []) { Core.idle with ops := [o], grants := [tile0] }
    let u := onCore (stepOf [] []) { Core.idle with ops := [{ o with write := true }] }
    ((s.core 287).ops = [o] ∧ o.write = false ∧ o.mask = false ∧ o.sent = true ∧ (∀ r ∈ (s.core 287).rd, r.piece.op ≠ o.id) ∧ s.antWaits 287 o.id = false ∧
      (s.core 287).lines = []) ∧ ((u.core 287).ops = [{ o with write := true }] ∧ u.antWaits 287 o.id = false ∧ (u.core 287).lines = []) ∧
    (opOf 0).sent = false ∧ (∃ p ∈ ({ Core.idle with lines := [pieceOf 0 0] } : Core).lines, p.op = o.id) ∧ (session.core 287).ops = [] := by decide

/-- The last STORE of a tile that has drained to its own slot. -/
theorem wit_StreamOperationsEnd_2 : let o := { opOf 0 with sent := true, write := true, pf := false }
    let g := { tile0 with drained := true, cp := { Sect.start with pc := 1 } }
    let s := onCore (oneTile [opWord opDrain 0]) { Core.idle with ops := [o], grants := [g] }
    let s : State := { s with ctxs := [(15, { s.ctx 15 with slots := [(0, ⟨0, 1, 287⟩)] })] }
    let l := s.launchOf 15
    (s.core 287).ops = [o] ∧ o.write = true ∧ o.held = false ∧ (s.core 287).again = [] ∧ (s.core 287).packs = [] ∧ (s.core 287).wr = [] ∧ (s.core 287).grants = [g] ∧
    g.tile = o.tile ∧ g.gen = o.gen ∧ g.copy = o.copy ∧ g.drained = true ∧ g.mute = false ∧ l.finalPos g = true ∧
    (∀ w ∈ (l.prog.section false).drop g.cp.pc, opCode w ≠ opStore) ∧ ((s.ctx 15).slotFor (l.outKey g.tile)).state = 1 ∧
    ((s.ctx 15).slotFor (l.outKey g.tile)).core = 287 ∧ ({ Core.idle with ops := [o] } : Core).queued = o :: [] ∧ Core.idle.queued = [] := by decide

theorem wit_GrantsAndTiles_1 : let s := granting (oneTile [opWord opNop 0]) []
    let l := s.launchOf 15
    (s.core 287).ctx = some 15 ∧ (s.ctx 15).run = .running ∧ s.swarm.live = false ∧ l.kind = 0 ∧ l.unrun = false ∧ (s.core 287).moving = false ∧
    s.fenced 287 = false ∧ (s.core 287).grants.length < 3 ∧ (s.core 287).grants.getLast? = none ∧ s.assured = false ∧ (s.ctx 15).reissue = [] ∧
    (s.ctx 15).cur = 0 :: [0] ∧ 0 < (s.ctx 15).base + l.perPass ∧ 3 ≤ [tile0, tile0, tile0].length ∧
    ({ s.ctx 15 with reissue := [⟨1, 0, 0, 0, false, false⟩] }).reissue = ⟨1, 0, 0, 0, false, false⟩ :: [] := by decide
/-- A tile on its way, one at its beginning, and one beyond the extents. -/
theorem wit_GrantsAndTiles_2 : let g := { tile0 with arrived := false, running := false }
    let s := granting (oneTile [opWord opNop 0]) [g]
    (s.core 287).grants = [g] ∧ (s.launchOf 15).isPair = false ∧ g.audit = false ∧ g.relist = false ∧ (s.launchOf 15).skips g.tile = false ∧
    (stepOf [opWord opNop 0] []).skips g.tile = true ∧ (stepOf [opWord opNop 0] []).passCount * (stepOf [opWord opNop 0] []).sweeps ≤ (s.ctx 15).passIdx (stepOf [opWord opNop 0] []) + 1 ∧
    { g with arrived := true }.running = false ∧ (s.launchOf 15).sweeps ≤ 1 := by decide +kernel
theorem wit_GrantsAndTiles_3 : let s := granting (oneTile [opWord opNop 0]) [doneTile]
    doneTile.complete (s.launchOf 15) = true ∧ doneTile.stands = false ∧ (∀ j, (s.core j).lines = [] ∧ (s.core j).again = []) ∧
    (s.launchOf 15).passCount * (s.launchOf 15).sweeps ≤ (s.ctx 15).passIdx (s.launchOf 15) + 1 ∧ tile0.complete (s.launchOf 15) = false := by
  refine ⟨by decide, by decide, fun k => ?_, by decide, by decide⟩
  by_cases h : k = 287
  · subst h; exact ⟨rfl, rfl⟩
  · simp [granting, onCore, State.core, tget, Ne.symm h]; exact ⟨rfl, rfl⟩
/-- The first watchdog of a tile, and its second. -/
theorem wit_GrantsAndTiles_4 : let g := { tile0 with wdog := true }
    let s := granting (oneTile [opWord opNop 0]) [g]
    let u := { s with ctxs := [(15, { s.ctx 15 with expiries := [(0, 1)] })] }
    g.complete (s.launchOf 15) = false ∧ g.drained = false ∧ g.stands = false ∧ g.gen = (s.ctx 15).gen ∧ tget [] s.ant (287 / 12) = [] ∧
    tget 0 (s.ctx 15).expiries g.tile + 1 = 1 ∧ 2 ≤ tget 0 (u.ctx 15).expiries g.tile + 1 ∧ tile0.wdog = false := by decide

/-- A tile of a bin of one row, whose row-list entry the tables of core 287 map or do not, and one whose entry waits behind an urgent read. -/
theorem wit_GrantsAndTiles_5 : let g := { tile0 with arrived := false, running := false }
    let at_ (va : Nat) : State := tabled (granting { oneTile [opWord opNop 0] with bins := some ⟨va, 1, [(0, 1)], [0]⟩ } [g])
    let u := (at_ 0).readUp 287 (((at_ 0).launchOf 15).binRead g).1 (((at_ 0).launchOf 15).binRead g).2
    let v := (at_ 0x200000).readUp 287 (((at_ 0x200000).launchOf 15).binRead g).1 (((at_ 0x200000).launchOf 15).binRead g).2
    let w := { ((at_ 0).putCore 287 { (at_ 0).core 287 with rd := [⟨63, pieceOf 0 0, 0, 0, false⟩] }) with stackTab := [(0, { Stack.idle with urgent := [.read 287 63 0] })] }
    (at_ 0).vaServed 287 (((at_ 0).launchOf 15).binRead g).1 (((at_ 0).launchOf 15).binRead g).2 = true ∧
    (at_ 0x200000).vaServed 287 (((at_ 0x200000).launchOf 15).binRead g).1 (((at_ 0x200000).launchOf 15).binRead g).2 = true ∧
    w.vaServed 287 ((w.launchOf 15).binRead g).1 ((w.launchOf 15).binRead g).2 = false ∧ (w.core 287).grants = [g] ∧
    (u.readBin 287 ((at_ 0).launchOf 15) g).toOption = some [0] ∧ (v.readBin 287 ((at_ 0x200000).launchOf 15) g).toOption = none ∧
    (((at_ 0).launchOf 15).view { g with binRows := [0] }).skips g.tile = false ∧ ((granting (oneTile [opWord opNop 0]) [g]).launchOf 15).bins = none ∧
    (((granting (oneTile [opWord opNop 0]) [g]).launchOf 15).view { g with binRows := [] }).skips g.tile = false := by decide +kernel

/-- Core 287 of 288 in use by no context; core 0 of a module fenced; and no event for a core under test. -/
theorem wit_CoresAndSlices_1 : let s := session
    (∀ k, (s.core k).lines = [] ∧ (s.core k).again = []) ∧ s.live = true ∧ s.fenced 287 = false ∧ (s.setFence 287).tooFewCores = false ∧ tget [] s.ant (287 / 12) = [] ∧
    (s.core 287).testReq = [] ∧ (s.setFence 287).fenced 287 = true ∧ off.ready = false ∧ (s.core 287).moving = false :=
  ⟨fun _ => ⟨rfl, rfl⟩, by decide +kernel⟩
theorem wit_CoresAndSlices_2 : let s := { session with ctxs := [(15, { Ctx.idle with live := true, run := .running, launch := some (oneTile []), weight := 1, maxCores := 288 })] }
    (∀ k, (s.core k).lines = [] ∧ (s.core k).again = []) ∧ s.ready = true ∧ s.assured = false ∧ (s.ctx 15).run = .running ∧ (∀ y < 16, y ≠ 15 → (s.ctx y).run ≠ .running) ∧
    (s.ctx 15).cls < 4 ∧ 0 < (s.ctx 15).weight ∧ 0 < s.wants 15 ∧ s.wins = [] ∧ s.hmd.parked = [] ∧
    (∀ k < 288, (s.core k).ctx = none ∧ (s.core k).moving = false ∧ (s.core k).test = 0) := ⟨fun _ => ⟨rfl, rfl⟩, by decide +kernel⟩
/-- A core on its way to a context that is resident, and to one that is not; one that gives up a tile not begun. -/
theorem wit_CoresAndSlices_3 : let k : Core := { Core.idle with moving := true, moveTo := some 15 }
    let s := { session with ctxs := [(15, { Ctx.idle with live := true })], cores := [(287, k)] }
    let u := { session with cores := [(287, k)] }
    (s.core 287).moving = true ∧ (s.core 287).grants = [] ∧ (s.core 287).ctx = none ∧ (s.core 287).moveTo = some 15 ∧ (s.ctx 15).live = true ∧
    (u.ctx 15).live = false ∧ (u.core 287).moveTo = some 15 ∧ { k with moveTo := none }.moveTo = none ∧
    (∃ g ∈ ({ k with grants := [{ tile0 with issued := true }] } : Core).grants, g.issued = true) := by decide
theorem wit_CoresAndSlices_4 : let s := onCore (oneTile []) { Core.idle with moving := true, grants := [tile0] }
    (s.core 287).moving = true ∧ (s.core 287).ctx = some 15 ∧ (s.core 287).moveTo = none ∧ (s.core 287).grants = [tile0] ∧ tile0.issued = false ∧
    tile0.gen = (s.ctx 15).gen ∧ tile0.stands = false ∧ s.keptCore 287 = false ∧ tget [] s.ant (287 / 12) = [] ∧ ∀ k, (s.core k).lines = [] ∧ (s.core k).again = [] := by
  refine ⟨by decide, by decide, by decide, by decide, by decide, by decide, by decide, by decide, by decide, fun k => ?_⟩
  by_cases h : k = 287
  · subst h; exact ⟨rfl, rfl⟩
  · simp [onCore, State.core, tget, Ne.symm h]; exact ⟨rfl, rfl⟩

/-- An idle core that a ready context needs, its program resident; and a core whose scratchpad has a window open and another split. -/
theorem wit_CoresAndSlices_5 : let c : Ctx := { Ctx.idle with live := true, run := .running, launch := some (oneTile []), weight := 1, maxCores := 288 }
    let s := { session with ctxs := [(15, c)], cores := [(287, { Core.idle with progs := [(15, (oneTile []).prog.addr, [])] })] }
    let w := { (windowAt wsOpen 1 3 8 8 Win.idle).putReg (Reg.WIN_BASE 4095) (spadBase 287) with ctxs := [(15, { c with split := 1 })] }
    (s.core 287).moving = false ∧ s.ready = true ∧ s.isIdle 287 = true ∧ s.neediest 287 = some 15 ∧ (s.core 287).grants = [] ∧ (s.core 287).ctx = none ∧
    (s.ctx 15).live = true ∧ s.canServe 287 15 = true ∧ (s.core 287).resident 15 (s.launchOf 15).prog = true ∧ w.canServe 287 15 = false ∧
    off.ready = false ∧ (s.core 287).lines = [] ∧ (s.core 287).again = [] := by decide +kernel
/-- A group whose caches are being rebuilt after a takeover. -/
theorem wit_Steps_rebuilding : { session with takeover := [⟨7, session.ownId, 255, false, 0, [], []⟩] }.rebuilding 255 = true ∧ session.rebuilding 255 = false := by decide

/-- A step request whose launch descriptor stands at 0x3000. -/
def stepReq : StepReq := ⟨9, false, false, false, 78, 0x3000, 0, 0, 0, 0, 0⟩
/-- Context 15 of a live task stands idle with the request in its queue; the launch descriptor is an Erg step of no bound operation
but one TOPK_ROW over one row. -/
def launchable (d : List Byte) : State :=
  let g : Group := { Group.none with live := true, root := 0x400000 }
  let c : Ctx := { Ctx.idle with live := true, group := 255, task := 78, queue := [stepReq] }
  { session with
    groups := [(255, g)], ctxs := [(15, c)], cores := [(287, { Core.idle with ctx := some 15 })]
    mem := [(0x1000, descBytes 0x2000 0 0 [(1, 2)]), (0x1100, descBytes 0x2100 0 0 [(1, 2)]), (0x1200, descBytes 0x2200 4 0 [(1, 2)]),
        (0x1800, leBytes 1 6 ++ zeros 3 ++ leBytes 4 1 ++ leBytes 8 0x1000 ++ zeros 16 ++ leBytes 8 0x1100 ++ leBytes 8 0x1200 ++ zeros 16), (0x3000, d),
        (0x400000, leBytes 8 0x420001), (0x420000, leBytes 8 7)].flatMap (fun (b : Nat × List Byte) => cellsOf b.1 b.2) }
/-- A tile step that a core can be moved to, its operations not resident but readable by the core. -/
theorem wit_CoresAndSlices_6 : let l := { oneTile [] with prog := { (oneTile []).prog with addr := 0 } }
    let s := { launchable [] with ctxs := [(15, { Ctx.idle with live := true, group := 255, run := .running, launch := some l })], cores := [(287, { Core.idle with moving := true, moveTo := some 15 })] }
    (s.core 287).moving = true ∧ (s.core 287).moveTo = some 15 ∧ (s.core 287).resident 15 l.prog = false ∧ (s.core 287).owner = (s.group (s.ctx 15).group).owner ∧
    ((s.setRoot 287 15).readBy 287 (l.prog.addr + l.prog.opOff 0) (8 * l.prog.ops.length)).toOption.isSome = true := by decide +kernel
/-- Its descriptor: KIND 1, one record, at 0x1800. -/
def ergDesc : List Byte := leBytes 2 1 ++ leBytes 2 1 ++ zeros 4 ++ leBytes 8 0x1800 ++ zeros 112
/-- What it launches. -/
def ergLaunch : Launch :=
  { Launch.empty with
    kind := 1, req := stepReq, erg := [⟨6, 0, 1, 0x1000, 0, 0, 0x1100, 0x1200, 0, 0, 0⟩]
    jobs := [.topk (parseDesc 0x1000 (descBytes 0x2000 0 0 [(1, 2)])) (parseDesc 0x1100 (descBytes 0x2100 0 0 [(1, 2)])) (parseDesc 0x1200 (descBytes 0x2200 4 0 [(1, 2)])) 1] }
theorem wit_Steps_launch : let s := launchable ergDesc
    (s.ready = true ∧ s.wadi.testing = false ∧ (s.ctx 15).live = true ∧ (s.ctx 15).run = .idle ∧ (s.group (s.ctx 15).group).ending = false ∧
      (s.ctx 15).queue = stepReq :: []) ∧ (s.launchDesc stepReq).toOption = some ⟨0x3000, ergDesc⟩ ∧
    LaunchDesc.check ⟨0x3000, ergDesc⟩ = .ok () ∧ stepReq.bad = false ∧ s.waitMet ⟨0x3000, ergDesc⟩ = true ∧ LaunchDesc.kind ⟨0x3000, ergDesc⟩ < 2 ∧
    ((s.loadStep 15 stepReq ⟨0x3000, ergDesc⟩).toOption.map (fun p => (p.1 == ergLaunch, p.2.isNone))) = some (true, true) ∧
    s.lenderGone 255 = none ∧ s.needsGone 15 ergLaunch = none ∧ ((s.prepareRun 15 ergLaunch).toOption.isSome) = true ∧ s.windowBreach 15 ergLaunch = none ∧
    s.rebuilding 255 = false ∧ ∀ (α : Type) (f : State → Chk α), s.mend f = s := by
  refine ⟨by decide +kernel, by decide +kernel, by rfl, by decide +kernel, by decide +kernel, by decide +kernel, by decide +kernel, by decide +kernel, by decide +kernel,
    by decide +kernel, by decide +kernel, by decide +kernel, fun _ _ => rfl⟩
/-- A descriptor of KIND 3, and one that waits for a window. -/
theorem wit_Steps_refused : LaunchDesc.check ⟨0x3000, leBytes 128 3⟩ = .error (.refuse stFormat 0x3000 none32 none32 0) ∧
    ((launchable (leBytes 128 3)).launchDesc stepReq).toOption = some ⟨0x3000, leBytes 128 3⟩ ∧
    LaunchDesc.check ⟨0x3000, leBytes 1 0 ++ zeros 71 ++ leBytes 2 4096 ++ zeros 6 ++ leBytes 8 1 ++ zeros 40⟩ = .ok () ∧
    (launchable []).waitMet ⟨0x3000, leBytes 1 0 ++ zeros 71 ++ leBytes 2 4096 ++ zeros 6 ++ leBytes 8 1 ++ zeros 40⟩ = false :=
  ⟨by rfl, by decide +kernel, by rfl, by decide +kernel⟩
/-- A launch that awaits a byte of a window to which module 7 alone can write: while that is present, and once it has departed. -/
theorem wit_Steps_waits : let d : LaunchDesc := ⟨0x3000, leBytes 1 0 ++ zeros 71 ++ leBytes 2 4096 ++ zeros 6 ++ leBytes 8 1 ++ zeros 40⟩
    let s := (launchable []).putReg (Reg.WIN_CTL 4095) (2 ^ 48 + 2 ^ 46 + 7 * 2 ^ 39 + 2 ^ 37 + 7)
    let u := { s with members := [(7, ⟨2, 3, 1, 9⟩)] }
    s.waitMet d = false ∧ u.waitMet d = false ∧ s.winSenders (d.waitEntry - 1) = [7] ∧ s.goneStatus 7 = none ∧ u.winSenders (d.waitEntry - 1) = [7] ∧
    u.goneStatus 7 = some stLinkLost ∧ u.standIn 7 = 7 := by decide +kernel
/-- Context 15 with its launched step aborted, and running with nothing left to do. -/
def stepping (r : Run) (l : Launch) : State :=
  let s := launchable []
  { s with ctxs := [(15, { s.ctx 15 with run := r, launch := some l, queue := [], anchor := 287 })], queues := [(qCompletion 15, { Queue.idle with credits := 1 })] }
theorem wit_Steps_replay : let s := stepping .aborted ergLaunch
    s.ready = true ∧ (s.ctx 15).live = true ∧ (s.ctx 15).run = .aborted ∧ (s.ctx 15).launch = some ergLaunch ∧ ergLaunch.swarmAddr = 0 ∧ s.lenderGone 255 = none ∧ (s.ctx 15).group = 255 ∧ s.rebuilding 255 = false ∧
    s.needsGone 15 ergLaunch = none ∧ (s.prepareRun 15 ergLaunch).toOption.isSome = true ∧ s.windowBreach 15 ergLaunch = none := by decide +kernel
theorem wit_Steps_commit : let l := { ergLaunch with erg := [], jobs := [] }
    let s := stepping .running l
    (s.ctx 15).launch = some l ∧ (s.ctx 15).run = .running ∧ s.mayCommit 15 l = true ∧ (s.preCommit 15 l).stop = none ∧ (s.ctx 15).remote = [] ∧
    (s.group (s.ctx 15).group).mcasts = [] ∧ (s.group (s.ctx 15).group).ending = false ∧ l.mcast = 0 ∧ l.swarmAddr = 0 ∧
    (stepping .running ergLaunch).mayCommit 15 ergLaunch = false ∧ l.pred = none := by decide +kernel
theorem wit_Steps_commit_tests : ∀ k, ((stepping .running { ergLaunch with erg := [], jobs := [] }).core k).test ≠ 3 := by
  intro k
  by_cases h : k = 287
  · subst h; decide
  · simp [stepping, launchable, State.core, tget, Ne.symm h]; decide
/-- An ordered tensor whose staging region the tables do not map stops the commit. -/
theorem wit_Steps_stopped : let d : Desc := { parseDesc 0x1000 (descBytes 0x200000 0 0 [(1, 1)]) with alias_ := true }
    let l := { ergLaunch with erg := [], jobs := [], staging := 0x200000, slots := [⟨some d, none, none, none, 0⟩] }
    let s := stepping .running l
    (s.ctx 15).launch = some l ∧ (s.ctx 15).run = .running ∧ s.mayCommit 15 l = true ∧ (s.preCommit 15 l).stop ≠ none := by decide +kernel

/-- Two keys in each list. -/
def keyBytes : List (Nat × List Byte) :=
  [(0x1000, descBytes 0x2000 4 0 [(1, 2)]), (0x1100, descBytes 0x2100 4 0 [(1, 2)]), (0x1200, descBytes 0x2200 4 0 [(1, 8)]), (0x1300, descBytes 0x2300 4 0 [(1, 16)]),
   (0x2000, leBytes 4 1 ++ leBytes 4 3), (0x2100, leBytes 4 2 ++ leBytes 4 3)]
def keyJob (both : Bool) : ErgJob :=
  .keys both (parseDesc 0x1000 (descBytes 0x2000 4 0 [(1, 2)])) (parseDesc 0x1100 (descBytes 0x2100 4 0 [(1, 2)]))
    (parseDesc 0x1200 (descBytes 0x2200 4 0 [(1, 8)])) (parseDesc 0x1300 (descBytes 0x2300 4 0 [(1, 16)]))
theorem wit_ErgOperations_keys (both : Bool) : let r := recOf (if both then erIntersect else erMerge) 0 0x1000 0x1100 0 0x1200 0x1300 0
    ErgRuns (erged r keyBytes) 0 r.op ⟨15, 0, 0, false⟩ [] r 0x400000 (keyJob both) (reachOf r keyBytes (keyJob both)) ∧
    ((looked r keyBytes (keyJob both)).ergWork 15 0x400000 0 r (keyJob both)).stop = none ∧
    ((looked r keyBytes (keyJob both)).readRun 0x400000 (parseDesc 0x1000 (descBytes 0x2000 4 0 [(1, 2)])) [0] 2).toOption = some [1, 3] ∧
    ((looked r keyBytes (keyJob both)).readRun 0x400000 (parseDesc 0x1100 (descBytes 0x2100 4 0 [(1, 2)])) [0] 2).toOption = some [2, 3] := by
  cases both <;> exact ⟨runs_of (by decide +kernel) (by decide +kernel) (by decide +kernel) (by decide +kernel) (by decide +kernel) (by decide +kernel), by decide +kernel⟩
/-- A list of one block of eight words. -/
def listBytes : List (Nat × List Byte) :=
  [(0x1000, descBytes 0x2000 4 0 [(1, 8)]), (0x1100, leBytes 1 1 ++ leBytes 1 1 ++ zeros 2 ++ leBytes 4 1 ++ leBytes 2 8 ++ leBytes 2 1 ++ leBytes 2 1 ++ leBytes 2 1 ++
     leBytes 2 1 ++ leBytes 2 1 ++ zeros 12 ++ zeros 32), (0x1200, descBytes 0x2200 4 0 [(1, 8), (8, 1)])]
def blockList : ListHead := ⟨1, 1, [8, 1, 1, 1, 1, 1]⟩
theorem wit_ErgOperations_gather : let r := recOf erGather 0 0x1000 0x1100 0 0x1200 0 0
    let j := ErgJob.gather (parseDesc 0x1000 (descBytes 0x2000 4 0 [(1, 8)])) 0x1100 blockList (parseDesc 0x1200 (descBytes 0x2200 4 0 [(1, 8), (8, 1)]))
    ErgRuns (erged r listBytes) 0 r.op ⟨15, 0, 0, false⟩ [] r 0x400000 j (reachOf r listBytes j) ∧ ((looked r listBytes j).ergWork 15 0x400000 0 r j).stop = none :=
  ⟨runs_of (by decide +kernel) (by decide +kernel) (by decide +kernel) (by decide +kernel) (by decide +kernel) (by decide +kernel), by decide +kernel⟩
theorem wit_ErgOperations_scatter : let r := recOf erScatter 0 0x1200 0x1100 0 0x1000 0 0
    let j := ErgJob.scatter (parseDesc 0x1200 (descBytes 0x2200 4 0 [(1, 8), (8, 1)])) 0x1100 blockList (parseDesc 0x1000 (descBytes 0x2000 4 0 [(1, 8)]))
    ErgRuns (erged r listBytes) 0 r.op ⟨15, 0, 0, false⟩ [] r 0x400000 j (reachOf r listBytes j) ∧ ((looked r listBytes j).ergWork 15 0x400000 0 r j).stop = none :=
  ⟨runs_of (by decide +kernel) (by decide +kernel) (by decide +kernel) (by decide +kernel) (by decide +kernel) (by decide +kernel), by decide +kernel⟩
/-- One row of FP32. -/
theorem wit_ErgOperations_topk : let bs := [(0x1000, descBytes 0x2000 0 0 [(1, 2)]), (0x1100, descBytes 0x2100 0 0 [(1, 2)]), (0x1200, descBytes 0x2200 4 0 [(1, 2)])]
    let r := recOf erTopk 1 0x1000 0 0 0x1100 0x1200 0
    let j := ErgJob.topk (parseDesc 0x1000 (descBytes 0x2000 0 0 [(1, 2)])) (parseDesc 0x1100 (descBytes 0x2100 0 0 [(1, 2)])) (parseDesc 0x1200 (descBytes 0x2200 4 0 [(1, 2)])) 1
    ErgRuns (erged r bs) 0 r.op ⟨15, 0, 0, false⟩ [] r 0x400000 j (reachOf r bs j) ∧ ((looked r bs j).ergWork 15 0x400000 0 r j).stop = none :=
  ⟨runs_of (by decide +kernel) (by decide +kernel) (by decide +kernel) (by decide +kernel) (by decide +kernel) (by decide +kernel), by decide +kernel⟩
/-- One row of a bitmap-compressed INT8 tensor with its first position set. -/
theorem wit_ErgOperations_decompress : let bs := [(0x1000, descBytes 0x2000 3 1 [(1, 32)]), (0x1100, descBytes 0x2100 4 0 [(1, 1), (4, 1)]), (0x1200, descBytes 0x2200 4 0 [(1, 2)]),
      (0x1300, descBytes 0x2300 3 0 [(1, 32)]), (0x2000, leBytes 1 9), (0x2100, leBytes 8 1), (0x2200, leBytes 4 0 ++ leBytes 4 1)]
    let r := recOf erDecompress 0 0x1000 0x1100 0x1200 0x1300 0 0
    let j := ErgJob.decompress (parseDesc 0x1000 (descBytes 0x2000 3 1 [(1, 32)])) { parseDesc 0x1100 (descBytes 0x2100 4 0 [(1, 1), (4, 1)]) with w := 64 }
      (parseDesc 0x1200 (descBytes 0x2200 4 0 [(1, 2)])) (parseDesc 0x1300 (descBytes 0x2300 3 0 [(1, 32)]))
    ErgRuns (erged r bs) 0 r.op ⟨15, 0, 0, false⟩ [] r 0x400000 j (reachOf r bs j) ∧ ((looked r bs j).ergWork 15 0x400000 0 r j).stop = none :=
  ⟨runs_of (by decide +kernel) (by decide +kernel) (by decide +kernel) (by decide +kernel) (by decide +kernel) (by decide +kernel), by decide +kernel⟩
/-- A sum of one contribution of two elements, checked. -/
theorem wit_ErgOperations_sum : let bs := [(0x1000, leBytes 4 1 ++ zeros 28 ++ leBytes 8 0x2000 ++ zeros 8), (0x1100, descBytes 0x2100 0 0 [(1, 2)]), (0x1200, descBytes 0x2200 4 0 [(1, 2)])]
    let r := recOf erSumCheck 0 0x1000 0x1100 0 0x1200 0 0
    let j := ErgJob.sumCheck 0x1000 (parseDesc 0x1100 (descBytes 0x2100 0 0 [(1, 2)])) (parseDesc 0x1200 (descBytes 0x2200 4 0 [(1, 2)])) 0
    ErgRuns (erged r bs) 0 r.op ⟨15, 0, 0, false⟩ [] r 0x400000 j (reachOf r bs j) ∧ ((looked r bs j).ergWork 15 0x400000 0 r j).stop = none ∧ ((looked r bs j).sumList 0x400000 0x1000).toOption = some ⟨0, [(0x2000, 0)]⟩ ∧
    ((looked r bs j).sumOf 0x400000 2 ⟨0, [(0x2000, 0)]⟩).toOption.isSome = true ∧
    ((looked r bs j).readRun 0x400000 (parseDesc 0x1100 (descBytes 0x2100 0 0 [(1, 2)])) [0] 2).toOption = some [0, 0] :=
  ⟨runs_of (by decide +kernel) (by decide +kernel) (by decide +kernel) (by decide +kernel) (by decide +kernel) (by decide +kernel), by decide +kernel⟩
/-- One head of 64 over a sequence that holds nothing yet. -/
def attnRec : ErgRec := recOf erAttn 0 0x1000 0 0 0x1100 0 (1 + 64 * 2 ^ 8 + 2 ^ 16 + 2 ^ 24)
def attnBytes : List (Nat × List Byte) := [(0x1000, descBytes 0x2000 1 0 [(1, 64), (64, 1)]), (0x1100, descBytes 0x2100 1 0 [(1, 64), (64, 1)])]
def attnJob : ErgJob :=
  .attn (parseDesc 0x1000 (descBytes 0x2000 1 0 [(1, 64), (64, 1)])) (parseDesc 0x1100 (descBytes 0x2100 1 0 [(1, 64), (64, 1)])) 0 ⟨1, 64, 1, 1⟩ 0
theorem wit_ErgOperations_attn : ErgRuns (erged attnRec attnBytes) 0 attnRec.op ⟨15, 0, 0, false⟩ [] attnRec 0x400000 attnJob [] ∧
    ((erged attnRec attnBytes).pageTable 0x400000 0 attnRec.len).toOption = some [] ∧ (erged attnRec attnBytes).firstUe (workArea 0) (2 * 1 * 64) = none :=
  ⟨runs_of (by decide +kernel) (by decide +kernel) (by decide +kernel) (by decide +kernel) (by decide +kernel) (by decide +kernel), by decide +kernel⟩
theorem wit_ErgOperations_merge : let s := erged attnRec attnBytes
    let u := { s with ctxs := [(15, { s.ctx 15 with partials := (List.range 12).map (fun t => (0, t)) })] }
    u.mergeable 15 = some (0, attnJob) ∧ (u.ctx 15).run = .running ∧ u.serving 15 ≠ [] ∧ u.coreRoot (u.ctx 15).anchor = some 0x400000 ∧
    (((u.lookReach 287 (parseDesc 0x1100 (descBytes 0x2100 1 0 [(1, 64), (64, 1)])).reachWrite).correctAll (partialRanges ⟨1, 64, 1, 1⟩)).mergeRun 287 15 0x400000
      (parseDesc 0x1100 (descBytes 0x2100 1 0 [(1, 64), (64, 1)])) ⟨1, 64, 1, 1⟩).stop = none ∧ (u.ctx 15).anchor = 287 := by decide +kernel
/-- A merge of keys that do not rise stops. -/
theorem wit_ErgOperations_stop : let bs := keyBytes.take 4 ++ [(0x2000, leBytes 4 3 ++ leBytes 4 1)]
    let r := recOf erMerge 0 0x1000 0x1100 0 0x1200 0x1300 0
    ErgRuns (erged r bs) 0 r.op ⟨15, 0, 0, false⟩ [] r 0x400000 (keyJob false) (reachOf r bs (keyJob false)) ∧ ((looked r bs (keyJob false)).ergWork 15 0x400000 0 r (keyJob false)).stop ≠ none :=
  ⟨runs_of (by decide +kernel) (by decide +kernel) (by decide +kernel) (by decide +kernel) (by decide +kernel) (by decide +kernel), by decide +kernel⟩

/-- A sum whose list cannot be read; an operation whose anchor's translation is off, one that would write a page that the tables do not
map, and one behind an urgent request. -/
theorem wit_ErgOperations_refused : let q := recOf erSumCheck 0 0x1000 0x1100 0 0x1200 0 0
    let cs := [(0x1000, leBytes 4 1 ++ zeros 28 ++ leBytes 8 0x2000 ++ zeros 8), (0x1100, descBytes 0x2100 0 0 [(1, 2)]), (0x1200, descBytes 0x2200 4 0 [(1, 2)])]
    let i := ErgJob.sumCheck 0x1000 (parseDesc 0x1100 (descBytes 0x2100 0 0 [(1, 2)])) (parseDesc 0x1200 (descBytes 0x2200 4 0 [(1, 2)])) 0
    let r := recOf erTopk 1 0x1000 0 0 0x1100 0x1200 0
    let bs := [(0x1000, descBytes 0x2000 0 0 [(1, 2)]), (0x1100, descBytes 0x2100 0 0 [(1, 2)]), (0x1200, descBytes 0x2200 4 0 [(1, 2)])]
    let far := [(0x1000, descBytes 0x2000 0 0 [(1, 2)]), (0x1100, descBytes 0x200000 0 0 [(1, 2)]), (0x1200, descBytes 0x2200 4 0 [(1, 2)])]
    let k := ErgJob.topk (parseDesc 0x1000 (descBytes 0x2000 0 0 [(1, 2)])) (parseDesc 0x1100 (descBytes 0x200000 0 0 [(1, 2)])) (parseDesc 0x1200 (descBytes 0x2200 4 0 [(1, 2)])) 1
    let bad := { erged q cs with badAcc := [0x40] }
    let off := (erged r bs).setFld (Reg.XLT_ROOT 287) Fld.XLT_ROOT_ENABLE 0
    let busy := { erged r bs with stackTab := [(0, ⟨[⟨15, 0, 0, false⟩], [], 0, 0, [.fill 287 0]⟩)], cores := [(287, { (erged r bs).core 287 with misses := [0] })] }
    (bad.launchOf 15).jobs = [i] ∧ bad.ergLine 0 = [⟨15, 0, 0, false⟩] ∧ bad.urgentOf 0 = [] ∧ (bad.ergReach (bad.rootOf 15) i).toOption = none ∧
    (∃ j, (off.launchOf 15).jobs[0]? = some j ∧ off.ergLine 0 = [⟨15, 0, 0, false⟩] ∧ (off.ergReach (off.rootOf 15) j).toOption.isSome = true) ∧
    off.coreRoot 287 = none ∧ (off.ctx 15).anchor = 287 ∧
    ((erged r far).launchOf 15).jobs[0]? = some k ∧ ((erged r far).ergReach 0x400000 k).toOption = some (reachOf r far k) ∧
    (eachChk (reachOf r far k) ((looked r far k).checkReach 0x400000 0 0)).toOption = none ∧ busy.urgentOf 0 ≠ [] :=
  ⟨by decide +kernel, by decide +kernel, by decide +kernel, by decide +kernel, ⟨_, by rfl, by decide +kernel, by decide +kernel⟩, by decide +kernel, by decide +kernel,
    by decide +kernel, by decide +kernel, by decide +kernel, by decide +kernel⟩

/-- Context 15 sends a TOPK_ROW to engine 11. -/
def sending (cls : Nat) (stk : Table Stack) : State :=
  { session with ctxs := [(15, { Ctx.idle with
                   live := true, run := .running, cls := cls
                   launch := some { Launch.empty with kind := 1, erg := [⟨erTopk, 11, 1, 0, 0, 0, 0, 0, 0, 0, 0⟩], jobs := ergLaunch.jobs } })],
                 stackTab := stk }
theorem wit_ErgQueues_1 : let s := sending 1 []
    (s.ctx 15).run = .running ∧ (s.launchOf 15).kind = 1 ∧ (s.ergOf 15 (s.ctx 15).ergSent).map (·.1) = some ⟨6, 11, 1, 0, 0, 0, 0, 0, 0, 0, 0⟩ ∧ erTopk ≠ erAttn ∧
    (s.stack 11).queue.length < 16 ∧ (s.ctx 15).cls ≠ 0 ∧ ((sending 0 []).ctx 15).cls = 0 ∧ (sending 0 []).ergLine 11 = [] ∧ s.ergOf 15 1 = none ∧
    16 ≤ ((sending 1 [(11, ⟨List.replicate 16 ⟨15, 0, 0, false⟩, [], 0, 0, []⟩)]).stack 11).queue.length ∧ (session.ctx 15).run ≠ .running ∧ s.attnBusy = false := by decide
/-- An urgent record goes behind the first and before those that are not urgent. -/
theorem wit_ErgQueues_2 : let s := sending 0 [(11, ⟨[⟨14, 0, 0, false⟩, ⟨13, 0, 0, true⟩, ⟨12, 0, 0, false⟩], [], 0, 0, []⟩)]
    (s.ctx 15).cls = 0 ∧ s.ergLine 11 = ⟨14, 0, 0, false⟩ :: ([⟨13, 0, 0, true⟩] ++ [⟨12, 0, 0, false⟩]) ∧
    (∀ a ∈ [(⟨13, 0, 0, true⟩ : ErgEnt)], a.urgent = true) ∧ (⟨12, 0, 0, false⟩ : ErgEnt).urgent = false := by decide
/-- A decode attention of a sequence that holds nothing yet, one whose pages cannot be read, one whose query cannot, and one that waits
for another. -/
theorem wit_ErgQueues_3 : let s := { erged attnRec attnBytes with stackTab := [] }
    let u := { s with ctxs := [(15, { s.ctx 15 with cls := 1 })] }
    let bad := { u with badAcc := [0x2000 / 64] }
    let q := parseDesc 0x1000 (descBytes 0x2000 1 0 [(1, 64), (64, 1)])
    (u.ctx 15).run = .running ∧ (u.launchOf 15).kind = 1 ∧ u.ergOf 15 (u.ctx 15).ergSent = some (attnRec, attnJob) ∧ attnRec.op = erAttn ∧ u.attnBusy = false ∧
    (∀ k < 12, (u.stack k).queue.length < 16) ∧ u.softAcc = [] ∧
    (u.judgePages (u.ctx 15).anchor 15 0 attnRec.len ⟨1, 64, 1, 1⟩).stop = none ∧
    (u.judgePages (u.ctx 15).anchor 15 0x200000 1 ⟨1, 64, 1, 1⟩).stop.isSome = true ∧
    ((u.judgePages (u.ctx 15).anchor 15 0 attnRec.len ⟨1, 64, 1, 1⟩).s.copyQuery (u.rootOf 15) q).toOption.isSome = true ∧ (u.ctx 15).cls ≠ 0 ∧
    (bad.judgePages (bad.ctx 15).anchor 15 0 attnRec.len ⟨1, 64, 1, 1⟩).stop = none ∧ (bad.copyQuery (bad.rootOf 15) q).toOption = none ∧
    { s with stackTab := [(0, ⟨[⟨15, 0, 0, false⟩], [], 0, 0, []⟩)] }.attnBusy = true := by decide +kernel
theorem wit_ErgQueues_4 : let s := { session with stackTab := [(11, ⟨[⟨15, 0, 0, false⟩], [], 0, 0, []⟩)], badAcc := [(11 * 2 ^ 36 + 2 ^ 36 - 64) / 64], softAcc := [11 * 2 ^ 36 / 64] }
    s.live = true ∧ s.ergFailed 11 = false ∧ (s.stack 11).queue = ⟨15, 0, 0, false⟩ :: [] ∧ 2 ^ 36 - 1 < 2 ^ 36 ∧
    (11 * 2 ^ 36 + (2 ^ 36 - 1) / 64 * 64) / 64 ∈ s.badAcc ∧ (11 * 2 ^ 36 + 64 / 64 * 64) / 64 ∉ s.badAcc ∧ (11 * 2 ^ 36 + 64 / 64 * 64) / 64 ∉ s.softAcc ∧
    (11 * 2 ^ 36 + 0 / 64 * 64) / 64 ∉ s.badAcc ∧ s.softAcc.filter (fun y => y == (11 * 2 ^ 36 + 0 / 64 * 64) / 64) = [(11 * 2 ^ 36 + 0 / 64 * 64) / 64] ∧
    (s.stack 11).ues + 1 < s.conf.hbmBudget ∧
    s.fld (Reg.HBM_ECC_LOG 11) Fld.HBM_ECC_LOG_VALID = 0 ∧ (s.setFld (Reg.HBM_ECC_LOG 11) Fld.HBM_ECC_LOG_VALID 1).fld (Reg.HBM_ECC_LOG 11) Fld.HBM_ECC_LOG_VALID = 1 ∧
    off.live = false := by decide

/-- Member 0 of three, in the reduction of one bucket of 3,072 elements. -/
def ringOf (mode : Nat) : Swarm :=
  { Swarm.idle with live := true, ctx := 15, step := 1, mode := mode, ring := [0, 7, 8], buckets := [⟨parseDesc 0x1000 (descBytes 0x4000 0 0 [(1, 3072)]), 3072, 0⟩]
                    phase := 1, total := 3072, reduced := 0x8000, check := 0x10000 }
/-- Its module: core 287 serves its context, and its reduction staging queue stands in sixteen words of its scratchpad. -/
def swarmed (w : Swarm) : State :=
  let s := session.setupStaging 287 16
  let s := (s.setFld (Reg.XLT_ROOT 287) Fld.XLT_ROOT_ENABLE 1).setFld (Reg.XLT_ROOT 287) Fld.XLT_ROOT_ROOT 32
  { s with
    swarm := w, groups := [(0, { Group.none with live := true, root := 0x400000 })]
    ctxs := [(15, { Ctx.idle with live := true, run := .running, anchor := 287, launch := some { Launch.empty with kind := 2, swarmAddr := 0x1000 } })], cores := [(287, { Core.idle with ctx := some 15 })]
    mem := [(0x400000, leBytes 8 0x420001), (0x420000, leBytes 8 7)].flatMap (fun (b : Nat × List Byte) => cellsOf b.1 b.2) }
/-- A header of the step, of the last member. -/
def fromLast (shard hop : Nat) : SwarmHdr := ⟨1, 0, 1, false, 0, shard, hop, 0, 0, 2⟩
theorem wit_SwarmMessages_1 : session.power = .ready ∧ off.power ≠ .ready ∧ session.swarm.live = false ∧ (ringOf 0).live = true ∧ (fromLast 0 2).step = (ringOf 0).step % 2 ^ 32 ∧
    (fromLast 0 2).gen = (ringOf 0).gen ∧ { fromLast 0 2 with step := 2 }.step ≠ (ringOf 0).step % 2 ^ 32 ∧ (ringOf 0).current 8 (fromLast 0 2) = true ∧ (ringOf 0).current 7 (fromLast 0 2) = false ∧ (0 : Word).toNat = (ringOf 0).digest ∧
    (1 : Word).toNat ≠ (ringOf 0).digest ∧ (ringOf 0).frozen = false ∧ 2 ∉ (ringOf 0).readys ∧ { ringOf 0 with norm := true }.norm = true ∧
    tget none { ringOf 0 with norm := true }.norms 2 = none := by decide +kernel
theorem wit_SwarmMessages_awaits : SwarmAwaits (ringOf 0) ∧ SwarmAwaits { ringOf 0 with norm := true, norms := tput none [] 2 (some 0) } ∧
    SwarmAwaits { ringOf 0 with hop1 := [(0, 1, 0)] } ∧ SwarmAwaits { ringOf 0 with reducedB := [(0, 0, 0)] } ∧
    SwarmAwaits { ringOf 1 with accs := tput [] [] 0 [], arrived := [(0, 0, 0, 2)] } ∧ SwarmAwaits { ringOf 0 with chunks := [(0, 2, 0)] } ∧
    SwarmAwaits { ringOf 0 with slots := [⟨0, 0, 0, [2], false⟩] } := by
  refine ⟨⟨.inl rfl, rfl, by intro c h; cases h⟩, ⟨.inl rfl, rfl, by intro c h; cases h⟩, ⟨.inl rfl, rfl, by intro c h; cases h⟩, ⟨.inl rfl, rfl, by intro c h; cases h⟩,
    ⟨.inl rfl, rfl, by intro c h; cases h⟩, ⟨.inl rfl, rfl, by intro c h; cases h⟩, .inl rfl, rfl, ?_⟩
  intro c h
  obtain rfl : c = ⟨0, 0, 0, [2], false⟩ := by simpa using h
  exact .inr ⟨1, by decide, by decide⟩
/-- What the core that adds block 0 of a shard has looked up once the partial stands in its staging. -/
def partialIn (j : Nat) : State :=
  let w := ringOf 0
  let s := swarmed w
  ((s.dropSwarm 8 0 (fromLast j (2 - j))).stage 287 (zeros 128)).lookReach 287 (w.codeReach w.p 0 j 0 ++ w.blockReach 0 j 0)
/-- A partial of two words of the own shard, at its last hop, and one on its way. -/
theorem wit_SwarmMessages_partial : let w := ringOf 0
    let s := swarmed w
    w.awaits (fromLast 0 2) = true ∧ w.awaits (fromLast 1 1) = true ∧ w.mode = 0 ∧ s.serving 15 ≠ [] ∧
    s.adder w (w.globalBlock 0 0 0) = 287 ∧ s.adder w (w.globalBlock 0 1 0) = 287 ∧ s.coreRoot 287 = some 0x400000 ∧
    StagingReady s 287 (ceilDiv (zeros 128).length 64) ∧ w.pos = 0 ∧ w.slotOf 0 0 0 = none ∧
    ((partialIn 0).blockCodes 0x400000 w 0 0 0).toOption = some [] ∧ ((partialIn 1).blockCodes 0x400000 w 0 1 0).toOption = some [] := by
  unfold StagingReady; decide +kernel
theorem wit_SwarmMessages_contribs : ((partialIn 0).blockContribs 0x400000 (ringOf 0) 0 0 0).toOption.isSome = true ∧
    ((partialIn 1).blockContribs 0x400000 (ringOf 0) 0 1 0).toOption.isSome = true := by decide +kernel
theorem wit_SwarmMessages_reduced : let vals := List.replicate 1024 f32zero
    ((partialIn 0).putOn 287 15 0x400000 ((ringOf 0).reducedAt 0 0) (vals.flatMap (fun v => leBytes 4 v.toNat))).stop = none ∧
    ((partialIn 0).writeCodes 287 0x400000 (ringOf 0) 0 0 vals).stop = none := by decide +kernel
/-- Seventeen words are more than the staging queue has credits for. -/
theorem wit_SwarmMessages_waits : (swarmed (ringOf 0)).stagingFits 287 (ceilDiv (17 * 64) 64) = true ∧
    ((swarmed (ringOf 0)).setQueue (qStaging 287) { (swarmed (ringOf 0)).queue (qStaging 287) with credits := 1 }).stagingFits 287 2 = false := by decide +kernel
/-- A block in the mode of R461, of which one more sender stands out. -/
theorem wit_SwarmMessages_block : let w := ringOf 1
    let s := swarmed w
    w.mode ≠ 0 ∧ w.awaits (fromLast 0 0) = true ∧ s.serving 15 ≠ [] ∧
    (((((s.dropSwarm 8 0 (fromLast 0 0)).stage 287 (zeros 128)).lookReach 287 (w.codeReach w.p 0 0 0))).blockCodes 0x400000 w 0 0 0).toOption = some [] ∧
    s.coreRoot 287 = some 0x400000 ∧ StagingReady s 287 2 ∧ (∃ q ∈ w.others, (0, 0, 0, q) ∉ [(0, 0, 0, 2)]) :=
  ⟨by decide, by decide, by decide +kernel, by decide +kernel, by decide +kernel, by unfold StagingReady; decide +kernel, 1, by decide, by decide⟩
/-- A copy of a sampled block for a slot that awaits it, and one while both slots are taken. -/
theorem wit_SwarmMessages_check : let c : CheckSlot := ⟨0, 0, 0, [1], false⟩
    let w := { ringOf 0 with step := 432, slots := [c] }
    let h := { fromLast 0 0 with step := 432 }
    w.current 8 h = true ∧ w.hasBlock h = true ∧ h.shard = w.pos ∧ w.sampled 0 0 0 = true ∧ (0, 0, 0) ∉ w.checked ∧ w.slotOf 0 0 0 = some 0 ∧ w.slots[0]? = some c ∧
    h.sender ∉ c.from_ ∧ (swarmed w).coreRoot ((swarmed w).ctx 15).anchor = some 0x400000 ∧
    { w with slots := [⟨0, 0, 1, [1], false⟩, ⟨0, 0, 2, [1], false⟩] }.takeSlot 0 0 0 = none ∧
    (((swarmed w).dropSwarm 8 1 h).putOn 287 15 0x400000 (w.slotAt 0 + 4096 * ((h.sender + w.r - w.pos) % w.r - 1)) (padTo 4096 [])).stop = none := by
  decide +kernel
/-- Member 0 of a wire of one byte an element, whose agreed scales are gathered in chunks of 32 bytes. -/
def gathering : Swarm := { ringOf 0 with wire := 1, scales := 0x20000 }
/-- Where the chunk of shard 2 stands. -/
def gatherAt : Nat := gathering.codesAt (1 - gathering.p) 0 2 0
/-- Its module once a chunk of shard 2 has come. -/
def gatherIn : Done := ((swarmed gathering).dropSwarm 8 2 (fromLast 2 0)).putOn 287 15 0x400000 gatherAt (padTo 32 [])
/-- A gather chunk of shard 2 for the next member, and one that goes no further. -/
theorem wit_SwarmMessages_gather : let w := gathering
    (fromLast 2 0).sender = w.prev ∧ 2 < w.r ∧ 2 ≠ w.pos ∧ (0, 2, 0) ∉ w.chunks ∧ w.shHandle = 0 ∧ w.shadowQ = [] ∧
    (w.chunksOf_ 2).find? (fun c => c.1 == 0 && c.2.1 == 0) = some (0, 0, gatherAt, 32) ∧ w.next ≠ 2 ∧ w.next = 1 ∧
    (swarmed w).coreRoot ((swarmed w).ctx 15).anchor = some 0x400000 ∧ gatherIn.stop = none ∧
    (((gatherIn.s.putSwarm { w with chunks := [(0, 2, 0)] }).readUp 287 gatherAt 32).readVa 0x400000 gatherAt 32).toOption.isSome = true := by decide +kernel
/-- The answers to a commit query of a frozen step, a partner that asks for the module it shadows, and a mismatch notice. -/
theorem wit_SwarmMessages_query : let w := { ringOf 0 with frozen := true }
    let s := { swarmed w with members := [(7, ⟨1, 1, 1, 0⟩), (8, ⟨1, 1, 1, 0⟩)] }
    let p := { session with shadowOf := [(7, ⟨9, 0, 255, 0, 0, 0⟩)], members := [(7, ⟨3, 1, 1, 0⟩)] }
    s.power = .ready ∧ w.frozen = true ∧ w.current 8 (fromLast 0 0) = true ∧ (∀ r ∈ s.shadowOf, (s.member r.1).state = 1) ∧ (∀ a ∈ w.asked, a.2 = false) ∧
    (∃ q ∈ s.survivors w, q ≠ (fromLast 0 0).sender ∧ ∀ a ∈ w.asked, a.1 ≠ q) ∧ off.power ≠ .ready ∧
    p.power = .ready ∧ (∀ r, p.shadowOf = [r] ↔ r = (7, ⟨9, 0, 255, 0, 0, 0⟩)) ∧ (p.member 7).state ≠ 1 ∧ 0 % 2 ^ 32 ≠ (fromLast 0 0).step ∧ p.swarm.frozen = false :=
  ⟨by decide, by decide, by decide, by decide, by decide, ⟨1, by decide, by decide, by decide⟩, by decide, by decide,
    fun r => ⟨fun h => (List.cons.inj h).1.symm, fun h => by rw [h]⟩, by decide, by decide, by decide⟩

/-- Every core but 287 stands idle, and 287 has no line open. -/
theorem onCore_lines (l : Launch) (k : Core) (h : (k.lines, k.again) = ([], [])) : ∀ n, ((onCore l k).core n).lines = [] ∧ ((onCore l k).core n).again = [] := by
  intro n
  by_cases e : n = 287
  · subst e; exact ⟨congrArg Prod.fst h, congrArg Prod.snd h⟩
  · simp [onCore, State.core, tget, Ne.symm e]; exact ⟨rfl, rfl⟩
/-- A row function that is no SOFTMAX, and a SOFTMAX, over rows beyond the extents. -/
def rowed (fn : Nat) : State := tileOf [opWord opRowfn (fn * 2 ^ 47), 0] tile0
def rowedNext (fn : Nat) : Next := nextOf [opWord opRowfn (fn * 2 ^ 47), 0] tile0 false
theorem wit_Rowfn (fn : Nat) (h : fn = 0 ∨ fn = fnSoftmax) : let s := rowed fn
    let n := rowedNext fn
    let l := (s.launchOf n.x).view n.g
    let masks := l.bufRead 287 n.g (fA ((l.prog.first opMatch).getD 0)) (l.tm * bitmapWords l.chunkOut * 8)
    (∀ k, (s.core k).lines = [] ∧ (s.core k).again = []) ∧ IssuesAt s 287 0 false opRowfn n ∧ (s.launchOf n.x).isNop n.g false (n.g.sect false).pc n.w = false ∧ n.g.audit = false ∧
    s.anyBad ((if rfBias n.w || readsVector (rfFn n.w) then [l.vecRead 287 n.g (rfBiasBr n.w) (l.param (rfPset n.w)).vfmt 1] else []) ++
      (if l.masked && gatedFn (rfFn n.w) then [masks] else [])) = false ∧ rfFn n.w = fn := by
  refine ⟨onCore_lines (stepOf [opWord opRowfn (fn * 2 ^ 47), 0] []) { Core.idle with grants := [tile0] } rfl, ?_, ?_, ?_, ?_, ?_⟩ <;>
    obtain rfl | rfl := h <;> first | (unfold IssuesAt; decide +kernel) | decide +kernel
/-- A final DRAIN of a grant, with the output slots as given. -/
def drainingBy (g : Grant) (slots : Table OutSlot) (ops : List Nat) (l : Launch → Launch) : State :=
  let s := onCore (l (oneTile ops)) { Core.idle with grants := [g] }
  { s with ctxs := [(15, { s.ctx 15 with slots := slots })] }
/-- A final DRAIN whose output slot is free, claimed by another core, and done. -/
def draining (slots : Table OutSlot) (ops : List Nat) (l : Launch → Launch) : State := drainingBy tile0 slots ops l
theorem wit_Drain_lines (g : Grant) (slots : Table OutSlot) (ops : List Nat) (l : Launch → Launch) :
    ∀ k, ((drainingBy g slots ops l).core k).lines = [] ∧ ((drainingBy g slots ops l).core k).again = [] :=
  onCore_lines (l (oneTile ops)) { Core.idle with grants := [g] } rfl
theorem wit_Drain : let ops := [opWord opDrain 0, 0]
    let s := draining [] ops id
    let n := nextOf ops tile0 false
    let l := (s.launchOf n.x).view n.g
    IssuesAt s 287 0 false opDrain n ∧ (s.launchOf n.x).isNop n.g false (n.g.sect false).pc n.w = false ∧ n.g.gen = (s.ctx 15).gen ∧ s.assured = false ∧
    l.isPair = false ∧ drPartial n.w = false ∧ l.kbs ≤ 1 ∧ l.midK (l.passAt n.g) = false ∧ l.sweeps ≤ 1 ∧
    ((s.ctx 15).slotFor (l.outKey 0)).state ≠ 2 ∧ ((s.ctx 15).slotFor (l.outKey 0)).state ≠ 1 ∧
    s.anyBad (biasReads 287 l n.g n.w) = false ∧ ((draining [(0, ⟨0, 1, 286⟩)] ops id).ctx 15).slotFor (l.outKey 0) = ⟨0, 1, 286⟩ ∧
    (draining [(0, ⟨0, 1, 286⟩)] ops id).fenced 286 = false ∧ ((draining [(0, ⟨0, 2, 286⟩)] ops id).ctx 15).slotFor (l.outKey 0) = ⟨0, 2, 286⟩ := by
  unfold IssuesAt; decide +kernel
/-- A DRAIN of an earlier generation. -/
theorem wit_Drain_stale : let ops := [opWord opDrain 0, 0]
    let g := { tile0 with gen := 1 }
    let s := drainingBy g [] ops id
    IssuesAt s 287 0 false opDrain (nextOf ops g false) ∧ (s.launchOf 15).isNop g false (g.sect false).pc (opWord opDrain 0) = false ∧ g.gen ≠ (s.ctx 15).gen := by
  unfold IssuesAt; decide +kernel
/-- The first copy of a matrix tile in the Assured profile. -/
theorem wit_Drain_vote : let ops := [opWord opMma 0, opWord opDrain 0, 0]
    let g := { grantOf .start { Sect.start with pc := 1 } with copy := 1 }
    let s := drainingBy g [] ops id
    let s : State := { s with cfg := some { s.conf with profile := 1 } }
    let n := nextOf ops g false
    let l := (s.launchOf n.x).view n.g
    IssuesAt s 287 0 false opDrain n ∧ (s.launchOf n.x).isNop n.g false (n.g.sect false).pc n.w = false ∧ n.g.gen = (s.ctx 15).gen ∧
    (s.assured && l.prog.isMatrix) = true ∧ (l.isPair && decide ((l.passCoord (l.passAt g)).j + 1 < l.passes.j)) = false ∧
    (drPartial n.w || decide (1 < l.kbs) || l.midK (l.passAt g)) = false ∧ l.sweeps ≤ 1 ∧ ((s.ctx 15).slotFor (l.outKey 0)).state = 0 ∧
    s.anyBad (biasReads 287 l n.g n.w) = false ∧ (s.ctx 15).votesOf n.g.tile = [] := by
  unfold IssuesAt; decide +kernel
/-- A DRAIN of one K block of two: its partial goes to a page that the tables map. -/
theorem wit_Drain_partial : let ops := [opWord opDrain 0, 0]
    let s := tabled (draining [] ops (fun l => { l with extK := 32, prog := { l.prog with planK := 32 }, partAddr := 0 }))
    let n := nextOf ops tile0 false
    let l := (s.launchOf n.x).view n.g
    1 < l.kbs ∧ IssuesAt s 287 0 false opDrain n ∧ (s.launchOf n.x).isNop n.g false (n.g.sect false).pc n.w = false ∧ n.g.gen = (s.ctx 15).gen ∧ l.hasFactor = false ∧
    (s.putVa 287 n.x (l.partVa n.g.mb n.g.nb n.g.kb) (s.partBytes 287 l n.g n.w)).toOption.isSome = true := by unfold IssuesAt; decide +kernel
/-- The DRAIN of a pair in the first of two passes of J: its set 1 is carried. -/
theorem wit_Drain_carry : let ops := [opWord opMma 0, opWord opRowfn 0, opWord opMma2 0, opWord opDrain 0, 0]
    let g := grantOf .start { Sect.start with pc := 3 }
    let s := tabled (drainingBy g [] ops (fun l => { l with extJ := 2, prog := { l.prog with planJ := 1 }, partAddr := 0 }))
    let n := nextOf ops g false
    let l := (s.launchOf n.x).view n.g
    IssuesAt s 287 0 false opDrain n ∧ (s.launchOf n.x).isNop n.g false (n.g.sect false).pc n.w = false ∧ n.g.gen = (s.ctx 15).gen ∧ s.assured = false ∧
    (l.isPair && decide ((l.passCoord (l.passAt g)).j + 1 < l.passes.j)) = true ∧
    (s.putVa 287 n.x (l.carryVa n.g.mb n.g.nb) (carryBytes l.tm l.tn (s.core 287).acc1 ++ rowStateBytes l.tm n.g)).toOption.isSome = true := by
  unfold IssuesAt; decide +kernel
/-- A launch of two passes of N whose DRAIN is a SOFTMAX of whole rows. -/
def swept (l : Launch) : Launch := { l with extN := 2, prog := { l.prog with planN := 1 }, partAddr := 0 }
/-- Its DRAIN in the first sweep. -/
theorem wit_Drain_sweep : let ops := [opWord opDrain (fnSoftmax * 2 ^ 33), 0]
    let s := tabled (draining [] ops swept)
    let n := nextOf ops tile0 false
    let l := (s.launchOf n.x).view n.g
    IssuesAt s 287 0 false opDrain n ∧ (s.launchOf n.x).isNop n.g false (n.g.sect false).pc n.w = false ∧ n.g.gen = (s.ctx 15).gen ∧ s.assured = false ∧
    l.isPair = false ∧ (drPartial n.w || decide (1 < l.kbs) || l.midK (l.passAt n.g)) = false ∧ (decide (1 < l.sweeps) && l.sweepOf n.g.tile == 0) = true ∧
    s.anyBad (biasReads 287 l n.g n.w) = false ∧ (s.putVa 287 n.x (l.carryVa n.g.mb n.g.nb + 16384)
      (rowStateBytes l.tm { n.g with rows := sweepStates l n.g n.w (s.biased 287 l n.g n.w (s.drainRows 287 l n.g n.w)) })).toOption.isSome = true := by
  unfold IssuesAt; decide +kernel
/-- A combine of a tile whose compute section has passed its DRAIN. -/
theorem wit_Ksplit : let ops := [opWord opDrain 0]
    let g := { tile0 with combine := true, cp := { Sect.start with pc := 1 } }
    let s := tabled (onCore (oneTile ops) { Core.idle with grants := [g] })
    let l := (s.launchOf 15).view g
    (s.core 287).ctx = some 15 ∧ (s.ctx 15).run = .running ∧ (s.core 287).grants = [g] ∧ g.combines (s.launchOf 15) = true ∧ g.gen = (s.ctx 15).gen ∧
    s.partialsServed 287 (s.launchOf 15) g = true ∧ (decide (1 < l.sweeps) && l.sweepOf g.tile == 0) = false ∧ ((s.ctx 15).slotFor (l.outKey 0)).state = 0 ∧ s.anyBad (biasReads 287 l g (opWord opDrain 0)) = false ∧ l.isPair = false ∧
    (l.prog.first opDrain).getD 0 = opWord opDrain 0 ∧ (s.partials 287 l g).toOption.isSome = true ∧ (session.core 287).ctx = none ∧
    ((onCore (oneTile ops) Core.idle).core 287).grants = [] := by decide +kernel

/-- A combine in the first sweep of a SOFTMAX, and one whose partial waits behind an urgent request. -/
theorem wit_Ksplit_sweep : let ops := [opWord opDrain (fnSoftmax * 2 ^ 33)]
    let g := { tile0 with combine := true, cp := { Sect.start with pc := 1 } }
    let s := tabled (onCore (swept (oneTile ops)) { Core.idle with grants := [g] })
    let l := (s.launchOf 15).view g
    let u := { s with stackTab := [(0, ⟨[], [], 0, 0, [.fill 286 0]⟩)], cores := (286, { Core.idle with misses := [0] }) :: s.cores }
    (s.core 287).ctx = some 15 ∧ (s.ctx 15).run = .running ∧ (s.core 287).grants = [g] ∧ g.combines (s.launchOf 15) = true ∧ g.gen = (s.ctx 15).gen ∧
    s.partialsServed 287 (s.launchOf 15) g = true ∧ (decide (1 < l.sweeps) && l.sweepOf g.tile == 0) = true ∧
    s.anyBad (biasReads 287 l g (opWord opDrain (fnSoftmax * 2 ^ 33))) = false ∧ l.isPair = false ∧ (l.prog.first opDrain).getD 0 = opWord opDrain (fnSoftmax * 2 ^ 33) ∧
    u.partialsServed 287 (u.launchOf 15) g = false ∧ (u.core 287).grants = [g] := by decide +kernel
theorem wit_Ksplit_swept : let ops := [opWord opDrain (fnSoftmax * 2 ^ 33)]
    let g := { tile0 with combine := true, cp := { Sect.start with pc := 1 } }
    let s := tabled (onCore (swept (oneTile ops)) { Core.idle with grants := [g] })
    let l := (s.launchOf 15).view g
    let w := opWord opDrain (fnSoftmax * 2 ^ 33)
    (s.partials 287 l g).toOption.map (fun ps => (s.putVa 287 15 (l.carryVa g.mb g.nb + 16384)
      (rowStateBytes l.tm { g with rows := sweepStates l g w (s.biased 287 l g w ((addParts l.intTile ps).values l.tm l.tn)) })).toOption.isSome) = some true := by decide +kernel

/-- A request to prune one row of four to 1:4, and its descriptors. -/
def pruneBytes : List (Nat × List Byte) :=
  [(0x1000, descBytes 0x2000 0 0 [(1, 4)]), (0x1100, descBytes 0x2100 1 2 [(1, 1)]), (0x1200, descBytes 0x2200 4 0 [(1, 1)]),
   (0x1800, leBytes 8 0x1000 ++ leBytes 8 0x1100 ++ leBytes 8 0x1200 ++ zeros 24 ++ leBytes 1 2 ++ leBytes 1 2 ++ zeros 14), (0x2000, leBytes 4 0x3F800000)]
def pruning : State := erged (recOf 0 0 0 0 0 0 0 0) pruneBytes
def pruneReq : PruneReq :=
  ⟨0x1800, parseDesc 0x1000 (descBytes 0x2000 0 0 [(1, 4)]), parseDesc 0x1100 (descBytes 0x2100 1 2 [(1, 1)]), parseDesc 0x1200 (descBytes 0x2200 4 0 [(1, 1)]), none, none,
    0, 2, 2, 0, 0x1100⟩
theorem wit_Pruning_1 : (pruning.core 287).ctx = some 15 ∧ (pruning.ctx 15).run = .running ∧ pruning.swarm.live = false ∧ pruning.coreRoot 287 = some 0x400000 ∧
    (pruning.loadPrune 0x400000 0x1800).toOption = some pruneReq ∧ (pruning.loadPrune 0x400000 0x1840).toOption = none ∧
    (pruning.setFld (Reg.XLT_ROOT 287) Fld.XLT_ROOT_ENABLE 0).coreRoot 287 = none := by decide +kernel
theorem wit_Pruning_2 : (pruning.pruneWrites 0x400000 pruneReq).toOption.map (fun o => (o.writes.length,
    ((((pruning.lookPrune 287 0x400000 0x1800).lookReach 287 pruneReq.src.reachRead).countConv 287 o.sat o.nonfin).putWeevils 287 15 0x400000 o.writes).stop)) =
      some (2, none) := by decide +kernel
theorem wit_Pruning_3 : (session.core 287).ctx = none ∧ 0 < (nmShape 2).m ∧ 3 < ([f32one, f32zero, f32zero, f32zero] : List F32).length ∧
    0 ∈ keptOf 1 [f32one, f32zero, f32zero, f32zero] ∧ 3 ∉ keptOf 1 [f32one, f32zero, f32zero, f32zero] := by decide
/-- Output at an address that the tables do not map, and a source there. -/
theorem wit_Pruning_4 : let out := { pruneReq with val := parseDesc 0x1100 (descBytes 0x200000 1 2 [(1, 1)]) }
    let src := { pruneReq with src := parseDesc 0x1000 (descBytes 0x200000 0 0 [(1, 4)]) }
    (pruning.pruneWrites 0x400000 out).toOption.map (fun o => ((pruning.countConv 287 o.sat o.nonfin).putWeevils 287 15 0x400000 o.writes).stop.isSome) = some true ∧
    (pruning.pruneWrites 0x400000 src).toOption = none := by decide +kernel
/-- The Swarm step of the context in its phase of pruning, at its one request; and one that has not come so far. -/
theorem wit_Pruning_5 : let w := { Swarm.idle with live := true, ctx := 15, phase := 5, prune := 0x1800, pruneN := 1 }
    let s := { pruning with swarm := w }
    (s.swarm.live && s.swarm.ctx == 15) = true ∧ s.swarm.phase = 5 ∧ 0x1800 = s.swarm.prune + 64 * s.swarm.pruned ∧ 0x1840 ≠ s.swarm.prune + 64 * s.swarm.pruned ∧
    { w with phase := 4 }.phase ≠ 5 := by decide

/-! The completion statements: what they ask of a state, in the states above. -/

theorem wit_ModuleEventsComplete : ready.power = .ready ∧ 4500 ≤ 4500 ∧ 5700 ≤ 5700 ∧ (∀ x ∈ [114], x < 115) ∧ (∀ x ∈ [100], x ≤ 100) ∧
    { ready with power := .hold }.power = .hold ∧ ready.fld Reg.HMD_TRIP_LOG Fld.HMD_TRIP_LOG_VALID = 0 ∧ ready.live = true ∧
    ready.mantisFenced 15 = false ∧ ready.mantisFenced 8 = false ∧ 8 / 8 = 15 / 8 ∧ (∀ x, x < 16 → (ready.ctx x).run ≠ .running) ∧
    { ready with hmd := { ready.hmd with scrub := [(4096, 32)] } }.hmd.scrub ≠ [] ∧ (11 * 2 ^ 36 + (2 ^ 36 - 1) / 64 * 64) / 64 ∉ ready.badAcc ∧ ready.softAcc = [] := by decide
/-- A fence, a slice boundary, and the move of a core to a context that runs no step. -/
theorem wit_SchedulingCompletes : let s := { session with ctxs := [(15, { Ctx.idle with live := true })], cores := [(287, { Core.idle with moving := true, moveTo := some 15 })] }
    s.ready = true ∧ s.live = true ∧ s.fenced 286 = false ∧ (s.setFence 286).tooFewCores = false ∧ tget [] s.ant (286 / 12) = [] ∧ (s.core 286).testReq = [] ∧
    (∀ y < 16, (s.ctx y).run ≠ .running) ∧ (∀ k < 288, (s.core k).test = 0 ∧ (s.core k).lines = [] ∧ (s.core k).again = []) ∧
    (s.core 287).moving = true ∧ (s.core 287).grants = [] ∧ (s.core 287).ctx = none ∧ (s.core 287).moveTo = some 15 ∧ s.canServe 287 15 = true := by decide +kernel
/-- A launch, a replay and a commit of an Erg step. -/
theorem wit_SchedulingCompletes_steps : let s := launchable ergDesc
    let u := stepping .aborted ergLaunch
    s.rebuilding 255 = false ∧ u.rebuilding 255 = false ∧ ergLaunch.kind = 1 ∧ (s.ctx 15).run = .idle ∧ (u.ctx 15).run = .aborted := by decide +kernel
theorem wit_TilesComplete : let s := granting (oneTile [opWord opNop 0]) []
    let g := { tile0 with arrived := false, running := false }
    let l := s.launchOf 15
    (s.core 287).grants = [] ∧ l.kind = 0 ∧ l.unrun = false ∧ s.assured = false ∧ (s.ctx 15).reissue = [] ∧ (s.ctx 15).cur = 0 :: [0] ∧ 0 < (s.ctx 15).base + l.perPass ∧
    l.bins = none ∧ (l.view { g with binRows := [] }).skips g.tile = false ∧ l.sweeps ≤ 1 ∧ doneTile.complete l = true ∧ doneTile.stands = false ∧
    l.passCount * l.sweeps ≤ (s.ctx 15).passIdx l + 1 ∧ tile0.complete l = false ∧ tget 0 (s.ctx 15).expiries 0 = 0 := by decide +kernel
theorem wit_StreamAnswersComplete : let o := { opOf 0 with sent := true }
    let s := onCore (stepOf [] []) { Core.idle with ops := [{ o with write := true }], grants := [tile0] }
    (s.core 287).ops = [{ o with write := true }] ∧ o.held = false ∧ s.antWaits 287 0 = false ∧ (s.core 287).wr = [] ∧ (s.core 287).packs = [] ∧
    (∀ g ∈ (s.core 287).grants, g.drained = false) := by decide
/-- FAULT# of a module that is off, in hold, and tripped. -/
theorem wit_FaultPin : State.reset.faultPin = .highZ ∧ (ready.setFld Reg.START_STATUS Fld.START_STATUS_HOLD 1).faultPin = .low ∧ ready.power ≠ .off ∧
    (ready.putReg Reg.HMD_TRIP_LOG (2 ^ 63)).faultPin = .low ∧ ready.faultPin ≠ .low ∧
    WithdrawnTo (({ off with power := .hold, hmd := { off.hmd with withdrawn := true } }).setFld Reg.START_STATUS Fld.START_STATUS_HOLD 1) := by
  unfold WithdrawnTo Shows; decide

end Sys2Proof.Tests
end

section
/-!
The scope of the model: the queue of commands, and the invariant that every step keeps.
-/
namespace Sys2Proof.Machine

/-- Every command keeps the queue, soundness, the count of free values and what has left the module. -/
theorem exec_keeps {s0 s : State} (h : Keeps s0 s) : ∀ c : Instr, KeepsRes s0 (exec c s)
  | .powerOn vin mated straps => execPowerOn_keeps s0 vin mated straps s h
  | .inputOff vin => execInputOff_keeps s0 vin s h
  | .currentFault held peak => execCurrentFault_keeps s0 held peak s h
  | .hotSwapRetry vin mated straps => execHotSwapRetry_keeps s0 vin mated straps s h
  | .presentOpen => execPresentOpen_keeps s0 s h
  | .startStep unit pass mask rnd => execStartStep_keeps s0 unit pass mask rnd s h
  | .startStepLimit unit => execStartStepLimit_keeps s0 unit s h
  | .powerSample vin iin pavg windowEnd t0 t1 stackTemps cyc rail => execPowerSample_keeps s0 vin iin pavg windowEnd t0 t1 stackTemps cyc rail s h
  | .clockStep die thermal => execClockStep_keeps s0 die thermal s h
  | .clockChange die => execClockChange_keeps s0 die s h
  | .corePark die => execCorePark_keeps s0 die s h
  | .coreUnpark die => execCoreUnpark_keeps s0 die s h
  | .lockstepMismatch cause cyc => execLockstepMismatch_keeps s0 cause cyc s h
  | .mantisHeartbeat m => execMantisHeartbeat_keeps s0 m s h
  | .mantisFailover m => execMantisFailover_keeps s0 m s h
  | .bridgeFailure retries trainFail => execBridgeFailure_keeps s0 retries trainFail s h
  | .coreFence core reason => execCoreFence_keeps s0 core reason s h
  | .scrubDone => execScrubDone_keeps s0 s h
  | .helloC nonce nodeKey kemKey nm kemRnd => execHelloC_keeps s0 nonce nodeKey kemKey nm kemRnd s h
  | .finishC sig => execFinishC_keeps s0 sig s h
  | .endSession hdr => execEndSession_keeps s0 hdr s h
  | .submitGroup hdr desc len tag place peers => execSubmitGroup_keeps s0 hdr desc len tag place peers s h
  | .heldAdmission => execHeldAdmission_keeps s0 s h
  | .stepWord hdr word => execStepWord_keeps s0 hdr word s h
  | .endGroup hdr tag => execEndGroup_keeps s0 hdr tag s h
  | .bulkWrite hdr addr data => execBulkWrite_keeps s0 hdr addr data s h
  | .bulkAck reqId => execBulkAck_keeps s0 reqId s h
  | .bulkRead hdr addr len => execBulkRead_keeps s0 hdr addr len s h
  | .regRead hdr addrs => execRegRead_keeps s0 hdr addrs s h
  | .regWrite hdr pairs => execRegWrite_keeps s0 hdr pairs s h
  | .commitQuery hdr task => execCommitQuery_keeps s0 hdr task s h
  | .routes hdr first entries => execRoutes_keeps s0 hdr first entries s h
  | .windowOpen hdr core req => execWindowOpen_keeps s0 hdr core req s h
  | .windowClose hdr entry gen => execWindowClose_keeps s0 hdr entry gen s h
  | .shadowSwitch hdr tag copy version => execShadowSwitch_keeps s0 hdr tag copy version s h
  | .selfTest hdr unit => execSelfTest_keeps s0 hdr unit s h
  | .coreTestDone core pass => execCoreTestDone_keeps s0 core pass s h
  | .moduleTest => execModuleTest_keeps s0 s h
  | .aestivateEnter hdr => execAestivateEnter_keeps s0 hdr s h
  | .aestivationEntry => execAestivationEntry_keeps s0 s h
  | .aestivateWake hdr => execAestivateWake_keeps s0 hdr s h
  | .wakeStage port => execWakeStage_keeps s0 port s h
  | .powerCap hdr watts => execPowerCap_keeps s0 hdr watts s h
  | .ledgerRead hdr first count => execLedgerRead_keeps s0 hdr first count s h
  | .flashWrite hdr dev off data => execFlashWrite_keeps s0 hdr dev off data s h
  | .clear hdr step unit => execClear_keeps s0 hdr step unit s h
  | .restart hdr => execRestart_keeps s0 hdr s h
  | .svnRaise hdr kind => execSvnRaise_keeps s0 hdr kind s h
  | .setActive hdr kind image => execSetActive_keeps s0 hdr kind image s h
  | .attestationRequest hdr nonce => execAttestationRequest_keeps s0 hdr nonce s h
  | .events count => execEvents_keeps s0 count s h
  | .completions ctx count => execCompletions_keeps s0 ctx count s h
  | .tokens ctx count => execTokens_keeps s0 ctx count s h
  | .sidebandRead cmd => execSidebandRead_keeps s0 cmd s h
  | .bypass die => execBypass_keeps s0 die s h
  | .idcode die => execIdcode_keeps s0 die s h
  | .samplePreload die pins => execSamplePreload_keeps s0 die pins s h
  | .extest die => execExtest_keeps s0 die s h
  | .trst => execTrst_keeps s0 s h
  | .sliceBoundary => execSliceBoundary_keeps s0 s h
  | .coreMove core => execCoreMove_keeps s0 core s h
  | .stepLaunch ctx => execStepLaunch_keeps s0 ctx s h
  | .stepReplay ctx => execStepReplay_keeps s0 ctx s h
  | .stepCommit ctx tokens => execStepCommit_keeps s0 ctx tokens s h
  | .grantRequest core => execGrantRequest_keeps s0 core s h
  | .grantArrival core => execGrantArrival_keeps s0 core s h
  | .tileStart core g => execTileStart_keeps s0 core g s h
  | .tileEnd core g => execTileEnd_keeps s0 core g s h
  | .tileWdogExpiry core g => execTileWdogExpiry_keeps s0 core g s h
  | .nop core g pf => execNop_keeps s0 core g pf s h
  | .load core g pf => execLoad_keeps s0 core g pf s h
  | .loadComplete core => execLoadComplete_keeps s0 core s h
  | .matchOp core g pf => execMatchOp_keeps s0 core g pf s h
  | .mma core g pf => execMma_keeps s0 core g pf s h
  | .rowfn core g pf => execRowfn_keeps s0 core g pf s h
  | .mma2 core g pf => execMma2_keeps s0 core g pf s h
  | .drain core g pf => execDrain_keeps s0 core g pf s h
  | .ksplitCombine core => execKsplitCombine_keeps s0 core s h
  | .store core g pf => execStore_keeps s0 core g pf s h
  | .storeComplete core => execStoreComplete_keeps s0 core s h
  | .tokwait core g pf => execTokwait_keeps s0 core g pf s h
  | .tokwaitPass core g pf => execTokwaitPass_keeps s0 core g pf s h
  | .tokpost core g pf => execTokpost_keeps s0 core g pf s h
  | .tokpostEffect core g pf => execTokpostEffect_keeps s0 core g pf s h
  | .fence core g pf => execFence_keeps s0 core g pf s h
  | .fencePass core g pf => execFencePass_keeps s0 core g pf s h
  | .pruneRequest core req => execPruneRequest_keeps s0 core req s h
  | .streamEnd core => execStreamEnd_keeps s0 core s h
  | .seti core => execSeti_keeps s0 core s h
  | .addi core => execAddi_keeps s0 core s h
  | .muli core => execMuli_keeps s0 core s h
  | .andi core => execAndi_keeps s0 core s h
  | .shri core => execShri_keeps s0 core s h
  | .add core => execAdd_keeps s0 core s h
  | .sub core => execSub_keeps s0 core s h
  | .mul core => execMul_keeps s0 core s h
  | .ldc core => execLdc_keeps s0 core s h
  | .ldp core => execLdp_keeps s0 core s h
  | .loopOp core => execLoopOp_keeps s0 core s h
  | .endl core => execEndl_keeps s0 core s h
  | .jge core => execJge_keeps s0 core s h
  | .emit core => execEmit_keeps s0 core s h
  | .antRowArrival core row bad => execAntRowArrival_keeps s0 core row bad s h
  | .streamReadResponse core tracker epoch err => execStreamReadResponse_keeps s0 core tracker epoch err s h
  | .strmRespTimeout core tracker => execStrmRespTimeout_keeps s0 core tracker s h
  | .streamCancel core => execStreamCancel_keeps s0 core s h
  | .cacheFill core line => execCacheFill_keeps s0 core line s h
  | .xltInvalidate core value => execXltInvalidate_keeps s0 core value s h
  | .invalidate core => execInvalidate_keeps s0 core s h
  | .spadSplitWrite core value => execSpadSplitWrite_keeps s0 core value s h
  | .spqEnable q value => execSpqEnable_keeps s0 q value s h
  | .flush q => execFlush_keeps s0 q s h
  | .flushEffect q => execFlushEffect_keeps s0 q s h
  | .release q => execRelease_keeps s0 q s h
  | .rewind q => execRewind_keeps s0 q s h
  | .mark q => execMark_keeps s0 q s h
  | .clearMark q => execClearMark_keeps s0 q s h
  | .spqPush q data last => execSpqPush_keeps s0 q data last s h
  | .spqRead q => execSpqRead_keeps s0 q s h
  | .spqTimeout q => execSpqTimeout_keeps s0 q s h
  | .spqCloseArrival q => execSpqCloseArrival_keeps s0 q s h
  | .spqCreditReturn q => execSpqCreditReturn_keeps s0 q s h
  | .winOpenCmd entry value => execWinOpenCmd_keeps s0 entry value s h
  | .winCloseCmd entry => execWinCloseCmd_keeps s0 entry s h
  | .registerWrite addr size value => execRegisterWrite_keeps s0 addr size value s h
  | .ergRecordSend ctx => execErgRecordSend_keeps s0 ctx s h
  | .gather stack => execGather_keeps s0 stack s h
  | .scatter stack => execScatter_keeps s0 stack s h
  | .merge stack => execMerge_keeps s0 stack s h
  | .intersect stack => execIntersect_keeps s0 stack s h
  | .decompress stack => execDecompress_keeps s0 stack s h
  | .topkRow stack => execTopkRow_keeps s0 stack s h
  | .sumCheck stack => execSumCheck_keeps s0 stack s h
  | .decodeAttn stack => execDecodeAttn_keeps s0 stack s h
  | .decodeAttnMerge ctx => execDecodeAttnMerge_keeps s0 ctx s h
  | .ergOpTimeout stack => execErgOpTimeout_keeps s0 stack s h
  | .hbmPatrol stack off odecc => execHbmPatrol_keeps s0 stack off odecc s h
  | .pchNoResponse stack => execPchNoResponse_keeps s0 stack s h
  | .flitReceive port bytes codes => execFlitReceive_keeps s0 port bytes codes s h
  | .flitForward port vl => execFlitForward_keeps s0 port vl s h
  | .messageQueueCommit port vl => execMessageQueueCommit_keeps s0 port vl s h
  | .nak port seq => execNak_keeps s0 port seq s h
  | .seifRetryTimeout port => execSeifRetryTimeout_keeps s0 port s h
  | .laneUnhealthy port lane => execLaneUnhealthy_keeps s0 port lane s h
  | .portRetrain port peerMask => execPortRetrain_keeps s0 port peerMask s h
  | .retrainDone port => execRetrainDone_keeps s0 port s h
  | .retrainTimeout port => execRetrainTimeout_keeps s0 port s h
  | .portTrainRetry port lanes => execPortTrainRetry_keeps s0 port lanes s h
  | .hello port id peerPort inc => execHello_keeps s0 port id peerPort inc s h
  | .join port id inc ann => execJoin_keeps s0 port id inc ann s h
  | .withdraw port id inc ann => execWithdraw_keeps s0 port id inc ann s h
  | .departed port id inc ann => execDeparted_keeps s0 port id inc ann s h
  | .heartbeat port => execHeartbeat_keeps s0 port s h
  | .heartbeatMiss port => execHeartbeatMiss_keeps s0 port s h
  | .wake port => execWake_keeps s0 port s h
  | .wakeFlitSend port => execWakeFlitSend_keeps s0 port s h
  | .creditRequest src entry gen count => execCreditRequest_keeps s0 src entry gen count s h
  | .windowCreditGrant mcast handle rcv gen size count status => execWindowCreditGrant_keeps s0 mcast handle rcv gen size count status s h
  | .windowWrite src hdr data => execWindowWrite_keeps s0 src hdr data s h
  | .windowReadRequest src hdr => execWindowReadRequest_keeps s0 src hdr s h
  | .windowReadResponse src core tracker epoch reply => execWindowReadResponse_keeps s0 src core tracker epoch reply s h
  | .writeAcknowledgement mcast handle core status unit => execWriteAcknowledgement_keeps s0 mcast handle core status unit s h
  | .finishNotice entry gen bytes => execFinishNotice_keeps s0 entry gen bytes s h
  | .closingNotice src entry gen => execClosingNotice_keeps s0 src entry gen s h
  | .creditReturn src entry gen count slot => execCreditReturn_keeps s0 src entry gen count slot s h
  | .winCloseTimeout entry => execWinCloseTimeout_keeps s0 entry s h
  | .multicastUnitSend group rcv => execMulticastUnitSend_keeps s0 group rcv s h
  | .multicastDetach late => execMulticastDetach_keeps s0 late s h
  | .swarmDigest src hdr digest => execSwarmDigest_keeps s0 src hdr digest s h
  | .swarmPartial src hdr data => execSwarmPartial_keeps s0 src hdr data s h
  | .checkCopy src hdr data => execCheckCopy_keeps s0 src hdr data s h
  | .swarmGather src hdr entry data => execSwarmGather_keeps s0 src hdr entry data s h
  | .ready src hdr => execReady_keeps s0 src hdr s h
  | .norm src hdr q => execNorm_keeps s0 src hdr q s h
  | .committed src hdr => execCommitted_keeps s0 src hdr s h
  | .swarmCommitQuery src hdr word => execSwarmCommitQuery_keeps s0 src hdr word s h
  | .takeoverNotice src id entries => execTakeoverNotice_keeps s0 src id entries s h
  | .takeoverDone rebuilt => execTakeoverDone_keeps s0 rebuilt s h
  | .memoryWriteAck core => execMemoryWriteAck_keeps s0 core s h
  | .tableWalk core => execTableWalk_keeps s0 core s h
  | .moduleTestEnd failed => execModuleTestEnd_keeps s0 failed s h
  | .hamadaScheduledTest core => execHamadaScheduledTest_keeps s0 core s h
  | .frameDiscard cause => execFrameDiscard_keeps s0 cause s h
  | .wadiLos los up => execWadiLos_keeps s0 los up s h
  | .partnerLowMode port low => execPartnerLowMode_keeps s0 port low s h

/-- A step of the block keeps soundness: an idle step changes nothing, any other is the command at the front of the queue. -/
theorem step_keeps_sound {s t : State} (hs : s.sound = true) (h : step s = .next t) : t.sound = true := by
  unfold step at h
  split at h
  · cases h
    exact hs
  · next c rest _ => exact (exec_keeps (Keeps.refl { s with pending := rest }) c t h).sound hs

/-- Flash as supplied is canonical, whatever bytes it holds. -/
theorem suppliedFlash_wf (dev : Nat) : Table.wf 0xFF (suppliedFlash dev) = true :=
  Table.wf_foldl (Config.shippedFlash dev) (fun _ (p : Nat × Byte) => p.1) (fun _ p => p.2) (Table.wf_nil _)

theorem reset_sound : State.reset.sound = true := by
  have hmem : memOk [] = true := rfl
  have hregs : regsOk [] = true := rfl
  simp only [State.sound, State.reset, hmem, hregs, suppliedFlash_wf, Table.wf_nil, Bool.and_true]

/-- Settles O3: the laws of every command, put together over the queue. -/
theorem stepKeepsSound : Obligations.StepKeepsSound := fun _ _ => step_keeps_sound

/-- Settles O1. -/
theorem stepTakesFront : Obligations.StepTakesFront := fun _ _ _ => rfl

/-- Settles O2. -/
theorem stepIdles : Obligations.StepIdles := by
  intro s h
  unfold step
  rw [h]

/-- Settles O4: every table is empty at reset but flash, which is canonical as supplied. -/
theorem resetSound : Obligations.ResetSound := reset_sound

end Sys2Proof.Machine
end

section
/-!
The access codes of register fields (R8, R9, R11), bit by bit.
-/
namespace Sys2Proof.Machine

/-! The masks. -/

/-- A mask of `hi:lo` holds exactly the bits of the field. -/
theorem testBit_fieldMask {hi lo : Nat} (h : lo ≤ hi) (i : Nat) :
    ((2 ^ (hi + 1 - lo) - 1) * 2 ^ lo).testBit i = decide (lo ≤ i ∧ i ≤ hi) := by
  rw [Nat.testBit_mul_two_pow, Nat.testBit_two_pow_sub_one, Bool.eq_iff_iff]
  simp only [Bool.and_eq_true, decide_eq_true_eq]
  omega

/-- The complement of a word within 64 bits. -/
theorem testBit_complement {w i : Nat} (hw : w < 2 ^ 64) (hi : i < 64) : (2 ^ 64 - 1 - w).testBit i = !w.testBit i := by
  rw [Nat.sub_sub, Nat.add_comm 1 w, Nat.testBit_two_pow_sub_succ hw, decide_eq_true hi, Bool.true_and]

theorem testBit_fullMask {i : Nat} (hi : i < 64) : (2 ^ 64 - 1).testBit i = true := by
  rw [Nat.testBit_two_pow_sub_one, decide_eq_true hi]

theorem testBit_accessMask_8 (a : Nat) {i : Nat} (hi : i < 64) : (accessMask a 8).testBit i = decide (a % 8 = 0) := by
  by_cases h : a % 8 = 0
  · rw [accessMask, if_pos ⟨rfl, h⟩, testBit_fullMask hi, decide_eq_true h]
  · simp [accessMask, h]

theorem testBit_accessMask_4 (a : Nat) {i : Nat} (hi : i < 64) :
    (accessMask a 4).testBit i = (decide (a % 8 = 0 ∧ i < 32) || decide (a % 8 = 4 ∧ 32 ≤ i)) := by
  by_cases h0 : a % 8 = 0
  · rw [accessMask, if_neg (by omega), if_pos ⟨rfl, h0⟩, Nat.testBit_two_pow_sub_one]
    simp [h0]
  · by_cases h4 : a % 8 = 4
    · rw [accessMask, if_neg (by omega), if_neg (by omega), if_pos ⟨rfl, h4⟩, Nat.testBit_mul_two_pow,
        Nat.testBit_two_pow_sub_one, decide_eq_true (show i - 32 < 32 by omega)]
      simp [h4]
    · simp [accessMask, h0, h4]

theorem accessMask_otherSize (a : Nat) {n : Nat} (h8 : n ≠ 8) (h4 : n ≠ 4) : accessMask a n = 0 := by
  simp [accessMask, h8, h4]

/-! One field. -/

/-- The bit of a register that a write leaves under access code `acc`: `o`, `n` and `m` are the bit before, the bit written, and
whether the access covers it. -/
def codeBit (locked : Bool) (acc : Access) (o n m : Bool) : Bool :=
  match acc with
  | .rw => if m then n else o
  | .rwl => if m && !locked then n else o
  | .w1c => o && !(n && m)
  | _ => o

/-- Under a 64-bit mask `w`, `new` takes the place of `v` where the mask is set. -/
theorem testBit_merge (v new : Nat) {w i : Nat} (hw : w < 2 ^ 64) (hi : i < 64) :
    ((v &&& (2 ^ 64 - 1 - w)) ||| (new &&& w)).testBit i = if w.testBit i then new.testBit i else v.testBit i := by
  rw [Nat.testBit_or, Nat.testBit_and, Nat.testBit_and, testBit_complement hw hi]
  cases w.testBit i <;> simp

theorem fieldMask_lt {hi lo : Nat} (h : lo ≤ hi) (h2 : hi < 64) : (2 ^ (hi + 1 - lo) - 1) * 2 ^ lo < 2 ^ 64 :=
  calc (2 ^ (hi + 1 - lo) - 1) * 2 ^ lo < 2 ^ (hi + 1 - lo) * 2 ^ lo :=
        Nat.mul_lt_mul_of_pos_right (Nat.sub_lt (Nat.two_pow_pos _) Nat.one_pos) (Nat.two_pow_pos _)
    _ = 2 ^ (hi + 1) := by rw [← Nat.pow_add, Nat.sub_add_cancel (by omega)]
    _ ≤ 2 ^ 64 := Nat.pow_le_pow_right (by omega) (by omega)

/-- What writing one field does to a bit: the field's code inside it, where `v` still holds the bit as it was, and nothing outside. -/
theorem testBit_writeField (locked : Bool) {old new mask v i : Nat} {f : FieldDef} (hf : f.lo ≤ f.hi ∧ f.hi < 64) (hi : i < 64)
    (hv : f.lo ≤ i ∧ i ≤ f.hi → v.testBit i = old.testBit i) : (writeField locked old new mask f v).testBit i =
      if f.lo ≤ i ∧ i ≤ f.hi then codeBit locked f.acc (old.testBit i) (new.testBit i) (mask.testBit i) else v.testBit i := by
  have hm := testBit_fieldMask hf.1 i
  have hlt := fieldMask_lt hf.1 hf.2
  unfold writeField codeBit
  generalize (2 ^ (f.hi + 1 - f.lo) - 1) * 2 ^ f.lo = m at hm hlt
  have hw : m &&& mask < 2 ^ 64 := Nat.lt_of_le_of_lt Nat.and_le_left hlt
  have hc : old &&& new &&& (m &&& mask) < 2 ^ 64 := Nat.lt_of_le_of_lt Nat.and_le_right hw
  have hmerge := testBit_merge v new hw hi
  have hclear : (v &&& (2 ^ 64 - 1 - (old &&& new &&& (m &&& mask)))).testBit i =
      (v.testBit i && !(old.testBit i && new.testBit i && (m &&& mask).testBit i)) := by
    rw [Nat.testBit_and, testBit_complement hc hi, Nat.testBit_and, Nat.testBit_and]
  rw [Nat.testBit_and m, hm] at hmerge hclear
  by_cases hin : f.lo ≤ i ∧ i ≤ f.hi
  · rw [decide_eq_true hin, Bool.true_and, hv hin] at hmerge hclear
    rw [if_pos hin]
    cases f.acc with
    | rw => exact hmerge
    | rwl =>
      cases locked with
      | false => exact hmerge.trans (by simp)
      | true => exact (hv hin).trans (by simp)
    | w1c =>
      rw [hclear]
      cases old.testBit i <;> simp
    | ro | wo | hw => exact hv hin
  · rw [decide_eq_false hin, Bool.false_and] at hmerge hclear
    rw [if_neg hin]
    cases f.acc with
    | rw => exact hmerge.trans (by simp)
    | rwl =>
      cases locked with
      | false => exact hmerge.trans (by simp)
      | true => rfl
    | w1c => exact hclear.trans (by simp)
    | ro | wo | hw => rfl

/-! A list of disjoint fields. -/

/-- Fields that do not hold bit `i` leave it. -/
theorem testBit_foldl_writeField_outside (locked : Bool) (old new mask : Nat) {fs : List FieldDef} {i : Nat}
    (hfs : ∀ f ∈ fs, f.lo ≤ f.hi ∧ f.hi < 64) (hi : i < 64) (hout : ∀ f ∈ fs, i < f.lo ∨ f.hi < i) (v : Nat) :
    (fs.foldl (fun v f => writeField locked old new mask f v) v).testBit i = v.testBit i := by
  induction fs generalizing v with
  | nil => rfl
  | cons g fs ih =>
    obtain ⟨hg, hfs⟩ := List.forall_mem_cons.mp hfs
    obtain ⟨hgi, hout⟩ := List.forall_mem_cons.mp hout
    rw [List.foldl_cons, ih hfs hout, testBit_writeField locked hg hi (by omega), if_neg (by omega)]

/-- Of disjoint fields the one that holds bit `i` sets it under its code; `v` holds the bit as it was. -/
theorem testBit_foldl_writeField_inside (locked : Bool) (old new mask : Nat) {fs : List FieldDef} {i : Nat}
    (hfs : ∀ f ∈ fs, f.lo ≤ f.hi ∧ f.hi < 64) (hap : fs.Pairwise (fun f g => f.hi < g.lo ∨ g.hi < f.lo)) (hi : i < 64)
    {f : FieldDef} (hf : f ∈ fs) (hlo : f.lo ≤ i) (hhi : i ≤ f.hi) {v : Nat} (hv : v.testBit i = old.testBit i) :
    (fs.foldl (fun v f => writeField locked old new mask f v) v).testBit i =
      codeBit locked f.acc (old.testBit i) (new.testBit i) (mask.testBit i) := by
  induction fs generalizing v with
  | nil => cases hf
  | cons g fs ih =>
    obtain ⟨hg, hrest⟩ := List.forall_mem_cons.mp hfs
    obtain ⟨hgfs, hap'⟩ := List.pairwise_cons.mp hap
    rw [List.foldl_cons]
    rcases List.mem_cons.mp hf with rfl | hf
    · have hout : ∀ g ∈ fs, i < g.lo ∨ g.hi < i := fun g hg => by have := hgfs g hg; omega
      rw [testBit_foldl_writeField_outside locked old new mask hrest hi hout, testBit_writeField locked hg hi (fun _ => hv),
        if_pos ⟨hlo, hhi⟩]
    · have := hgfs f hf
      exact ih hrest hap' hf (by rw [testBit_writeField locked hg hi (by omega), if_neg (by omega), hv])

/-- Settles O18: induction over the fields, of which at most one holds the bit. -/
theorem accessCodes : Obligations.AccessCodes := by
  refine ⟨fun locked fs old new mask i hfs hap _ _ hi => ⟨fun f hf hlo hhi => ?_, fun hout => ?_⟩,
    fun a i hi => ⟨testBit_accessMask_8 a hi, testBit_accessMask_4 a hi, fun _ => accessMask_otherSize a⟩⟩
  · have key := testBit_foldl_writeField_inside locked old new mask hfs hap hi hf hlo hhi rfl
    exact ⟨fun h => key.trans (by rw [h]; rfl), fun h => key.trans (by rw [h]; rfl), fun h => key.trans (by rw [h]; rfl),
      fun h => key.trans (by rcases h with h | h | h <;> rw [h] <;> rfl)⟩
  · exact testBit_foldl_writeField_outside locked old new mask hfs hi hout old

end Sys2Proof.Machine
end

section
/-!
Registers on their paths (R7 to R11, R190, R193, R197, R205, R208, R209, R240): what a write leaves alone, and what it sets off.
-/
namespace Sys2Proof.Machine

/-! Places in the address map (R6). -/

theorem inSpad_iff (a : Nat) : inSpad a = true ↔ 0x010000000000 ≤ a ∧ a < 0x010009000000 := by
  simp only [inSpad, Bool.and_eq_true, decide_eq_true_eq]

theorem isMemory_iff (a : Nat) : isMemory a = true ↔ (a < 0x00C000000000 ∨ (0x010000000000 ≤ a ∧ a < 0x010009000000)) ∨
    (0x018000000000 ≤ a ∧ a < 0x01800C000000) ∧ a % 0x1000000 < 0x800000 := by
  have hbm : inHbm a = true ↔ a < 0x00C000000000 := decide_eq_true_iff
  simp only [isMemory, Bool.or_eq_true, hbm, inSpad_iff, inSram, Bool.and_eq_true, decide_eq_true_eq]

/-- No register address holds memory. -/
theorem inMemory_ofRegister {a : Nat} (n : Nat) (h : 0x020000000000 ≤ a) : inMemory a n = false := by
  have hm : isMemory a = false := by
    rw [Bool.eq_false_iff, ne_eq, isMemory_iff]
    omega
  rw [inMemory, hm, Bool.false_and]

/-- The block of core `c` outside its queue. -/
theorem regAt_core {c o : Nat} (hc : c < 288) (ho : o < 0x10000) (hq : ¬(0x1200 ≤ o ∧ o < 0x1240)) :
    regAt (coreBase c + o) = .core c o := by
  have hsub : coreBase c + o - 0x020000000000 = c * 0x10000 + o := by
    unfold coreBase
    omega
  have hdiv : (c * 0x10000 + o) / 0x10000 = c := by omega
  have hmod : (c * 0x10000 + o) % 0x10000 = o := by omega
  have hlow : ¬ coreBase c + o < 0x020000000000 := by
    unfold coreBase
    omega
  have hhigh : coreBase c + o < 0x020100000000 := by
    unfold coreBase
    omega
  unfold regAt
  rw [if_neg hlow, if_pos hhigh]
  simp only [hsub, hdiv, hmod]
  rw [if_neg (by omega), if_neg hq]

/-- A register of a core lies at a multiple of 8. -/
theorem coreBase_mod (c o : Nat) : (coreBase c + o) % 8 = o % 8 := by
  unfold coreBase
  omega

/-- A run of eight bytes whose ends lie in memory lies in one memory. -/
theorem isMemory_within {a i : Nat} (h : inMemory a 8 = true) (hi : i < 8) : isMemory (a + i) = true := by
  simp only [inMemory, Bool.and_eq_true, isMemory_iff] at *
  omega

/-! A write under the access codes alone. -/

/-- What a write under the access codes puts into a register, with the bounds of its rule. -/
def State.written (s : State) (a n v : Nat) : Nat :=
  boundReg (a - a % 8) (writeFields s.start.locked (fieldsAt (a - a % 8)) (s.reg (a - a % 8)) (placed a v)
    (accessMask a n &&& s.openBits (a - a % 8)))

theorem plainWrite_eq (s : State) {a n v : Nat} (hf : fieldsAt (a - a % 8) ≠ []) (hr : refusedWhole (a - a % 8) (s.written a n v) = false) :
    s.plainWrite a n v = s.putReg (a - a % 8) (s.written a n v) := by
  unfold State.plainWrite
  dsimp only
  rw [if_neg (by simpa using hf)]
  exact if_neg (by rw [← State.written, hr]; decide)

theorem plainWrite_reserved (s : State) {a : Nat} (n v : Nat) (hf : fieldsAt (a - a % 8) = []) : s.plainWrite a n v = s := by
  unfold State.plainWrite
  dsimp only
  rw [hf]
  rfl

theorem plainWrite_cases (s : State) (a n v : Nat) : s.plainWrite a n v = s ∨ ∃ w, s.plainWrite a n v = s.putReg (a - a % 8) w := by
  unfold State.plainWrite
  dsimp only
  split
  · exact .inl rfl
  · split
    · exact .inl rfl
    · exact .inr ⟨_, rfl⟩

theorem plainWrite_onlyRegs (s : State) (a n v : Nat) : OnlyRegs s (s.plainWrite a n v) := by
  rcases plainWrite_cases s a n v with h | ⟨w, h⟩
  · rw [h]
    exact OnlyRegs.refl s
  · rw [h]
    exact (OnlyRegs.refl s).putReg _ _

theorem plainWrite_reg_ne (s : State) {a b : Nat} (n v : Nat) (h : b ≠ a - a % 8) : (s.plainWrite a n v).reg b = s.reg b := by
  rcases plainWrite_cases s a n v with e | ⟨w, e⟩
  · rw [e]
  · rw [e, State.reg_putReg, if_neg h]

/-- A register without an effect of its own is written under the access codes alone. -/
theorem writeReg_plain (s : State) {a : Nat} (n v : Nat) (h : PlainReg (a - a % 8)) : s.writeReg a n v = s.plainWrite a n v := by
  unfold PlainReg at h
  unfold State.writeReg
  dsimp only
  split <;> simp_all

theorem registerWrite_powered {s : State} (a n : Nat) (v : Word) (h : s.powered = true) :
    exec (.registerWrite a n v) s = .next (s.mantisWrite a n v.toNat) := by
  show execRegisterWrite a n v s = _
  rw [execRegisterWrite, if_pos h]

theorem mantisWrite_register (s : State) {a n : Nat} (v : Nat) (h : inMemory a n = false) : s.mantisWrite a n v = s.writeReg a n v := by
  rw [State.mantisWrite, if_neg (by rw [h]; decide)]

/-- R8: a reserved register reads as zero. -/
theorem readReg_reserved (s : State) {a : Nat} (n : Nat) (h : fieldsAt (a - a % 8) = []) : s.readReg a n = 0 := by
  have hv : s.view (a - a % 8) = 0 := by rw [State.view, h]; rfl
  unfold State.readReg
  split
  · next e => rwa [e.2, Nat.sub_zero] at hv
  · split
    · next e =>
      rw [e.2, Nat.sub_zero] at hv
      rw [hv, Nat.zero_mod]
    · split
      · next e =>
        rw [e.2] at hv
        rw [hv, Nat.zero_div]
      · rfl

/-- R8: an access of another size reads as zero. -/
theorem readReg_otherSize (s : State) (a : Nat) {n : Nat} (h8 : n ≠ 8) (h4 : n ≠ 4) : s.readReg a n = 0 := by
  simp [State.readReg, h8, h4]

theorem registerWrite_plain (s : State) (a n : Nat) (v : Word) (hp : s.powered = true) (hm : inMemory a n = false)
    (hr : PlainReg (a - a % 8)) (hf : fieldsAt (a - a % 8) ≠ []) (hw : refusedWhole (a - a % 8) (s.written a n v.toNat) = false) :
    Gives (.registerWrite a n v) s (fun t => t.reg (a - a % 8) = s.written a n v.toNat % 2 ^ 64 ∧
      (∀ b, b ≠ a - a % 8 → t.reg b = s.reg b) ∧ { t with regs := s.regs } = s) := by
  refine ⟨s.putReg (a - a % 8) (s.written a n v.toNat), ?_, ?_, fun b hb => ?_, rfl⟩
  · rw [registerWrite_powered a n v hp, mantisWrite_register s _ hm, writeReg_plain s n _ hr, plainWrite_eq s hf hw]
  · rw [State.reg_putReg, if_pos rfl]
  · rw [State.reg_putReg, if_neg hb]

theorem registerWrite_reserved (s : State) (a n : Nat) (v : Word) (hp : s.powered = true) (hm : inMemory a n = false)
    (hr : PlainReg (a - a % 8)) (hf : fieldsAt (a - a % 8) = []) : Gives (.registerWrite a n v) s (fun t => t = s) :=
  ⟨s, by rw [registerWrite_powered a n v hp, mantisWrite_register s _ hm, writeReg_plain s n _ hr, plainWrite_reserved s _ _ hf], rfl⟩

/-! A resident region's registers (R197). -/

/-- A write of a register of region `i` ends the region's load. -/
theorem writeRes_unloads (s : State) (c i a v : Nat) (ha : a % 8 = 0) :
    Shows (s.writeRes c i a 8 v) (Reg.SPAD_RES c i) Fld.SPAD_RESn_LOADED 0 ∧
      (∀ b, b ≠ Reg.SPAD_RES c i → b ≠ a → (s.writeRes c i a 8 v).reg b = s.reg b) ∧ OnlyRegs s (s.writeRes c i a 8 v) := by
  have hmask : accessMask a 8 ≠ 0 := by
    rw [accessMask, if_pos ⟨rfl, ha⟩]
    decide
  rw [State.writeRes, if_neg hmask]
  refine ⟨Shows_same _ _ _ _ (by decide) (by decide), fun b hb hba => ?_, (plainWrite_onlyRegs s a 8 v).setFld _ _ _⟩
  rw [State.reg_setFld_ne _ _ _ hb, plainWrite_reg_ne s _ _ (by rwa [ha, Nat.sub_zero])]

/-- An aligned write of a register of core `c` comes to that register. -/
theorem registerWrite_core {s : State} {c o a : Nat} (ha : a = coreBase c + o) (ho : o % 8 = 0) (v : Word) (hp : s.powered = true) :
    exec (.registerWrite a 8 v) s = .next (s.writeReg a 8 v.toNat) ∧ a % 8 = 0 := by
  have hreg : 0x020000000000 ≤ a := by
    unfold coreBase at ha
    omega
  exact ⟨by rw [registerWrite_powered _ _ _ hp, mantisWrite_register s _ (inMemory_ofRegister _ hreg)], by rw [ha, coreBase_mod, ho]⟩

/-- The registers of region `i`: its place, and its backing address. -/
theorem writeReg_region (s : State) {a c i o : Nat} (n v : Nat) (hi : i < 2) (ho : o = 0xF10 + 8 * i ∨ o = 0xF20 + 8 * i)
    (hat : regAt (a - a % 8) = .core c o) : s.writeReg a n v = s.writeRes c i a n v := by
  have cases_ : o = 0xF10 ∧ i = 0 ∨ o = 0xF18 ∧ i = 1 ∨ o = 0xF20 ∧ i = 0 ∨ o = 0xF28 ∧ i = 1 := by omega
  rcases cases_ with ⟨rfl, rfl⟩ | ⟨rfl, rfl⟩ | ⟨rfl, rfl⟩ | ⟨rfl, rfl⟩ <;> simp only [State.writeReg, hat]

theorem registerWrite_region (s : State) {c i a o : Nat} (hc : c < 288) (hi : i < 2) (hp : s.powered = true) (v : Word)
    (ha : a = coreBase c + o) (ho : o = 0xF10 + 8 * i ∨ o = 0xF20 + 8 * i) :
    exec (.registerWrite a 8 v) s = .next (s.writeRes c i a 8 v.toNat) ∧ a % 8 = 0 := by
  obtain ⟨he, h8⟩ := registerWrite_core ha (by omega) v hp
  have hat : regAt (a - a % 8) = .core c o := by rw [h8, Nat.sub_zero, ha]; exact regAt_core hc (by omega) (by omega)
  exact ⟨by rw [he, writeReg_region s _ _ hi ho hat], h8⟩

theorem registerWrite_unloads (s : State) {c i : Nat} (hc : c < 288) (hi : i < 2) (hp : s.powered = true) (v : Word) :
    Gives (.registerWrite (Reg.SPAD_RES c i) 8 v) s (fun t => Shows t (Reg.SPAD_RES c i) Fld.SPAD_RESn_LOADED 0 ∧
      (∀ a, a ≠ Reg.SPAD_RES c i → t.reg a = s.reg a) ∧ OnlyRegs s t) := by
  obtain ⟨he, h8⟩ := registerWrite_region s hc hi hp v (Nat.add_assoc _ _ _ : Reg.SPAD_RES c i = _) (.inl rfl)
  obtain ⟨h1, h2, h3⟩ := writeRes_unloads s c i (Reg.SPAD_RES c i) v.toNat h8
  exact ⟨_, he, h1, fun a ha => h2 a ha ha, h3⟩

theorem registerWrite_src_unloads (s : State) {c i : Nat} (hc : c < 288) (hi : i < 2) (hp : s.powered = true) (v : Word) :
    Gives (.registerWrite (Reg.SPAD_RES_SRC c i) 8 v) s (fun t => Shows t (Reg.SPAD_RES c i) Fld.SPAD_RESn_LOADED 0 ∧
      (∀ a, a ≠ Reg.SPAD_RES c i → a ≠ Reg.SPAD_RES_SRC c i → t.reg a = s.reg a) ∧ OnlyRegs s t) := by
  obtain ⟨he, h8⟩ := registerWrite_region s hc hi hp v (Nat.add_assoc _ _ _ : Reg.SPAD_RES_SRC c i = _) (.inr rfl)
  obtain ⟨h1, h2, h3⟩ := writeRes_unloads s c i (Reg.SPAD_RES_SRC c i) v.toNat h8
  exact ⟨_, he, h1, h2, h3⟩

end Sys2Proof.Machine
end

section
/-!
A write into memory on the Mantis path (R6, R7, R184 to R187, R197): the bytes that land, the access noted, and the resident regions that
it touches.
-/
namespace Sys2Proof.Machine

/-! What lands in a scratchpad. -/

/-- One access that a write meets leaves each byte to be written, or the byte in place where that access writes it first. -/
theorem meet_bytes (c : Nat) (u : SpadUnit) (a : Nat) (p : State × List Byte) (x : SpadAcc) {i : Nat} (hi : i < p.2.length) :
    nth 0 (State.meet c u a p x).2 i = nth 0 p.2 i ∨ (nth 0 (State.meet c u a p x).2 i = p.1.byte (a + i) ∧
      x.write = true ∧ x.unit.rank < u.rank ∧ x.covers (a + i) = true) := by
  unfold State.meet
  dsimp only
  split
  · exact .inl rfl
  · split
    · exact .inl rfl
    · split
      · next hw =>
        have hget : p.2[i]? = some p.2[i] := List.getElem?_eq_getElem hi
        by_cases hx : x.unit.rank < u.rank ∧ x.covers (a + i) = true
        · exact .inr ⟨by simp [nth, List.getElem?_mapIdx, hget, hx], hw, hx⟩
        · refine .inl ?_
          simp only [nth, List.getElem?_mapIdx, hget, Option.map_some, Option.getD_some]
          exact if_neg (by simpa using hx)
      · exact .inl rfl

/-- The same of every access that a write meets. -/
theorem meets_bytes (c : Nat) (u : SpadUnit) (a : Nat) (l : List SpadAcc) {p : State × List Byte} {i : Nat} (hi : i < p.2.length) :
    nth 0 (l.foldl (State.meet c u a) p).2 i = nth 0 p.2 i ∨ (nth 0 (l.foldl (State.meet c u a) p).2 i = p.1.byte (a + i) ∧
      ∃ x ∈ l, x.write = true ∧ x.unit.rank < u.rank ∧ x.covers (a + i) = true) := by
  induction l generalizing p with
  | nil => exact .inl rfl
  | cons x l ih =>
    obtain ⟨hmem, hlen⟩ := meet_mem c u a p x
    have hbyte : (State.meet c u a p x).1.byte (a + i) = p.1.byte (a + i) := congrArg (tget 0 · (a + i)) hmem
    rw [List.foldl_cons]
    rcases ih (p := State.meet c u a p x) (by rw [hlen]; exact hi) with h | ⟨h, y, hy, hrest⟩
    · rw [h]
      rcases meet_bytes c u a p x hi with h | ⟨h, hx⟩
      · exact .inl h
      · exact .inr ⟨h, x, List.mem_cons_self, hx⟩
    · exact .inr ⟨h.trans hbyte, y, List.mem_cons_of_mem _ hy, hrest⟩

/-- What a write meets changes neither the accesses noted nor any register but the core's count of meetings. -/
theorem meet_rest (c : Nat) (u : SpadUnit) (a : Nat) (p : State × List Byte) (x : SpadAcc) :
    (State.meet c u a p x).1.spadAcc = p.1.spadAcc ∧
      ∀ r, r ≠ Reg.SPAD_ROW_COLLIDE c → (State.meet c u a p x).1.reg r = p.1.reg r := by
  have hb (f : Fld) (n : Nat) : (p.1.bump (Reg.SPAD_ROW_COLLIDE c) f n).used.spadAcc = p.1.spadAcc ∧
      ∀ r, r ≠ Reg.SPAD_ROW_COLLIDE c → (p.1.bump (Reg.SPAD_ROW_COLLIDE c) f n).used.reg r = p.1.reg r :=
    ⟨by rw [State.used_spadAcc, State.bump_spadAcc], fun r hr => by rw [State.used_reg, State.bump, State.reg_setFld_ne _ _ _ hr]⟩
  unfold State.meet
  dsimp only
  split
  · exact ⟨rfl, fun _ _ => rfl⟩
  · split
    · exact ⟨rfl, fun _ _ => rfl⟩
    · split
      · exact hb _ _
      · exact hb _ _

theorem meets_rest (c : Nat) (u : SpadUnit) (a : Nat) (l : List SpadAcc) (p : State × List Byte) :
    (l.foldl (State.meet c u a) p).1.spadAcc = p.1.spadAcc ∧
      ∀ r, r ≠ Reg.SPAD_ROW_COLLIDE c → (l.foldl (State.meet c u a) p).1.reg r = p.1.reg r := by
  induction l generalizing p with
  | nil => exact ⟨rfl, fun _ _ => rfl⟩
  | cons x l ih =>
    obtain ⟨h1, h2⟩ := ih (State.meet c u a p x)
    obtain ⟨k1, k2⟩ := meet_rest c u a p x
    exact ⟨h1.trans k1, fun r hr => (h2 r hr).trans (k2 r hr)⟩

/-- R186, R187: what an agent writes lands, but for the bytes that another agent's write keeps. -/
theorem land_landed (s : State) (u : SpadUnit) (own : Option (SectId × Nat)) (a : Nat) (bs : List Byte)
    (hm : ∀ i, i < bs.length → isMemory (a + i) = true) : Landed s (s.land u own a bs) u a bs := by
  obtain ⟨hmem, hlen⟩ := meets_mem (spadCore a) u a (s.accesses (spadCore a)) (s, bs)
  have hbyte (b : Nat) : (s.land u own a bs).byte b = if a ≤ b ∧ b < a + bs.length ∧ isMemory b then
      nth 0 ((s.accesses (spadCore a)).foldl (State.meet (spadCore a) u a) (s, bs)).2 (b - a) else s.byte b := by
    have hkept : ((s.accesses (spadCore a)).foldl (State.meet (spadCore a) u a) (s, bs)).1.byte b = s.byte b :=
      congrArg (tget 0 · b) hmem
    unfold State.land State.landAt
    rw [State.noteAcc_byte, State.byte_store, hlen, hkept]
    rfl
  refine ⟨fun i hi => ?_, fun b hb => ?_⟩
  · rw [hbyte, if_pos ⟨by omega, by omega, hm i hi⟩, Nat.add_sub_cancel_left]
    exact meets_bytes (spadCore a) u a _ (p := (s, bs)) hi
  · rw [hbyte, if_neg (by omega)]

theorem noteAcc_accesses (s : State) (c k : Nat) (x : SpadAcc) : (s.noteAcc c x).accesses k =
    if k = c then x :: (s.accesses c).filter (fun y => !(y.unit == x.unit && y.write == x.write)) else s.accesses k := by
  simp only [State.noteAcc, State.accesses, tget_tput]

theorem noteAcc_accesses_ne (s : State) {c k : Nat} (x : SpadAcc) (h : k ≠ c) : (s.noteAcc c x).accesses k = s.accesses k := by
  rw [noteAcc_accesses, if_neg h]

/-- A write that lands is noted in place of the agent's last one, at the scratchpad it goes to alone. -/
theorem land_accesses (s : State) (u : SpadUnit) (own : Option (SectId × Nat)) (a : Nat) (bs : List Byte) :
    (∀ k, k ≠ spadCore a → (s.land u own a bs).accesses k = s.accesses k) ∧
      ⟨u, true, [(a, bs.length)], own⟩ ∈ (s.land u own a bs).accesses (spadCore a) := by
  have hacc (k : Nat) : (s.landAt u a bs).accesses k = s.accesses k := by
    unfold State.landAt State.accesses
    rw [State.store_spadAcc, (meets_rest _ _ _ _ _).1]
  unfold State.land
  refine ⟨fun k hk => (noteAcc_accesses_ne _ _ hk).trans (hacc k), ?_⟩
  rw [noteAcc_accesses, if_pos rfl]
  exact List.mem_cons_self

theorem land_reg (s : State) (u : SpadUnit) (own : Option (SectId × Nat)) (a : Nat) (bs : List Byte) {r : Nat}
    (hr : r ≠ Reg.SPAD_ROW_COLLIDE (spadCore a)) : (s.land u own a bs).reg r = s.reg r := by
  unfold State.land State.landAt
  rw [State.noteAcc_reg, State.store_reg, (meets_rest _ _ _ _ _).2 r hr]

theorem land_touched (s : State) (u : SpadUnit) (own : Option (SectId × Nat)) {a : Nat} (bs : List Byte) (h : inSpad a = true) :
    Touched s (s.land u own a bs) := by
  unfold State.land
  exact (landAt_touched s u a bs h).trans (noteAcc_touched _ _ _)

/-! Resident regions that a write touches (R197). -/

/-- Region `i` of core `c` is valid and holds a byte of `n` from `a`. -/
def State.resHolds (s : State) (c i a n : Nat) : Bool :=
  let r := s.reg (Reg.SPAD_RES c i)
  let b := spadBase c + 128 * bitsOf r 11 0
  bitAt r 40 && b < a + n && a < b + 128 * bitsOf r 24 12

/-- What a write through the aperture does to one region. -/
def State.unloadRes (s : State) (a n i : Nat) : State :=
  if s.resHolds (spadCore a) i a n then s.setFld (Reg.SPAD_RES (spadCore a) i) Fld.SPAD_RESn_LOADED 0 else s

theorem unloadAt_foldl (s : State) (a n : Nat) :
    s.unloadAt a n = if !inSpad a then s else [0, 1].foldl (fun t i => t.unloadRes a n i) s := rfl

theorem unloadAt_eq (s : State) {a : Nat} (n : Nat) (h : inSpad a = true) : s.unloadAt a n = (s.unloadRes a n 0).unloadRes a n 1 := by
  rw [unloadAt_foldl, if_neg (by rw [h]; decide), List.foldl_cons, List.foldl_cons, List.foldl_nil]

theorem unloadAt_outside (s : State) {a : Nat} (n : Nat) (h : inSpad a = false) : s.unloadAt a n = s := by
  unfold State.unloadAt
  rw [h]
  rfl

theorem unloadRes_onlyRegs (s : State) (a n i : Nat) : OnlyRegs s (s.unloadRes a n i) := by
  unfold State.unloadRes
  split
  · exact (OnlyRegs.refl s).setFld _ _ _
  · exact OnlyRegs.refl s

theorem unloadRes_reg_ne (s : State) {a i r : Nat} (n : Nat) (h : r ≠ Reg.SPAD_RES (spadCore a) i) :
    (s.unloadRes a n i).reg r = s.reg r := by
  unfold State.unloadRes
  split
  · exact State.reg_setFld_ne _ _ _ h
  · rfl

theorem unloadRes_shows (s : State) {a n i : Nat} (h : s.resHolds (spadCore a) i a n = true) :
    Shows (s.unloadRes a n i) (Reg.SPAD_RES (spadCore a) i) Fld.SPAD_RESn_LOADED 0 := by
  rw [State.unloadRes, if_pos h]
  exact Shows_same _ _ _ _ (by decide) (by decide)

theorem OnlyRegs.trans {s t u : State} (h : OnlyRegs s t) (k : OnlyRegs t u) : OnlyRegs s u := by
  unfold OnlyRegs at *
  rw [← h, ← k]

theorem OnlyRegs.eq {s t : State} (h : OnlyRegs s t) : t = { s with regs := t.regs } := by
  unfold OnlyRegs at h
  rw [← h]

theorem OnlyRegs.mem {s t : State} (h : OnlyRegs s t) : t.mem = s.mem := by
  unfold OnlyRegs at h
  rw [← h]

theorem OnlyRegs.accesses {s t : State} (h : OnlyRegs s t) (k : Nat) : t.accesses k = s.accesses k := by
  unfold OnlyRegs at h
  rw [← h]
  rfl

theorem spadRes_inj {c i j : Nat} (h : i ≠ j) : Reg.SPAD_RES c i ≠ Reg.SPAD_RES c j := by
  unfold Reg.SPAD_RES
  omega

theorem unloadAt_onlyRegs (s : State) (a n : Nat) : OnlyRegs s (s.unloadAt a n) := by
  cases h : inSpad a with
  | false =>
    rw [unloadAt_outside s n h]
    exact OnlyRegs.refl s
  | true =>
    rw [unloadAt_eq s n h]
    exact (unloadRes_onlyRegs s a n 0).trans (unloadRes_onlyRegs _ a n 1)

theorem unloadAt_reg_ne (s : State) {a r : Nat} (n : Nat) (h0 : r ≠ Reg.SPAD_RES (spadCore a) 0) (h1 : r ≠ Reg.SPAD_RES (spadCore a) 1) :
    (s.unloadAt a n).reg r = s.reg r := by
  cases h : inSpad a with
  | false => rw [unloadAt_outside s n h]
  | true => rw [unloadAt_eq s n h, unloadRes_reg_ne _ n h1, unloadRes_reg_ne _ n h0]

/-- A valid region that holds a byte written is not loaded any more. -/
theorem unloadAt_shows (s : State) {a n i : Nat} (h : inSpad a = true) (hi : i < 2) (hr : s.resHolds (spadCore a) i a n = true) :
    Shows (s.unloadAt a n) (Reg.SPAD_RES (spadCore a) i) Fld.SPAD_RESn_LOADED 0 := by
  rw [unloadAt_eq s n h]
  rcases (by omega : i = 0 ∨ i = 1) with rfl | rfl
  · have hkept := unloadRes_reg_ne (s.unloadRes a n 0) n (spadRes_inj (c := spadCore a) (by decide : (0 : Nat) ≠ 1))
    unfold Shows State.fld
    rw [hkept]
    exact unloadRes_shows s hr
  · refine unloadRes_shows _ ?_
    unfold State.resHolds at hr ⊢
    rwa [unloadRes_reg_ne s n (spadRes_inj (by decide : (1 : Nat) ≠ 0))]

/-! The write. -/

theorem spadRes_ne_collide (c i : Nat) (hi : i < 2) : Reg.SPAD_RES c i ≠ Reg.SPAD_ROW_COLLIDE c := by
  unfold Reg.SPAD_RES Reg.SPAD_ROW_COLLIDE
  omega

/-- A write of a scratchpad through the aperture. -/
theorem mantisWrite_spad (s : State) {a : Nat} (n v : Nat) (h : inMemory a n = true) (hs : inSpad a = true) :
    s.mantisWrite a n v = (s.land .aperture none a (leBytes n v)).unloadAt a n := by
  rw [State.mantisWrite, if_pos h, if_pos hs]

/-- A write of HBM or of an Erg SRAM. -/
theorem mantisWrite_store (s : State) {a : Nat} (n v : Nat) (h : inMemory a n = true) (hs : inSpad a = false) :
    s.mantisWrite a n v = s.store a (leBytes n v) := by
  rw [State.mantisWrite, if_pos h, if_neg (by rw [hs]; decide), unloadAt_outside _ _ hs]

theorem Landed.of_mem {s t t' : State} {u : SpadUnit} {a : Nat} {bs : List Byte} (h : Landed s t u a bs) (e : t'.mem = t.mem) :
    Landed s t' u a bs := by
  have hb (b : Nat) : t'.byte b = t.byte b := congrArg (tget 0 · b) e
  exact ⟨fun i hi => by rw [hb]; exact h.1 i hi, fun b hm => by rw [hb]; exact h.2 b hm⟩

theorem registerWrite_memory (s : State) (a : Nat) (v : Word) (hp : s.powered = true) (hm : inMemory a 8 = true) :
    Gives (.registerWrite a 8 v) s (fun t =>
      (inSpad a = false → (∀ b, t.byte b = if a ≤ b ∧ b < a + 8 ∧ isMemory b then nth 0 (leBytes 8 v.toNat) (b - a) else s.byte b) ∧
        t.spadAcc = s.spadAcc ∧ t.free = s.free) ∧
      (inSpad a = true → Landed s t .aperture a (leBytes 8 v.toNat) ∧
        (∀ k, k ≠ spadCore a → t.accesses k = s.accesses k) ∧ ⟨.aperture, true, [(a, 8)], none⟩ ∈ t.accesses (spadCore a)) ∧
      (∀ i, i < 2 → ∀ r, r = Reg.SPAD_RES (spadCore a) i → inSpad a = true → s.fld r Fld.SPAD_RESn_VALID = 1 →
        spadBase (spadCore a) + 128 * bitsOf (s.reg r) 11 0 < a + 8 →
        a < spadBase (spadCore a) + 128 * bitsOf (s.reg r) 11 0 + 128 * bitsOf (s.reg r) 24 12 → Shows t r Fld.SPAD_RESn_LOADED 0) ∧
      (∀ r, inSpad a = false ∨ (r ≠ Reg.SPAD_RES (spadCore a) 0 ∧ r ≠ Reg.SPAD_RES (spadCore a) 1 ∧
        r ≠ Reg.SPAD_ROW_COLLIDE (spadCore a)) → t.reg r = s.reg r) ∧
      { t with
        regs := s.regs, mem := s.mem, badBytes := s.badBytes, badAcc := s.badAcc, softAcc := s.softAcc, spadAcc := s.spadAcc
        free := s.free } = s) := by
  refine ⟨_, registerWrite_powered a 8 v hp, ?_⟩
  cases hs : inSpad a with
  | false =>
    rw [mantisWrite_store s _ _ hm hs]
    refine ⟨fun _ => ⟨fun b => ?_, rfl, rfl⟩, fun h => absurd h (by decide), fun _ _ _ _ h => absurd h (by decide), fun _ _ => rfl, rfl⟩
    rw [State.byte_store, leBytes_length]
    rfl
  | true =>
    rw [mantisWrite_spad s _ _ hm hs]
    have hlen : (leBytes 8 v.toNat).length = 8 := leBytes_length _ _
    have hland := land_landed s .aperture none a (leBytes 8 v.toNat) (fun i hi => isMemory_within hm (by omega))
    obtain ⟨hothers, hnoted⟩ := land_accesses s .aperture none a (leBytes 8 v.toNat)
    have hrest := (land_touched s .aperture none (leBytes 8 v.toNat) hs).2
    have hreg {r : Nat} := land_reg s .aperture none a (leBytes 8 v.toNat) (r := r)
    rw [hlen] at hnoted
    generalize s.land .aperture none a (leBytes 8 v.toNat) = t at *
    have honly := unloadAt_onlyRegs t a 8
    refine ⟨fun h => absurd h (by decide), fun _ => ⟨hland.of_mem honly.mem, fun k hk => (honly.accesses k).trans (hothers k hk), by rwa [honly.accesses]⟩,
      fun i hi r hr _ hvalid hlow hhigh => ?_, fun r hr => ?_, ?_⟩
    · subst hr
      refine unloadAt_shows t hs hi ?_
      rw [State.resHolds, hreg (spadRes_ne_collide _ i hi)]
      simp only [Bool.and_eq_true, decide_eq_true_eq]
      refine ⟨⟨?_, hlow⟩, hhigh⟩
      exact beq_iff_eq.mpr hvalid
    · obtain ⟨h0, h1, h2⟩ := hr.resolve_left (by decide)
      rw [unloadAt_reg_ne t 8 h0 h1, hreg h2]
    · have honly := honly.eq
      generalize t.unloadAt a 8 = w at honly
      rw [honly, hrest]

end Sys2Proof.Machine
end

section
/-!
Writes that empty a core's cache or drop its translations (R190, R193, R208, R209, R240), and a stream engine that has nothing to do.
-/
namespace Sys2Proof.Machine

/-! A core put back as it was. -/

/-- Nothing differs as the cores are read. -/
def SameCores (s t : State) : Prop := (∀ k, t.core k = s.core k) ∧ { t with cores := s.cores } = s

theorem SameCores.refl (s : State) : SameCores s s := ⟨fun _ => rfl, rfl⟩

theorem SameCores.trans {s t u : State} (h : SameCores s t) (k : SameCores t u) : SameCores s u := by
  refine ⟨fun i => (k.1 i).trans (h.1 i), ?_⟩
  have hs := h.2
  have ht := k.2
  rw [← ht] at hs
  exact hs

theorem putCore_same (s : State) {c : Nat} {x : Core} (h : x = s.core c) : SameCores s (s.putCore c x) := by
  refine ⟨fun k => ?_, rfl⟩
  rw [State.putCore_core]
  split
  · next e => rw [h, e]
  · rfl

theorem SameCores.rests {s t : State} {c : Nat} (h : SameCores s t) (r : EngineRests s c) : EngineRests t c := by
  unfold EngineRests
  rw [h.1 c]
  exact r

theorem SameCores.reg {s t : State} (h : SameCores s t) (a : Nat) : t.reg a = s.reg a := by
  rw [← h.2]
  rfl

/-! An engine at rest. -/

theorem registerBlocks_rests {s : State} {c : Nat} (h : EngineRests s c) : SameCores s (s.registerBlocks c) := by
  obtain ⟨_, _, hagain⟩ := h
  unfold State.registerBlocks
  rw [hagain, List.foldl_nil]
  exact putCore_same s (by rw [← hagain])

theorem pumpOnce_rests {s : State} {c : Nat} (h : EngineRests s c) : SameCores s (s.pumpOnce c) := by
  obtain ⟨_, hlines, _⟩ := h
  unfold State.pumpOnce
  dsimp only
  rw [hlines, List.foldl_nil]
  exact putCore_same s (by rw [← hlines])

theorem sendNext_rests {s : State} {c : Nat} (h : EngineRests s c) : s.sendNext c = none := by
  obtain ⟨hops, _, hagain⟩ := h
  have hsender : (s.core c).sender = none := by rw [Core.sender, Core.queued, hops]; rfl
  unfold State.sendNext
  rw [hagain, hsender]
  rfl

theorem goOn_rests {s : State} {c n : Nat} (h : EngineRests s c) : SameCores s (s.goOn (n + 1) c) := by
  have hp := pumpOnce_rests h
  unfold State.goOn
  dsimp only
  rw [sendNext_rests (hp.rests h)]
  exact hp

/-- An engine with nothing to do leaves everything as it is. -/
theorem pumpCore_rests {s : State} {c : Nat} (h : EngineRests s c) : SameCores s (s.pumpCore c) := by
  have hr := registerBlocks_rests h
  have ht : SameCores s ((s.registerBlocks c).goOn engineFuel c) := hr.trans (goOn_rests (n := engineFuel - 1) (hr.rests h))
  have hf : ((s.registerBlocks c).goOn engineFuel c).fenced c = s.fenced c := by
    unfold State.fenced
    rw [ht.reg]
  unfold State.pumpCore
  dsimp only
  rw [hf, if_neg (by cases s.fenced c <;> decide)]
  exact ht

theorem EngineRests.flushCache {s t : State} {c : Nat} (h : EngineRests s c) (e : t.core c = s.core c) :
    EngineRests (t.flushCache c) c := by
  unfold State.flushCache EngineRests
  rw [State.putCore_core, if_pos rfl, e]
  exact h

theorem invalidate_empties (s : State) {c : Nat} (hc : c < 288) :
    let u := s.putCore c { s.core c with cache := [], plru := [] }
    Gives (.invalidate c) s (fun t => t = u.pumpCore c ∧
      (EngineRests s c → (∀ k, t.core k = u.core k) ∧ { t with cores := s.cores } = s)) := by
  refine ⟨(s.flushCache c).pumpCore c, ?_, rfl, fun h => ?_⟩
  · show execInvalidate c s = _
    rw [execInvalidate, if_pos hc]
  · obtain ⟨hcore, hrest⟩ := pumpCore_rests (h.flushCache rfl)
    refine ⟨hcore, ?_⟩
    generalize (s.flushCache c).pumpCore c = t at hrest
    exact congrArg (fun x : State => { x with cores := s.cores }) hrest

/-- A write of SPAD_SPLIT writes the register and empties the core's cache, and what waits for the cache goes on. -/
theorem writeReg_split (s : State) {a c : Nat} (v : Nat) (h8 : a % 8 = 0) (hat : regAt a = .core c 0xF00) : s.writeReg a 8 v =
    if s.spadWindow c = true then s else ((s.plainWrite a 8 v).flushCache c).pumpCore c := by
  have hmask : accessMask a 8 ≠ 0 := by
    rw [accessMask, if_pos ⟨rfl, h8⟩]
    decide
  simp only [State.writeReg, h8, Nat.sub_zero, hat, hmask, false_or]

theorem spadSplit_mod (c : Nat) : Reg.SPAD_SPLIT c % 8 = 0 := coreBase_mod c 0xF00

theorem spadSplitWrite_eq (s : State) {c : Nat} (v : Word) (hp : s.powered = true) (hc : c < 288) : exec (.spadSplitWrite c v) s =
    .next (if s.spadWindow c = true then s else ((s.plainWrite (Reg.SPAD_SPLIT c) 8 v.toNat).flushCache c).pumpCore c) := by
  show execSpadSplitWrite c v s = _
  rw [execSpadSplitWrite, if_pos (by simp [hp, hc]),
    writeReg_split s _ (spadSplit_mod c) (regAt_core (o := 0xF00) hc (by decide) (by decide))]

/-- A core's cache emptied after a write of register `a`, and the engine going on after that. -/
theorem flushCache_afterWrite {s w : State} {a c : Nat} (ho : OnlyRegs s w) (hreg : ∀ b, b ≠ a → w.reg b = s.reg b) :
    (EngineRests s c → ∀ k, ((w.flushCache c).pumpCore c).core k = (w.flushCache c).core k) ∧
      (w.flushCache c).core c = { s.core c with cache := [], plru := [] } ∧
      (∀ k, k ≠ c → (w.flushCache c).core k = s.core k) ∧ (w.flushCache c).reg a = w.reg a ∧
      (∀ b, b ≠ a → (w.flushCache c).reg b = s.reg b) ∧ { w.flushCache c with regs := s.regs, cores := s.cores } = s ∧
      (EngineRests s c → { (w.flushCache c).pumpCore c with cores := s.cores } = { w.flushCache c with cores := s.cores }) := by
  have hcore (k : Nat) : w.core k = s.core k := by
    rw [ho.eq]
    rfl
  have hflush (k : Nat) : (w.flushCache c).reg k = w.reg k := by rw [State.flushCache, State.putCore_reg]
  refine ⟨fun h => (pumpCore_rests (h.flushCache (hcore c))).1, ?_, fun k hk => ?_, hflush a, fun b hb => ?_, ?_, fun h => ?_⟩
  · rw [State.flushCache, State.putCore_core, if_pos rfl, hcore]
  · rw [State.flushCache, State.putCore_core, if_neg hk, hcore]
  · rw [hflush, hreg b hb]
  · rw [ho.eq]
    rfl
  · exact congrArg (fun x : State => { x with cores := s.cores }) (pumpCore_rests (h.flushCache (hcore c))).2

theorem spadSplitWrite_empties (s : State) {c : Nat} (v : Word) (hp : s.powered = true) (hc : c < 288) (hw : s.spadWindow c = false) :
    Gives (.spadSplitWrite c v) s (fun t => ∃ u : State, t = u.pumpCore c ∧ (EngineRests s c → ∀ k, t.core k = u.core k) ∧
      u.core c = { s.core c with cache := [], plru := [] } ∧
      (∀ k, k ≠ c → u.core k = s.core k) ∧ u.reg (Reg.SPAD_SPLIT c) = (s.plainWrite (Reg.SPAD_SPLIT c) 8 v.toNat).reg (Reg.SPAD_SPLIT c) ∧
      (∀ a, a ≠ Reg.SPAD_SPLIT c → u.reg a = s.reg a) ∧ { u with regs := s.regs, cores := s.cores } = s ∧
      (EngineRests s c → { t with cores := s.cores } = { u with cores := s.cores })) := by
  have he := spadSplitWrite_eq s v hp hc
  rw [if_neg (by rw [hw]; decide)] at he
  have hreg (b : Nat) (hb : b ≠ Reg.SPAD_SPLIT c) : (s.plainWrite (Reg.SPAD_SPLIT c) 8 v.toNat).reg b = s.reg b :=
    plainWrite_reg_ne s 8 v.toNat (by rwa [spadSplit_mod, Nat.sub_zero])
  exact ⟨_, he, _, rfl, flushCache_afterWrite (plainWrite_onlyRegs _ _ _ _) hreg⟩

theorem spadSplitWrite_windowed (s : State) {c : Nat} (v : Word) (hc : c < 288) (hw : s.spadWindow c = true) :
    Gives (.spadSplitWrite c v) s (fun t => t = s) := by
  cases hp : s.powered with
  | true => exact ⟨_, spadSplitWrite_eq s v hp hc, if_pos hw⟩
  | false =>
    refine ⟨s, ?_, rfl⟩
    show execSpadSplitWrite c v s = _
    rw [execSpadSplitWrite, hp]
    rfl

/-! Translations (R240). -/

theorem xltInvalidate_drops (s : State) {c : Nat} {v : Word} (hc : c < 288) (h0 : bitAt v.toNat 0 = true) :
    Gives (.xltInvalidate c v) s (fun t => t = s.putCore c { s.core c with
      tlb := if bitAt v.toNat 6 then [] else (s.core c).tlb.filter (fun f => f.ctx != v.toNat / 4 % 16)
      walks := (s.core c).walks.map (fun w => { w with stale := true }) }) := by
  refine ⟨s.invalidateXlt c v.toNat, ?_, ?_⟩
  · show execXltInvalidate c v s = _
    rw [execXltInvalidate, if_pos hc]
  · unfold State.invalidateXlt
    rw [h0]
    rfl

end Sys2Proof.Machine
end

section
/-!
REG_READ and REG_WRITE (R342, R564): what a read corrects, what it notes at the scratchpads, and the replies.
-/
namespace Sys2Proof.Machine

/-! Corrections and what a reply touches. -/

/-- The counters that a correction or a meeting raises lie below the Mantis block. -/
theorem readsAndMeetings_lt {a : Nat} (h : ReadsAndMeetings a) : a < mantisBase := by
  rcases h with ⟨k, hk, rfl | rfl⟩ | ⟨c, hc, rfl⟩
  · unfold Reg.HBM_ECC_CNT stackBase mantisBase
    omega
  · unfold Reg.ERG_SRAM_ECC stackBase mantisBase
    omega
  · unfold Reg.SPAD_ROW_COLLIDE coreBase mantisBase
    omega

theorem not_readsAndMeetings {a : Nat} (h : mantisBase ≤ a) : ¬ ReadsAndMeetings a := fun k => absurd (readsAndMeetings_lt k) (by omega)

/-- A counter raised on both sides, outside the registers that a reply touches. -/
theorem OnlyReplied.bump {s t : State} (h : OnlyReplied s t) {a : Nat} (f : Fld) (n : Nat) (hrx : a ≠ Reg.WADI_RX_CNT)
    (hs : a ≠ Reg.HMD_SESSION) : OnlyReplied (s.bump a f n) (t.bump a f n) := by
  obtain ⟨hparts, hregs⟩ := h
  refine ⟨?_, fun b hb hb' => ?_⟩
  · obtain ⟨r, hr⟩ := bump_ex s a f n
    obtain ⟨r', hr'⟩ := bump_ex t a f n
    rw [hr, hr']
    conv => lhs; rw [hparts]
    rfl
  · have ha := hregs a hrx hs
    unfold State.bump State.setFld State.fld
    rw [State.reg_putReg, State.reg_putReg, ha, hregs b hb hb']

/-- An access corrected on both sides. -/
theorem OnlyReplied.correctAcc {s t : State} (h : OnlyReplied s t) (x : Nat) : OnlyReplied (s.correctAcc x) (t.correctAcc x) := by
  have hsoft {s t : State} (h : OnlyReplied s t) : OnlyReplied { s with softAcc := s.softAcc.filter (fun y => y != x) }
      { t with softAcc := t.softAcc.filter (fun y => y != x) } := by
    obtain ⟨hparts, hregs⟩ := h
    refine ⟨?_, hregs⟩
    rw [hparts]
    rfl
  have hapart (a : Nat) (ha : ReadsAndMeetings a) : a ≠ Reg.WADI_RX_CNT ∧ a ≠ Reg.HMD_SESSION :=
    ⟨fun e => not_readsAndMeetings (by rw [e]; decide) ha, fun e => not_readsAndMeetings (by rw [e]; decide) ha⟩
  unfold State.correctAcc
  dsimp only
  split
  · next hb =>
    obtain ⟨hrx, hs⟩ := hapart (Reg.HBM_ECC_CNT (stackOf (x * 64))) (.inl ⟨_, stackOf_lt (.inl hb), .inl rfl⟩)
    exact hsoft (h.bump _ _ hrx hs)
  · split
    · next hr =>
      obtain ⟨hrx, hs⟩ := hapart (Reg.ERG_SRAM_ECC (stackOf (x * 64))) (.inl ⟨_, stackOf_lt (.inr hr), .inr rfl⟩)
      exact hsoft (h.bump _ _ hrx hs)
    · exact hsoft h

theorem OnlyReplied.foldl {α : Type} {f : State → α → State} (hf : ∀ {s t : State} (x : α), OnlyReplied s t → OnlyReplied (f s x) (f t x))
    (l : List α) {s t : State} (h : OnlyReplied s t) : OnlyReplied (l.foldl f s) (l.foldl f t) := by
  induction l generalizing s t with
  | nil => exact h
  | cons x l ih => exact ih (hf x h)

theorem OnlyReplied.correct {s t : State} (h : OnlyReplied s t) (a n : Nat) : OnlyReplied (s.correct a n) (t.correct a n) := by
  unfold State.correct
  rw [h.sent.softAcc, h.sent.badAcc]
  exact h.foldl (fun x k => k.correctAcc x) _

theorem OnlyReplied.correctAll {s t : State} (h : OnlyReplied s t) (l : List (Nat × Nat)) :
    OnlyReplied (s.correctAll l) (t.correctAll l) := h.foldl (fun r k => k.correct r.1 r.2) l

theorem correctAll_touched (s : State) (l : List (Nat × Nat)) : Touched s (s.correctAll l) :=
  Touched.foldl (fun _ _ k => k.trans (correct_touched _ _ _)) (Touched.refl s)

/-- A correction notes no access and clears no bad byte. -/
theorem correctAcc_rest (s : State) (x : Nat) : (s.correctAcc x).spadAcc = s.spadAcc ∧ (s.correctAcc x).badBytes = s.badBytes := by
  unfold State.correctAcc
  dsimp only
  split
  · exact ⟨State.bump_spadAcc _ _ _ _, State.bump_badBytes _ _ _ _⟩
  · split
    · exact ⟨State.bump_spadAcc _ _ _ _, State.bump_badBytes _ _ _ _⟩
    · exact ⟨rfl, rfl⟩

theorem correctAll_rest (s : State) (l : List (Nat × Nat)) :
    (s.correctAll l).spadAcc = s.spadAcc ∧ (s.correctAll l).badBytes = s.badBytes := by
  have hfold {α : Type} (f : State → α → State) (hf : ∀ t x, (f t x).spadAcc = t.spadAcc ∧ (f t x).badBytes = t.badBytes) (m : List α) :
      ∀ t, (m.foldl f t).spadAcc = t.spadAcc ∧ (m.foldl f t).badBytes = t.badBytes := by
    induction m with
    | nil => exact fun _ => ⟨rfl, rfl⟩
    | cons x m ih => exact fun t => ⟨(ih _).1.trans (hf t x).1, (ih _).2.trans (hf t x).2⟩
  exact hfold _ (fun t r => hfold _ correctAcc_rest _ t) l s

/-- A correction leaves what a reply needs. -/
theorem Open.touched {s u v : State} (o : Open s u) (h : Touched u v) : Open s v := by
  have hr := h.raised
  refine ⟨hr.out.trans o.out, ?_, by rw [hr.hmd]; exact o.sess, by rw [hr.hmd]; exact o.next⟩
  have hlink := o.link
  unfold State.linkUp State.fld at *
  rwa [h.1 _ (not_readsAndMeetings (by decide))]

/-! Reads of the scratchpads. -/

theorem badWords_of_badBytes {s t : State} (h : t.badBytes = s.badBytes) (c a n : Nat) : t.badWords c a n = s.badWords c a n := by
  unfold State.badWords
  rw [h]

/-- A read through the aperture that meets no bad parity is noted and changes nothing else. -/
theorem noteAperture_good (s : State) {a : Nat} (h : inSpad a = true → s.badWords (spadCore a) a 8 = []) :
    (s.noteAperture a = { s with spadAcc := (s.noteAperture a).spadAcc }) ∧
      ∀ c, (inSpad a = true → spadCore a ≠ c) → (s.noteAperture a).accesses c = s.accesses c := by
  unfold State.noteAperture
  dsimp only
  rw [show (a - spadBase 0) / 0x80000 = spadCore a from rfl]
  cases hs : inSpad a with
  | false => exact ⟨rfl, fun _ _ => rfl⟩
  | true =>
    have hgood : (s.noteAcc (spadCore a) ⟨.aperture, false, [(a, 8)], none⟩).badWords (spadCore a) a 8 = [] :=
      (badWords_of_badBytes rfl _ _ _).trans (h hs)
    rw [if_pos rfl, if_pos (by rw [hgood]; rfl)]
    exact ⟨rfl, fun c hc => noteAcc_accesses_ne s _ (Ne.symm (hc rfl))⟩

/-- The reads of a list of addresses are noted, and nothing else changes. -/
theorem noteApertures_good (addrs : List Nat) {s : State} (h : ∀ a ∈ addrs, inSpad a = true → s.badWords (spadCore a) a 8 = []) :
    (addrs.foldl State.noteAperture s = { s with spadAcc := (addrs.foldl State.noteAperture s).spadAcc }) ∧
      ∀ c, (∀ a ∈ addrs, inSpad a = true → spadCore a ≠ c) → (addrs.foldl State.noteAperture s).accesses c = s.accesses c := by
  induction addrs generalizing s with
  | nil => exact ⟨rfl, fun _ _ => rfl⟩
  | cons a addrs ih =>
    obtain ⟨ha, hrest⟩ := List.forall_mem_cons.mp h
    obtain ⟨he, hacc⟩ := noteAperture_good s ha
    rw [List.foldl_cons]
    generalize s.noteAperture a = t at he hacc
    have hbad : t.badBytes = s.badBytes := by rw [he]
    obtain ⟨he', hacc'⟩ := ih (s := t) (fun b hb hs => (badWords_of_badBytes hbad _ _ _).trans (hrest b hb hs))
    refine ⟨?_, fun c hc => ?_⟩
    · generalize addrs.foldl State.noteAperture t = u at he'
      rw [he', he]
    · obtain ⟨hca, hcs⟩ := List.forall_mem_cons.mp hc
      exact (hacc' c hcs).trans (hacc c hca)

/-! The commands. -/

/-- The addresses of a REG_READ that lie in HBM or in an Erg SRAM: what its read corrects. -/
def corrected (addrs : List Nat) : List (Nat × Nat) := (addrs.filter (fun a => inMemory a 8 && !inSpad a)).map (fun a => (a, 8))

/-- No address of a REG_READ meets a memory error. -/
def State.readsGood (s : State) (addrs : List Nat) : Prop :=
  ∀ a ∈ addrs, if inSpad a then s.badWords ((a - spadBase 0) / 0x80000) a 8 = [] else inMemory a 8 = true → s.firstUe a 8 = none

theorem mantisUe_good {s t : State} {addrs : List Nat} (h : s.readsGood addrs) (e : t.badAcc = s.badAcc) : t.mantisUe addrs = none := by
  unfold State.mantisUe
  rw [List.findSome?_eq_none_iff]
  intro a ha
  have hfirst : t.firstUe a 8 = s.firstUe a 8 := by
    unfold State.firstUe
    rw [e]
  have hg := h a ha
  rw [hfirst]
  cases hs : inSpad a with
  | true => simp
  | false =>
    rw [hs] at hg
    cases hm : inMemory a 8 with
    | false => rfl
    | true => exact hg hm

theorem regRead_answered (s : State) (h : FrameHdr) (addrs : List Nat) (ha : Accepts s h) (hne : addrs ≠ []) (hlen : addrs.length ≤ 128)
    (hgood : s.readsGood addrs) :
    Gives (.regRead h addrs) s (fun t => OnlyReplied { s.correctAll (corrected addrs) with spadAcc := t.spadAcc } t ∧
      (∀ c, (∀ a ∈ addrs, inSpad a = true → spadCore a ≠ c) → t.accesses c = s.accesses c) ∧
      Replied s t clMgmt 1 h.reqId (mgmtHead stOk 0 0 ++
        addrs.flatMap (fun a => leBytes 8 (((s.accepted h).correctAll (corrected addrs)).mantisRead a)))) := by
  have hacc := accepted_replied s h
  have hue := mantisUe_good (t := s.accepted h) hgood hacc.sent.badAcc
  have hopen : Open s ((s.accepted h).correctAll (corrected addrs)) := (accepted_open s h ha).touched (correctAll_touched _ _)
  obtain ⟨hspad, hbad⟩ := correctAll_rest (s.accepted h) (corrected addrs)
  obtain ⟨honly, hreplied⟩ := hopen.reply_ends (hacc.correctAll (corrected addrs)) 1 h.reqId stOk 0 0
    (addrs.flatMap (fun a => leBytes 8 (((s.accepted h).correctAll (corrected addrs)).mantisRead a)))
  have hexec : exec (.regRead h addrs) s = .next (addrs.foldl State.noteAperture
      (((s.accepted h).correctAll (corrected addrs)).mgmtReply 1 h.reqId stOk 0 0
        (addrs.flatMap (fun a => leBytes 8 (((s.accepted h).correctAll (corrected addrs)).mantisRead a))))) := by
    show execRegRead h addrs s = _
    rw [execRegRead, manage_eq s h _ ha, if_neg (by simp [hne]; omega), hue]
    rfl
  have hsent := mgmtReply_only ((s.accepted h).correctAll (corrected addrs)) 1 h.reqId stOk 0 0
    (addrs.flatMap (fun a => leBytes 8 (((s.accepted h).correctAll (corrected addrs)).mantisRead a)))
  refine ⟨_, hexec, ?_⟩
  generalize ((s.accepted h).correctAll (corrected addrs)).mgmtReply 1 h.reqId stOk 0 0 _ = r at *
  have hbytes : r.badBytes = s.badBytes := hsent.badBytes.trans (hbad.trans hacc.sent.badBytes)
  have hsame : r.spadAcc = s.spadAcc := hsent.spadAcc.trans (hspad.trans hacc.sent.spadAcc)
  obtain ⟨he, hnoted⟩ := noteApertures_good addrs (s := r) (fun a hmem hs => by
    have := hgood a hmem
    rw [if_pos hs] at this
    exact (badWords_of_badBytes hbytes _ _ _).trans this)
  generalize addrs.foldl State.noteAperture r = t at *
  refine ⟨⟨?_, fun a hrx hse => ?_⟩, fun c hc => (hnoted c hc).trans (by unfold State.accesses; rw [hsame]), ?_⟩
  · have hparts := honly.1
    rw [he]
    conv => lhs; rw [hparts]
    rfl
  · rw [he]
    exact honly.2 a hrx hse
  · unfold Replied at *
    rw [he]
    exact hreplied

theorem regRead_badCount (s : State) (h : FrameHdr) (addrs : List Nat) (ha : Accepts s h) (hn : addrs = [] ∨ 128 < addrs.length) :
    Gives (.regRead h addrs) s (fun t => OnlyReplied s t ∧ Replied s t clMgmt 1 h.reqId (mgmtHead stFormat 0 0)) := by
  refine ⟨(s.accepted h).mgmtReply 1 h.reqId stFormat 0 0 [], ?_, (accepted_open s h ha).reply_ends_bare (accepted_replied s h) _ _ _ _ _⟩
  show execRegRead h addrs s = _
  rw [execRegRead, manage_eq s h _ ha, if_pos (by simpa using hn)]

theorem regWrite_answered (s : State) (h : FrameHdr) (pairs : List (Nat × Word)) (ha : Accepts s h) (hp : s.power ≠ .hold)
    (hne : pairs ≠ []) (hlen : pairs.length ≤ 64) :
    let u := pairs.foldl (fun u (p : Nat × Word) => u.mantisWrite p.1 8 p.2.toNat) (s.accepted h)
    u.linkUp = true → u.hmd.sessOpen = true →
    Gives (.regWrite h pairs) s (fun t => OnlyReplied u t ∧ Replied u t clMgmt 2 h.reqId (mgmtHead stOk 0 0)) := by
  intro u hl hs
  have hopen : Open u u := ⟨rfl, hl, hs, rfl⟩
  refine ⟨u.mgmtReply 2 h.reqId stOk 0 0 [], ?_, hopen.reply_ends_bare (OnlyReplied.refl u) _ _ _ _ _⟩
  show execRegWrite h pairs s = _
  rw [execRegWrite, mantis_eq s h _ _ ha hp, if_neg (by simp [hne]; omega)]

/-- Settles O19: one lemma for each clause. -/
theorem registerCommands : Obligations.RegisterCommands := by
  intro s
  refine ⟨registerWrite_plain s,
    fun a n v hp hm hr hf => ⟨registerWrite_reserved s a n v hp hm hr hf, readReg_reserved s n hf⟩,
    registerWrite_memory s,
    fun c i hc hi hp => ⟨registerWrite_unloads s hc hi hp, registerWrite_src_unloads s hc hi hp⟩,
    fun a n => readReg_otherSize s a,
    fun c v => spadSplitWrite_empties s v,
    fun c v => spadSplitWrite_windowed s v,
    fun c => invalidate_empties s,
    fun c v hc h0 h6 => ?_,
    fun c v hc h0 h6 => ?_,
    regRead_answered s,
    regRead_badCount s,
    regWrite_answered s⟩
  · have := xltInvalidate_drops s hc h0
    rwa [h6, if_pos rfl] at this
  · have := xltInvalidate_drops s hc h0
    rwa [h6, if_neg Bool.false_ne_true] at this

end Sys2Proof.Machine
end

section
/-!
The life of a step (R473 to R478): a replay whose event spills over the translation tables through which its cores read their program.
-/
namespace Sys2Proof.Machine

/-! STEP_REPLAY queues its event before its cores take on the program (R491, R112). An event that finds no room is dropped, and the gap
marker in its place can take a slot of the spill region (R277, R291). Where that region covers the level-1 table of the task group, whose
place the firmware chooses as it chooses the region's (log 46), the program could be read before the event and cannot be read behind it. -/

/-- A tile step whose program is one NOP at task virtual address 0. -/
def nopLaunch : Launch := { Launch.empty with prog := { Launch.empty.prog with ops := [0] } }

/-- The event queue: the head full, and eight releases that have not reached the producer (R277, R295). -/
def fullHead : Queue :=
  { Queue.idle with words := (List.range 8).map (fun i => ⟨0, 8 + i, 2, zeros 64, none, true⟩), wseq := 16, returns := 8, seen := 8 }

/-- Context 0 holds an aborted tile step that core 0 serves. The level-1 table of its group lies at 0x20000 and names a level-2 table at
0x40000, whose first leaf maps the program's page to 0x200000. -/
def abortedStep : State :=
  { State.reset with
    power := .ready
    mem := [(0x20000, 1), (0x20002, 4), (0x40000, 3), (0x40002, 0x20)]
    groups := [(0, { Group.none with live := true, root := 0x20000 })]
    ctxs := [(0, { Ctx.idle with live := true, run := .aborted, launch := some nopLaunch, launchNo := 1, gen := 1, failures := 1 })]
    cores := [(0, { Core.idle with ctx := some 0 })] }

/-- The module ready, and its event queue with a spill region of one word in HBM at 0x20000, in the settings of the start (R299). -/
def replayOverTable : State :=
  (((abortedStep.setFld Reg.START_STATUS Fld.START_STATUS_READY 1).putReg (Reg.SPQ_CFG qEvent)
    (2 ^ 63 + 2 * 2 ^ 61 + 2 ^ 59 + 2 ^ 58 + 2 * 2 ^ 56 + 1)).putReg (Reg.SPQ_REGION qEvent) 0x20000).putQ qEvent fullHead

/-- A reading that does not stop answers a value. -/
theorem exists_of_toBool {α : Type} : {c : Chk α} → c.toBool = true → ∃ b, c = .ok b
  | .ok b, _ => ⟨b, rfl⟩

/-- Before the event core 0 reads its program through the tables. -/
theorem replayOverTable_readable : ∃ b, (replayOverTable.setRoot 0 0).readBy 0 (nopLaunch.prog.addr + nopLaunch.prog.opOff 0)
    (8 * nopLaunch.prog.ops.length) = .ok b := by
  have hread : ((replayOverTable.setRoot 0 0).readBy 0 (nopLaunch.prog.addr + nopLaunch.prog.opOff 0)
      (8 * nopLaunch.prog.ops.length)).toBool = true := by decide +kernel
  exact exists_of_toBool hread

theorem replayOverTable_serving : replayOverTable.serving 0 = [0] := by decide +kernel

/-- Behind the event the walk fails (R235), and with it the step, whose task ends (R271). -/
theorem replayOverTable_ends : ((replayOverTable.replayStep 0 nopLaunch).ctx 0).run = .ended := by decide +kernel

theorem replayOverTable_ready : replayOverTable.ready = true := by decide +kernel

theorem stepReplay_overTable : exec (.stepReplay 0) replayOverTable = .next (replayOverTable.replayStep 0 nopLaunch) := by
  show execStepReplay 0 replayOverTable = _
  unfold execStepReplay
  rw [replayOverTable_ready]
  rfl

/-- Refutes O45: the run that a replay begins need not be able to read its program, though the program is readable before the replay's
event. In `replayOverTable` that event spills over the level-1 table, and the step that is run again has ended. -/
theorem not_steps : ¬ Obligations.Steps := by
  intro h
  obtain ⟨-, -, -, hreplay, -⟩ := h replayOverTable 0 (by decide)
  have hprep : (replayOverTable.mend (fun s => s.prepareRun 0 nopLaunch)).prepareRun 0 nopLaunch = .ok replayOverTable := rfl
  obtain ⟨t, ht, ⟨hrun, -⟩, -⟩ :=
    hreplay nopLaunch replayOverTable replayOverTable_ready rfl rfl rfl rfl rfl rfl rfl hprep rfl (fun _ k hk => by
      rw [replayOverTable_serving, List.mem_singleton] at hk
      subst hk
      exact .inr replayOverTable_readable)
  rw [← Host.Outcome.next.inj (stepReplay_overTable.symm.trans ht), replayOverTable_ends] at hrun
  cases hrun

end Sys2Proof.Machine
end

section
/-!
Decode attention on an Erg engine (R358 to R360): partials that reach beyond the SRAM of their engine.
-/
namespace Sys2Proof.Machine

/-! R358 bounds a layout to 128 key–value heads in groups of at most 8, for which the partials of R360 stay in the working area of their
engine (R349; log 32). An operation that a launch holds carries its layout as plain data, and the statement takes it without these bounds.
The partials of a larger group run past the SRAM, where a store is discarded (R7). -/

/-- A table reads as its default at a key that it does not list. -/
theorem tget_of_forall_ne {α : Type} (d : α) {m : Table α} {k : Nat} (h : ∀ p ∈ m, p.1 ≠ k) : tget d m k = d := by
  induction m with
  | nil => rfl
  | cons p m ih =>
    obtain ⟨hp, hm⟩ := List.forall_mem_cons.mp h
    exact (if_neg hp).trans (ih hm)

/-- The memory of a sound state lists no reserved address (R6, R7). -/
theorem State.byte_of_not_isMemory {s : State} (hs : s.sound = true) {a : Nat} (ha : isMemory a = false) : s.byte a = 0 := by
  simp only [State.sound, Bool.and_eq_true] at hs
  have hmem : memOk s.mem = true := by simp only [hs]
  obtain ⟨-, hall⟩ := (memOk_iff s.mem).mp hmem
  refine tget_of_forall_ne 0 fun c hc hca => ?_
  rw [← hca, hall c hc] at ha
  cases ha

/-- BF16 in 128 dimensions, 128 key–value heads in groups of 24: three times what R358 admits. -/
def wideShape : AttnShape := ⟨0x01, 128, 128, 24⟩

/-- BF16 rows of 128 elements, one for each head of `wideShape`. -/
def wideRows (addr base : Nat) : Desc :=
  { addr := addr, base := base, fmt := 0x01, w := 16, spform := 0, declNm := 0, ndim := 2, alias_ := false, tscale := 0, fill := 0, zp := 0
    tag := 0, dims := [⟨1, 128, 0, 128⟩, ⟨128, wideShape.heads, 0, wideShape.heads⟩] }

/-- A decode attention with this layout. -/
def wideJob : ErgJob := .attn (wideRows 0x1000 0x100000) (wideRows 0x1100 0x200000) 0x3000 wideShape 0x3F800000

/-- Its record, for a sequence that holds no token yet. -/
def wideRecord : ErgRec :=
  { op := erAttn, stack := 0xFF, param0 := 0x3F800000, src0 := 0x1000, src1 := 0x3000, src2 := 0x4000, dst0 := 0x1100, dst1 := 0
    param1 := 0x18808001, param2 := 0, len := 0 }

/-- The entry of the record in an engine's queue. -/
def wideEntry : ErgEnt := ⟨0, 0, 0, false⟩

/-- Context 0 runs an Erg step of this operation, which core 0 serves, and its record stands alone at the front of engine 0. -/
def wideAttention : State :=
  (((State.reset.putStack 0 { Stack.idle with queue := [wideEntry] }).putCtx 0 { Ctx.idle with
      live := true, run := .running, launch := some { Launch.empty with kind := 1, erg := [wideRecord], jobs := [wideJob] } }).putCore 0
    { Core.idle with ctx := some 0 }).setFld (Reg.XLT_ROOT 0) Fld.XLT_ROOT_ENABLE 1

theorem wideAttention_sound : wideAttention.sound = true :=
  (State.setFld_keeps _ _ _ _ _ (State.putCore_keeps _ _ _ _ (State.putCtx_keeps _ _ _ _
    (State.putStack_keeps _ _ _ _ (Keeps.refl State.reset))))).sound reset_sound

/-- The record can run: it is at the front of a running step, and its core translates. -/
theorem wideAttention_runs : ErgRuns wideAttention 0 erAttn wideEntry [] wideRecord 0 wideJob [] := by
  have hserved : wideAttention.serving 0 ≠ [] := by decide +kernel
  have hcore : wideAttention.coreRoot 0 = some 0 := by decide +kernel
  exact ⟨⟨by decide, by decide +kernel, rfl, rfl, rfl, rfl, rfl, hserved, by decide +kernel⟩, hcore, rfl, rfl⟩

/-- No access of its memory is uncorrectable. -/
theorem wideAttention_firstUe (a n : Nat) : wideAttention.firstUe a n = none := by
  have hbad : wideAttention.badAcc = [] := rfl
  simp [State.firstUe, hbad]

/-- The partial of the last head begins beyond the SRAM. -/
theorem wideShape_last_reserved : isMemory (partialAt 0 3071 wideShape.dim + 2) = false := by decide

/-- The running maximum of a partial of nothing is −∞ (R360): its third byte is not zero. -/
theorem emptyPart_byte : nth 0 (HeadPart.empty wideShape.dim).bytes 2 = 0x80 := by decide

/-- Refutes O46: with a layout beyond R358 the partial of a head need not stand in memory. In `wideAttention` that of head 3071 lies above
the SRAM of engine 0: what DECODE_ATTN stores there is discarded, and the byte reads as zero. -/
theorem not_ergOperations : ¬ Obligations.ErgOperations := by
  intro h
  obtain ⟨-, -, -, -, -, -, hattn, -⟩ := h wideAttention 0 wideEntry [] wideRecord 0 []
  obtain ⟨t, ht, -, hparts, -⟩ :=
    hattn _ _ _ wideShape _ [] [] wideAttention_runs rfl rfl (wideAttention_firstUe _ _)
  have hwritten : t.byte (partialAt 0 3071 wideShape.dim + 2) = 0x80 :=
    (hparts 3071 (by decide) 2 (by decide)).trans emptyPart_byte
  have hsound : t.sound = true := (exec_keeps (Keeps.refl wideAttention) (.decodeAttn 0) t ht).sound wideAttention_sound
  rw [State.byte_of_not_isMemory hsound wideShape_last_reserved] at hwritten
  cases hwritten

end Sys2Proof.Machine
end

section
/-!
A stream engine that has nothing to do of its own: it waits for the commands of its program, or for what comes back (R256, R257).
-/
namespace Sys2Proof.Machine

theorem SameCores.launchOf {s t : State} (h : SameCores s t) (x : Nat) : t.launchOf x = s.launchOf x := by
  rw [← h.2]
  rfl

theorem SameCores.still {s t : State} {c : Nat} (h : SameCores s t) (e : EngineStill s c) : EngineStill t c := by
  obtain ⟨hlines, hagain, hsender⟩ := e
  unfold EngineStill
  rw [h.1 c]
  exact ⟨hlines, hagain, fun o ho => by rw [h.launchOf]; exact hsender o ho⟩

theorem SameCores.onlyCore {s t : State} (h : SameCores s t) (c : Nat) : OnlyCore s t c := ⟨fun k _ => h.1 k, h.2⟩

theorem OnlyCore.trans {s t u : State} {c : Nat} (h : OnlyCore s t c) (k : OnlyCore t u c) : OnlyCore s u c := by
  obtain ⟨hcores, hrest⟩ := h
  obtain ⟨kcores, krest⟩ := k
  refine ⟨fun i hi => (kcores i hi).trans (hcores i hi), ?_⟩
  rw [← krest] at hrest
  exact hrest

theorem putCore_onlyCore (s : State) (c : Nat) (x : Core) : OnlyCore s (s.putCore c x) c :=
  ⟨fun k hk => by rw [State.putCore_core, if_neg hk], rfl⟩

theorem registerBlocks_nil {s : State} {c : Nat} (h : (s.core c).again = []) : SameCores s (s.registerBlocks c) := by
  unfold State.registerBlocks
  rw [h, List.foldl_nil]
  exact putCore_same s (by rw [← h])

theorem pumpOnce_nil {s : State} {c : Nat} (h : (s.core c).lines = []) : SameCores s (s.pumpOnce c) := by
  unfold State.pumpOnce
  dsimp only
  rw [h, List.foldl_nil]
  exact putCore_same s (by rw [← h])

theorem sendNext_still {s : State} {c : Nat} (h : EngineStill s c) : s.sendNext c = none := by
  obtain ⟨-, hagain, hsender⟩ := h
  unfold State.sendNext
  rw [hagain]
  cases ho : (s.core c).sender with
  | none => rfl
  | some o =>
    obtain ⟨hbegun, hkind⟩ := hsender o ho
    simp [hbegun, hkind]

theorem goOn_still {s : State} {c n : Nat} (h : EngineStill s c) : SameCores s (s.goOn (n + 1) c) := by
  have hp := pumpOnce_nil h.1
  unfold State.goOn
  dsimp only
  rw [sendNext_still (hp.still h)]
  exact hp

/-- An engine that waits for commands leaves everything as it is (R256). -/
theorem pumpCore_still {s : State} {c : Nat} (h : EngineStill s c) : SameCores s (s.pumpCore c) := by
  obtain ⟨-, hagain, -⟩ := id h
  have hr := registerBlocks_nil hagain
  have ht : SameCores s ((s.registerBlocks c).goOn engineFuel c) := hr.trans (goOn_still (n := engineFuel - 1) (hr.still h))
  have hf : ((s.registerBlocks c).goOn engineFuel c).fenced c = s.fenced c := by
    unfold State.fenced
    rw [ht.reg]
  unfold State.pumpCore
  dsimp only
  rw [hf, if_neg (by simp)]
  exact ht

/-- An operation that has begun and has sent all its blocks does not send. -/
theorem sender_sent {x : Core} {o : StrmOp} (hops : x.ops = [o]) (hbegun : o.begun = true) (hsent : o.sent = true) : x.sender = none := by
  simp [Core.sender, Core.queued, hops, hbegun, hsent]

end Sys2Proof.Machine
end

section
/-!
The instructions of a stream program (R252 to R255, R257): what each does to its run, and where the run goes on.
-/
namespace Sys2Proof.Machine

/-! The registers and counters of a run. -/

/-- What an element of a list reads as after one of them has changed. -/
theorem nth_mapAt {α : Type} (d : α) (g : α → α) : ∀ {l : List α} {i : Nat} (j : Nat), i < l.length →
    nth d (mapAt l i g) j = if j = i then g (nth d l i) else nth d l j
  | [], _, _, h => absurd h (Nat.not_lt_zero _)
  | _ :: _, 0, 0, _ => rfl
  | _ :: _, 0, _ + 1, _ => rfl
  | _ :: _, _ + 1, 0, _ => rfl
  | _ :: l, i + 1, j + 1, h => by
    refine (nth_mapAt d g (l := l) j (Nat.lt_of_succ_lt_succ h)).trans ?_
    simp only [Nat.add_right_cancel_iff]
    rfl

/-- A counter set (R253). -/
def ProgRun.setN (r : ProgRun) (k : Nat) (v : BitVec 32) : ProgRun := { r with n := mapAt r.n k (fun _ => v) }

theorem ProgRun.setA_ar {r : ProgRun} {d : Nat} (v : BitVec 64) (h : d < r.a.length) (i : Nat) :
    (r.setA d v).ar i = if i = d then v else r.ar i := nth_mapAt 0 _ i h

theorem ProgRun.setN_nth {r : ProgRun} {k : Nat} (v : BitVec 32) (h : k < r.n.length) (i : Nat) :
    nth 0 (r.setN k v).n i = if i = k then v else nth 0 r.n i := nth_mapAt 0 _ i h

/-- A field that begins at bit 0. -/
theorem mod_eq_bitsOf (v hi m : Nat) (h : 2 ^ (hi + 1) = m) : v % m = bitsOf v hi 0 := by
  rw [bitsOf, Nat.pow_zero, Nat.div_one, Nat.sub_zero, h]

/-! One instruction. -/

/-- The run stands at an instruction of opcode `op` within the limit of R255, with all its registers. -/
structure AtInst (s : State) (c op : Nat) (f : Fetch) : Prop where
  fetched : s.instAt c = some f
  code : spCode f.w = op
  insts : f.r.insts < 16384
  regs : f.r.a.length = 16
  counters : f.r.n.length = 8

theorem StandsAt.atInst {s : State} {c op : Nat} {f : Fetch} (h : StandsAt s c op f) : AtInst s c op f := by
  obtain ⟨hat, hop, hin, -, ha, hn⟩ := h
  exact ⟨hat, hop, hin, ha, hn⟩

section
variable {s : State} {c op : Nat} {f : Fetch}

theorem inst_at (h : AtInst s c op f) (k : State → Fetch → State) : s.inst c op k = k s f := by
  unfold State.inst
  rw [h.fetched]
  dsimp only
  rw [if_neg (not_not_intro h.code), if_neg (Nat.not_le.mpr h.insts)]

theorem gives_inst (h : AtInst s c op f) {cmd : Instr} {k : State → Fetch → State} {P : State → Prop}
    (he : exec cmd s = .next (s.inst c op k)) (hk : P (k s f)) : Gives cmd s P :=
  ⟨k s f, he.trans (congrArg _ (inst_at h k)), hk⟩

theorem putRun_within {r : ProgRun} (h : r.pc < f.e.code.length) : s.putRun c f r = s.putCore c { s.core c with prog := some r } :=
  if_neg (Nat.not_le.mpr h)

/-- The run of a core is over, and its operation has sent all its blocks. -/
def State.runOver (s : State) (c : Nat) (f : Fetch) : State := (s.putCore c { s.core c with prog := none }).markSent c f.o.id

theorem putRun_over {r : ProgRun} (h : f.e.code.length ≤ r.pc) : s.putRun c f r = (s.runOver c f).pumpCore c :=
  if_pos h

/-- A run put within its program goes on there. -/
theorem putRun_goes {r : ProgRun} {pc : Nat} {a : Nat → BitVec 64} {n : Nat → BitVec 32} (hin : pc < f.e.code.length)
    (hop : r.op = f.r.op) (hpc : r.pc = pc) (hinsts : r.insts = f.r.insts + 1) (hemits : r.emits = f.r.emits)
    (ha : ∀ i, r.ar i = a i) (hn : ∀ i, nth 0 r.n i = n i) :
    RunGoes s c f pc a n (s.putRun c f r) := by
  rw [putRun_within (hpc ▸ hin)]
  exact ⟨r, State.putCore_core_same _ _ _, putCore_onlyCore s c _, hop, hpc, hinsts, hemits, fun i _ => ha i, fun i _ => hn i⟩

/-- R253: an instruction that sets an address register: the run goes on at the next instruction. -/
theorem gives_setA {d : Nat} {v : BitVec 64} {cmd : Instr} {k : State → Fetch → State} (h : StandsAt s c op f)
    (he : exec cmd s = .next (s.inst c op k)) (hk : k s f = s.putRun c f (f.r.setA d v).next) (hd : d < 16) :
    Gives cmd s (RunGoes s c f (f.r.pc + 1) (fun i => if i = d then v else f.r.ar i) (fun i => nth 0 f.r.n i)) := by
  obtain ⟨-, -, -, hpc, ha, -⟩ := id h
  refine gives_inst h.atInst he ?_
  rw [hk]
  exact putRun_goes hpc rfl rfl rfl rfl (ProgRun.setA_ar v (ha.symm ▸ hd)) (fun _ => rfl)

end

/-- Settles O23: each of the ten instructions sets one register, by `gives_setA`. -/
theorem streamRegisters : Obligations.StreamRegisters := by
  intro s c f
  have hd : f.w / 2 ^ 22 % 16 < 16 := Nat.mod_lt _ (by decide)
  refine ⟨?seti, ?addi, ?muli, ?andi, ?shri, ?add, ?sub, ?mul, ?ldc, ?ldp⟩
  case seti => exact fun h => gives_setA h rfl rfl hd
  case addi => exact fun h => gives_setA h rfl rfl hd
  case muli => exact fun h => gives_setA h rfl rfl hd
  case andi => exact fun h => gives_setA h rfl (by rw [mod_eq_bitsOf f.w 17 _ rfl]; rfl) hd
  case shri => exact fun h => gives_setA h rfl (by rw [mod_eq_bitsOf f.w 5 64 rfl]; rfl) hd
  case add => exact fun h => gives_setA h rfl rfl hd
  case sub => exact fun h => gives_setA h rfl rfl hd
  case mul => exact fun h => gives_setA h rfl rfl hd
  case ldc => exact fun h => gives_setA h rfl (by rw [mod_eq_bitsOf f.w 3 16 rfl]; rfl) hd
  case ldp => exact fun h => gives_setA h rfl (by rw [mod_eq_bitsOf f.w 2 8 rfl]; rfl) hd

/-! Loops and branches (R253). -/

theorem spTarget_eq (w : Nat) : spTarget w = w % 64 := (mod_eq_bitsOf w 5 64 rfl).symm

theorem loopCount_imm (r : ProgRun) {w : Nat} (h : bitAt w 22 = false) : loopCount r w = w % 2 ^ 18 := by
  rw [loopCount, h, if_neg Bool.false_ne_true, mod_eq_bitsOf w 17 _ rfl]

theorem loopCount_reg (r : ProgRun) {w : Nat} (h : bitAt w 22 = true) :
    loopCount r w = min (r.ar (spS w)).toInt.toNat (2 ^ 32 - 1) := by
  rw [loopCount, h, if_pos rfl, clampTo, if_neg (Nat.not_lt_zero _)]
  split <;> omega

/-- The first ENDL of a counter behind a LOOP is the one that the LOOP matches. -/
theorem afterEndl_eq {code : List Nat} {pc c e w : Nat} (hlt : pc < e) (hw : code[e]? = some w) (hop : spCode w = spEndl) (hc : spC w = c)
    (hfirst : ∀ j v, pc < j → j < e → code[j]? = some v → spCode v ≠ spEndl ∨ spC v ≠ c) : afterEndl code pc c = e + 1 := by
  have hidx : (code.drop (pc + 1)).findIdx? (fun w => spCode w == spEndl && spC w == c) = some (e - (pc + 1)) := by
    obtain ⟨hlen, hget⟩ := List.getElem?_eq_some_iff.mp hw
    rw [List.findIdx?_eq_some_iff_getElem]
    refine ⟨by rw [List.length_drop]; omega, ?_, fun j hj => ?_⟩
    · simp only [List.getElem_drop, Nat.add_sub_cancel' hlt, hget, hop, hc, beq_self_eq_true, Bool.and_true]
    · have hv := hfirst (pc + 1 + j) _ (by omega) (by omega) (List.getElem?_eq_getElem (by omega))
      simpa only [Bool.and_eq_true, beq_iff_eq, List.getElem_drop, Decidable.not_and_iff_not_or_not] using hv
  rw [afterEndl, hidx]
  dsimp only
  omega

section
variable {s : State} {c op : Nat} {f : Fetch}

/-- A run that goes on at one of two instructions, with its counters set. -/
theorem putRun_branch {p : Prop} [Decidable p] {x y pc : Nat} {l : List (BitVec 32)} {n : Nat → BitVec 32}
    (hpc : (if p then x else y) = pc) (hin : pc < f.e.code.length) (hn : ∀ i, nth 0 l i = n i) :
    RunGoes s c f pc f.r.ar n (s.putRun c f (if p then { f.r with n := l }.jump x else { f.r with n := l }.jump y)) := by
  rw [← apply_ite (ProgRun.jump { f.r with n := l }), hpc]
  exact putRun_goes hin rfl rfl rfl rfl (fun _ => rfl) hn

theorem spC_lt (h : AtInst s c op f) : spC f.w < f.r.n.length := h.counters.symm ▸ Nat.mod_lt _ (by decide)

/-- R253: LOOP sets its counter; with a count of zero its body does not run. -/
theorem loopOp_gives (h : AtInst s c spLoop f) {m pc : Nat} (hm : loopCount f.r f.w = m)
    (hpc : (if m = 0 then afterEndl f.e.code f.r.pc (spC f.w) else f.r.pc + 1) = pc) (hin : pc < f.e.code.length) :
    Gives (.loopOp c) s (RunGoes s c f pc f.r.ar (fun i => if i = spC f.w then BitVec.ofNat 32 m else nth 0 f.r.n i)) := by
  subst hm
  exact gives_inst h rfl (putRun_branch hpc hin (f.r.setN_nth _ (spC_lt h)))

/-- R253: ENDL branches while its counter, one less, is not zero. -/
theorem endl_gives (h : AtInst s c spEndl f) {v : BitVec 32} {pc : Nat} (hv : nth 0 f.r.n (spC f.w) - 1 = v)
    (hpc : (if v = 0 then f.r.pc + 1 else spTarget f.w) = pc) (hin : pc < f.e.code.length) :
    Gives (.endl c) s (RunGoes s c f pc f.r.ar (fun i => if i = spC f.w then v else nth 0 f.r.n i)) := by
  subst hv
  exact gives_inst h rfl (putRun_branch hpc hin (f.r.setN_nth _ (spC_lt h)))

/-- R253: JGE compares as signed numbers. -/
theorem jge_gives (h : AtInst s c spJge f) {pc : Nat}
    (hpc : (if (f.r.ar (spS f.w)).toInt ≥ (f.r.ar (spT f.w)).toInt then spTarget f.w else f.r.pc + 1) = pc) (hin : pc < f.e.code.length) :
    Gives (.jge c) s (RunGoes s c f pc f.r.ar (fun i => nth 0 f.r.n i)) :=
  gives_inst h rfl (putRun_branch hpc hin (fun _ => rfl))

/-! The end of a run and its blocks (R253, R255, R257). -/

theorem exec_streamEnd (h : AtInst s c spEnd f) : exec (.streamEnd c) s = .next ((s.runOver c f).pumpCore c) :=
  congrArg Host.Outcome.next ((inst_at h _).trans (putRun_over (Nat.le_refl f.e.code.length)))

theorem runOver_core (h : (s.core c).ops = [f.o]) :
    (s.runOver c f).core c = { s.core c with prog := none, ops := [{ f.o with sent := true }] } := by
  simp [State.runOver, State.markSent, State.modOp, h]

theorem runOver_onlyCore : OnlyCore s (s.runOver c f) c := (putCore_onlyCore s c _).trans (putCore_onlyCore _ c _)

theorem runOver_still (hops : (s.core c).ops = [f.o]) (hbegun : f.o.begun = true) (hlines : (s.core c).lines = [])
    (hagain : (s.core c).again = []) : EngineStill (s.runOver c f) c := by
  unfold EngineStill
  rw [runOver_core hops]
  refine ⟨hlines, hagain, fun o ho => ?_⟩
  rw [sender_sent (o := { f.o with sent := true }) rfl hbegun rfl] at ho
  cases ho

/-- R257: EMIT waits for room in the block queue. -/
theorem emit_waits (h : AtInst s c spEmit f) (hfull : (s.core c).blocksFull = true) : Gives (.emit c) s (fun t => t = s) :=
  gives_inst h rfl (if_pos hfull)

/-- R255: EMIT of a slot that lies in its buffer, where the block's way has not removed the operation (R271). -/
theorem emit_sends (h : AtInst s c spEmit f) {slot : Int} (hslot : (f.r.ar (spS f.w)).toInt = slot) (hroom : (s.core c).blocksFull = false)
    (hemits : f.r.emits < 4096) (hpos : 0 ≤ slot) (hsize : (slot.toNat + 1) * s.opBlock f.o ≤ f.o.size)
    (hpc : f.r.pc + 1 < f.e.code.length) :
    let u := s.moveBlock c f.o f.r.origin slot.toNat
    ((u.core c).opOf f.o.id).isSome = true →
    Gives (.emit c) s (fun t => t = (u.putCore c { u.core c with
      prog := some { f.r with emits := f.r.emits + 1, pc := f.r.pc + 1, insts := f.r.insts + 1 } }).pumpCore c) := by
  intro u hop
  subst hslot
  refine gives_inst h rfl ?_
  have hok : (f.r.emits ≥ 4096 || decide ((f.r.ar (spS f.w)).toInt < 0) ||
      decide (((f.r.ar (spS f.w)).toInt.toNat + 1) * s.opBlock f.o > f.o.size)) = false := by
    simp only [Bool.or_eq_false_iff, decide_eq_false_iff_not]
    omega
  dsimp only
  rw [hroom, if_neg Bool.false_ne_true, hok, if_neg Bool.false_ne_true, if_neg (by rw [Option.isNone_eq_false_iff.mpr hop]; decide)]
  rw [putRun_within hpc]
  rfl

end

/-- Settles O24: one lemma for each instruction, applied to the cases of its count, branch or block. -/
theorem streamControl : Obligations.StreamControl := by
  intro s c f hat hin ha hn
  have at_ {op : Nat} (hop : spCode f.w = op) : AtInst s c op f := ⟨hat, hop, hin, ha, hn⟩
  refine ⟨?loopImm, ?loopReg, ?loopNone, ?endlLast, ?endlBack, ?jgeTaken, ?jgeNot, ?ends, ?endsAlone, ?emitWaits, ?emitSends⟩
  case loopImm =>
    intro hop hb hpos hpc
    exact loopOp_gives (at_ hop) (loopCount_imm _ hb) (if_neg (Nat.ne_of_gt hpos)) hpc
  case loopReg =>
    intro hop hb hpos hpc
    have hm : 0 < min (f.r.ar (spS f.w)).toInt.toNat (2 ^ 32 - 1) := Nat.lt_min.mpr ⟨Int.lt_toNat.mpr hpos, by decide⟩
    exact loopOp_gives (at_ hop) (loopCount_reg _ hb) (if_neg (Nat.ne_of_gt hm)) hpc
  case loopNone =>
    intro e w hop hzero hlt hw hcode hc hfirst hpc
    have hm : loopCount f.r f.w = 0 := by
      obtain ⟨hb, hz⟩ | ⟨hb, hz⟩ := hzero
      · rw [loopCount_imm _ hb, hz]
      · rw [loopCount_reg _ hb, show (f.r.ar (spS f.w)).toInt.toNat = 0 from Int.toNat_of_nonpos hz, Nat.zero_min]
    exact loopOp_gives (at_ hop) hm ((if_pos rfl).trans (afterEndl_eq hlt hw hcode hc hfirst)) hpc
  case endlLast =>
    intro hop h1 hpc
    exact endl_gives (at_ hop) (by rw [show nth 0 f.r.n (spC f.w) = 1 from h1]; rfl) (if_pos rfl) hpc
  case endlBack =>
    intro hop h1 hpc
    rw [← spTarget_eq] at hpc ⊢
    exact endl_gives (at_ hop) rfl (if_neg fun h => h1 ((BitVec.sub_eq_iff_eq_add.mp h).trans (BitVec.zero_add 1))) hpc
  case jgeTaken =>
    intro hop hge hpc
    rw [← spTarget_eq] at hpc ⊢
    exact jge_gives (at_ hop) (if_pos hge) hpc
  case jgeNot =>
    intro hop hlt hpc
    exact jge_gives (at_ hop) (if_neg (Int.not_le.mpr hlt)) hpc
  case ends =>
    intro hop
    exact ⟨_, exec_streamEnd (at_ hop), rfl⟩
  case endsAlone =>
    intro hop hops hbegun hlines hagain
    have hsame := pumpCore_still (runOver_still hops hbegun hlines hagain)
    exact ⟨_, exec_streamEnd (at_ hop), (hsame.1 c).trans (runOver_core hops), runOver_onlyCore.trans (hsame.onlyCore c)⟩
  case emitWaits =>
    intro hop hfull
    exact emit_waits (at_ hop) hfull
  case emitSends =>
    intro hop hroom hemits hpos hsize hpc
    exact emit_sends (at_ hop) rfl hroom hemits hpos hsize hpc

end Sys2Proof.Machine
end
